-- ==== Sys2Proof/Word.lean ====
section
/-! DEFINITION. The word types of spec/00_scope.md R6 and the type of a sparse table. -/

namespace Sys2Proof

/-- R6: a byte is 8 bits. -/
abbrev Byte := BitVec 8
/-- R6: a word is 32 bits. -/
abbrev Word := BitVec 32
/-- R6: a dword is 64 bits. -/
abbrev DWord := BitVec 64
/-- A set of the 32 lanes of a wave, lane `l` being bit `l` (R160). -/
abbrev Lanes := BitVec 32

/-- A sparse table: keys strictly rising, no entry equal to what an unlisted key reads as.
The operations are in `Sys2Proof.Machine.Table`. -/
abbrev Tab (α : Type) := List (Nat × α)

end Sys2Proof
end

