-- ==== Sys2Proof/Machine/Bits.lean ====
section
/-! DEFINITION. Lanes, bit fields, sign and byte order: the helpers every layer shares. -/

namespace Sys2Proof.Machine

/-- The number of a Boolean. -/
def b2n (b : Bool) : Nat := if b then 1 else 0

/-- Bits [hi:lo] of a number (R7). -/
def bits (v hi lo : Nat) : Nat := (v >>> lo) % 2 ^ (hi + 1 - lo)

/-- Bit `k` of a number. -/
def bit (v k : Nat) : Bool := (v >>> k) % 2 = 1

/-- The two's-complement value of the low `w` bits of `v`. -/
def sext (w v : Nat) : Int := if v % 2 ^ w < 2 ^ (w - 1) then (v % 2 ^ w : Nat) else (v % 2 ^ w : Nat) - (2 ^ w : Nat)

/-- The low `w` bits of an integer (wrapping, R9). -/
def wrap (w : Nat) (x : Int) : Nat := (x % (2 ^ w : Nat)).toNat

/-- `x` clamped to lie from `lo` to `hi`. -/
def clamp (lo hi x : Int) : Int := if x < lo then lo else if hi < x then hi else x

/-- Lane `l` is in the set. -/
def inLanes (m : Lanes) (l : Nat) : Bool := m.getLsbD l

/-- The lanes of a set, ascending (R9). -/
def lanesOf (m : Lanes) : List Nat := (List.range 32).filter (inLanes m)

/-- The set of the lanes that satisfy `p`. -/
def lanesWhere (p : Nat → Bool) : Lanes :=
  (List.range 32).foldl (fun m l => if p l then m ||| (1#32 <<< l) else m) 0

/-- The set with lane `l` alone. -/
def lane1 (l : Nat) : Lanes := 1#32 <<< l

/-- All 32 lanes. -/
def allLanes : Lanes := 0xFFFFFFFF

/-- How many lanes the set holds. -/
def laneCount (m : Lanes) : Nat := (lanesOf m).length

/-- The lowest lane of the set, 0 when it is empty. -/
def firstLane (m : Lanes) : Nat := (lanesOf m).headD 0

/-- The little-endian number of a list of bytes (R6). -/
def leNat : List Byte → Nat
  | [] => 0
  | b :: bs => b.toNat + 256 * leNat bs

/-- The `n` low bytes of a number, least significant first (R6). -/
def leBytes : Nat → Nat → List Byte
  | 0, _ => []
  | n + 1, v => BitVec.ofNat 8 v :: leBytes n (v / 256)

/-- Bytes `off` to `off + n - 1` of a record as a number. -/
def fieldAt (r : List Byte) (off n : Nat) : Nat := leNat ((r.drop off).take n)

/-- The number of a list of words, least significant first. -/
def wordsNat : List Word → Nat
  | [] => 0
  | w :: ws => w.toNat + 2 ^ 32 * wordsNat ws

/-- The `n` low words of a number, least significant first. -/
def natWords : Nat → Nat → List Word
  | 0, _ => []
  | n + 1, v => BitVec.ofNat 32 v :: natWords n (v / 2 ^ 32)

/-- R12: bits [63:57] of a 64-bit address equal bit 56. -/
def canonical (a : Nat) : Bool := bits a 63 56 = 0 || bits a 63 56 = 255

/-- The list with element `k` replaced by `f` of it. -/
def lmod {α : Type} (l : List α) (k : Nat) (f : α → α) : List α := l.modify k f

/-- The first element of `l` that satisfies `p`, with the rest of the list in its order. -/
def pullFirst {α : Type} (p : α → Bool) : List α → Option (α × List α)
  | [] => none
  | a :: l => if p a then some (a, l) else (pullFirst p l).map fun r => (r.1, a :: r.2)

/-- Integer square root by bits: the greatest `r` with `r * r ≤ n`, tried from bit `k - 1` down. -/
def isqrtBits (n : Nat) : Nat → Nat → Nat
  | 0, r => r
  | k + 1, r => let t := r + 2 ^ k; isqrtBits n k (if t * t ≤ n then t else r)

/-- The integer square root of `n`. -/
def isqrt (n : Nat) : Nat := isqrtBits n (n.log2 / 2 + 1) 0

end Sys2Proof.Machine
end

