-- ==== Sys2Proof/Config.lean ====
section
/-! DEFINITION. What an implementation fixes and what the manual leaves open: constants with no body, so that no
proof can see a value of them. A statement about one holds for every value. -/

namespace Sys2Proof.Config

/-- The free value number `n` (log 3): the step reads and advances `State.draws`. -/
opaque freeNat : Nat → Nat
/-- A free 32-bit word, from the same counter (log 3). -/
def freeWord (n : Nat) : BitVec 32 := BitVec.ofNat 32 (freeNat n)
/-- R211: the per-core entropy generator's draw with `SEEDEN` = 0 (log 12). -/
opaque entropy32 : Nat → Nat
/-- R411: whether image `k` (0 boot ROM, 1 security, 2 stack controller, 3 fabric) verifies (log 11). -/
opaque imageVerifies : Nat → Bool
/-- R411: the digest of image `k` that extends measurement register `k` (log 11). -/
opaque imageDigest : Nat → BitVec 512
/-- R413: serial number, fixed at manufacture (log 11). -/
opaque serial : BitVec 128
/-- R413: version word of image `k` (log 11). -/
opaque firmwareVersion : Nat → BitVec 32
/-- R413: the 1,793-byte public key, byte by byte (log 11). -/
opaque publicKey : Nat → BitVec 8
/-- R413: byte `i` of the signature over the report's bytes 0 to 583, given as one number (log 11). -/
opaque signature : Nat → Nat → BitVec 8
/-- R265: bits of a transcendental result where the model's enclosure does not decide the rounding (log 10). -/
opaque transcendental : Nat → Nat → Nat → Nat

end Sys2Proof.Config
end

