-- ==== Sys2Proof/Syntax.lean ====
section
/-! DEFINITION. The abstract syntax: the head word and extensions of spec/10_encoding_and_assembly.md (R219, R223 to
R229) as structures, and one constructor of `Instr` for each row of spec/opcode_table.json. -/

namespace Sys2Proof

/-- R219: the fields D, W, A and B of the head word; S, X and OP are fixed by the constructor. -/
structure Head where
  d : BitVec 2
  w : BitVec 4
  a : BitVec 8
  b : BitVec 8
  deriving DecidableEq, Repr

/-- R223: the G extension. -/
structure GExt where
  c : BitVec 8
  e : BitVec 8
  p : BitVec 3
  pn : Bool
  tb : Bool
  tc : Bool
  te : Bool
  rm : BitVec 3
  sat : Bool
  t : BitVec 5
  deriving DecidableEq, Repr

/-- R225: the I extension. -/
structure IExt where
  imm : BitVec 16
  p : BitVec 3
  pn : Bool
  tb : Bool
  sub : BitVec 11
  deriving DecidableEq, Repr

/-- R226: the M extension. -/
structure MExt where
  c : BitVec 8
  imm : BitVec 12
  f : BitVec 4
  ord : BitVec 2
  sz : BitVec 3
  p : BitVec 3
  deriving DecidableEq, Repr

/-- R227: the B extension, with its reserved bits [3:0]. -/
structure BExt where
  off : BitVec 24
  p : BitVec 3
  pn : Bool
  rsv : BitVec 4
  deriving DecidableEq, Repr

/-- R228: the N extension, with its reserved bit [0]. -/
structure NExt where
  c : BitVec 8
  e : BitVec 8
  f : BitVec 4
  ec : BitVec 2
  shape : BitVec 5
  g : BitVec 3
  gn : Bool
  rsv : Bool
  deriving DecidableEq, Repr

/-- One constructor per row of spec/opcode_table.json. The rows of instructions carry the fields of their words; the
rows of the manual's events carry nothing, and what an event acts on stands in `State.args`, in the order its line
names (log 4). -/
inductive Instr where
  /-- VMOV (R251). -/
  | vmov (h : Head) (g : GExt)
  /-- VMOV_SHORT (R251). -/
  | vmovShort (h : Head)
  /-- VMOVI (R251). -/
  | vmovi (h : Head) (e : IExt)
  /-- VMOVH (R251). -/
  | vmovh (h : Head) (e : IExt)
  /-- VSEL (R251). -/
  | vsel (h : Head) (g : GExt)
  /-- VADD (R249). -/
  | vadd (h : Head) (g : GExt)
  /-- VADD_SHORT (R249). -/
  | vaddShort (h : Head)
  /-- VSUB (R249). -/
  | vsub (h : Head) (g : GExt)
  /-- VSUB_SHORT (R249). -/
  | vsubShort (h : Head)
  /-- VMUL (R249). -/
  | vmul (h : Head) (g : GExt)
  /-- VMUL_SHORT (R249). -/
  | vmulShort (h : Head)
  /-- VMULH (R249). -/
  | vmulh (h : Head) (g : GExt)
  /-- VMULH_SHORT (R249). -/
  | vmulhShort (h : Head)
  /-- VMAD (R250). -/
  | vmad (h : Head) (g : GExt)
  /-- VMADW (R250). -/
  | vmadw (h : Head) (g : GExt)
  /-- VMIN (R249). -/
  | vmin (h : Head) (g : GExt)
  /-- VMIN_SHORT (R249). -/
  | vminShort (h : Head)
  /-- VMAX (R249). -/
  | vmax (h : Head) (g : GExt)
  /-- VMAX_SHORT (R249). -/
  | vmaxShort (h : Head)
  /-- VABSD (R249). -/
  | vabsd (h : Head) (g : GExt)
  /-- VABSD_SHORT (R249). -/
  | vabsdShort (h : Head)
  /-- VADDI (R251). -/
  | vaddi (h : Head) (e : IExt)
  /-- VAND (R249). -/
  | vand (h : Head) (g : GExt)
  /-- VAND_SHORT (R249). -/
  | vandShort (h : Head)
  /-- VOR (R249). -/
  | vor (h : Head) (g : GExt)
  /-- VOR_SHORT (R249). -/
  | vorShort (h : Head)
  /-- VXOR (R249). -/
  | vxor (h : Head) (g : GExt)
  /-- VXOR_SHORT (R249). -/
  | vxorShort (h : Head)
  /-- VANDN (R249). -/
  | vandn (h : Head) (g : GExt)
  /-- VANDN_SHORT (R249). -/
  | vandnShort (h : Head)
  /-- VSHL (R252). -/
  | vshl (h : Head) (g : GExt)
  /-- VSHL_SHORT (R252). -/
  | vshlShort (h : Head)
  /-- VSHR (R252). -/
  | vshr (h : Head) (g : GExt)
  /-- VSHR_SHORT (R252). -/
  | vshrShort (h : Head)
  /-- VSAR (R252). -/
  | vsar (h : Head) (g : GExt)
  /-- VSAR_SHORT (R252). -/
  | vsarShort (h : Head)
  /-- VROT (R252). -/
  | vrot (h : Head) (g : GExt)
  /-- VROT_SHORT (R252). -/
  | vrotShort (h : Head)
  /-- VBFE (R253). -/
  | vbfe (h : Head) (g : GExt)
  /-- VBFI (R253). -/
  | vbfi (h : Head) (g : GExt)
  /-- VCLZ (R254). -/
  | vclz (h : Head) (g : GExt)
  /-- VCLZ_SHORT (R254). -/
  | vclzShort (h : Head)
  /-- VPOPC (R254). -/
  | vpopc (h : Head) (g : GExt)
  /-- VPOPC_SHORT (R254). -/
  | vpopcShort (h : Head)
  /-- VBREV (R254). -/
  | vbrev (h : Head) (g : GExt)
  /-- VBREV_SHORT (R254). -/
  | vbrevShort (h : Head)
  /-- VPERM (R254). -/
  | vperm (h : Head) (g : GExt)
  /-- VCMP (R255). -/
  | vcmp (h : Head) (g : GExt)
  /-- VCMPI (R255). -/
  | vcmpi (h : Head) (e : IExt)
  /-- VPLOG (R256). -/
  | vplog (h : Head) (g : GExt)
  /-- VPMOV (R256). -/
  | vpmov (h : Head) (g : GExt)
  /-- VLEA (R257). -/
  | vlea (h : Head) (g : GExt)
  /-- VIDX (R258). -/
  | vidx (h : Head) (e : IExt)
  /-- VFADD (R260). -/
  | vfadd (h : Head) (g : GExt)
  /-- VFADD_SHORT (R260). -/
  | vfaddShort (h : Head)
  /-- VFSUB (R260). -/
  | vfsub (h : Head) (g : GExt)
  /-- VFSUB_SHORT (R260). -/
  | vfsubShort (h : Head)
  /-- VFMUL (R260). -/
  | vfmul (h : Head) (g : GExt)
  /-- VFMUL_SHORT (R260). -/
  | vfmulShort (h : Head)
  /-- VFMA (R260). -/
  | vfma (h : Head) (g : GExt)
  /-- VFMIN (R261). -/
  | vfmin (h : Head) (g : GExt)
  /-- VFMIN_SHORT (R261). -/
  | vfminShort (h : Head)
  /-- VFMAX (R261). -/
  | vfmax (h : Head) (g : GExt)
  /-- VFMAX_SHORT (R261). -/
  | vfmaxShort (h : Head)
  /-- VFCMP (R262). -/
  | vfcmp (h : Head) (g : GExt)
  /-- VFCLASS (R263). -/
  | vfclass (h : Head) (g : GExt)
  /-- VFRND (R264). -/
  | vfrnd (h : Head) (g : GExt)
  /-- VFRND_SHORT (R264). -/
  | vfrndShort (h : Head)
  /-- VFRACT (R264). -/
  | vfract (h : Head) (g : GExt)
  /-- VFRACT_SHORT (R264). -/
  | vfractShort (h : Head)
  /-- VRCP (R265). -/
  | vrcp (h : Head) (g : GExt)
  /-- VRCP_SHORT (R265). -/
  | vrcpShort (h : Head)
  /-- VRSQ (R265). -/
  | vrsq (h : Head) (g : GExt)
  /-- VRSQ_SHORT (R265). -/
  | vrsqShort (h : Head)
  /-- VSQRT (R260). -/
  | vsqrt (h : Head) (g : GExt)
  /-- VSQRT_SHORT (R260). -/
  | vsqrtShort (h : Head)
  /-- VEXP2 (R265). -/
  | vexp2 (h : Head) (g : GExt)
  /-- VEXP2_SHORT (R265). -/
  | vexp2Short (h : Head)
  /-- VLOG2 (R265). -/
  | vlog2 (h : Head) (g : GExt)
  /-- VLOG2_SHORT (R265). -/
  | vlog2Short (h : Head)
  /-- VSINP (R265). -/
  | vsinp (h : Head) (g : GExt)
  /-- VSINP_SHORT (R265). -/
  | vsinpShort (h : Head)
  /-- VCOSP (R265). -/
  | vcosp (h : Head) (g : GExt)
  /-- VCOSP_SHORT (R265). -/
  | vcospShort (h : Head)
  /-- VFDIV (R260). -/
  | vfdiv (h : Head) (g : GExt)
  /-- VFDIV_SHORT (R260). -/
  | vfdivShort (h : Head)
  /-- VPFMA (R266). -/
  | vpfma (h : Head) (g : GExt)
  /-- VPFADD (R266). -/
  | vpfadd (h : Head) (g : GExt)
  /-- VPFMUL (R266). -/
  | vpfmul (h : Head) (g : GExt)
  /-- VCVT (R267). -/
  | vcvt (h : Head) (g : GExt)
  /-- VSCL (R270). -/
  | vscl (h : Head) (g : GExt)
  /-- VPACK (R268). -/
  | vpack (h : Head) (g : GExt)
  /-- VUNPK (R269). -/
  | vunpk (h : Head) (g : GExt)
  /-- VDOT4 (R271). -/
  | vdot4 (h : Head) (g : GExt)
  /-- VDOT8 (R271). -/
  | vdot8 (h : Head) (g : GExt)
  /-- VFDOT2 (R272). -/
  | vfdot2 (h : Head) (g : GExt)
  /-- VFTAG (R273). -/
  | vftag (h : Head) (g : GExt)
  /-- VSHFL (R275). -/
  | vshfl (h : Head) (g : GExt)
  /-- VBCST (R276). -/
  | vbcst (h : Head) (g : GExt)
  /-- VVOTE (R277). -/
  | vvote (h : Head) (g : GExt)
  /-- VREDU (R278). -/
  | vredu (h : Head) (g : GExt)
  /-- VSCAN (R278). -/
  | vscan (h : Head) (g : GExt)
  /-- VRDLN (R279). -/
  | vrdln (h : Head) (g : GExt)
  /-- VWRLN (R279). -/
  | vwrln (h : Head) (g : GExt)
  /-- VMATCH (R277). -/
  | vmatch (h : Head) (g : GExt)
  /-- VCOMPACT (R281). -/
  | vcompact (h : Head) (g : GExt)
  /-- VCOMPACT_ROW (R282). -/
  | vcompactRow (h : Head) (g : GExt)
  /-- VEXPAND (R284). -/
  | vexpand (h : Head) (g : GExt)
  /-- LD (R289). -/
  | ld (h : Head) (m : MExt)
  /-- ST (R289). -/
  | st (h : Head) (m : MExt)
  /-- LDL (R291). -/
  | ldl (h : Head) (m : MExt)
  /-- STL (R291). -/
  | stl (h : Head) (m : MExt)
  /-- LDQ (R292). -/
  | ldq (h : Head) (m : MExt)
  /-- STQ (R292). -/
  | stq (h : Head) (m : MExt)
  /-- LDA (R293). -/
  | lda (h : Head) (m : MExt)
  /-- STA (R293). -/
  | sta (h : Head) (m : MExt)
  /-- ATOM (R295). -/
  | atom (h : Head) (m : MExt)
  /-- RED (R296). -/
  | red (h : Head) (m : MExt)
  /-- ATOML (R295). -/
  | atoml (h : Head) (m : MExt)
  /-- PFX (R298). -/
  | pfx (h : Head) (m : MExt)
  /-- CPROP (R153). -/
  | cprop (h : Head) (m : MExt)
  /-- CGET (R153). -/
  | cget (h : Head) (m : MExt)
  /-- CRECYC (R153). -/
  | crecyc (h : Head) (m : MExt)
  /-- CPROBE (R153). -/
  | cprobe (h : Head) (m : MExt)
  /-- FENCE (R114). -/
  | fence (h : Head) (m : MExt)
  /-- WSYNC (R112). -/
  | wsync (h : Head) (m : MExt)
  /-- WSYNC_SHORT (R300). -/
  | wsyncShort (h : Head)
  /-- BR (R313). -/
  | br (h : Head) (t : BExt)
  /-- JMP (R315). -/
  | jmp (h : Head) (t : BExt)
  /-- CALL_DIRECT (R314). -/
  | callDirect (h : Head) (t : BExt)
  /-- CALL_REGISTER (R315). -/
  | callRegister (h : Head) (t : BExt)
  /-- RET (R314). -/
  | ret (h : Head) (t : BExt)
  /-- RET_SHORT (R314). -/
  | retShort (h : Head)
  /-- LAND (R316). -/
  | land (h : Head)
  /-- EXIT (R317). -/
  | exitL (h : Head) (t : BExt)
  /-- EXIT_SHORT (R317). -/
  | exitShort (h : Head)
  /-- RAST (R356). -/
  | rast (h : Head) (n : NExt)
  /-- HITBIN (R363). -/
  | hitbin (h : Head) (n : NExt)
  /-- ATTR (R366). -/
  | attr (h : Head) (n : NExt)
  /-- TRAVS (R371). -/
  | travs (h : Head) (n : NExt)
  /-- TRAVR (R371). -/
  | travr (h : Head) (n : NExt)
  /-- HVPOST (R375). -/
  | hvpost (h : Head) (n : NExt)
  /-- SMOV (R309). -/
  | smov (h : Head) (g : GExt)
  /-- SMOV_SHORT (R309). -/
  | smovShort (h : Head)
  /-- SMOVI (R309). -/
  | smovi (h : Head) (l : BitVec 32)
  /-- SSEL (R309). -/
  | ssel (h : Head) (g : GExt)
  /-- SADD (R308). -/
  | sadd (h : Head) (g : GExt)
  /-- SADD_SHORT (R308). -/
  | saddShort (h : Head)
  /-- SSUB (R308). -/
  | ssub (h : Head) (g : GExt)
  /-- SSUB_SHORT (R308). -/
  | ssubShort (h : Head)
  /-- SMUL (R308). -/
  | smul (h : Head) (g : GExt)
  /-- SMUL_SHORT (R308). -/
  | smulShort (h : Head)
  /-- SMULH (R308). -/
  | smulh (h : Head) (g : GExt)
  /-- SMULH_SHORT (R308). -/
  | smulhShort (h : Head)
  /-- SMIN (R308). -/
  | smin (h : Head) (g : GExt)
  /-- SMIN_SHORT (R308). -/
  | sminShort (h : Head)
  /-- SMAX (R308). -/
  | smax (h : Head) (g : GExt)
  /-- SMAX_SHORT (R308). -/
  | smaxShort (h : Head)
  /-- SAND (R308). -/
  | sand (h : Head) (g : GExt)
  /-- SAND_SHORT (R308). -/
  | sandShort (h : Head)
  /-- SOR (R308). -/
  | sor (h : Head) (g : GExt)
  /-- SOR_SHORT (R308). -/
  | sorShort (h : Head)
  /-- SXOR (R308). -/
  | sxor (h : Head) (g : GExt)
  /-- SXOR_SHORT (R308). -/
  | sxorShort (h : Head)
  /-- SSHL (R308). -/
  | sshl (h : Head) (g : GExt)
  /-- SSHL_SHORT (R308). -/
  | sshlShort (h : Head)
  /-- SSHR (R308). -/
  | sshr (h : Head) (g : GExt)
  /-- SSHR_SHORT (R308). -/
  | sshrShort (h : Head)
  /-- SSAR (R308). -/
  | ssar (h : Head) (g : GExt)
  /-- SSAR_SHORT (R308). -/
  | ssarShort (h : Head)
  /-- SBFE (R308). -/
  | sbfe (h : Head) (g : GExt)
  /-- SCLZ (R308). -/
  | sclz (h : Head) (g : GExt)
  /-- SCLZ_SHORT (R308). -/
  | sclzShort (h : Head)
  /-- SPOPC (R308). -/
  | spopc (h : Head) (g : GExt)
  /-- SPOPC_SHORT (R308). -/
  | spopcShort (h : Head)
  /-- SCMP (R310). -/
  | scmp (h : Head) (g : GExt)
  /-- SQLOG (R310). -/
  | sqlog (h : Head) (g : GExt)
  /-- SLEA (R308). -/
  | slea (h : Head) (g : GExt)
  /-- SIDX (R311). -/
  | sidx (h : Head) (e : IExt)
  /-- SLD (R289). -/
  | sld (h : Head) (m : MExt)
  /-- SST (R289). -/
  | sst (h : Head) (m : MExt)
  /-- SATOM (R295). -/
  | satom (h : Head) (m : MExt)
  /-- BARINIT (R132). -/
  | barinit (h : Head) (m : MExt)
  /-- BAREXP (R132). -/
  | barexp (h : Head) (m : MExt)
  /-- BARARR (R132). -/
  | bararr (h : Head) (m : MExt)
  /-- BARWAIT (R133). -/
  | barwait (h : Head) (m : MExt)
  /-- WADDR (R140). -/
  | waddr (h : Head) (m : MExt)
  /-- KICK (R138). -/
  | kick (h : Head) (m : MExt)
  /-- PUB (R144). -/
  | pub (h : Head) (m : MExt)
  /-- SBANK (R62). -/
  | sbank (h : Head) (m : MExt)
  /-- MSFLUSH_RANGE (R306). -/
  | msflushRange (h : Head) (m : MExt)
  /-- MSFLUSH_STACK (R306). -/
  | msflushStack (h : Head) (m : MExt)
  /-- NOP (R222). -/
  | nop (h : Head)
  /-- RFE (R390). -/
  | rfe (h : Head)
  /-- UBR (R313). -/
  | ubr (h : Head) (t : BExt)
  /-- UJMP (R315). -/
  | ujmp (h : Head) (t : BExt)
  /-- UCALL (R314). -/
  | ucall (h : Head) (t : BExt)
  /-- URET (R314). -/
  | uret (h : Head) (t : BExt)
  /-- URET_SHORT (R314). -/
  | uretShort (h : Head)
  /-- END (R317). -/
  | endW (h : Head) (t : BExt)
  /-- END_SHORT (R317). -/
  | endShort (h : Head)
  /-- YIELD (R318). -/
  | yieldW (h : Head) (e : IExt)
  /-- YIELD_SHORT (R318). -/
  | yieldShort (h : Head)
  /-- TRAP (R319). -/
  | trapSw (h : Head) (e : IExt)
  /-- SGETR (R323). -/
  | sgetr (h : Head) (e : IExt)
  /-- SSETR (R323). -/
  | ssetr (h : Head) (e : IExt)
  /-- RCLAIM (R175). -/
  | rclaim (h : Head) (e : IExt)
  /-- RFREE (R175). -/
  | rfree (h : Head) (e : IExt)
  /-- GUARD (R325). -/
  | guardW (h : Head) (g : GExt)
  /-- ELECT (R326). -/
  | elect (h : Head) (g : GExt)
  /-- MMA (R335). -/
  | mma (h : Head) (n : NExt)
  /-- MMAS (R336). -/
  | mmas (h : Head) (n : NExt)
  /-- MMAP (R337). -/
  | mmap (h : Head) (n : NExt)
  /-- MZERO (R338). -/
  | mzero (h : Head) (n : NExt)
  /-- MFILL (R338). -/
  | mfill (h : Head) (n : NExt)
  /-- MDRAIN (R339). -/
  | mdrain (h : Head) (n : NExt)
  /-- MSCALE (R338). -/
  | mscale (h : Head) (n : NExt)
  /-- MBTAKE (R178). -/
  | mbtake (h : Head) (n : NExt)
  /-- MBPASS (R341). -/
  | mbpass (h : Head) (n : NExt)
  /-- MBPASS_NONE (R341). -/
  | mbpassNone (h : Head) (n : NExt)
  /-- PGLOAD (R342). -/
  | pgload (h : Head) (n : NExt)
  /-- PGCTX (R348). -/
  | pgctx (h : Head) (n : NExt)
  /-- PGEMIT (R348). -/
  | pgemit (h : Head) (n : NExt)
  /-- RFLUSH (R358). -/
  | rflush (h : Head) (n : NExt)
  /-- TVREL (R364). -/
  | tvrel (h : Head) (n : NExt)
  /-- NFMT (R369). -/
  | nfmt (h : Head) (n : NExt)
  /-- COLL (R376). -/
  | coll (h : Head) (n : NExt)
  /-- LAUNCH (R379). -/
  | launchDev (h : Head) (n : NExt)
  /-- RESET (R411). -/
  | resetDev
  /-- REGISTER_WRITE (R8), on `src addr size value`. -/
  | registerWrite
  /-- PAGE_WALK (R22), on `acc`. -/
  | pageWalk
  /-- WALK_COMPLETE (R24), on `walk`. -/
  | walkComplete
  /-- DIRECTORY_REQUEST (R27), on `acc`. -/
  | directoryRequest
  /-- RECLASSIFY (R28), on `rcl`. -/
  | reclassify
  /-- RECALL_ACK (R28), on `rcl`. -/
  | recallAck
  /-- INV_ALL (R32), on `src blk`. -/
  | invAll
  /-- INV_ASID (R32), on `src blk`. -/
  | invAsid
  /-- INV_VA (R32), on `src blk`. -/
  | invVa
  /-- RELEASE_FRAME (R33), on `src blk`. -/
  | releaseFrame
  /-- TM_COMMAND_DONE (R32), on `blk`. -/
  | tmCommandDone
  /-- MS_CACHE_REQUEST (R43), on `stack`. -/
  | msCacheRequest
  /-- HOT_PAGE_RECORD_DONE (R50), on `stack`. -/
  | hotPageRecordDone
  /-- HPCTL_WRITE (R50), on `stack value`. -/
  | hpctlWrite
  /-- GDDR7_REQUEST_ISSUE (R41), on `stack`. -/
  | gddr7RequestIssue
  /-- GDDR7_COMPLETE (R41), on `stack idx`. -/
  | gddr7Complete
  /-- REGION_SAMPLE (R44), on `region`. -/
  | regionSample
  /-- REFRESH_START (R44), on `region`. -/
  | refreshStart
  /-- REFRESH_END (R44), on `region`. -/
  | refreshEnd
  /-- MS_FLUSH_COMPLETE (R47), on `flush`. -/
  | msFlushComplete
  /-- PIN_GRANTED (R52), on `idx`. -/
  | pinGranted
  /-- RAST_FRAGMENT (R356), on `frag`. -/
  | rastFragment
  /-- TILE_FRAGMENT_RESUME (R55), on `frag`. -/
  | tileFragmentResume
  /-- PIN_LIMIT_RESUME (R57), on `frag`. -/
  | pinLimitResume
  /-- TILE_CLOSE (R55), on `flush tile`. -/
  | tileClose
  /-- TILE_SCAN (R359), on `tile`. -/
  | tileScan
  /-- TILE_CLASSIFY_END (R55), on `tile`. -/
  | tileClassifyEnd
  /-- TILE_REFERENCE_RELEASE (R55), on `tile wave`. -/
  | tileReferenceRelease
  /-- BIN_RECORD_ARRIVE (R360), on `rec`. -/
  | binRecordArrive
  /-- BIN_AGE_DRAIN (R360), on `bin`. -/
  | binAgeDrain
  /-- RFLUSH_DRAIN (R358), on `flush`. -/
  | rflushDrain
  /-- CARVE_OUT (R66), on `pair`. -/
  | carveOut
  /-- DAF_HEAD_SEND (R77), on `core`. -/
  | dafHeadSend
  /-- REL_SEND (R78), on `core`. -/
  | relSend
  /-- ACK_RECEIVED (R77), on `core tok`. -/
  | ackReceived
  /-- HOME_REG (R72), on `msg`. -/
  | homeReg
  /-- HOME_LOAD (R72), on `msg`. -/
  | homeLoad
  /-- HOME_WRITEBACK (R72), on `msg`. -/
  | homeWriteback
  /-- HOME_ATOMIC (R82), on `msg`. -/
  | homeAtomic
  /-- OWNER_REPLY (R72), on `msg`. -/
  | ownerReply
  /-- REVOKE (R72), on `msg`. -/
  | revokeWord
  /-- FETCH (R72), on `msg`. -/
  | fetchWord
  /-- MERGE (R75), on `msg`. -/
  | mergeLine
  /-- MERGE_COMPLETE (R75), on `line`. -/
  | mergeComplete
  /-- LOAD_RETURN (R79), on `acc ext status class`. -/
  | loadReturn
  /-- LINK_REPLAY (R89), on `stack`. -/
  | linkReplay
  /-- PACKET_REFLECTED (R400), on `core`. -/
  | packetReflected
  /-- HOST_POSTED_WRITE (R84), on `port addr size value`. -/
  | hostPostedWrite
  /-- HOST_MEMWR (R84), on `port addr size value`. -/
  | hostMemwr
  /-- HOST_READ (R84), on `port addr size hold`. -/
  | hostRead
  /-- BISNP_RESPONSE (R84), on `line dirty value`. -/
  | bisnpResponse
  /-- SNPDATA (R86), on `port line`. -/
  | snpdata
  /-- SNPINV (R86), on `port line`. -/
  | snpinv
  /-- SNPCUR (R86), on `port line`. -/
  | snpcur
  /-- HOST_LINK_DOWN (R402), on `port`. -/
  | hostLinkDown
  /-- CXL_CACHE_NEGOTIATED (R402), on `port`. -/
  | cxlCacheNegotiated
  /-- FAR_OPERATION (R82), on `dev addr size op data cmp`. -/
  | farOperation
  /-- FABRIC_PORT_FAIL (R410), on `port`. -/
  | fabricPortFail
  /-- SCARAB_FETCH (R138), on `core`. -/
  | scarabFetch
  /-- COPY_PIECE (R139), on `copy`. -/
  | copyPiece
  /-- SCARAB_FIFO_RESUME (R137), on `copy`. -/
  | scarabFifoResume
  /-- BARRIER_WAKE (R133), on `waiter`. -/
  | barrierWake
  /-- PUB_SWAP (R144), on `pub`. -/
  | pubSwap
  /-- WADDR_WAKE (R140), on `waiter`. -/
  | waddrWake
  /-- WADDR_TIMEOUT (R140), on `waiter`. -/
  | waddrTimeout
  /-- IMAGO_HOME_OP (R153), on `msg`. -/
  | imagoHomeOp
  /-- IMAGO_RESULT (R155), on `acc ext`. -/
  | imagoResult
  /-- CGET_WAKE (R156), on `acc`. -/
  | cgetWake
  /-- CGET_TIMEOUT (R156), on `acc`. -/
  | cgetTimeout
  /-- RESULT_WRITEBACK (R172), on `wave res`. -/
  | resultWriteback
  /-- PRIORITY_GROUP (R169), on `wave lane`. -/
  | priorityGroup
  /-- ISSUE_STARVATION (R196), on `wave`. -/
  | issueStarvation
  /-- CLAIM_DEADLOCK (R176), on `group`. -/
  | claimDeadlock
  /-- BATON_HANDOVER (R178), on `pair`. -/
  | batonHandover
  /-- QCTL_ENABLE (R182), on `src queue value`. -/
  | qctlEnable
  /-- QCTL_DISABLE (R182), on `src queue value`. -/
  | qctlDisable
  /-- QUEUE_RECORD_READ (R183), on `queue`. -/
  | queueRecordRead
  /-- LAUNCH_ACCEPT (R187), on `ctx`. -/
  | launchAccept
  /-- GROUP_PLACE (R191), on `stack`. -/
  | groupPlace
  /-- GROUP_COMPLETE (R189), on `group`. -/
  | groupComplete
  /-- HIVE_TASK_TIMEOUT (R192), on `stack`. -/
  | hiveTaskTimeout
  /-- CONTRACT_RELEASE (R194), on `queue`. -/
  | contractRelease
  /-- CONTRACT_OVERRUN (R195), on `launch`. -/
  | contractOverrun
  /-- YIELDMAX_EXPIRY (R195), on `wave`. -/
  | yieldmaxExpiry
  /-- EBUD_FILL (R197), on `stack`. -/
  | ebudFill
  /-- IMPRECISE_FAULT (R383), on `wave`. -/
  | impreciseFault
  /-- TRAP_DELIVERY (R386), on `wave`. -/
  | trapDelivery
  /-- RETRY (R392), on `ctx slot`. -/
  | retry
  /-- ABANDON (R392), on `ctx slot`. -/
  | abandon
  /-- FREE (R392), on `ctx slot`. -/
  | freeSlot
  /-- FENCE_COMPLETE (R398), on `ctx`. -/
  | fenceComplete
  /-- SOFT_ERROR (R399), on `kind loc level`. -/
  | softError
  /-- UNIT_RETIRE (R400), on `core whole`. -/
  | unitRetire
  /-- HSEM_TAKE (R404), on `port lease`. -/
  | hsemTake
  /-- HSEM_RELEASE (R404), on `port`. -/
  | hsemRelease
  /-- HSEM_LEASE_TICK (R404). -/
  | hsemLeaseTick
  /-- BIND (R407), on `src slot`. -/
  | bindCtx
  /-- UNBIND (R407), on `src slot`. -/
  | unbindCtx
  /-- PREEMPT (R407), on `slot`. -/
  | preempt
  /-- FENCE_COMMAND (R407), on `src slot`. -/
  | fenceCommand
  /-- DEVID_WRITE (R408), on `src value`. -/
  | devidWrite
  /-- ROUTING_TABLE_WRITE (R408), on `src dev value`. -/
  | routingTableWrite
  /-- PLIMIT_WRITE (R414), on `src value`. -/
  | plimitWrite
  /-- MEXTEND (R412), on `src reg`. -/
  | mextend
  /-- MEXTEND_DONE (R412). -/
  | mextendDone
  /-- REPORT (R413), on `window`. -/
  | report
  /-- REPORT_DONE (R413), on `window`. -/
  | reportDone
  /-- DIE_SENSOR_SAMPLE (R414), on `core`. -/
  | dieSensorSample
  /-- POWER_AVERAGE (R414). -/
  | powerAverage
  /-- FIREFLY_NODE_READ (R372), on `walk`. -/
  | fireflyNodeRead
  /-- COLL_START (R378), on `coll`. -/
  | collStart
  /-- COLL_COMPLETE (R378), on `coll`. -/
  | collComplete
  /-- MATRIX_RETIRE (R329), on `pair`. -/
  | matrixRetire
  /-- PGLOAD_COMPLETE (R342), on `wave slot`. -/
  | pgloadComplete
  /-- NFMT_LOADED (R369), on `wave`. -/
  | nfmtLoaded
  /-- THROTTLED_ADMISSION (R44), on `region`. -/
  | throttledAdmission
  /-- HOST_LINK_UP (R402), on `port`. -/
  | hostLinkUp
  /-- HOST_RESPONSE (R86), on `req value`. -/
  | hostResponse
  /-- CORRECTED_SOFT_ERROR (R399), on `stack`. -/
  | correctedSoftError
  deriving DecidableEq, Repr

end Sys2Proof
end

