-- ==== Sys2Proof/Machine/State.lean ====
section
/-! DEFINITION. The state of the Fygor as plain data, every piece the spec gives the machine, its value after reset, and
the reasons a step can stop. INVENTORY.md lists each field with its rule and reset value. -/

namespace Sys2Proof.Machine

/-- Why the machine stops. Every event the manual describes as a fault of a program is a trap or a log entry and a next
state; this type holds only what the manual's address map excludes. -/
inductive Fault where
  /-- Raised by the host and fabric events for a physical address that no range of R13 backs. Safe: the manual gives the
  access no effect, and no claim about a next state follows from a stop. -/
  | unbacked (addr : Nat)
  deriving DecidableEq, Repr

/-- Why an instruction has no meaning in the model. -/
inductive Refusal where
  /-- Raised only by an arm of `exec` for a row of the table without a meaning. Safe: nothing follows from it. -/
  | notModelled (mnemonic : String)
  deriving DecidableEq, Repr

/-! ### Enumerations of the manual -/

/-- R206: the tag of a lane register. -/
inductive Tag where
  | untyped | f32 | f16x2 | bf16x2 | f64 | e4m3x4 | e5m2x4 | i8x4 | i4ex8 | e8m0x4
  deriving DecidableEq, Repr

/-- R17: the kind of a page. -/
inductive PageKind where
  | normal | imago | twin | host | peer | mmio
  deriving DecidableEq, Repr

/-- R18: the class of an access. -/
inductive AccClass where
  | ld | st | at | rd | instrFetch | cs | cd | sd | im | er
  deriving DecidableEq, Repr

/-- R25: the classification of a frame. -/
inductive FrameState where
  | untouched | privateTo (core : Nat) | shared
  deriving DecidableEq, Repr

/-- R58: the mode of a bank of the pair SRAM. -/
inductive BankMode where
  | cacheL | cacheF | scratch | fifo | reserve
  deriving DecidableEq, Repr

/-- R44: the state of a region of the memory-side cache. -/
inductive RegionMode where
  | normal | double | throttled | bypass
  deriving DecidableEq, Repr

/-- R55: the state of a visibility tile. -/
inductive TileState where
  | free | opened | closed | classifying | shading
  deriving DecidableEq, Repr

/-- R411: where the boot stands. -/
inductive BootState where
  | booting | run | recovery
  deriving DecidableEq, Repr

/-- R342: the state of a pattern slot. -/
inductive SlotState where
  | empty | loaded | invalid
  deriving DecidableEq, Repr

/-- R166: why a lane is asleep; the number names the waiter, or is 0. `woken` holds a wake that came while the handler runs
until `rfe` (R386). -/
inductive Sleep where
  | awake | barwait (w : Nat) | waddr (w : Nat) | cget (acc : Nat) | rclaim (k : Nat) | wsync | baton | woken
  deriving DecidableEq, Repr

/-- How a cached line was reached (R70). -/
inductive LinePath where
  | priv | shared | twin | host | peer
  deriving DecidableEq, Repr

/-! ### Translation -/

/-- R22: one TLB entry, with the classification copies of its frames (R25). `lvl` is the level of its leaf where a walk has just read it,
and 7 in a TLB (R34). -/
structure TlbEntry where
  asid : Nat
  base : Nat
  log2 : Nat
  w : Bool
  x : Bool
  lnd : Bool
  d : Bool
  kind : PageKind
  dev : Nat
  frame : Nat
  lvl : Nat
  classes : List (Nat × FrameState)
  deriving DecidableEq, Repr

/-- R22: one entry of a page-walk cache: a table address by the virtual prefix above `level`. -/
structure PwcEntry where
  asid : Nat
  level : Nat
  tag : Nat
  table : Nat
  deriving DecidableEq, Repr

/-- R24: a walk in flight with what it found, and the accesses merged into it; `stale` when a maintenance command
covering its page completed meanwhile, `updated` when it left A, and D where its access writes, set (R21), and `due` the first
cycle at which it may complete. -/
structure Walk where
  id : Nat
  stack : Nat
  asid : Nat
  page : Nat
  waiters : List Nat
  stale : Bool
  updated : Bool
  entry : Option TlbEntry
  code : Nat
  level : Nat
  knum : Nat
  due : Nat
  deriving DecidableEq, Repr

/-- R28: a recall in flight. -/
structure Recall where
  id : Nat
  frame : Nat
  core : Nat
  told : Bool
  waiters : List Nat
  deriving DecidableEq, Repr

/-- R144: a `pub` past its checks. -/
structure PubOp where
  id : Nat
  wave : Nat
  op : Nat
  core : Nat
  pages : List (Nat × Nat)
  deriving DecidableEq, Repr

/-- R30, R31: one translation maintenance block. A command in progress holds the operands it started with (ASID, address, length) in
`job`, and in `waits` the accesses it waits for, or the frames it has still to release. -/
structure TmBlock where
  asid : BitVec 16
  addr : BitVec 64
  len : BitVec 64
  busy : Bool
  done : Bool
  err : BitVec 4
  op : Nat
  job : Nat × Nat × Nat
  waits : List Nat
  deriving DecidableEq, Repr

/-! ### Accesses and messages -/

/-- What an access does where it is performed. -/
inductive Act where
  | load
  | store (data : Nat)
  | atom (code : Nat) (d : Nat) (e : Nat)
  | red (code : Nat) (d : Nat)
  | imago (op : Nat) (gen : Nat) (v : Nat)
  | barInit (arr : Nat) (bytes : Nat)
  | barExp (n : Nat)
  | barArr (k : Nat)
  | barWait (p : Nat)
  | fence
  | scr
  deriving DecidableEq, Repr

/-- Where an access stands. -/
inductive Stage where
  | trans | walk | dir | ready | queued | home | parked | ret | failed
  deriving DecidableEq, Repr

/-- One access in flight: what the lanes `lanes` of one instruction, or a uniform instruction (R90, R91), read or write in
one 32-byte sector (R95, R108, R110), or one lane's atomic. `parts` gives each lane's address, `mask` the bytes of the
sector, `twin` the page size of a TWIN page whose side is chosen when the access is performed (R143), and `val` what came
back: the sector of a load, the old value of an atomic. `fill` allows the sector into the L1, `lat` is the shortest time of the
path that served it (R69), and `lvl` the table level of its leaf, 7 where a TLB held it (R34). -/
structure Acc where
  id : Nat
  op : Nat
  wave : Nat
  core : Nat
  ctx : Nat
  lanes : Lanes
  parts : List (Nat × Nat)
  n : Nat
  mask : BitVec 32
  cls : AccClass
  act : Act
  va : Nat
  strong : Bool
  acq : Bool
  rel : Bool
  kind : PageKind
  pa : Nat
  twin : Nat
  priv : Bool
  stage : Stage
  val : Nat
  got : BitVec 32
  status : Nat
  fill : Bool
  deadline : Nat
  lat : Nat
  lvl : Nat
  deriving DecidableEq, Repr

/-- R76, R339: bytes within a line that an engine writes, from `va` and `pa`, of a TWIN page of size 2^twin where that is not 0 (R143).
`lvl` is the level of the page's leaf, 7 where no walk was made (R34). -/
structure EngPart where
  va : Nat
  lvl : Nat
  pa : Nat
  n : Nat
  v : Nat
  twin : Nat
  deriving DecidableEq, Repr

/-- R76: an entry of a dirty-address FIFO. `accs` are the accesses its acknowledgement completes. `eng` is a write-through of an
engine of the core, or with `add` its addition of FP32 words, of the engine's operation `tag`, to bytes that have one home. -/
inductive DafKind where
  | reg (line : Nat) (mask : BitVec 128)
  | wb (line : Nat) (mask : BitVec 128) (data : BitVec 1024) (own : BitVec 32)
  | wt (acc : Nat)
  | atm (acc : Nat)
  | rel (acc : Nat)
  | reply (line : Nat) (mask : BitVec 128) (data : BitVec 1024) (merge : Bool)
  | eng (tag : Nat) (parts : List EngPart) (add : Bool)
  deriving DecidableEq, Repr

structure DafEntry where
  kind : DafKind
  accs : List Nat
  deriving DecidableEq, Repr

/-- What a message carries (R88). -/
inductive MsgBody where
  | daf (e : DafEntry)
  | load (acc : Nat)
  | data (acc : Nat)
  | ack (accs : List Nat)
  | revoke (line : Nat) (words : BitVec 32)
  | fetch (line : Nat) (words : BitVec 32)
  | merge (line : Nat)
  | imago (acc : Nat)
  | reclass (id : Nat)
  deriving DecidableEq, Repr

/-- R88: a message in flight on virtual channel `vc` between `core` and the home `dest`. -/
structure Msg where
  id : Nat
  core : Nat
  dest : Nat
  vc : Nat
  body : MsgBody
  deriving DecidableEq, Repr

/-- What a request parked at its home waits for (R72, R75, R82, R84, R86; fills R43). -/
inductive Need where
  | owner (left : List Nat) | members (left : List Nat) | fill | bisnp | d2h (req : Nat) | turn
  deriving DecidableEq, Repr

/-- A request parked at its home. -/
structure Parked where
  line : Nat
  msg : Msg
  need : Need
  deriving DecidableEq, Repr

/-- R71: a registry entry; owners are (word, core, 4-bit mask), members (core, byte mask). `stamp` orders recency. -/
inductive RegForm where
  | registered (owners : List (Nat × Nat × BitVec 4))
  | split (members : List (Nat × BitVec 128))
  deriving DecidableEq, Repr

structure RegEntry where
  line : Nat
  form : RegForm
  stamp : Nat
  deriving DecidableEq, Repr

/-- R73: a line of an L1, valid and dirty by byte, owned and pending by word. -/
structure L1Line where
  line : Nat
  bank : Nat
  path : LinePath
  data : BitVec 1024
  valid : BitVec 128
  dirty : BitVec 128
  owned : BitVec 32
  pend : BitVec 32
  deriving DecidableEq, Repr

/-- R155: a copy of a decided cell in the way `bank` of an L1. -/
structure ImagoCopy where
  cell : Nat
  bank : Nat
  asid : Nat
  va : Nat
  value : Nat
  gen : Nat
  deriving DecidableEq, Repr

/-- R52: an L2 line's sector bits and its pins (the contexts of tiles and the fetches holding it). -/
structure L2Tag where
  valid : BitVec 4
  dirty : BitVec 4
  pins : List Nat
  deriving DecidableEq, Repr

/-- R43: a line of the memory-side cache. -/
structure MsLine where
  present : Bool
  dirty : Bool
  stamp : Nat
  deriving DecidableEq, Repr

/-- A request of a home slice to its memory-side cache region (R43), or of the region to GDDR7 (R41). `die` marks one made for the
DRAM die alone, a read for `pfx.ms` (R298); `hp` one for which a hot-page record is due, with one more than the cycle at which it was taken
(R50, R51). -/
structure MsReq where
  line : Nat
  sector : Nat
  write : Bool
  core : Nat
  arrived : Nat
  flush : Nat
  die : Bool
  hp : Nat
  deriving DecidableEq, Repr

/-- R44: one region; `drains` the lines that it still writes back after its entry to BYPASS. -/
structure Region where
  mode : RegionMode
  sample : Nat
  refreshUntil : Nat
  nextAdmit : Nat
  waiting : List MsReq
  drains : List Nat
  deriving DecidableEq, Repr

/-- The memory-side cache and GDDR7 of one stack (R41, R43, R48). -/
structure StackMem where
  queue : List MsReq
  held : List MsReq
  slots : List MsReq
  hit : Nat
  miss : Nat
  wb : Nat
  thr : Nat
  stall : List Nat
  hpBase : BitVec 64
  hpEn : Bool
  hpRate : BitVec 4
  hpSize : BitVec 5
  hpHead : BitVec 32
  hpTail : BitVec 32
  hpDrop : BitVec 32
  hpCount : Nat
  hpWriting : List (Nat × Nat)
  eccCe : Nat
  eccUe : Nat
  linkReplays : Nat
  flushes : List (Nat × Nat × Nat)
  deriving DecidableEq, Repr

/-- R131, R133, R140: a PC group waiting on a barrier object or a scratch word. `space` 0 scratch of pair `home`, 1 physical. -/
structure Waiter where
  id : Nat
  wave : Nat
  op : Nat
  lanes : Lanes
  space : Nat
  home : Nat
  addr : Nat
  arg : Nat
  dst : Nat
  deadline : Nat
  woken : Bool
  deriving DecidableEq, Repr

/-! ### Waves and groups -/

/-- A lane register of one lane: bits, full bit, tag (R163). -/
structure VReg where
  bits : Word
  full : Bool
  tag : Tag
  deriving DecidableEq, Repr

/-- A uniform register: bits and full bit (R163). -/
structure SReg where
  bits : Word
  full : Bool
  deriving DecidableEq, Repr

/-- R163: one lane. -/
structure Lane where
  pc : Nat
  exited : Bool
  sleep : Sleep
  preds : BitVec 8
  predPend : BitVec 8
  lastIssue : Nat
  since : Nat
  loopBuf : List Nat
  deriving DecidableEq, Repr

/-- A set of register writes: fixed-latency when it is pending with a cycle (R168), variable-latency when it is a result
(R172). Lane registers are (lane, register, bits, tag), lane predicates (lane, predicate, value). -/
structure Writes where
  regs : List (Nat × Nat × Word × Tag)
  sregs : List (Nat × Word)
  preds : List (Nat × Nat × Bool)
  qs : List (Nat × Bool)
  sticky : Word
  sys : List (Nat × Word)
  deriving DecidableEq, Repr

/-- R168: writes that land when the stack's `CYC` reaches `due`. -/
structure Pending where
  due : Nat
  writes : Writes
  deriving DecidableEq, Repr

/-- R172: a variable-latency result not yet written; `op` is the instruction it completes for `lanes`, and `due` the first cycle at
which it may be written (R69). -/
structure Result where
  id : Nat
  op : Nat
  lanes : Lanes
  due : Nat
  writes : Writes
  deriving DecidableEq, Repr

/-- R325: a guard slot. -/
inductive Guard where
  | known (v : Bool) | pendQ (v : Bool) (due : Nat) | pendS (reg : Nat) (due : Nat)
  deriving DecidableEq, Repr

/-- R342, R348: a pattern slot with its words. -/
structure PatSlot where
  state : SlotState
  addr : Nat
  words : List Word
  order : Bool
  row0 : Nat
  curI : Nat
  curJ : Nat
  done : Bool
  loading : List Nat
  deriving DecidableEq, Repr

/-- R368, R369: a node format. -/
structure NodeFormat where
  addr : Nat
  nodeSz : Nat
  nChild : Nat
  test : Nat
  chOff : Nat
  bvOff : Nat
  parOff : Nat
  order : Nat
  theta : Word
  deriving DecidableEq, Repr

/-- An instruction of a wave that has issued and not completed: its place in the replay window (R383), its flag (R288,
R353), the words it captured (R389), the lanes still to complete and the cycle of its issue. -/
structure Opr where
  id : Nat
  instr : Instr
  pc : Nat
  lanes : Lanes
  todo : Lanes
  window : Bool
  flag : Nat
  flanes : Lanes
  status : Nat
  cls : Nat
  faddr : Nat
  kind : Nat
  slot : Nat
  words : List (List Word)
  left : Nat
  skid : Nat
  issuedAt : Nat
  deriving DecidableEq, Repr

/-- R382, R315: a precise trap raised and not delivered. -/
structure Trap where
  cls : Nat
  code : Nat
  lmask : Lanes
  head : Word
  ext : Word
  data : Nat
  status : Nat
  causes : List (Nat × Nat × Nat)
  deriving DecidableEq, Repr

/-- R329: a matrix instruction issued and not retired, with the physical tile, what it read at issue, what a multiply has read of its
operands (R333), and for an `mdrain` that has read its tile the elements that have still to leave: address or offset, size, value. One
with none left has retired, and stands until its writes are acknowledged. -/
structure MatOp where
  wave : Nat
  op : Nat
  instr : Instr
  tile : Nat
  args : List Nat
  drained : Bool
  data : List (Nat × Nat × Nat)
  reads : Option (List Nat)
  deriving DecidableEq, Repr

/-- R163: a wave; `heldTiles` names the tiles of the `lda` and `sta` that stand in its trap frame (R293). -/
structure Wave where
  live : Bool
  ctx : Nat
  group : Nat
  index : Nat
  core : Nat
  quad : Nat
  h : Nat
  uregs : Nat
  entry : Nat
  lanes : List Lane
  vregs : Tab VReg
  sregs : Tab SReg
  q : BitVec 8
  qPend : BitVec 8
  flags : List Nat
  masks : List (BitVec 12)
  guards : List Guard
  fmode : Word
  tba : Word
  tframe : Word
  tstat : Word
  cycHigh : Option Word
  pend : List Pending
  results : List Result
  ops : List Opr
  heldMats : List MatOp
  frameOps : List Nat
  heldTiles : List Nat
  trap : Option Trap
  faulting : Bool
  skid : Nat
  holding : Option Nat
  wsyncArrived : Lanes
  priority : Option (Lanes × Nat)
  pats : List PatSlot
  nfmt : Option NodeFormat
  helpers : Lanes
  rastHeld : List (Instr × Nat × List Nat)
  request : Bool
  requestAt : Nat
  lastIssue : Nat
  readySince : Nat
  starved : Bool
  saved : Bool
  replayEmpty : List Nat
  asleepAt : Lanes
  awaitBaton : Bool
  deriving DecidableEq, Repr

/-- R241: a kernel descriptor. -/
structure Kernel where
  desc : Nat
  entry : Nat
  regs : Nat
  uregs : Nat
  accum : Nat
  gx : Nat
  gy : Nat
  gz : Nat
  stage : Nat
  scratch : Nat
  fifo : Nat
  cacheMin : Nat
  cacheMax : Nat
  yieldMax : Nat
  nLive : Nat
  liveTab : Nat
  waits : List (BitVec 12)
  deriving DecidableEq, Repr

/-- R174, R175: the register pool of a group on one quadrant; claims are (wave, granules, lanes). -/
structure Pool where
  quad : Nat
  free : Nat
  queue : List (Nat × Nat × Lanes)
  dlk : Bool
  deriving DecidableEq, Repr

/-- R160 to R165, R189: a group. -/
structure Group where
  live : Bool
  ctx : Nat
  launch : Nat
  stage : Nat
  lin : Nat
  coord : Nat × Nat × Nat
  extent : Nat × Nat × Nat
  kernel : Kernel
  pair : Nat
  bank0 : Nat
  nBanks : Nat
  tile0 : Nat
  waves : List Nat
  pools : List Pool
  elected : Option (Word × Nat × Nat)
  tasks : Nat
  upstream : Nat
  downstream : Nat
  published : Bool
  request : Bool
  reqId : Nat
  savedAll : Bool
  posters : List Nat
  prio : Nat
  deriving DecidableEq, Repr

/-! ### Pairs and cores -/

structure Bank where
  mode : BankMode
  owner : Nat
  fifo : List (BitVec 256)
  deriving DecidableEq, Repr

structure Pair where
  paired : Bool
  banks : List Bank
  scratch : Tab Byte
  baton : Option Nat
  batonQueue : List (Nat × Lanes)
  batonPass : Option (Option Nat)
  passMats : List Nat
  mats : List MatOp
  reservedBy : Nat
  deriving DecidableEq, Repr

/-- R206, R208: an accumulator tile of one core; elements are keyed 64 * row + column. -/
structure AccTile where
  empty : Bool
  elems : Tab Word
  deriving DecidableEq, Repr

/-- R135, R138: a copy record in the Scarab, fetched or not, with the pieces still to perform. A piece goes by the first of the record's
destination bytes that it holds: all those below `next` have been performed and of the others those of `done` (R96); `pos` is the one at
which the copy stands. `retry` is one more than the slot of the fault
log from which RETRY has begun it again (R392); 0 for any other. -/
structure Copy where
  id : Nat
  wave : Nat
  group : Nat
  op : Nat
  core : Nat
  ctx : Nat
  pair : Nat
  recOff : Nat
  bytes : List Byte
  fetched : Bool
  next : Nat
  done : List Nat
  pos : Nat
  credited : Nat
  owed : Nat
  hold : Nat
  status : Nat
  faddr : Nat
  once : Bool
  retry : Nat
  deriving DecidableEq, Repr

/-- R370 to R374: a lane walking in the Firefly; `held` at a faulting read, `nodes` those it has read, `last` the LAST of its record, all
ones with no report before, and `lastSt` the STATUS that the record had. -/
structure FfWalk where
  id : Nat
  wave : Nat
  op : Nat
  lane : Nat
  recOff : Nat
  fmt : NodeFormat
  held : Bool
  started : Bool
  base : Nat
  query : List Word
  point : Bool
  node : Nat
  depth : Nat
  stack : List Word
  ovfd : Int
  last : Nat
  lastSt : Nat
  nodes : List (Nat × List Byte)
  deriving DecidableEq, Repr

/-- R22, R42, R59, R66, R76, R138, R197, R198, R400: one core; `noSlices` where its four slices are retired with it, and `slotQueue`
the waves that wait for a request slot, in the order they began (R42), `fetches` the instruction fetches under way: context, sector of
the virtual address, and the first cycle at which its bytes may have come (R69); `reqs` the requests of its Scarab, its Firefly, the tile
fetch unit and its prefetches: the line, the cycle at which one left, and that at which its reply has been accepted (R42). -/
structure Core where
  tlb : List TlbEntry
  l1 : List L1Line
  imago : List ImagoCopy
  daf : List DafEntry
  unacked : List (Nat × DafEntry)
  relOut : Option Nat
  scarab : List Copy
  tiles : Tab AccTile
  ebud : Tab Nat
  dieTerm : Nat
  dramTerm : Nat
  shadow : List Nat
  shadowHits : Nat
  lruHits : Nat
  issued : Nat
  stalls : List Nat
  idle : Nat
  retired : Bool
  noSlices : Bool
  walkers : List FfWalk
  prefetch : List Nat
  slotCyc : List (Nat × Nat × Nat)
  slotQueue : List Nat
  fetches : List (Nat × Nat × Nat)
  reqs : List (Nat × Nat × Nat)
  deriving DecidableEq, Repr

/-! ### Contexts and work -/

/-- R391: one slot of a fault log, with what a parked operation needs to be performed again. -/
structure LogSlot where
  state : Nat
  code : Nat
  cls : Nat
  opk : Nat
  core : Nat
  addr : Nat
  status : Nat
  data : Nat
  value : Nat
  group : Nat
  acc : Option Acc
  copy : Option Copy
  words : List (Nat × Nat)
  deriving DecidableEq, Repr

/-- R406: the writable binding fields of a slot. -/
structure BindFields where
  asid : BitVec 16
  root : BitVec 64
  home : BitVec 3
  pin : BitVec 15
  efill : BitVec 32
  view : BitVec 64
  save : BitVec 64
  saveSz : BitVec 64
  sflush : Bool
  deriving DecidableEq, Repr

/-- R185: a tile region of a launch record. -/
structure LRegion where
  base : Nat
  pitch : Nat
  rows : Nat
  use : Nat
  part : Bool
  tr : Nat
  tc : Nat
  bpr : Nat
  deriving DecidableEq, Repr

/-- R187 to R189: a launch accepted and not completed, groups named by stage and linear index; or a shading wave formed by
Formica (`material`: view, material, home stack; R360), or a task wave of launch `parent` (R192), with its lanes' first
registers, the tiles it references and the groups that posted its tasks. -/
structure Launch where
  id : Nat
  ctx : Nat
  queue : Nat
  seq : Nat
  kernels : List Kernel
  gx : Nat
  gy : Nat
  gz : Nat
  links : Nat
  prio : Nat
  serial : Bool
  irq : Bool
  onStacks : Nat
  args : Nat
  evaddr : Nat
  regions : List LRegion
  placed : List (Nat × Nat)
  doneGroups : List (Nat × Nat)
  eligibleAt : Tab Nat
  contract : Bool
  released : Option Nat
  overrun : Bool
  yieldFault : Bool
  lastStack : Nat
  material : Option (Nat × Nat × Nat)
  task : Bool
  parent : Nat
  posters : List Nat
  inits : List (List Word)
  refs : List Nat
  deriving DecidableEq, Repr

/-- R395: the record of a saved wave: its state, with each lane's last issue as an age; its walks (operation, lane, started, held at
a fault), its cancelled copy records, its waits, and whether it held the baton. `req` names the request it was saved under. -/
structure SavedWave where
  id : Nat
  req : Nat
  wave : Wave
  walks : List (Nat × Nat × Bool × Bool)
  copies : List Copy
  waiters : List Waiter
  waits : List Acc
  claims : List (Nat × Lanes)
  slots : List (List Byte)
  holder : Bool
  base : Nat
  cyc : Nat
  deriving DecidableEq, Repr

/-- R394 to R397: what the save area holds of a group: the records of its waves, and once the last resident wave is saved
its banks with their bytes by offset, its tiles and its pools. Private to the device. -/
structure Saved where
  group : Nat
  waves : List SavedWave
  whole : Bool
  banks : List Bank
  scratch : Tab Byte
  tilesL : Tab AccTile
  tilesF : Tab AccTile
  pools : List Pool
  deriving DecidableEq, Repr

/-- R14, R187, R391, R406: a context slot. -/
structure Ctx where
  fields : BindFields
  held : BindFields
  bound : Bool
  fenced : Bool
  busy : Bool
  err : BitVec 4
  flerr : BitVec 4
  log : Tab LogSlot
  launches : List Launch
  offers : List (Nat × List Byte)
  devQueue : List (Nat × Nat × List Byte)
  devHead : BitVec 32
  saves : List Saved
  views : Tab (List Byte)
  firstCode : Nat
  unbinding : Bool
  deriving DecidableEq, Repr

/-- R180, R181, R193: a launch queue; ports' queues are keyed 64 * port + q. -/
structure Queue where
  base : BitVec 64
  en : Bool
  size : BitVec 4
  prio : BitVec 3
  ctx : BitVec 6
  cen : Bool
  cstack : BitVec 3
  run : Bool
  stop : Bool
  err : BitVec 4
  fcode : BitVec 8
  tail : BitVec 32
  head : BitVec 32
  period : BitVec 32
  budget : BitVec 32
  pairs : BitVec 6
  admitted : Nat
  contract : Bool
  offered : Bool
  deriving DecidableEq, Repr

/-- R192, R375: a pending task of a Hive. -/
structure Task where
  ctx : Nat
  launch : Nat
  group : Nat
  kernel : Kernel
  words : List Word
  prio : Nat
  at_ : Nat
  deriving DecidableEq, Repr

/-- R54, R55: a visibility tile that is not FREE, known by its first line's physical address, with its six lines in order. -/
structure Tile where
  ctx : Nat
  view : Nat
  index : Nat
  state : TileState
  lines : List Nat
  bytes : List Byte
  formica : Bool
  refs : List Nat
  closedBy : Nat
  order : Nat
  deriving DecidableEq, Repr

/-- R356: a triangle of one lane waiting for its set-up (`held` 3), or a fragment of it for a tile: `held` 0 on its way, 1 waiting
for its tile to reach FREE (R55), 2 waiting on the pin limit (R57). One that has had to wait at its tile's home bears the number of its
arrival there, `arrived`; 0 for any other. -/
structure Fragment where
  id : Nat
  wave : Nat
  op : Nat
  lane : Nat
  ctx : Nat
  view : Nat
  tile : Nat
  lines : List Nat
  pixel : Nat
  ident : Nat
  depth : Word
  held : Nat
  arrived : Nat
  deriving DecidableEq, Repr

/-- R359 to R361: a record on its way to a bin, or in it; each lane is (pixel, identifier, depth, flags, u, v, word 7). -/
structure BinRec where
  id : Nat
  ctx : Nat
  view : Nat
  material : Nat
  quad : Bool
  lanes : List (List Word)
  tiles : List Nat
  op : Nat
  wave : Nat
  lane : Nat
  at_ : Nat
  deriving DecidableEq, Repr

/-- R360: a bin with its two queues. -/
structure Bin where
  id : Nat
  ctx : Nat
  view : Nat
  material : Nat
  quads : List BinRec
  singles : List BinRec
  deriving DecidableEq, Repr

/-- R358: an `rflush` in progress. -/
structure Flush where
  id : Nat
  wave : Nat
  op : Nat
  ctx : Nat
  view : Nat
  started : Bool
  toClose : List Nat
  closed : List Nat
  drained : Bool
  deriving DecidableEq, Repr

/-- R376 to R378: this device's call of a collective: its descriptor, whether it has started, and once it has the bytes to write
at DST and RESID. `hold` is 1 at a fault of the wave's operation `op`, 2 parked in the fault log. -/
structure Coll where
  id : Nat
  wave : Nat
  op : Nat
  ctx : Nat
  core : Nat
  group : Nat
  desc : List Byte
  started : Bool
  hold : Nat
  cls : Nat
  code : Nat
  addr : Nat
  result : Nat
  resid : Nat
  deriving DecidableEq, Repr

/-! ### Management -/

/-- R402, R404, R409, R413: what is kept per host port. -/
structure Port where
  up : Bool
  cxlCache : Bool
  hsemRes : BitVec 2
  mgErr : BitVec 4
  mgReg : BitVec 2
  nonce : BitVec 256
  mbBusy : Bool
  mbDone : Bool
  mbErr : BitVec 4
  mbLen : BitVec 16
  report : List Byte
  tm : TmBlock
  deriving DecidableEq, Repr

/-- R404, R408 to R415: management registers of the device. `hsemArr` holds the writes to `HSEMCMD` that have reached the controller
in the present cycle of stack 0, each with its port. -/
structure Mgmt where
  owner : BitVec 2
  lease : BitVec 16
  hsemArr : List (Nat × Nat)
  devid : BitVec 12
  plimit : BitVec 12
  capped : Bool
  routes : Tab (BitVec 16)
  fabricUp : BitVec 16
  mxBusy : Bool
  mxErr : BitVec 4
  mxReg : Nat
  mxDigest : BitVec 512
  mxLatch : BitVec 512
  meas : List (BitVec 512)
  mbQueue : List (Nat × BitVec 256)
  boot : BootState
  deriving DecidableEq, Repr

/-- What the outside world sets for sensors (R44, R414). -/
structure Inputs where
  regionTemp : Tab Nat
  coreTemp : Tab Nat
  power : Nat
  deriving DecidableEq, Repr

/-- R82, R84: an access of a host or of another device that has arrived and is not yet performed. `src` is the host port, or 2 and
more for device `src - 2`; `op` is 0x60 for a posted write, 0x61 for one with relaxed ordering, 0x62 for a MemWr and 0x63 for a
read of a host, and as in `Out.peer` for a device. -/
structure Arrival where
  src : Nat
  op : Nat
  pa : Nat
  n : Nat
  data : Nat
  cmp : Nat
  deriving DecidableEq, Repr

/-- What the device sends to the outside world. -/
inductive Out where
  | irq (port vector : Nat)
  | cmp (port : Nat)
  | hostData (port : Nat) (value : Nat) (poisoned : Bool)
  | biSnpInv (line : Nat)
  | biSnpData (line : Nat)
  | d2h (req : Nat) (kind : Nat) (line : Nat) (data : Nat)
  | pcie (req : Nat) (write : Bool) (addr n value : Nat)
  | peer (acc dev op addr n data cmp : Nat)
  | farReply (dev value status gen : Nat)
  | snpReply (port line value : Nat)
  deriving DecidableEq, Repr

/-- The PC group that issues: wave, PC and lanes (R166, R167). -/
structure Issue where
  wave : Nat
  pc : Nat
  lanes : Lanes
  deriving DecidableEq, Repr

/-- An entry of the schedule: which agent moves next (log 4). `issue` walks the candidates of a quadrant in rank order with the
lane and uniform slots still free; a second candidate is marked. -/
inductive Move where
  | perform (i : Instr) (args : List Nat)
  | issue (quad : Nat) (cands : List (Issue × Bool)) (lanes unis : Nat) (chosen : Option Nat)
  | tick (stack : Nat)
  deriving DecidableEq, Repr

structure State where
  moves : List Move
  due : List (Instr × List Nat)
  args : List Nat
  stalled : Nat
  turn : Nat
  cur : Issue
  draws : Nat
  nextId : Nat
  outbox : List Out
  inputs : Inputs
  cyc : Tab Nat
  mem : List Host.Cell
  poison : List Nat
  cores : Tab Core
  pairs : Tab Pair
  waves : Tab Wave
  groups : Tab Group
  ctxs : Tab Ctx
  queues : Tab Queue
  ports : List Port
  mgmt : Mgmt
  stackMems : Tab StackMem
  regions : Tab Region
  msLines : Tab MsLine
  l2 : Tab L2Tag
  registry : List RegEntry
  regStamp : Nat
  hostHeld : List (Nat × Bool)
  hostOwn : List Nat
  net : List Msg
  parked : List Parked
  accs : List Acc
  l2tlb : Tab (List TlbEntry)
  pwc : Tab (List PwcEntry)
  walks : List Walk
  dir : Tab FrameState
  recalls : List Recall
  twins : Tab Bool
  pubs : List PubOp
  waiters : List Waiter
  hives : Tab (List Task)
  tiles : Tab Tile
  frags : List Fragment
  binRecs : List BinRec
  bins : List Bin
  flushes : List Flush
  colls : List Coll
  pinWait : List (Nat × Nat)
  d2hWait : List (Nat × Nat × Nat)
  fences : List Nat
  was : List (Nat × Nat × Byte)
  arrivals : List Arrival
  blocked : Option Nat
  deriving DecidableEq, Repr

/-! ### Values at reset -/

namespace State

/-- R68, R208: a tile as allocated. -/
def emptyTile : AccTile := { empty := true, elems := [] }

/-- A lane that has exited. -/
def idleLane : Lane :=
  { pc := 0, exited := true, sleep := .awake, preds := 1, predPend := 0, lastIssue := 0, since := 0, loopBuf := [] }

/-- A lane register as R184 sets it at a wave's first issue. -/
def zeroReg : VReg := { bits := 0, full := true, tag := .untyped }

/-- A uniform register as R184 sets it. -/
def zeroSReg : SReg := { bits := 0, full := true }

/-- R342: a slot at first issue. -/
def emptySlot : PatSlot :=
  { state := .empty, addr := 0, words := [], order := false, row0 := 0, curI := 0, curJ := 0, done := false, loading := [] }

/-- A wave slot with no wave: every lane exited (log 2). The register values are those of a first issue (R184, R209,
R385). -/
def idleWave : Wave :=
  { live := false, ctx := 0, group := 0, index := 0, core := 0, quad := 0, h := 0, uregs := 0, entry := 0,
    lanes := List.replicate 32 idleLane, vregs := [], sregs := [], q := 1, qPend := 0,
    flags := List.replicate 12 0, masks := List.replicate 16 0, guards := List.replicate 8 (.known true),
    fmode := 1, tba := 0, tframe := 0, tstat := 0, cycHigh := none, pend := [], results := [], ops := [], heldMats := [], frameOps := [],
    heldTiles := [], trap := none, faulting := false, skid := 0, holding := none, wsyncArrived := 0, priority := none,
    pats := [emptySlot, emptySlot], nfmt := none, helpers := 0, rastHeld := [], request := false,
    requestAt := 0, lastIssue := 0, readySince := 0, starved := false, saved := false, replayEmpty := [], asleepAt := 0,
    awaitBaton := false }

def noKernel : Kernel :=
  { desc := 0, entry := 0, regs := 0, uregs := 0, accum := 0, gx := 0, gy := 0, gz := 0, stage := 0, scratch := 0,
    fifo := 0, cacheMin := 4, cacheMax := 62, yieldMax := 0, nLive := 0, liveTab := 0, waits := [] }

def noGroup : Group :=
  { live := false, ctx := 0, launch := 0, stage := 0, lin := 0, coord := (0, 0, 0), extent := (0, 0, 0),
    kernel := noKernel, pair := 0, bank0 := 0, nBanks := 0, tile0 := 0, waves := [], pools := [], elected := none,
    tasks := 0, upstream := 0, downstream := 0, published := false,
    request := false, reqId := 0, savedAll := false, posters := [], prio := 0 }

/-- R58: bank `k` after reset. -/
def resetBank (k : Nat) : Bank :=
  { mode := if k < 2 then .cacheL else if k < 4 then .cacheF else .reserve, owner := 0, fifo := [] }

def resetPair : Pair :=
  { paired := true, banks := (List.range 64).map resetBank, scratch := [], baton := none, batonQueue := [],
    batonPass := none, passMats := [], mats := [], reservedBy := 0 }

def resetCore : Core :=
  { tlb := [], l1 := [], imago := [], daf := [], unacked := [], relOut := none, scarab := [],
    tiles := [], ebud := [], dieTerm := 255, dramTerm := 255, shadow := [], shadowHits := 0, lruHits := 0, issued := 0,
    stalls := List.replicate 7 0, idle := 0, retired := false, noSlices := false, walkers := [], prefetch := [], slotCyc := [], slotQueue := [], fetches := [],
    reqs := [] }

/-- R406: the binding fields at reset; `BPIN` is 16. -/
def resetFields : BindFields :=
  { asid := 0, root := 0, home := 0, pin := 16, efill := 0, view := 0, save := 0, saveSz := 0, sflush := false }

def freeLog : LogSlot :=
  { state := 0, code := 0, cls := 0, opk := 0, core := 0, addr := 0, status := 0, data := 0, value := 0, group := 0,
    acc := none, copy := none, words := [] }

def resetCtx : Ctx :=
  { fields := resetFields, held := resetFields, bound := false, fenced := false, busy := false, err := 0, flerr := 0,
    log := [], launches := [], offers := [], devQueue := [], devHead := 0, saves := [], views := [], firstCode := 0,
    unbinding := false }

def resetQueue : Queue :=
  { base := 0, en := false, size := 0, prio := 0, ctx := 0, cen := false, cstack := 0, run := false, stop := false,
    err := 0, fcode := 0, tail := 0, head := 0, period := 0, budget := 0, pairs := 0, admitted := 0,
    contract := false, offered := false }

def resetTm : TmBlock :=
  { asid := 0, addr := 0, len := 0, busy := false, done := false, err := 0, op := 0, job := (0, 0, 0), waits := [] }

def resetPort : Port :=
  { up := false, cxlCache := false, hsemRes := 0, mgErr := 0, mgReg := 0, nonce := 0, mbBusy := false,
    mbDone := false, mbErr := 0, mbLen := 0, report := [], tm := resetTm }

/-- R404, R408, R411, R412, R414 at reset; `PLIMIT` is 3,300. -/
def resetMgmt : Mgmt :=
  { owner := 0, lease := 0, hsemArr := [], devid := 0, plimit := 3300, capped := false, routes := [], fabricUp := 0xFFFF,
    mxBusy := false, mxErr := 0, mxReg := 0, mxDigest := 0, mxLatch := 0, meas := List.replicate 8 0, mbQueue := [],
    boot := .booting }

def resetRegion : Region :=
  { mode := .normal, sample := 0, refreshUntil := 0, nextAdmit := 0, waiting := [], drains := [] }

def resetStack : StackMem :=
  { queue := [], held := [], slots := [], hit := 0, miss := 0, wb := 0, thr := 0, stall := List.replicate 8 0,
    hpBase := 0, hpEn := false, hpRate := 0, hpSize := 0, hpHead := 0, hpTail := 0, hpDrop := 0, hpCount := 0,
    hpWriting := [], eccCe := 0, eccUe := 0, linkReplays := 0, flushes := [] }

def noMsLine : MsLine := { present := false, dirty := false, stamp := 0 }

def noL2 : L2Tag := { valid := 0, dirty := 0, pins := [] }

def freeTile : Tile :=
  { ctx := 0, view := 0, index := 0, state := .free, lines := [], bytes := [], formica := false, refs := [], closedBy := 0,
    order := 0 }

/-- The machine right after reset, before the security controller has run (R411): every field at its Reset value, and
where the manual gives none at the value log 2 names. -/
def reset : State :=
  { moves := [], due := [], args := [], stalled := 0, turn := 0, cur := { wave := 0, pc := 0, lanes := 0 }, draws := 0, nextId := 1,
    outbox := [], inputs := { regionTemp := [], coreTemp := [], power := 0 }, cyc := [], mem := [], poison := [],
    cores := [], pairs := [], waves := [], groups := [], ctxs := [], queues := [], ports := [resetPort, resetPort],
    mgmt := resetMgmt, stackMems := [], regions := [], msLines := [], l2 := [], registry := [], regStamp := 0,
    hostHeld := [], hostOwn := [], net := [], parked := [], accs := [], l2tlb := [], pwc := [], walks := [], dir := [],
    recalls := [], twins := [], pubs := [], waiters := [], hives := [], tiles := [], frags := [], binRecs := [],
    bins := [], flushes := [], colls := [], pinWait := [], d2hWait := [], fences := [], was := [], arrivals := [],
    blocked := none }

end State

end Sys2Proof.Machine
end

