-- ==== Sys2Proof/Machine/Fields.lean ====
section
/-! DEFINITION. What the fields of each instruction name: register sources and destinations, predicates, guards, flags
(the operand tables of spec/11 to spec/15 under R221 to R230), and the field rules of R231 that depend on the words
alone. -/

namespace Sys2Proof.Machine

/-- The operand fields that carry trap bits or values (R221). -/
inductive Fld where
  | a | b | c | e
  deriving DecidableEq, Repr

/-- R207, R245: how a source's tag is checked. -/
inductive TagCheck where
  | any | is (t : Tag) | pair64
  deriving DecidableEq, Repr

/-- A register source: a run of `n` registers at `base`, which must be a multiple of `al`. In a uniform field a base of
128 or more is the inline integer `base - 128` (R221). -/
structure Src where
  fld : Fld
  base : Nat
  n : Nat
  al : Nat
  uni : Bool
  trap : Bool
  tag : TagCheck
  deriving DecidableEq, Repr

/-- A register destination. -/
structure Dst where
  base : Nat
  n : Nat
  al : Nat
  uni : Bool
  deriving DecidableEq, Repr

/-- What one instruction reads, writes and waits on. -/
structure Spec where
  uni : Bool := false
  long : Bool := true
  d : Nat := 0
  w : Nat := 0
  p : Nat := 0
  pn : Bool := false
  srcs : List Src := []
  dsts : List Dst := []
  pr : List Nat := []
  pw : List Nat := []
  var : Bool := false
  flag : Nat := 15
  win : Bool := false
  g : Nat := 0
  gn : Bool := false
  mat : Bool := false
  ec : Option Nat := none
  deriving DecidableEq, Repr

/-- An empty lane register source of `n` registers in field `f`, aligned to `al`. -/
def lsrc (f : Fld) (base n al : Nat) (trap : Bool) (tag : TagCheck) : Src :=
  { fld := f, base := base, n := n, al := al, uni := false, trap := trap, tag := tag }

/-- A uniform register source. -/
def usrc (f : Fld) (base n al : Nat) (trap : Bool) : Src :=
  { fld := f, base := base, n := n, al := al, uni := true, trap := trap, tag := .any }

def ldst (base n al : Nat) : Dst := { base := base, n := n, al := al, uni := false }
def udst (base n al : Nat) : Dst := { base := base, n := n, al := al, uni := true }

/-- The head's part of a specification. -/
def headSpec (h : Head) (uni long : Bool) : Spec := { uni := uni, long := long, d := h.d.toNat, w := h.w.toNat }

/-- The common part of a G-format instruction (R223). -/
def gSpec (h : Head) (g : GExt) (uni : Bool) : Spec := { headSpec h uni true with p := g.p.toNat, pn := g.pn }

/-- The common part of an I-format instruction (R225). -/
def iSpec (h : Head) (e : IExt) (uni : Bool) : Spec := { headSpec h uni true with p := e.p.toNat, pn := e.pn }

/-- The common part of an M-format instruction (R226). -/
def mSpec (h : Head) (m : MExt) (uni : Bool) : Spec :=
  { headSpec h uni true with p := m.p.toNat, flag := m.f.toNat, var := true, win := true }

/-- The common part of a B-format instruction (R227). -/
def bSpec (h : Head) (t : BExt) (uni : Bool) : Spec := { headSpec h uni true with p := t.p.toNat, pn := t.pn }

/-- The common part of an N-format instruction (R228). -/
def nSpec (h : Head) (n : NExt) (uni : Bool) : Spec :=
  { headSpec h uni true with flag := n.f.toNat, var := true, win := true, g := n.g.toNat, gn := n.gn }

/-- R222: the extension a short form stands for: T, RM, SAT and guard zero. -/
def shortG (c : BitVec 8) : GExt :=
  { c := c, e := 0, p := 0, pn := false, tb := false, tc := false, te := false, rm := 0, sat := false, t := 0 }

/-- R222: a two-source short form computes A = A op B: its head read as B = A and C = B. -/
def short2 (h : Head) : Head := { h with b := h.a }

/-- The registers of an element type: 2 for a 64-bit type (R221, R224, R248). -/
def wide (t : Nat) : Nat := if t % 16 = 1 then 2 else 1

/-- The number of T. -/
def gT (g : GExt) : Nat := g.t.toNat

/-- R224, R245: the tag check of a floating-point type. -/
def fpCheck (t : Nat) : TagCheck :=
  match t with
  | 0 => .is .f32
  | 1 => .pair64
  | 2 => .is .f16x2
  | _ => .is .bf16x2

/-- Lane `vd, vb, vc` with one width and check for both sources. -/
def lane2 (h : Head) (g : GExt) (n : Nat) (k : TagCheck) : Spec :=
  { gSpec h g false with
    srcs := [lsrc .b h.b.toNat n n g.tb k, lsrc .c g.c.toNat n n g.tc k], dsts := [ldst h.a.toNat n n] }

/-- Lane `vd, vb`. -/
def laneB (h : Head) (g : GExt) (n : Nat) (k : TagCheck) : Spec :=
  { gSpec h g false with srcs := [lsrc .b h.b.toNat n n g.tb k], dsts := [ldst h.a.toNat n n] }

/-- Lane `vd, vb, vc, ve`. -/
def lane3 (h : Head) (g : GExt) (n : Nat) (k : TagCheck) : Spec :=
  { gSpec h g false with
    srcs := [lsrc .b h.b.toNat n n g.tb k, lsrc .c g.c.toNat n n g.tc k, lsrc .e g.e.toNat n n g.te k],
    dsts := [ldst h.a.toNat n n] }

/-- R252: shifts read a pair in B and one amount register in C. -/
def laneShift (h : Head) (g : GExt) : Spec :=
  let n := wide (gT g)
  { gSpec h g false with
    srcs := [lsrc .b h.b.toNat n n g.tb .any, lsrc .c g.c.toNat 1 1 g.tc .any], dsts := [ldst h.a.toNat n n] }

/-- R171: an FP64 form is variable-latency. -/
def fpVar (g : GExt) (sp : Spec) : Spec := { sp with var := sp.var || gT g = 1 }

/-- R171: opcodes 0x4A to 0x51 are variable-latency in all forms. -/
def always (sp : Spec) : Spec := { sp with var := true }

/-- Uniform `sd, sb, sc`. -/
def uni2 (h : Head) (g : GExt) (n nc : Nat) : Spec :=
  { gSpec h g true with
    srcs := [usrc .b h.b.toNat n n g.tb, usrc .c g.c.toNat nc nc g.tc], dsts := [udst h.a.toNat n n] }

/-- Uniform `sd, sb`. -/
def uniB (h : Head) (g : GExt) (n : Nat) : Spec :=
  { gSpec h g true with srcs := [usrc .b h.b.toNat n n g.tb], dsts := [udst h.a.toNat n n] }

/-- The predicate combined by a compare: E[2:0] when E[4:3] selects a combination (R255). -/
def combPred (e : BitVec 8) : List Nat := if bits e.toNat 4 3 = 0 then [] else [bits e.toNat 2 0]

/-- R285: the registers of an access size. -/
def szRegs (sz : Nat) : Nat := if sz ≤ 2 then 1 else 2 ^ (sz - 2)

/-- R226: the address sources of a lane virtual access. -/
def laneAddr (h : Head) (m : MExt) : List Src :=
  if m.c = 128 then [lsrc .b h.b.toNat 2 2 false .any]
  else [lsrc .b h.b.toNat 1 1 false .any, usrc .c m.c.toNat 2 2 false]

/-- R226: the address sources of a lane scratch access. -/
def laneScr (h : Head) (m : MExt) : List Src :=
  if m.c = 128 then [lsrc .b h.b.toNat 1 1 false .any]
  else [lsrc .b h.b.toNat 1 1 false .any, usrc .c m.c.toNat 1 1 false]

/-- R295: the registers the data operand of an atomic spans, twice n bytes for `.cas`. -/
def atomRegs (m : MExt) : Nat := szRegs m.sz.toNat * (if bits m.imm.toNat 4 0 = 12 then 2 else 1)

/-- R295: the multiple that C must be. -/
def atomAlign (m : MExt) : Nat := if m.sz = 2 then 1 else atomRegs m

/-- R301: the object's base: a pair in virtual space, one register in scratch. -/
def barObj (h : Head) (m : MExt) : List Src :=
  let n := if m.imm.getLsbD 0 then 2 else 1
  [usrc .b h.b.toNat n n false]

/-- The elements of `vcompact` and `vexpand`: N by T[1:0] (R281). -/
def compactN (t : Nat) : Nat := match t % 4 with | 0 => 8 | 1 => 12 | 2 => 16 | _ => 24

/-- Q: the index registers of N selected elements (R281). -/
def compactQ (t : Nat) : Nat := (6 * compactN t + 31) / 32

/-- R281: the source check of the element format T[3:2]. -/
def compactCheck (t : Nat) : TagCheck :=
  match (t / 4) % 4 with | 0 => .is .e4m3x4 | 1 => .is .e5m2x4 | _ => .any

/-- R267: sources and destination widths and the source check of each conversion code. -/
def cvtShape (t : Nat) : Nat × Nat × TagCheck :=
  match t with
  | 0 | 1 => (1, 1, .is .f32)
  | 2 | 3 => (1, 1, .any)
  | 4 | 6 => (2, 1, .pair64)
  | 5 => (1, 2, .is .f32)
  | 7 => (1, 2, .any)
  | 8 => (2, 2, .pair64)
  | 9 => (2, 2, .any)
  | 10 => (1, 1, .is .f16x2)
  | 11 => (1, 1, .is .bf16x2)
  | 12 => (1, 1, .is .e4m3x4)
  | _ => (1, 1, .is .e5m2x4)

/-- R352: the registers of `attr`'s destination by mode and count. -/
def attrDst (n : NExt) : Nat :=
  let k := bits n.shape.toNat 4 2 + 1
  match bits n.shape.toNat 1 0 with | 0 => 6 | 1 => k | _ => 3 * k

/-- R267, R171: the specification of `vcvt`; conversions with a 64-bit side are FP64 forms. -/
def cvtSpec (h : Head) (g : GExt) : Spec :=
  let (ns, nd, k) := cvtShape (gT g)
  { gSpec h g false with srcs := [lsrc .b h.b.toNat ns ns g.tb k], dsts := [ldst h.a.toNat nd nd], var := ns + nd ≠ 2 }

/-- The specification of each lane arithmetic and exchange instruction in its G form (spec/11). -/
def specLaneG (i : Instr) : Spec :=
  match i with
  | .vadd h g | .vsub h g | .vmul h g | .vmulh h g | .vmin h g | .vmax h g | .vabsd h g | .vand h g | .vor h g | .vxor h g
  | .vandn h g => lane2 h g (wide (gT g)) .any
  | .vshl h g | .vshr h g | .vsar h g | .vrot h g => laneShift h g
  | .vmad h g => lane3 h g 1 .any
  | .vmadw h g =>
    { gSpec h g false with
      srcs := [lsrc .b h.b.toNat 1 1 g.tb .any, lsrc .c g.c.toNat 1 1 g.tc .any, lsrc .e g.e.toNat 2 2 g.te .any],
      dsts := [ldst h.a.toNat 2 2] }
  | .vmov h g => laneB h g (wide (gT g)) .any
  | .vsel h g => { lane2 h g (wide (gT g)) .any with pr := [g.e.toNat] }
  | .vbfe h g => lane2 h g 1 .any
  | .vbfi h g | .vperm h g => lane3 h g 1 .any
  | .vclz h g | .vpopc h g | .vbrev h g => laneB h g 1 .any
  | .vcmp h g =>
    let n := if g.t.getLsbD 4 then 2 else 1
    { lane2 h g n .any with dsts := [], pw := [h.a.toNat], pr := combPred g.e }
  | .vplog h g => { gSpec h g false with pr := [h.b.toNat, g.c.toNat], pw := [h.a.toNat] }
  | .vpmov h g =>
    match gT g with
    | 0 => { gSpec h g false with dsts := [ldst h.a.toNat 1 1], pr := [1, 2, 3, 4, 5, 6, 7] }
    | 1 => { gSpec h g false with srcs := [lsrc .b h.b.toNat 1 1 g.tb .any], pw := [1, 2, 3, 4, 5, 6, 7] }
    | 2 => { gSpec h g false with dsts := [ldst h.a.toNat 1 1], pr := [h.b.toNat] }
    | _ => { gSpec h g false with srcs := [lsrc .b h.b.toNat 1 1 g.tb .any], pw := [h.a.toNat] }
  | .vlea h g =>
    { gSpec h g false with
      srcs := [lsrc .b h.b.toNat 2 2 g.tb .any, lsrc .c g.c.toNat 1 1 g.tc .any], dsts := [ldst h.a.toNat 2 2] }
  | .vfadd h g | .vfsub h g | .vfmul h g | .vfmin h g | .vfmax h g => fpVar g (lane2 h g (wide (gT g)) (fpCheck (gT g)))
  | .vfdiv h g => always (lane2 h g (wide (gT g)) (fpCheck (gT g)))
  | .vfma h g => fpVar g (lane3 h g (wide (gT g)) (fpCheck (gT g)))
  | .vfcmp h g =>
    let n := if gT g % 4 = 1 then 2 else 1
    let k := if gT g % 4 = 1 then TagCheck.pair64 else .is .f32
    { lane2 h g n k with dsts := [], pw := [h.a.toNat], pr := combPred g.e, var := gT g % 4 = 1 }
  | .vfclass h g => fpVar g { laneB h g (wide (gT g)) (fpCheck (gT g)) with dsts := [ldst h.a.toNat 1 1] }
  | .vfrnd h g | .vfract h g => fpVar g (laneB h g (wide (gT g)) (fpCheck (gT g)))
  | .vrcp h g | .vrsq h g | .vsqrt h g | .vexp2 h g | .vlog2 h g | .vsinp h g | .vcosp h g =>
    always (laneB h g (wide (gT g)) (fpCheck (gT g)))
  | .vpfma h g => lane3 h g 1 (if gT g = 0 then .is .e4m3x4 else .is .e5m2x4)
  | .vpfadd h g | .vpfmul h g => lane2 h g 1 (if gT g = 0 then .is .e4m3x4 else .is .e5m2x4)
  | .vcvt h g => cvtSpec h g
  | .vscl h g =>
    { gSpec h g false with
      srcs := [lsrc .b h.b.toNat 1 1 g.tb (fpCheck (gT g % 4)), lsrc .c g.c.toNat 1 1 g.tc (.is .e8m0x4)],
      dsts := [ldst h.a.toNat 1 1] }
  | .vpack h g =>
    let f := gT g % 8
    let k := if f = 4 then TagCheck.any else .is .f32
    let ks := [lsrc .b h.b.toNat 1 1 g.tb k, lsrc .c g.c.toNat 1 1 g.tc k]
    let ke := if f = 2 then [lsrc .e g.e.toNat 1 1 g.te (.is .e4m3x4)]
      else if f = 3 then [lsrc .e g.e.toNat 1 1 g.te (.is .e5m2x4)]
      else if f = 4 then [lsrc .e g.e.toNat 1 1 g.te (.is .i8x4)] else []
    { gSpec h g false with srcs := ks ++ ke, dsts := [ldst h.a.toNat 1 1] }
  | .vunpk h g =>
    let k := match gT g with
      | 0 => TagCheck.is .f16x2 | 1 => .is .bf16x2 | 2 => .is .e4m3x4 | 3 => .is .e5m2x4 | 4 => .any | _ => .is .i4ex8
    let n := if gT g = 5 then 2 else 1
    let ke := if gT g = 5 then [lsrc .e g.e.toNat 1 1 g.te (.is .e8m0x4)] else []
    { gSpec h g false with
      srcs := [lsrc .b h.b.toNat n n g.tb k, lsrc .c g.c.toNat 1 1 g.tc .any] ++ ke, dsts := [ldst h.a.toNat 1 1] }
  | .vdot4 h g | .vdot8 h g => lane3 h g 1 .any
  | .vfdot2 h g =>
    { gSpec h g false with
      srcs := [lsrc .b h.b.toNat 1 1 g.tb (fpCheck (gT g)), lsrc .c g.c.toNat 1 1 g.tc (fpCheck (gT g)),
               lsrc .e g.e.toNat 1 1 g.te (.is .f32)], dsts := [ldst h.a.toNat 1 1] }
  | .vftag h g => laneB h g 1 .any
  | .vshfl h g => always (lane3 h g 1 .any)
  | .vbcst h g => always (if gT g = 2 then lane3 h g 1 .any else laneB h g 1 .any)
  | .vvote h g => always (if gT g = 4 then { laneB h g 1 .any with srcs := [] } else laneB h g 1 .any)
  | .vredu h g | .vscan h g =>
    let o := gT g % 16
    always (laneB h g 1 (if o = 8 ∨ o = 9 ∨ o = 10 then .is .f32 else .any))
  | .vrdln h g => always { laneB h g 1 .any with srcs := [lsrc .c g.c.toNat 1 1 g.tc .any] }
  | .vwrln h g => always { laneB h g 1 .any with dsts := [] }
  | .vmatch h g => always { laneB h g (wide (gT g)) .any with dsts := [ldst h.a.toNat 1 1] }
  | .vcompact h g =>
    let t := gT g
    always { gSpec h g false with
      srcs := [lsrc .b h.b.toNat 12 1 g.tb (compactCheck t)],
      dsts := [ldst h.a.toNat (compactN t / 4) 1, ldst g.c.toNat (compactQ t) 1], pw := [g.e.toNat] }
  | .vcompactRow h g =>
    always { gSpec h g false with
      srcs := [lsrc .b h.b.toNat 1 1 g.tb (if g.t.getLsbD 2 then .is .f32 else .any), lsrc .c g.c.toNat 1 1 g.tc .any],
      dsts := [ldst h.a.toNat 3 1], pw := [g.e.toNat] }
  | .vexpand h g =>
    let t := gT g
    always { gSpec h g false with
      srcs := [lsrc .b h.b.toNat (compactN t / 4) 1 g.tb (compactCheck t), lsrc .c g.c.toNat (compactQ t) 1 g.tc .any],
      dsts := [ldst h.a.toNat 12 1] }
  | _ => {}

/-- The specification of each uniform G-format instruction (spec/13). -/
def specUniG (i : Instr) : Spec :=
  match i with
  | .smov h g => uniB h g (wide (gT g))
  | .ssel h g => { uni2 h g (wide (gT g)) (wide (gT g)) with pr := [g.e.toNat] }
  | .sadd h g | .ssub h g | .smul h g | .smulh h g | .smin h g | .smax h g | .sand h g | .sor h g | .sxor h g =>
    uni2 h g (wide (gT g)) (wide (gT g))
  | .sshl h g | .sshr h g | .ssar h g => uni2 h g (wide (gT g)) 1
  | .sbfe h g => uni2 h g 1 1
  | .sclz h g | .spopc h g => uniB h g 1
  | .scmp h g =>
    let n := if g.t.getLsbD 4 then 2 else 1
    { uni2 h g n n with dsts := [], pw := [h.a.toNat], pr := combPred g.e }
  | .sqlog h g => { gSpec h g true with pr := [h.b.toNat, g.c.toNat], pw := [h.a.toNat] }
  | .slea h g => uni2 h g 2 1
  | .guardW h g => { gSpec h g true with pr := if gT g = 2 then [] else [h.b.toNat] }
  | .elect h g =>
    { gSpec h g true with
      srcs := if gT g = 1 then [usrc .b h.b.toNat 1 1 g.tb] else [],
      dsts := [udst h.a.toNat 1 1],
      pw := [g.c.toNat], var := true }
  | _ => {}

/-- The specification of each M-format instruction (spec/12, R150, R301 to R306). -/
def specM (i : Instr) : Spec :=
  match i with
  | .ld h m => { mSpec h m false with srcs := laneAddr h m, dsts := [ldst h.a.toNat (szRegs m.sz.toNat) (szRegs m.sz.toNat)] }
  | .st h m =>
    { mSpec h m false with srcs := lsrc .a h.a.toNat (szRegs m.sz.toNat) (szRegs m.sz.toNat) false .any :: laneAddr h m }
  | .ldl h m => { mSpec h m false with srcs := laneScr h m, dsts := [ldst h.a.toNat (szRegs m.sz.toNat) (szRegs m.sz.toNat)] }
  | .stl h m =>
    { mSpec h m false with srcs := lsrc .a h.a.toNat (szRegs m.sz.toNat) (szRegs m.sz.toNat) false .any :: laneScr h m }
  | .ldq h m => { mSpec h m false with dsts := [ldst h.a.toNat (szRegs m.sz.toNat) (szRegs m.sz.toNat)] }
  | .stq h m => { mSpec h m false with srcs := [lsrc .a h.a.toNat (szRegs m.sz.toNat) (szRegs m.sz.toNat) false .any] }
  | .lda h m =>
    { mSpec h m false with
      srcs := [lsrc .b h.b.toNat 1 1 false .any],
      dsts := [ldst h.a.toNat (szRegs m.sz.toNat) (szRegs m.sz.toNat)] }
  | .sta h m =>
    { mSpec h m false with
      srcs := [lsrc .a h.a.toNat (szRegs m.sz.toNat) (szRegs m.sz.toNat) false (.is .f32),
      lsrc .b h.b.toNat 1 1 false .any] }
  | .atom h m | .atoml h m =>
    { mSpec h m false with
      srcs := [lsrc .b h.b.toNat 2 2 false .any, lsrc .c m.c.toNat (atomRegs m) (atomAlign m) false .any],
      dsts := [ldst h.a.toNat (szRegs m.sz.toNat) (szRegs m.sz.toNat)] }
  | .red h m =>
    { mSpec h m false with
      srcs := [lsrc .a h.a.toNat (szRegs m.sz.toNat) (szRegs m.sz.toNat) false .any, lsrc .b h.b.toNat 2 2 false .any] }
  | .pfx h m => { mSpec h m false with srcs := laneAddr h m, win := false }
  | .cprop h m =>
    { mSpec h m false with
      srcs := [lsrc .b h.b.toNat 2 2 false .any, lsrc .c m.c.toNat 3 4 false .any], dsts := [ldst h.a.toNat 4 4] }
  | .cget h m | .crecyc h m =>
    { mSpec h m false with
      srcs := [lsrc .b h.b.toNat 2 2 false .any, lsrc .c m.c.toNat 1 1 false .any], dsts := [ldst h.a.toNat 4 4] }
  | .cprobe h m => { mSpec h m false with srcs := [lsrc .b h.b.toNat 2 2 false .any], dsts := [ldst h.a.toNat 4 4] }
  | .fence h m | .wsync h m => { mSpec h m false with win := false }
  | .sld h m =>
    let n := if m.c = 128 then 2 else 1
    { mSpec h m true with srcs := [usrc .b h.b.toNat n n false], dsts := [udst h.a.toNat (szRegs m.sz.toNat) (szRegs m.sz.toNat)] }
  | .sst h m =>
    let n := if m.c = 128 then 2 else 1
    { mSpec h m true with
      srcs := [usrc .a h.a.toNat (szRegs m.sz.toNat) (szRegs m.sz.toNat) false, usrc .b h.b.toNat n n false] }
  | .satom h m =>
    { mSpec h m true with
      srcs := [usrc .b h.b.toNat 2 2 false, usrc .c m.c.toNat (atomRegs m) (atomAlign m) false],
      dsts := [udst h.a.toNat (szRegs m.sz.toNat) (szRegs m.sz.toNat)] }
  | .barinit h m =>
    { mSpec h m true with srcs := usrc .a h.a.toNat 1 1 false :: (barObj h m ++ [usrc .c m.c.toNat 1 1 false]) }
  | .barexp h m | .barwait h m => { mSpec h m true with srcs := barObj h m ++ [usrc .c m.c.toNat 1 1 false] }
  | .bararr h m => { mSpec h m true with srcs := barObj h m }
  | .waddr h m =>
    { mSpec h m true with srcs := [usrc .b h.b.toNat 1 1 false, usrc .c m.c.toNat 1 1 false], dsts := [udst h.a.toNat 1 1] }
  | .kick h m => { mSpec h m true with srcs := [usrc .b h.b.toNat 1 1 false, usrc .c m.c.toNat 1 1 false] }
  | .pub h m => { mSpec h m true with srcs := [usrc .b h.b.toNat 2 2 false, usrc .c m.c.toNat 1 1 false] }
  | .sbank h m =>
    { mSpec h m true with srcs := [usrc .b h.b.toNat 1 1 false, usrc .c m.c.toNat 1 1 false], dsts := [udst h.a.toNat 1 1] }
  | .msflushRange h m => { mSpec h m true with srcs := [usrc .b h.b.toNat 2 2 false, usrc .c m.c.toNat 1 1 false] }
  | .msflushStack h m => mSpec h m true
  | _ => {}

/-- The specification of each matrix, pattern and engine instruction (R330, R352). -/
def specN (i : Instr) : Spec :=
  match i with
  | .rast h n =>
    { nSpec h n false with
      srcs := [lsrc .b h.b.toNat 12 1 false (.is .f32), lsrc .c n.c.toNat 2 2 false .any] }
  | .hitbin h n => { nSpec h n false with
    srcs := [lsrc .b h.b.toNat 3 1 false .any, lsrc .b (h.b.toNat + 3) 3 1 false (.is .f32),
    lsrc .b (h.b.toNat + 6) 1 1 false .any] }
  | .attr h n => { nSpec h n false with srcs := [lsrc .b h.b.toNat 8 1 false .any], dsts := [ldst h.a.toNat (attrDst n) 1] }
  | .travs h n =>
    { nSpec h n false with
      srcs := [lsrc .b h.b.toNat (if n.shape.getLsbD 0 then 3 else 8) 1 false (.is .f32), lsrc .c n.c.toNat 2 2 false .any,
               lsrc .e n.e.toNat 1 1 false .any], dsts := [ldst h.a.toNat 4 4] }
  | .travr h n =>
    { nSpec h n false with
      srcs := [lsrc .b h.b.toNat 1 1 false .any, lsrc .c n.c.toNat 1 1 false (.is .f32)], dsts := [ldst h.a.toNat 4 4] }
  | .hvpost h n => { nSpec h n false with srcs := [lsrc .b h.b.toNat 8 1 false .any, lsrc .c n.c.toNat 2 2 false .any] }
  | .mma h n | .mmap h n =>
    { nSpec h n true with srcs := [usrc .b h.b.toNat 1 1 false, usrc .c n.c.toNat 1 1 false], mat := true, ec := some n.ec.toNat }
  | .mmas h n =>
    { nSpec h n true with
      srcs := [usrc .b h.b.toNat 1 1 false, usrc .c n.c.toNat 1 1 false, usrc .e n.e.toNat 1 1 false],
      mat := true, ec := some n.ec.toNat }
  | .mzero h n => { nSpec h n true with mat := true, ec := some n.ec.toNat, win := false }
  | .mfill h n =>
    { nSpec h n true with srcs := [usrc .b h.b.toNat 2 2 false, usrc .c n.c.toNat 1 1 false], mat := true, ec := some n.ec.toNat }
  | .mdrain h n =>
    let k := if n.shape.getLsbD 4 then 1 else 2
    { nSpec h n true with srcs := [usrc .b h.b.toNat k k false, usrc .c n.c.toNat 1 1 false], mat := true, ec := some n.ec.toNat }
  | .mscale h n => { nSpec h n true with srcs := [usrc .b h.b.toNat 1 1 false], mat := true, ec := some n.ec.toNat, win := false }
  | .mbtake h n => { nSpec h n true with win := false }
  | .mbpass h n => { nSpec h n true with srcs := [usrc .b h.b.toNat 1 1 false], mat := true, win := false }
  | .mbpassNone h n => { nSpec h n true with mat := true, win := false }
  | .pgload h n => { nSpec h n true with srcs := [usrc .b h.b.toNat 2 2 false] }
  | .pgctx h n => { nSpec h n true with srcs := [usrc .b h.b.toNat 1 1 false], win := false }
  | .pgemit h n => { nSpec h n true with dsts := [udst h.b.toNat 1 1], win := false }
  | .rflush h n | .coll h n | .launchDev h n => { nSpec h n true with srcs := [usrc .b h.b.toNat 1 1 false] }
  | .tvrel h n => nSpec h n true
  | .nfmt h n => { nSpec h n true with srcs := [usrc .b h.b.toNat 2 2 false] }
  | _ => {}

/-- The specification of the remaining formats: immediates, branches, literals and operand-free forms (spec/11, spec/13). -/
def specIB (i : Instr) : Spec :=
  match i with
  | .vmovi h e | .vidx h e => { iSpec h e false with dsts := [ldst h.a.toNat 1 1] }
  | .vmovh h e => { iSpec h e false with srcs := [lsrc .a h.a.toNat 1 1 false .any], dsts := [ldst h.a.toNat 1 1] }
  | .vaddi h e => { iSpec h e false with srcs := [lsrc .b h.b.toNat 1 1 e.tb .any], dsts := [ldst h.a.toNat 1 1] }
  | .vcmpi h e => { iSpec h e false with srcs := [lsrc .b h.b.toNat 1 1 e.tb .any], pw := [h.a.toNat] }
  | .sidx h e | .sgetr h e => { iSpec h e true with dsts := [udst h.a.toNat 1 1] }
  | .ssetr h e | .rclaim h e | .rfree h e => { iSpec h e true with srcs := [usrc .b h.b.toNat 1 1 e.tb] }
  | .yieldW h e | .trapSw h e => iSpec h e true
  | .smovi h _ => { headSpec h true true with dsts := [udst h.a.toNat 1 1] }
  | .br h t | .exitL h t => bSpec h t false
  | .jmp h t | .ret h t => { bSpec h t false with srcs := [lsrc .b h.b.toNat 2 2 false .any] }
  | .callDirect h t => { bSpec h t false with dsts := [ldst h.a.toNat 2 2] }
  | .callRegister h t => { bSpec h t false with srcs := [lsrc .b h.b.toNat 2 2 false .any], dsts := [ldst h.a.toNat 2 2] }
  | .ubr h t | .endW h t => bSpec h t true
  | .ujmp h t | .uret h t => { bSpec h t true with srcs := [usrc .b h.b.toNat 2 2 false] }
  | .ucall h t => { bSpec h t true with dsts := [udst h.a.toNat 2 2] }
  | .retShort h => { headSpec h false false with srcs := [lsrc .b 0 2 2 false .any] }
  | .uretShort h => { headSpec h true false with srcs := [usrc .b 0 2 2 false] }
  | .wsyncShort h | .land h | .exitShort h => headSpec h false false
  | .nop h | .rfe h | .endShort h | .yieldShort h => headSpec h true false
  | _ => {}

end Sys2Proof.Machine
end

