-- ==== Sys2Proof/Machine/FieldRules.lean ====
section
/-! DEFINITION. The field rules of R231 that the words of an instruction decide alone: reserved values, fields an
instruction does not use, and the T, ORD, SZ, SUB and SHAPE values it lists. What depends on the wave (8h, the `.uregs`
count, `.accum`) is checked at issue in `Sys2Proof.Machine.Gate`. -/

namespace Sys2Proof.Machine

/-- How an instruction uses an operand field: not at all (it must be zero), as a register, as a predicate number in
bits [2:0] (R247), as the predicate combination of R255, as a guard slot 1 to 7 (R325), or as a plain number below a
bound. -/
inductive Use where
  | zero | reg | pred | comb | slot | below (n : Nat)
  deriving DecidableEq, Repr

/-- A field's value is one that its use allows. -/
def useOk (u : Use) (v : Nat) : Bool :=
  match u with
  | .zero => v = 0
  | .reg => true
  | .pred => v < 8
  | .comb => v < 32 && (8 ≤ v || v = 0)
  | .slot => 1 ≤ v && v < 8
  | .below n => v < n

/-- A trap bit is set only for a register source (R223). -/
def trapOk (u : Use) (b : Bool) : Bool := !b || decide (u = .reg)

/-- R221, R285: a source's register is aligned; in a uniform field it is a register below 128 or, without a trap bit, an
inline integer. -/
def srcOk (s : Src) : Bool :=
  if s.uni then (s.base < 128 && s.base % s.al = 0) || (128 ≤ s.base && s.base < 192 && !s.trap) else s.base % s.al = 0

/-- R221: a destination is aligned and never inline. -/
def dstOk (d : Dst) : Bool := (!d.uni || d.base < 128) && d.base % d.al = 0

/-- The register operands of a specification. -/
def opsOk (sp : Spec) : Bool := sp.srcs.all srcOk && sp.dsts.all dstOk

/-- R221: P = 0 with PN = 1 is reserved. -/
def guardOk (p : BitVec 3) (pn : Bool) : Bool := p ≠ 0 || !pn

/-- R223: the G fields of an instruction that uses A, B, C and E as given, RM or SAT if told, and the T values of `ts`. -/
def gOk (h : Head) (g : GExt) (a b c e : Use) (rm sat : Bool) (ts : Nat → Bool) (sp : Spec) : Bool :=
  useOk a h.a.toNat && useOk b h.b.toNat && useOk c g.c.toNat && useOk e g.e.toNat &&
  trapOk b g.tb && trapOk c g.tc && trapOk e g.te &&
  guardOk g.p g.pn && (if rm then g.rm.toNat ≤ 5 else g.rm = 0) && (sat || !g.sat) && ts (gT g) && opsOk sp

/-- R248: element layouts 0 to 3 and 16 to 19. -/
def tInt (t : Nat) : Bool := t % 16 < 4
/-- T 0 or 16. -/
def tU (t : Nat) : Bool := t % 16 = 0
/-- T 0 or 1. -/
def t01 (t : Nat) : Bool := t < 2
/-- T 0. -/
def t0 (t : Nat) : Bool := t = 0
/-- R224: a floating-point type. -/
def tFp (t : Nat) : Bool := t < 4
/-- R249: the layouts of `vabsd`. -/
def tAbsd (t : Nat) : Bool := t % 16 = 0 || t % 16 = 2 || t % 16 = 3
/-- R255: the relation in T[2:0]. -/
def tRel (t : Nat) : Bool := t % 8 ≤ 5
/-- R278: the operation in T[3:0]. -/
def tRed (t : Nat) : Bool := t % 16 ≤ 10

/-- The field rules of the lane G-format instructions (spec/11). -/
def okLaneG (i : Instr) : Bool :=
  let sp := specLaneG i
  match i with
  | .vadd h g | .vsub h g | .vmul h g => gOk h g .reg .reg .reg .zero false true tInt sp
  | .vmulh h g => gOk h g .reg .reg .reg .zero false false tU sp
  | .vmin h g | .vmax h g => gOk h g .reg .reg .reg .zero false false tInt sp
  | .vabsd h g => gOk h g .reg .reg .reg .zero false false tAbsd sp
  | .vand h g | .vor h g | .vxor h g | .vandn h g | .vshl h g | .vshr h g | .vsar h g | .vrot h g =>
    gOk h g .reg .reg .reg .zero false false t01 sp
  | .vmad h g | .vmadw h g => gOk h g .reg .reg .reg .reg false true tU sp
  | .vmov h g => gOk h g .reg .reg .zero .zero false false t01 sp
  | .vsel h g => gOk h g .reg .reg .reg .pred false false t01 sp
  | .vbfe h g => gOk h g .reg .reg .reg .zero false false tU sp
  | .vbfi h g | .vperm h g => gOk h g .reg .reg .reg .reg false false t0 sp
  | .vclz h g | .vpopc h g | .vbrev h g => gOk h g .reg .reg .zero .zero false false t0 sp
  | .vcmp h g => gOk h g .pred .reg .reg .comb false false tRel sp
  | .vplog h g => gOk h g .pred .pred .pred .zero false false (· < 16) sp
  | .vpmov h g =>
    match gT g with
    | 0 => gOk h g .reg .zero .zero .zero false false t0 sp
    | 1 => gOk h g .zero .reg .zero .zero false false (· = 1) sp
    | 2 => gOk h g .reg .pred .zero .zero false false (· = 2) sp
    | _ => gOk h g .pred .reg .zero .zero false false (· = 3) sp
  | .vlea h g => gOk h g .reg .reg .reg .zero false false (· < 8) sp
  | .vfadd h g | .vfsub h g | .vfmul h g | .vfdiv h g => gOk h g .reg .reg .reg .zero true true tFp sp
  | .vfma h g => gOk h g .reg .reg .reg .reg true true tFp sp
  | .vfmin h g | .vfmax h g => gOk h g .reg .reg .reg .zero false false tFp sp
  | .vfcmp h g => gOk h g .pred .reg .reg .comb false false (fun t => t % 4 < 2) sp
  | .vfclass h g => gOk h g .reg .reg .zero .zero false false tFp sp
  | .vfrnd h g | .vfract h g => gOk h g .reg .reg .zero .zero true false tFp sp
  | .vrcp h g | .vrsq h g | .vsqrt h g | .vexp2 h g | .vlog2 h g | .vsinp h g | .vcosp h g =>
    gOk h g .reg .reg .zero .zero true true tFp sp
  | .vpfma h g => gOk h g .reg .reg .reg .reg true true t01 sp
  | .vpfadd h g | .vpfmul h g => gOk h g .reg .reg .reg .zero true true t01 sp
  | .vcvt h g => gOk h g .reg .reg .zero .zero true true (· < 14) sp
  | .vscl h g => gOk h g .reg .reg .reg .zero true true (fun t => t % 8 = 0 || t % 8 = 2 || t % 8 = 3) sp
  | .vpack h g =>
    gOk h g .reg .reg .reg (if gT g % 8 < 2 then .zero else .reg) true true
      (fun t => t < 5 || (10 ≤ t && t ≤ 12)) sp
  | .vunpk h g => gOk h g .reg .reg .reg (if gT g = 5 then .reg else .zero) false false (· < 6) sp
  | .vdot4 h g | .vdot8 h g => gOk h g .reg .reg .reg .reg false true (· < 4) sp
  | .vfdot2 h g => gOk h g .reg .reg .reg .reg true true (fun t => t = 2 || t = 3) sp
  | .vftag h g => gOk h g .reg .reg .zero .zero false false (fun t => t < 10 || t = 16) sp
  | .vshfl h g => gOk h g .reg .reg .reg .reg false false (fun t => t / 4 ≤ 5) sp
  | .vbcst h g =>
    let u := if gT g = 2 then Use.reg else Use.zero
    gOk h g .reg .reg u u false false (· < 3) sp
  | .vvote h g => gOk h g .reg (if gT g = 4 then .zero else .reg) .zero .zero false false (· < 5) sp
  | .vredu h g => gOk h g .reg .reg .zero .zero (gT g = 8) false (· ≤ 10) sp
  | .vscan h g => gOk h g .reg .reg .zero .zero (gT g % 16 = 8) false tRed sp
  | .vrdln h g => gOk h g .reg .reg .reg .zero false false t0 sp
  | .vwrln h g => gOk h g .reg .reg .zero .zero false false (fun _ => true) sp
  | .vmatch h g => gOk h g .reg .reg .zero .zero false false t01 sp
  | .vcompact h g => gOk h g .reg .reg .reg .pred false false (· < 12) sp && !g.tc
  | .vcompactRow h g => gOk h g .reg .reg .reg .pred false false (fun t => t = 16 || t = 20) sp
  | .vexpand h g => gOk h g .reg .reg .reg .zero false false (· < 12) sp
  | _ => false

/-- The field rules of the uniform G-format instructions (spec/13). -/
def okUniG (i : Instr) : Bool :=
  let sp := specUniG i
  match i with
  | .smov h g => gOk h g .reg .reg .zero .zero false false t01 sp
  | .ssel h g => gOk h g .reg .reg .reg .pred false false t01 sp
  | .sadd h g | .ssub h g | .smul h g => gOk h g .reg .reg .reg .zero false true (fun t => t % 16 < 2) sp
  | .smulh h g => gOk h g .reg .reg .reg .zero false false tU sp
  | .smin h g | .smax h g => gOk h g .reg .reg .reg .zero false false (fun t => t % 16 < 2) sp
  | .sand h g | .sor h g | .sxor h g | .sshl h g | .sshr h g | .ssar h g =>
    gOk h g .reg .reg .reg .zero false false t01 sp
  | .sbfe h g => gOk h g .reg .reg .reg .zero false false tU sp
  | .sclz h g | .spopc h g => gOk h g .reg .reg .zero .zero false false t0 sp
  | .scmp h g => gOk h g .pred .reg .reg .comb false false tRel sp
  | .sqlog h g => gOk h g .pred .pred .pred .zero false false (· < 16) sp
  | .slea h g => gOk h g .reg .reg .reg .zero false false (· < 8) sp
  | .guardW h g =>
    gOk h g .slot (if gT g = 2 then .below 128 else .pred) .zero .zero false false (· < 3) sp
  | .elect h g => gOk h g .reg (if gT g = 1 then .reg else .zero) .pred .zero false false (· < 3) sp
  | _ => false

/-- R226: the M fields common to every instruction: F is 0 to 11 or 15, and SZ is one of the sizes listed. -/
def mOk (m : MExt) (szs : List Nat) (ords : List Nat) (sp : Spec) : Bool :=
  (m.f.toNat ≤ 11 || m.f = 15) && szs.contains m.sz.toNat && ords.contains m.ord.toNat && opsOk sp

/-- R226: C of a lane load, store or prefetch. -/
def cLane (m : MExt) : Bool := m.c = 128 || (m.c.toNat ≤ 126 && m.c.toNat % 2 = 0)

/-- The field rules of the M-format instructions (R226, R285 to R306, R150, R92). -/
def okM (i : Instr) : Bool :=
  let sp := specM i
  let all := [0, 1, 2, 3, 4, 5]
  let ord := [0, 1, 2, 3]
  match i with
  | .ld _ m | .st _ m => mOk m all ord sp && cLane m
  | .ldl _ m | .stl _ m => mOk m all ord sp && m.c.toNat ≤ 128
  | .ldq h m | .stq h m => mOk m [2, 3, 4, 5] ord sp && h.b = 0 && m.c = 0 && m.imm.toNat < 128
  | .lda _ m | .sta _ m => mOk m [2, 3, 4, 5] ord sp && m.c.toNat < 64
  | .atom _ m => mOk m [2, 3] ord sp && m.imm.toNat ≤ 12
  | .atoml _ m => mOk m [4] ord sp && (m.imm = 11 || m.imm = 12)
  | .red _ m => mOk m [2, 3] [0, 2] sp && m.c = 128 && m.imm.toNat ≤ 10
  | .pfx h m => mOk m [0, 1, 2] [0] sp && cLane m && h.a = 0 && m.f = 15
  | .cprop _ m | .cget _ m | .crecyc _ m => mOk m [4] [0] sp
  | .cprobe _ m => mOk m [4] [0] sp && m.c = 0
  | .fence h m => mOk m [0] [1, 2, 3] sp && h.a = 0 && h.b = 0 && m.c = 0 && m.imm = 0 && m.f = 15
  | .wsync h m => mOk m [0] [0] sp && h.a = 0 && h.b = 0 && m.c = 0 && m.imm = 0 && m.f = 15
  | .sld h m | .sst h m => mOk m all ord sp && (m.c = 128 || m.c = 129) && h.b.toNat < 128
  | .satom h m => mOk m [2, 3] ord sp && m.imm.toNat ≤ 12 && h.b.toNat < 128
  | .barinit h m => mOk m [4] [0] sp && m.f = 15 && bits m.imm.toNat 3 1 = 0 && h.b.toNat < 128
  | .barexp h m | .barwait h m =>
    mOk m [4] [0] sp && m.f = 15 && bits m.imm.toNat 3 1 = 0 && h.a = 0 && h.b.toNat < 128
  | .bararr h m => mOk m [4] [0] sp && m.f = 15 && bits m.imm.toNat 3 1 = 0 && h.a = 0 && m.c = 0 && h.b.toNat < 128
  | .waddr h m => mOk m [2] [0] sp && h.b.toNat < 128
  | .kick h m => mOk m [4] [0] sp && h.a = 0 && h.b.toNat < 128
  | .pub h m => mOk m [0] [0] sp && h.a = 0 && h.b.toNat < 128
  | .sbank _ m => mOk m [0] [0] sp && m.imm = 0
  | .msflushRange h m => mOk m [0] [0] sp && h.a = 0 && m.imm = 0 && h.b.toNat < 128
  | .msflushStack h m => mOk m [1] [0] sp && h.a = 0 && h.b = 0 && m.c = 0 && m.imm = 0
  | _ => false

/-- R228: the N fields common to every instruction, with the uses of A, B, C and E and the SHAPE values of `shapes`. -/
def nOk (h : Head) (n : NExt) (a b c e : Use) (ec : Bool) (shapes : Nat → Bool) (sp : Spec) : Bool :=
  useOk a h.a.toNat && useOk b h.b.toNat && useOk c n.c.toNat && useOk e n.e.toNat &&
  (n.f.toNat ≤ 11 || n.f = 15) && (n.g ≠ 0 || !n.gn) && !n.rsv && (ec || n.ec = 0) && shapes n.shape.toNat && opsOk sp

/-- R339: SHAPE of `mdrain`; ADD with a format other than FP32 is reserved. -/
def shapeDrain (v : Nat) : Bool := !(bit v 3 && bits v 2 1 ≠ 0)

/-- R352: SHAPE of `attr`. -/
def shapeAttr (v : Nat) : Bool := v % 4 = 1 || v % 4 = 2 || v = 0

/-- The field rules of the N-format instructions (R330, R352). Where the manual's table says "s register", an inline
value is not accepted (log 13). -/
def okN (i : Instr) : Bool :=
  let sp := specN i
  let any := fun _ : Nat => true
  let zero := fun v : Nat => decide (v = 0)
  match i with
  | .rast h n => nOk h n .zero .reg .reg .zero false zero sp
  | .hitbin h n => nOk h n .zero .reg .zero .zero false zero sp
  | .attr h n => nOk h n .reg .reg .zero (.below (if n.shape.toNat % 4 = 0 then 1 else 64)) false shapeAttr sp
  | .travs h n => nOk h n .reg .reg .reg .reg false (· < 2) sp
  | .travr h n => nOk h n .reg .reg .reg .zero false zero sp
  | .hvpost h n => nOk h n .zero .reg .reg .zero false zero sp
  | .mma h n => nOk h n (.below 64) (.below 128) .reg .zero true any sp
  | .mmas h n => nOk h n (.below 64) (.below 128) .reg (.below 128) true any sp
  | .mmap h n => nOk h n (.below 64) (.below 128) .reg (.below 2) true any sp
  | .mzero h n => nOk h n (.below 64) .zero .zero .zero true zero sp
  | .mfill h n => nOk h n (.below 64) (.below 128) .reg .zero true (· < 4) sp
  | .mdrain h n => nOk h n (.below 64) (.below 128) .reg .zero true shapeDrain sp
  | .mscale h n => nOk h n (.below 64) .reg .zero .zero true (· < 2) sp
  | .mbtake h n => nOk h n .zero .zero .zero .zero false zero sp
  | .mbpass h n => nOk h n .zero .reg .zero .zero false zero sp
  | .mbpassNone h n => nOk h n .zero .zero .zero .zero false (· = 1) sp
  | .pgload h n => nOk h n (.below 2) (.below 128) .zero .zero false zero sp
  | .pgctx h n => nOk h n (.below 2) .reg .zero .zero false (· < 2) sp
  | .pgemit h n => nOk h n (.below 2) (.below 128) .zero .zero false zero sp
  | .rflush h n => nOk h n .zero .reg .zero .zero false zero sp
  | .tvrel h n => nOk h n .zero .zero .zero .zero false zero sp
  | .nfmt h n => nOk h n .zero (.below 128) .zero .zero false zero sp
  | .coll h n | .launchDev h n => nOk h n .zero (.below 128) .zero .zero false zero sp
  | _ => false

/-- R225: the I fields common to every instruction; TB only with a register source in B. -/
def iOk (e : IExt) (tb : Bool) (sp : Spec) : Bool := guardOk e.p e.pn && (tb || !e.tb) && opsOk sp

/-- R227: the B fields common to every instruction; OFF is zero where there is no target. -/
def bOk (t : BExt) (off : Bool) (sp : Spec) : Bool :=
  guardOk t.p t.pn && t.rsv = 0 && (off || t.off = 0) && opsOk sp

/-- R311: the selectors of `sidx`. -/
def selUni (v : Nat) : Bool := v = 1 || (6 ≤ v && v ≤ 16)

/-- A register or inline 1 to 63 as the B of `rclaim` and `rfree` (R324). -/
def kOk (b : Nat) : Bool := b < 128 || (129 ≤ b && b < 192)

/-- The field rules of the I, B and L formats and of the operand-free forms (R251, R255, R258, R312 to R324). -/
def okIB (i : Instr) : Bool :=
  let sp := specIB i
  match i with
  | .vmovi h e => iOk e false sp && h.b = 0 && e.sub.toNat ≤ 2
  | .vmovh h e => iOk e false sp && h.b = 0 && e.sub = 0
  | .vaddi _ e => iOk e true sp && e.sub.toNat ≤ 1
  | .vcmpi h e => iOk e true sp && h.a.toNat < 8 && e.sub.toNat < 16 && e.sub.toNat % 8 ≤ 5
  | .vidx h e => iOk e false sp && h.b = 0 && e.imm = 0 && e.sub.toNat ≤ 16
  | .sidx h e => iOk e false sp && h.b = 0 && e.imm = 0 && selUni e.sub.toNat
  | .yieldW h e => iOk e false sp && h.a = 0 && h.b = 0 && e.imm = 0 && e.sub = 0
  | .trapSw h e => iOk e false sp && h.a = 0 && h.b = 0 && e.sub = 0
  | .sgetr h e => iOk e false sp && h.b = 0 && e.imm.toNat < 4096 && e.sub = 0
  | .ssetr h e => iOk e true sp && h.a = 0 && e.imm.toNat < 4096 && e.sub = 0
  | .rclaim h e | .rfree h e => iOk e true sp && h.a = 0 && e.imm = 0 && e.sub = 0 && kOk h.b.toNat
  | .smovi h _ => h.b = 0 && opsOk sp
  | .br h t => bOk t true sp && h.a = 0 && h.b = 0
  | .jmp h t => bOk t true sp && h.a = 0
  | .callDirect h t => bOk t true sp && h.b = 255
  | .callRegister h t => bOk t true sp && h.b ≠ 255
  | .ret h t => bOk t false sp && h.a = 0
  | .exitL h t => bOk t false sp && h.a = 0 && h.b = 0
  | .ubr h t => bOk t true sp && h.a = 0 && h.b = 0
  | .ujmp h t => bOk t true sp && h.a = 0 && h.b.toNat < 128
  | .ucall h t => bOk t true sp && h.b = 0
  | .uret h t => bOk t false sp && h.a = 0 && h.b.toNat < 128
  | .endW h t => bOk t false sp && h.a = 0 && h.b = 0
  | .wsyncShort h | .retShort h | .land h | .exitShort h | .nop h | .rfe h | .uretShort h | .endShort h
  | .yieldShort h => h.a = 0 && h.b = 0
  | _ => false

end Sys2Proof.Machine
end

