-- ==== Sys2Proof/Machine/Forms.lean ====
section
/-! DEFINITION. One specification and one field check for every constructor of `Instr` (R222, R230, R231). The events of
the manual have no words and no fields. -/

namespace Sys2Proof.Machine

/-- R222: the extended form that a short form of a G opcode stands for; any other instruction stands for itself. -/
def longForm (i : Instr) : Instr :=
  match i with
  | .vmovShort h => .vmov h (shortG 0)
  | .vaddShort h => .vadd (short2 h) (shortG h.b)
  | .vsubShort h => .vsub (short2 h) (shortG h.b)
  | .vmulShort h => .vmul (short2 h) (shortG h.b)
  | .vmulhShort h => .vmulh (short2 h) (shortG h.b)
  | .vminShort h => .vmin (short2 h) (shortG h.b)
  | .vmaxShort h => .vmax (short2 h) (shortG h.b)
  | .vabsdShort h => .vabsd (short2 h) (shortG h.b)
  | .vandShort h => .vand (short2 h) (shortG h.b)
  | .vorShort h => .vor (short2 h) (shortG h.b)
  | .vxorShort h => .vxor (short2 h) (shortG h.b)
  | .vandnShort h => .vandn (short2 h) (shortG h.b)
  | .vshlShort h => .vshl (short2 h) (shortG h.b)
  | .vshrShort h => .vshr (short2 h) (shortG h.b)
  | .vsarShort h => .vsar (short2 h) (shortG h.b)
  | .vrotShort h => .vrot (short2 h) (shortG h.b)
  | .vclzShort h => .vclz h (shortG 0)
  | .vpopcShort h => .vpopc h (shortG 0)
  | .vbrevShort h => .vbrev h (shortG 0)
  | .vfaddShort h => .vfadd (short2 h) (shortG h.b)
  | .vfsubShort h => .vfsub (short2 h) (shortG h.b)
  | .vfmulShort h => .vfmul (short2 h) (shortG h.b)
  | .vfminShort h => .vfmin (short2 h) (shortG h.b)
  | .vfmaxShort h => .vfmax (short2 h) (shortG h.b)
  | .vfrndShort h => .vfrnd h (shortG 0)
  | .vfractShort h => .vfract h (shortG 0)
  | .vrcpShort h => .vrcp h (shortG 0)
  | .vrsqShort h => .vrsq h (shortG 0)
  | .vsqrtShort h => .vsqrt h (shortG 0)
  | .vexp2Short h => .vexp2 h (shortG 0)
  | .vlog2Short h => .vlog2 h (shortG 0)
  | .vsinpShort h => .vsinp h (shortG 0)
  | .vcospShort h => .vcosp h (shortG 0)
  | .vfdivShort h => .vfdiv (short2 h) (shortG h.b)
  | .smovShort h => .smov h (shortG 0)
  | .saddShort h => .sadd (short2 h) (shortG h.b)
  | .ssubShort h => .ssub (short2 h) (shortG h.b)
  | .smulShort h => .smul (short2 h) (shortG h.b)
  | .smulhShort h => .smulh (short2 h) (shortG h.b)
  | .sminShort h => .smin (short2 h) (shortG h.b)
  | .smaxShort h => .smax (short2 h) (shortG h.b)
  | .sandShort h => .sand (short2 h) (shortG h.b)
  | .sorShort h => .sor (short2 h) (shortG h.b)
  | .sxorShort h => .sxor (short2 h) (shortG h.b)
  | .sshlShort h => .sshl (short2 h) (shortG h.b)
  | .sshrShort h => .sshr (short2 h) (shortG h.b)
  | .ssarShort h => .ssar (short2 h) (shortG h.b)
  | .sclzShort h => .sclz h (shortG 0)
  | .spopcShort h => .spopc h (shortG 0)
  | i => i

/-- The instruction is a short form of a G opcode. -/
def isShort (i : Instr) : Bool :=
  match i with
  | .vmovShort _ | .vaddShort _ | .vsubShort _ | .vmulShort _ | .vmulhShort _ | .vminShort _ | .vmaxShort _ | .vabsdShort _
  | .vandShort _ | .vorShort _ | .vxorShort _ | .vandnShort _ | .vshlShort _ | .vshrShort _ | .vsarShort _ | .vrotShort _
  | .vclzShort _ | .vpopcShort _ | .vbrevShort _ | .vfaddShort _ | .vfsubShort _ | .vfmulShort _ | .vfminShort _ | .vfmaxShort _
  | .vfrndShort _ | .vfractShort _ | .vrcpShort _ | .vrsqShort _ | .vsqrtShort _ | .vexp2Short _ | .vlog2Short _ | .vsinpShort _
  | .vcospShort _ | .vfdivShort _ | .smovShort _ | .saddShort _ | .ssubShort _ | .smulShort _ | .smulhShort _ | .sminShort _
  | .smaxShort _ | .sandShort _ | .sorShort _ | .sxorShort _ | .sshlShort _ | .sshrShort _ | .ssarShort _ | .sclzShort _
  | .spopcShort _ => true
  | _ => false

/-- What the extended form of an instruction reads, writes and waits on. -/
def specLong (i : Instr) : Spec :=
  match i with
  | .vmov _ _ | .vsel _ _ | .vadd _ _ | .vsub _ _ | .vmul _ _ | .vmulh _ _ | .vmad _ _
  | .vmadw _ _ | .vmin _ _ | .vmax _ _ | .vabsd _ _ | .vand _ _ | .vor _ _ | .vxor _ _
  | .vandn _ _ | .vshl _ _ | .vshr _ _ | .vsar _ _ | .vrot _ _ | .vbfe _ _ | .vbfi _ _
  | .vclz _ _ | .vpopc _ _ | .vbrev _ _ | .vperm _ _ | .vcmp _ _ | .vplog _ _ | .vpmov _ _
  | .vlea _ _ | .vfadd _ _ | .vfsub _ _ | .vfmul _ _ | .vfma _ _ | .vfmin _ _ | .vfmax _ _
  | .vfcmp _ _ | .vfclass _ _ | .vfrnd _ _ | .vfract _ _ | .vrcp _ _ | .vrsq _ _ | .vsqrt _ _
  | .vexp2 _ _ | .vlog2 _ _ | .vsinp _ _ | .vcosp _ _ | .vfdiv _ _ | .vpfma _ _ | .vpfadd _ _
  | .vpfmul _ _ | .vcvt _ _ | .vscl _ _ | .vpack _ _ | .vunpk _ _ | .vdot4 _ _ | .vdot8 _ _
  | .vfdot2 _ _ | .vftag _ _ | .vshfl _ _ | .vbcst _ _ | .vvote _ _ | .vredu _ _ | .vscan _ _
  | .vrdln _ _ | .vwrln _ _ | .vmatch _ _ | .vcompact _ _ | .vcompactRow _ _ | .vexpand _ _ => specLaneG i
  | .smov _ _ | .ssel _ _ | .sadd _ _ | .ssub _ _ | .smul _ _ | .smulh _ _ | .smin _ _
  | .smax _ _ | .sand _ _ | .sor _ _ | .sxor _ _ | .sshl _ _ | .sshr _ _ | .ssar _ _
  | .sbfe _ _ | .sclz _ _ | .spopc _ _ | .scmp _ _ | .sqlog _ _ | .slea _ _ | .guardW _ _
  | .elect _ _ => specUniG i
  | .ld _ _ | .st _ _ | .ldl _ _ | .stl _ _ | .ldq _ _ | .stq _ _ | .lda _ _
  | .sta _ _ | .atom _ _ | .red _ _ | .atoml _ _ | .pfx _ _ | .cprop _ _ | .cget _ _
  | .crecyc _ _ | .cprobe _ _ | .fence _ _ | .wsync _ _ | .sld _ _ | .sst _ _ | .satom _ _
  | .barinit _ _ | .barexp _ _ | .bararr _ _ | .barwait _ _ | .waddr _ _ | .kick _ _ | .pub _ _
  | .sbank _ _ | .msflushRange _ _ | .msflushStack _ _ => specM i
  | .rast _ _ | .hitbin _ _ | .attr _ _ | .travs _ _ | .travr _ _ | .hvpost _ _ | .mma _ _
  | .mmas _ _ | .mmap _ _ | .mzero _ _ | .mfill _ _ | .mdrain _ _ | .mscale _ _ | .mbtake _ _
  | .mbpass _ _ | .mbpassNone _ _ | .pgload _ _ | .pgctx _ _ | .pgemit _ _ | .rflush _ _ | .tvrel _ _
  | .nfmt _ _ | .coll _ _ | .launchDev _ _ => specN i
  | i => specIB i

/-- What an instruction reads, writes and waits on; a short form is its extended form in one word. -/
def specOf (i : Instr) : Spec := { specLong (longForm i) with long := (specLong i).long && !isShort i }

/-- The field rules of an extended or operand-free form. -/
def okLong (i : Instr) : Bool :=
  match i with
  | .vmov _ _ | .vsel _ _ | .vadd _ _ | .vsub _ _ | .vmul _ _ | .vmulh _ _ | .vmad _ _
  | .vmadw _ _ | .vmin _ _ | .vmax _ _ | .vabsd _ _ | .vand _ _ | .vor _ _ | .vxor _ _
  | .vandn _ _ | .vshl _ _ | .vshr _ _ | .vsar _ _ | .vrot _ _ | .vbfe _ _ | .vbfi _ _
  | .vclz _ _ | .vpopc _ _ | .vbrev _ _ | .vperm _ _ | .vcmp _ _ | .vplog _ _ | .vpmov _ _
  | .vlea _ _ | .vfadd _ _ | .vfsub _ _ | .vfmul _ _ | .vfma _ _ | .vfmin _ _ | .vfmax _ _
  | .vfcmp _ _ | .vfclass _ _ | .vfrnd _ _ | .vfract _ _ | .vrcp _ _ | .vrsq _ _ | .vsqrt _ _
  | .vexp2 _ _ | .vlog2 _ _ | .vsinp _ _ | .vcosp _ _ | .vfdiv _ _ | .vpfma _ _ | .vpfadd _ _
  | .vpfmul _ _ | .vcvt _ _ | .vscl _ _ | .vpack _ _ | .vunpk _ _ | .vdot4 _ _ | .vdot8 _ _
  | .vfdot2 _ _ | .vftag _ _ | .vshfl _ _ | .vbcst _ _ | .vvote _ _ | .vredu _ _ | .vscan _ _
  | .vrdln _ _ | .vwrln _ _ | .vmatch _ _ | .vcompact _ _ | .vcompactRow _ _ | .vexpand _ _ => okLaneG i
  | .smov _ _ | .ssel _ _ | .sadd _ _ | .ssub _ _ | .smul _ _ | .smulh _ _ | .smin _ _
  | .smax _ _ | .sand _ _ | .sor _ _ | .sxor _ _ | .sshl _ _ | .sshr _ _ | .ssar _ _
  | .sbfe _ _ | .sclz _ _ | .spopc _ _ | .scmp _ _ | .sqlog _ _ | .slea _ _ | .guardW _ _
  | .elect _ _ => okUniG i
  | .ld _ _ | .st _ _ | .ldl _ _ | .stl _ _ | .ldq _ _ | .stq _ _ | .lda _ _
  | .sta _ _ | .atom _ _ | .red _ _ | .atoml _ _ | .pfx _ _ | .cprop _ _ | .cget _ _
  | .crecyc _ _ | .cprobe _ _ | .fence _ _ | .wsync _ _ | .sld _ _ | .sst _ _ | .satom _ _
  | .barinit _ _ | .barexp _ _ | .bararr _ _ | .barwait _ _ | .waddr _ _ | .kick _ _ | .pub _ _
  | .sbank _ _ | .msflushRange _ _ | .msflushStack _ _ => okM i
  | .rast _ _ | .hitbin _ _ | .attr _ _ | .travs _ _ | .travr _ _ | .hvpost _ _ | .mma _ _
  | .mmas _ _ | .mmap _ _ | .mzero _ _ | .mfill _ _ | .mdrain _ _ | .mscale _ _ | .mbtake _ _
  | .mbpass _ _ | .mbpassNone _ _ | .pgload _ _ | .pgctx _ _ | .pgemit _ _ | .rflush _ _ | .tvrel _ _
  | .nfmt _ _ | .coll _ _ | .launchDev _ _ => okN i
  | i => okIB i

/-- R231: every field value of the instruction's words is one that it lists. -/
def fieldsOk (i : Instr) : Bool := okLong (longForm i)

end Sys2Proof.Machine
end

