-- ==== Sys2Proof/WellFormed.lean ====
section
/-! DEFINITION. Which terms of `Instr` are instructions: an encoded row with field values that R219 to R231 allow. -/

namespace Sys2Proof

/-- The field values of the instruction are ones its entry lists (R231). An event of the manual is no instruction word
and is not well-formed. -/
def WellFormed (i : Instr) : Bool := Machine.fieldsOk i

end Sys2Proof
end

