-- ==== Sys2Proof/Decode.lean ====
section
/-! DEFINITION. The decoder of spec/10_encoding_and_assembly.md (R219 to R231), total on any bytes, and after it the
encoder. Both are written from the layouts of R219 to R229 and the opcode maps of R230. -/

namespace Sys2Proof

open Sys2Proof.Machine

/-- Why bytes are no instruction: fewer bytes than its words, an opcode or form the maps of R230 do not list, or a field
value that R231 excludes. -/
inductive Reject where
  | truncated | noOpcode | fields
  deriving DecidableEq, Repr

/-- R219: the fields D, W, A and B of a head word. -/
def headOf (w : BitVec 32) : Head :=
  { d := w.extractLsb' 28 2, w := w.extractLsb' 24 4, a := w.extractLsb' 8 8, b := w.extractLsb' 0 8 }

/-- R223: the fields of a G extension word. -/
def gOf (e : BitVec 32) : GExt :=
  { c := e.extractLsb' 24 8, e := e.extractLsb' 16 8, p := e.extractLsb' 13 3, pn := e.getLsbD 12,
    tb := e.getLsbD 11, tc := e.getLsbD 10, te := e.getLsbD 9, rm := e.extractLsb' 6 3, sat := e.getLsbD 5,
    t := e.extractLsb' 0 5 }

/-- R225: the fields of an I extension word. -/
def iOf (e : BitVec 32) : IExt :=
  { imm := e.extractLsb' 16 16, p := e.extractLsb' 13 3, pn := e.getLsbD 12, tb := e.getLsbD 11,
    sub := e.extractLsb' 0 11 }

/-- R226: the fields of an M extension word. -/
def mOf (e : BitVec 32) : MExt :=
  { c := e.extractLsb' 24 8, imm := e.extractLsb' 12 12, f := e.extractLsb' 8 4, ord := e.extractLsb' 6 2,
    sz := e.extractLsb' 3 3, p := e.extractLsb' 0 3 }

/-- R227: the fields of a B extension word. -/
def bOf (e : BitVec 32) : BExt :=
  { off := e.extractLsb' 8 24, p := e.extractLsb' 5 3, pn := e.getLsbD 4, rsv := e.extractLsb' 0 4 }

/-- R228: the fields of an N extension word. -/
def nOf (e : BitVec 32) : NExt :=
  { c := e.extractLsb' 24 8, e := e.extractLsb' 16 8, f := e.extractLsb' 12 4, ec := e.extractLsb' 10 2,
    shape := e.extractLsb' 5 5, g := e.extractLsb' 2 3, gn := e.getLsbD 1, rsv := e.getLsbD 0 }

/-- R230: the extended lane instruction of an opcode. -/
def laneExt (op : Nat) (h : Head) (e : BitVec 32) : Option Instr :=
  match op with
  | 0x0 => some (.vmov h (gOf e))
  | 0x1 => some (.vmovi h (iOf e))
  | 0x2 => some (.vmovh h (iOf e))
  | 0x3 => some (.vsel h (gOf e))
  | 0x4 => some (.vadd h (gOf e))
  | 0x5 => some (.vsub h (gOf e))
  | 0x6 => some (.vmul h (gOf e))
  | 0x7 => some (.vmulh h (gOf e))
  | 0x8 => some (.vmad h (gOf e))
  | 0x9 => some (.vmadw h (gOf e))
  | 0xa => some (.vmin h (gOf e))
  | 0xb => some (.vmax h (gOf e))
  | 0xc => some (.vabsd h (gOf e))
  | 0xd => some (.vaddi h (iOf e))
  | 0x10 => some (.vand h (gOf e))
  | 0x11 => some (.vor h (gOf e))
  | 0x12 => some (.vxor h (gOf e))
  | 0x13 => some (.vandn h (gOf e))
  | 0x14 => some (.vshl h (gOf e))
  | 0x15 => some (.vshr h (gOf e))
  | 0x16 => some (.vsar h (gOf e))
  | 0x17 => some (.vrot h (gOf e))
  | 0x18 => some (.vbfe h (gOf e))
  | 0x19 => some (.vbfi h (gOf e))
  | 0x1a => some (.vclz h (gOf e))
  | 0x1b => some (.vpopc h (gOf e))
  | 0x1c => some (.vbrev h (gOf e))
  | 0x1d => some (.vperm h (gOf e))
  | 0x20 => some (.vcmp h (gOf e))
  | 0x21 => some (.vcmpi h (iOf e))
  | 0x22 => some (.vplog h (gOf e))
  | 0x23 => some (.vpmov h (gOf e))
  | 0x24 => some (.vlea h (gOf e))
  | 0x25 => some (.vidx h (iOf e))
  | 0x40 => some (.vfadd h (gOf e))
  | 0x41 => some (.vfsub h (gOf e))
  | 0x42 => some (.vfmul h (gOf e))
  | 0x43 => some (.vfma h (gOf e))
  | 0x44 => some (.vfmin h (gOf e))
  | 0x45 => some (.vfmax h (gOf e))
  | 0x46 => some (.vfcmp h (gOf e))
  | 0x47 => some (.vfclass h (gOf e))
  | 0x48 => some (.vfrnd h (gOf e))
  | 0x49 => some (.vfract h (gOf e))
  | 0x4a => some (.vrcp h (gOf e))
  | 0x4b => some (.vrsq h (gOf e))
  | 0x4c => some (.vsqrt h (gOf e))
  | 0x4d => some (.vexp2 h (gOf e))
  | 0x4e => some (.vlog2 h (gOf e))
  | 0x4f => some (.vsinp h (gOf e))
  | 0x50 => some (.vcosp h (gOf e))
  | 0x51 => some (.vfdiv h (gOf e))
  | 0x52 => some (.vpfma h (gOf e))
  | 0x53 => some (.vpfadd h (gOf e))
  | 0x54 => some (.vpfmul h (gOf e))
  | 0x58 => some (.vcvt h (gOf e))
  | 0x59 => some (.vscl h (gOf e))
  | 0x5a => some (.vpack h (gOf e))
  | 0x5b => some (.vunpk h (gOf e))
  | 0x5c => some (.vdot4 h (gOf e))
  | 0x5d => some (.vdot8 h (gOf e))
  | 0x5e => some (.vfdot2 h (gOf e))
  | 0x5f => some (.vftag h (gOf e))
  | 0x80 => some (.vshfl h (gOf e))
  | 0x81 => some (.vbcst h (gOf e))
  | 0x82 => some (.vvote h (gOf e))
  | 0x83 => some (.vredu h (gOf e))
  | 0x84 => some (.vscan h (gOf e))
  | 0x85 => some (.vrdln h (gOf e))
  | 0x86 => some (.vwrln h (gOf e))
  | 0x87 => some (.vmatch h (gOf e))
  | 0x88 => some (if e.getLsbD 4 then .vcompactRow h (gOf e) else .vcompact h (gOf e))
  | 0x89 => some (.vexpand h (gOf e))
  | 0xa0 => some (.ld h (mOf e))
  | 0xa1 => some (.st h (mOf e))
  | 0xa2 => some (.ldl h (mOf e))
  | 0xa3 => some (.stl h (mOf e))
  | 0xa4 => some (.ldq h (mOf e))
  | 0xa5 => some (.stq h (mOf e))
  | 0xa6 => some (.lda h (mOf e))
  | 0xa7 => some (.sta h (mOf e))
  | 0xa8 => some (.atom h (mOf e))
  | 0xa9 => some (.red h (mOf e))
  | 0xaa => some (.atoml h (mOf e))
  | 0xab => some (.pfx h (mOf e))
  | 0xac => some (.cprop h (mOf e))
  | 0xad => some (.cget h (mOf e))
  | 0xae => some (.crecyc h (mOf e))
  | 0xaf => some (.cprobe h (mOf e))
  | 0xb0 => some (.fence h (mOf e))
  | 0xb1 => some (.wsync h (mOf e))
  | 0xd0 => some (.br h (bOf e))
  | 0xd1 => some (.jmp h (bOf e))
  | 0xd2 => some (if h.b = 255 then .callDirect h (bOf e) else .callRegister h (bOf e))
  | 0xd3 => some (.ret h (bOf e))
  | 0xd5 => some (.exitL h (bOf e))
  | 0xe0 => some (.rast h (nOf e))
  | 0xe1 => some (.hitbin h (nOf e))
  | 0xe2 => some (.attr h (nOf e))
  | 0xe3 => some (.travs h (nOf e))
  | 0xe4 => some (.travr h (nOf e))
  | 0xe5 => some (.hvpost h (nOf e))
  | _ => none

/-- R230: the lane instruction of an opcode in one word. -/
def laneShort (op : Nat) (h : Head) : Option Instr :=
  match op with
  | 0x0 => some (.vmovShort h)
  | 0x4 => some (.vaddShort h)
  | 0x5 => some (.vsubShort h)
  | 0x6 => some (.vmulShort h)
  | 0x7 => some (.vmulhShort h)
  | 0xa => some (.vminShort h)
  | 0xb => some (.vmaxShort h)
  | 0xc => some (.vabsdShort h)
  | 0x10 => some (.vandShort h)
  | 0x11 => some (.vorShort h)
  | 0x12 => some (.vxorShort h)
  | 0x13 => some (.vandnShort h)
  | 0x14 => some (.vshlShort h)
  | 0x15 => some (.vshrShort h)
  | 0x16 => some (.vsarShort h)
  | 0x17 => some (.vrotShort h)
  | 0x1a => some (.vclzShort h)
  | 0x1b => some (.vpopcShort h)
  | 0x1c => some (.vbrevShort h)
  | 0x40 => some (.vfaddShort h)
  | 0x41 => some (.vfsubShort h)
  | 0x42 => some (.vfmulShort h)
  | 0x44 => some (.vfminShort h)
  | 0x45 => some (.vfmaxShort h)
  | 0x48 => some (.vfrndShort h)
  | 0x49 => some (.vfractShort h)
  | 0x4a => some (.vrcpShort h)
  | 0x4b => some (.vrsqShort h)
  | 0x4c => some (.vsqrtShort h)
  | 0x4d => some (.vexp2Short h)
  | 0x4e => some (.vlog2Short h)
  | 0x4f => some (.vsinpShort h)
  | 0x50 => some (.vcospShort h)
  | 0x51 => some (.vfdivShort h)
  | 0xb1 => some (.wsyncShort h)
  | 0xd3 => some (.retShort h)
  | 0xd4 => some (.land h)
  | 0xd5 => some (.exitShort h)
  | _ => none

/-- R230: the extended uniform instruction of an opcode. -/
def uniExt (op : Nat) (h : Head) (e : BitVec 32) : Option Instr :=
  match op with
  | 0x0 => some (.smov h (gOf e))
  | 0x1 => some (.smovi h e)
  | 0x2 => some (.ssel h (gOf e))
  | 0x4 => some (.sadd h (gOf e))
  | 0x5 => some (.ssub h (gOf e))
  | 0x6 => some (.smul h (gOf e))
  | 0x7 => some (.smulh h (gOf e))
  | 0xa => some (.smin h (gOf e))
  | 0xb => some (.smax h (gOf e))
  | 0x10 => some (.sand h (gOf e))
  | 0x11 => some (.sor h (gOf e))
  | 0x12 => some (.sxor h (gOf e))
  | 0x14 => some (.sshl h (gOf e))
  | 0x15 => some (.sshr h (gOf e))
  | 0x16 => some (.ssar h (gOf e))
  | 0x18 => some (.sbfe h (gOf e))
  | 0x1a => some (.sclz h (gOf e))
  | 0x1b => some (.spopc h (gOf e))
  | 0x20 => some (.scmp h (gOf e))
  | 0x22 => some (.sqlog h (gOf e))
  | 0x24 => some (.slea h (gOf e))
  | 0x25 => some (.sidx h (iOf e))
  | 0x40 => some (.sld h (mOf e))
  | 0x41 => some (.sst h (mOf e))
  | 0x42 => some (.satom h (mOf e))
  | 0x44 => some (.barinit h (mOf e))
  | 0x45 => some (.barexp h (mOf e))
  | 0x46 => some (.bararr h (mOf e))
  | 0x47 => some (.barwait h (mOf e))
  | 0x48 => some (.waddr h (mOf e))
  | 0x49 => some (.kick h (mOf e))
  | 0x4a => some (.pub h (mOf e))
  | 0x4b => some (.sbank h (mOf e))
  | 0x4c => some (if e.getLsbD 3 then .msflushStack h (mOf e) else .msflushRange h (mOf e))
  | 0x61 => some (.ubr h (bOf e))
  | 0x62 => some (.ujmp h (bOf e))
  | 0x63 => some (.ucall h (bOf e))
  | 0x64 => some (.uret h (bOf e))
  | 0x65 => some (.endW h (bOf e))
  | 0x66 => some (.yieldW h (iOf e))
  | 0x67 => some (.trapSw h (iOf e))
  | 0x69 => some (.sgetr h (iOf e))
  | 0x6a => some (.ssetr h (iOf e))
  | 0x6b => some (.rclaim h (iOf e))
  | 0x6c => some (.rfree h (iOf e))
  | 0x6d => some (.guardW h (gOf e))
  | 0x6e => some (.elect h (gOf e))
  | 0x80 => some (.mma h (nOf e))
  | 0x81 => some (.mmas h (nOf e))
  | 0x82 => some (.mmap h (nOf e))
  | 0x83 => some (.mzero h (nOf e))
  | 0x84 => some (.mfill h (nOf e))
  | 0x85 => some (.mdrain h (nOf e))
  | 0x86 => some (.mscale h (nOf e))
  | 0x87 => some (.mbtake h (nOf e))
  | 0x88 => some (if e.getLsbD 5 then .mbpassNone h (nOf e) else .mbpass h (nOf e))
  | 0x89 => some (.pgload h (nOf e))
  | 0x8a => some (.pgctx h (nOf e))
  | 0x8b => some (.pgemit h (nOf e))
  | 0xc0 => some (.rflush h (nOf e))
  | 0xc1 => some (.tvrel h (nOf e))
  | 0xc2 => some (.nfmt h (nOf e))
  | 0xc3 => some (.coll h (nOf e))
  | 0xc4 => some (.launchDev h (nOf e))
  | _ => none

/-- R230: the uniform instruction of an opcode in one word. -/
def uniShort (op : Nat) (h : Head) : Option Instr :=
  match op with
  | 0x0 => some (.smovShort h)
  | 0x4 => some (.saddShort h)
  | 0x5 => some (.ssubShort h)
  | 0x6 => some (.smulShort h)
  | 0x7 => some (.smulhShort h)
  | 0xa => some (.sminShort h)
  | 0xb => some (.smaxShort h)
  | 0x10 => some (.sandShort h)
  | 0x11 => some (.sorShort h)
  | 0x12 => some (.sxorShort h)
  | 0x14 => some (.sshlShort h)
  | 0x15 => some (.sshrShort h)
  | 0x16 => some (.ssarShort h)
  | 0x1a => some (.sclzShort h)
  | 0x1b => some (.spopcShort h)
  | 0x60 => some (.nop h)
  | 0x64 => some (.uretShort h)
  | 0x65 => some (.endShort h)
  | 0x66 => some (.yieldShort h)
  | 0x68 => some (.rfe h)
  | _ => none

/-- R220: the instruction of a head word and, where X = 1, the next word, before the field rules. -/
def rawOf (w e : BitVec 32) : Option Instr :=
  let op := (w.extractLsb' 16 8).toNat
  match w.getLsbD 31, w.getLsbD 30 with
  | false, true => laneExt op (headOf w) e
  | false, false => laneShort op (headOf w)
  | true, true => uniExt op (headOf w) e
  | true, false => uniShort op (headOf w)

/-- R219: X, an extension word follows. -/
def hasExt (w : BitVec 32) : Bool := w.getLsbD 30

/-- R220, R231: the instruction of a head word and the word after it. -/
def decodeWords (w e : BitVec 32) : Except Reject Instr :=
  match rawOf w e with
  | none => .error .noOpcode
  | some i => if WellFormed i then .ok i else .error .fields

/-- The little-endian word of four bytes (R6). -/
def word4 (a b c d : Byte) : BitVec 32 := d ++ c ++ b ++ a

/-- The instruction at the head of a list of bytes, with the bytes after it. -/
def decode (bs : List Byte) : Except Reject (Instr × List Byte) :=
  match bs with
  | a :: b :: c :: d :: r =>
    let w := word4 a b c d
    if hasExt w then
      match r with
      | a' :: b' :: c' :: d' :: r' => (decodeWords w (word4 a' b' c' d')).map fun i => (i, r')
      | _ => .error .truncated
    else (decodeWords w 0).map fun i => (i, r)
  | _ => .error .truncated

/-- The instruction the decoder reads from a table word: bit 0 is the least significant bit of the head word, and the
extension word's bits are 63 to 32. The bytes are laid out little-endian (R6). -/
def decodeTableWord (_nbits w : Nat) : Option Instr :=
  match decode (leBytes 8 w) with
  | .ok (i, _) => some i
  | .error _ => none

/-! ### The encoder -/

/-- R219: the head word. -/
def headWord (s x : BitVec 1) (op : BitVec 8) (h : Head) : BitVec 32 := s ++ x ++ h.d ++ h.w ++ op ++ h.a ++ h.b

/-- R223: the G extension word. -/
def gWord (g : GExt) : BitVec 32 :=
  g.c ++ g.e ++ g.p ++ BitVec.ofBool g.pn ++ BitVec.ofBool g.tb ++ BitVec.ofBool g.tc ++ BitVec.ofBool g.te ++ g.rm ++
    BitVec.ofBool g.sat ++ g.t

/-- R225: the I extension word. -/
def iWord (e : IExt) : BitVec 32 := e.imm ++ e.p ++ BitVec.ofBool e.pn ++ BitVec.ofBool e.tb ++ e.sub

/-- R226: the M extension word. -/
def mWord (m : MExt) : BitVec 32 := m.c ++ m.imm ++ m.f ++ m.ord ++ m.sz ++ m.p

/-- R227: the B extension word. -/
def bWord (t : BExt) : BitVec 32 := t.off ++ t.p ++ BitVec.ofBool t.pn ++ t.rsv

/-- R228: the N extension word. -/
def nWord (n : NExt) : BitVec 32 :=
  n.c ++ n.e ++ n.f ++ n.ec ++ n.shape ++ n.g ++ BitVec.ofBool n.gn ++ BitVec.ofBool n.rsv

/-- An extended lane instruction's words. -/
def lx (op : BitVec 8) (h : Head) (e : BitVec 32) : List (BitVec 32) := [headWord 0 1 op h, e]
/-- A lane instruction's word in its short form. -/
def ls (op : BitVec 8) (h : Head) : List (BitVec 32) := [headWord 0 0 op h]
/-- An extended uniform instruction's words. -/
def ux (op : BitVec 8) (h : Head) (e : BitVec 32) : List (BitVec 32) := [headWord 1 1 op h, e]
/-- A uniform instruction's word in its short form. -/
def us (op : BitVec 8) (h : Head) : List (BitVec 32) := [headWord 1 0 op h]

/-- R219, R230: the words of an instruction; an event of the manual has none. -/
def encode (i : Instr) : List (BitVec 32) :=
  match i with
  | .vmov h e => lx 0x0 h (gWord e)
  | .vmovShort h => ls 0x0 h
  | .vmovi h e => lx 0x1 h (iWord e)
  | .vmovh h e => lx 0x2 h (iWord e)
  | .vsel h e => lx 0x3 h (gWord e)
  | .vadd h e => lx 0x4 h (gWord e)
  | .vaddShort h => ls 0x4 h
  | .vsub h e => lx 0x5 h (gWord e)
  | .vsubShort h => ls 0x5 h
  | .vmul h e => lx 0x6 h (gWord e)
  | .vmulShort h => ls 0x6 h
  | .vmulh h e => lx 0x7 h (gWord e)
  | .vmulhShort h => ls 0x7 h
  | .vmad h e => lx 0x8 h (gWord e)
  | .vmadw h e => lx 0x9 h (gWord e)
  | .vmin h e => lx 0xa h (gWord e)
  | .vminShort h => ls 0xa h
  | .vmax h e => lx 0xb h (gWord e)
  | .vmaxShort h => ls 0xb h
  | .vabsd h e => lx 0xc h (gWord e)
  | .vabsdShort h => ls 0xc h
  | .vaddi h e => lx 0xd h (iWord e)
  | .vand h e => lx 0x10 h (gWord e)
  | .vandShort h => ls 0x10 h
  | .vor h e => lx 0x11 h (gWord e)
  | .vorShort h => ls 0x11 h
  | .vxor h e => lx 0x12 h (gWord e)
  | .vxorShort h => ls 0x12 h
  | .vandn h e => lx 0x13 h (gWord e)
  | .vandnShort h => ls 0x13 h
  | .vshl h e => lx 0x14 h (gWord e)
  | .vshlShort h => ls 0x14 h
  | .vshr h e => lx 0x15 h (gWord e)
  | .vshrShort h => ls 0x15 h
  | .vsar h e => lx 0x16 h (gWord e)
  | .vsarShort h => ls 0x16 h
  | .vrot h e => lx 0x17 h (gWord e)
  | .vrotShort h => ls 0x17 h
  | .vbfe h e => lx 0x18 h (gWord e)
  | .vbfi h e => lx 0x19 h (gWord e)
  | .vclz h e => lx 0x1a h (gWord e)
  | .vclzShort h => ls 0x1a h
  | .vpopc h e => lx 0x1b h (gWord e)
  | .vpopcShort h => ls 0x1b h
  | .vbrev h e => lx 0x1c h (gWord e)
  | .vbrevShort h => ls 0x1c h
  | .vperm h e => lx 0x1d h (gWord e)
  | .vcmp h e => lx 0x20 h (gWord e)
  | .vcmpi h e => lx 0x21 h (iWord e)
  | .vplog h e => lx 0x22 h (gWord e)
  | .vpmov h e => lx 0x23 h (gWord e)
  | .vlea h e => lx 0x24 h (gWord e)
  | .vidx h e => lx 0x25 h (iWord e)
  | .vfadd h e => lx 0x40 h (gWord e)
  | .vfaddShort h => ls 0x40 h
  | .vfsub h e => lx 0x41 h (gWord e)
  | .vfsubShort h => ls 0x41 h
  | .vfmul h e => lx 0x42 h (gWord e)
  | .vfmulShort h => ls 0x42 h
  | .vfma h e => lx 0x43 h (gWord e)
  | .vfmin h e => lx 0x44 h (gWord e)
  | .vfminShort h => ls 0x44 h
  | .vfmax h e => lx 0x45 h (gWord e)
  | .vfmaxShort h => ls 0x45 h
  | .vfcmp h e => lx 0x46 h (gWord e)
  | .vfclass h e => lx 0x47 h (gWord e)
  | .vfrnd h e => lx 0x48 h (gWord e)
  | .vfrndShort h => ls 0x48 h
  | .vfract h e => lx 0x49 h (gWord e)
  | .vfractShort h => ls 0x49 h
  | .vrcp h e => lx 0x4a h (gWord e)
  | .vrcpShort h => ls 0x4a h
  | .vrsq h e => lx 0x4b h (gWord e)
  | .vrsqShort h => ls 0x4b h
  | .vsqrt h e => lx 0x4c h (gWord e)
  | .vsqrtShort h => ls 0x4c h
  | .vexp2 h e => lx 0x4d h (gWord e)
  | .vexp2Short h => ls 0x4d h
  | .vlog2 h e => lx 0x4e h (gWord e)
  | .vlog2Short h => ls 0x4e h
  | .vsinp h e => lx 0x4f h (gWord e)
  | .vsinpShort h => ls 0x4f h
  | .vcosp h e => lx 0x50 h (gWord e)
  | .vcospShort h => ls 0x50 h
  | .vfdiv h e => lx 0x51 h (gWord e)
  | .vfdivShort h => ls 0x51 h
  | .vpfma h e => lx 0x52 h (gWord e)
  | .vpfadd h e => lx 0x53 h (gWord e)
  | .vpfmul h e => lx 0x54 h (gWord e)
  | .vcvt h e => lx 0x58 h (gWord e)
  | .vscl h e => lx 0x59 h (gWord e)
  | .vpack h e => lx 0x5a h (gWord e)
  | .vunpk h e => lx 0x5b h (gWord e)
  | .vdot4 h e => lx 0x5c h (gWord e)
  | .vdot8 h e => lx 0x5d h (gWord e)
  | .vfdot2 h e => lx 0x5e h (gWord e)
  | .vftag h e => lx 0x5f h (gWord e)
  | .vshfl h e => lx 0x80 h (gWord e)
  | .vbcst h e => lx 0x81 h (gWord e)
  | .vvote h e => lx 0x82 h (gWord e)
  | .vredu h e => lx 0x83 h (gWord e)
  | .vscan h e => lx 0x84 h (gWord e)
  | .vrdln h e => lx 0x85 h (gWord e)
  | .vwrln h e => lx 0x86 h (gWord e)
  | .vmatch h e => lx 0x87 h (gWord e)
  | .vcompact h e => lx 0x88 h (gWord e)
  | .vcompactRow h e => lx 0x88 h (gWord e)
  | .vexpand h e => lx 0x89 h (gWord e)
  | .ld h e => lx 0xa0 h (mWord e)
  | .st h e => lx 0xa1 h (mWord e)
  | .ldl h e => lx 0xa2 h (mWord e)
  | .stl h e => lx 0xa3 h (mWord e)
  | .ldq h e => lx 0xa4 h (mWord e)
  | .stq h e => lx 0xa5 h (mWord e)
  | .lda h e => lx 0xa6 h (mWord e)
  | .sta h e => lx 0xa7 h (mWord e)
  | .atom h e => lx 0xa8 h (mWord e)
  | .red h e => lx 0xa9 h (mWord e)
  | .atoml h e => lx 0xaa h (mWord e)
  | .pfx h e => lx 0xab h (mWord e)
  | .cprop h e => lx 0xac h (mWord e)
  | .cget h e => lx 0xad h (mWord e)
  | .crecyc h e => lx 0xae h (mWord e)
  | .cprobe h e => lx 0xaf h (mWord e)
  | .fence h e => lx 0xb0 h (mWord e)
  | .wsync h e => lx 0xb1 h (mWord e)
  | .wsyncShort h => ls 0xb1 h
  | .br h e => lx 0xd0 h (bWord e)
  | .jmp h e => lx 0xd1 h (bWord e)
  | .callDirect h e => lx 0xd2 h (bWord e)
  | .callRegister h e => lx 0xd2 h (bWord e)
  | .ret h e => lx 0xd3 h (bWord e)
  | .retShort h => ls 0xd3 h
  | .land h => ls 0xd4 h
  | .exitL h e => lx 0xd5 h (bWord e)
  | .exitShort h => ls 0xd5 h
  | .rast h e => lx 0xe0 h (nWord e)
  | .hitbin h e => lx 0xe1 h (nWord e)
  | .attr h e => lx 0xe2 h (nWord e)
  | .travs h e => lx 0xe3 h (nWord e)
  | .travr h e => lx 0xe4 h (nWord e)
  | .hvpost h e => lx 0xe5 h (nWord e)
  | .smov h e => ux 0x0 h (gWord e)
  | .smovShort h => us 0x0 h
  | .smovi h e => ux 0x1 h e
  | .ssel h e => ux 0x2 h (gWord e)
  | .sadd h e => ux 0x4 h (gWord e)
  | .saddShort h => us 0x4 h
  | .ssub h e => ux 0x5 h (gWord e)
  | .ssubShort h => us 0x5 h
  | .smul h e => ux 0x6 h (gWord e)
  | .smulShort h => us 0x6 h
  | .smulh h e => ux 0x7 h (gWord e)
  | .smulhShort h => us 0x7 h
  | .smin h e => ux 0xa h (gWord e)
  | .sminShort h => us 0xa h
  | .smax h e => ux 0xb h (gWord e)
  | .smaxShort h => us 0xb h
  | .sand h e => ux 0x10 h (gWord e)
  | .sandShort h => us 0x10 h
  | .sor h e => ux 0x11 h (gWord e)
  | .sorShort h => us 0x11 h
  | .sxor h e => ux 0x12 h (gWord e)
  | .sxorShort h => us 0x12 h
  | .sshl h e => ux 0x14 h (gWord e)
  | .sshlShort h => us 0x14 h
  | .sshr h e => ux 0x15 h (gWord e)
  | .sshrShort h => us 0x15 h
  | .ssar h e => ux 0x16 h (gWord e)
  | .ssarShort h => us 0x16 h
  | .sbfe h e => ux 0x18 h (gWord e)
  | .sclz h e => ux 0x1a h (gWord e)
  | .sclzShort h => us 0x1a h
  | .spopc h e => ux 0x1b h (gWord e)
  | .spopcShort h => us 0x1b h
  | .scmp h e => ux 0x20 h (gWord e)
  | .sqlog h e => ux 0x22 h (gWord e)
  | .slea h e => ux 0x24 h (gWord e)
  | .sidx h e => ux 0x25 h (iWord e)
  | .sld h e => ux 0x40 h (mWord e)
  | .sst h e => ux 0x41 h (mWord e)
  | .satom h e => ux 0x42 h (mWord e)
  | .barinit h e => ux 0x44 h (mWord e)
  | .barexp h e => ux 0x45 h (mWord e)
  | .bararr h e => ux 0x46 h (mWord e)
  | .barwait h e => ux 0x47 h (mWord e)
  | .waddr h e => ux 0x48 h (mWord e)
  | .kick h e => ux 0x49 h (mWord e)
  | .pub h e => ux 0x4a h (mWord e)
  | .sbank h e => ux 0x4b h (mWord e)
  | .msflushRange h e => ux 0x4c h (mWord e)
  | .msflushStack h e => ux 0x4c h (mWord e)
  | .nop h => us 0x60 h
  | .rfe h => us 0x68 h
  | .ubr h e => ux 0x61 h (bWord e)
  | .ujmp h e => ux 0x62 h (bWord e)
  | .ucall h e => ux 0x63 h (bWord e)
  | .uret h e => ux 0x64 h (bWord e)
  | .uretShort h => us 0x64 h
  | .endW h e => ux 0x65 h (bWord e)
  | .endShort h => us 0x65 h
  | .yieldW h e => ux 0x66 h (iWord e)
  | .yieldShort h => us 0x66 h
  | .trapSw h e => ux 0x67 h (iWord e)
  | .sgetr h e => ux 0x69 h (iWord e)
  | .ssetr h e => ux 0x6a h (iWord e)
  | .rclaim h e => ux 0x6b h (iWord e)
  | .rfree h e => ux 0x6c h (iWord e)
  | .guardW h e => ux 0x6d h (gWord e)
  | .elect h e => ux 0x6e h (gWord e)
  | .mma h e => ux 0x80 h (nWord e)
  | .mmas h e => ux 0x81 h (nWord e)
  | .mmap h e => ux 0x82 h (nWord e)
  | .mzero h e => ux 0x83 h (nWord e)
  | .mfill h e => ux 0x84 h (nWord e)
  | .mdrain h e => ux 0x85 h (nWord e)
  | .mscale h e => ux 0x86 h (nWord e)
  | .mbtake h e => ux 0x87 h (nWord e)
  | .mbpass h e => ux 0x88 h (nWord e)
  | .mbpassNone h e => ux 0x88 h (nWord e)
  | .pgload h e => ux 0x89 h (nWord e)
  | .pgctx h e => ux 0x8a h (nWord e)
  | .pgemit h e => ux 0x8b h (nWord e)
  | .rflush h e => ux 0xc0 h (nWord e)
  | .tvrel h e => ux 0xc1 h (nWord e)
  | .nfmt h e => ux 0xc2 h (nWord e)
  | .coll h e => ux 0xc3 h (nWord e)
  | .launchDev h e => ux 0xc4 h (nWord e)
  | _ => []

/-- The bytes of a word, least significant first (R6). -/
def wordBytes (w : BitVec 32) : List Byte :=
  [w.extractLsb' 0 8, w.extractLsb' 8 8, w.extractLsb' 16 8, w.extractLsb' 24 8]

/-- The bytes of an instruction as the hardware stores them. -/
def encodeBytes (i : Instr) : List Byte := (encode i).flatMap wordBytes

end Sys2Proof
end

