-- ==== Sys2Proof/Machine/Table.lean ====
section
/-! DEFINITION. Sparse tables and memory bytes: the one form in which State holds anything keyed by a number. -/

namespace Sys2Proof.Machine

/-- What table `t` holds at key `k`; an unlisted key holds `d`. -/
def tget {α : Type} (d : α) : Tab α → Nat → α
  | [], _ => d
  | (k', v) :: t, k => if k' = k then v else tget d t k

/-- Table `t` without its entries of key `k`. -/
def tdel {α : Type} : Tab α → Nat → Tab α
  | [], _ => []
  | (k', v) :: t, k => if k' = k then tdel t k else (k', v) :: tdel t k

/-- Table `t` with value `v` at key `k`; writing the default removes the entry, so that equal contents are equal data. -/
def tset {α : Type} [DecidableEq α] (d : α) : Tab α → Nat → α → Tab α
  | [], k, v => if v = d then [] else [(k, v)]
  | (k', v') :: t, k, v =>
    if k < k' then (if v = d then (k', v') :: tdel t k else (k, v) :: (k', v') :: tdel t k)
    else if k = k' then tset d t k v
    else (k', v') :: tset d t k v

/-- The keys of `t` are above `lo` and strictly rising, and no entry is the default. -/
def twfFrom {α : Type} [DecidableEq α] (d : α) : Nat → Tab α → Bool
  | _, [] => true
  | lo, (k, v) :: t => decide (lo ≤ k) && decide (v ≠ d) && twfFrom d (k + 1) t

/-- The canonical form of a table. -/
def twf {α : Type} [DecidableEq α] (d : α) (t : Tab α) : Bool := twfFrom d 0 t

/-- Table `t` with `f` applied at key `k`. -/
def tmod {α : Type} [DecidableEq α] (d : α) (t : Tab α) (k : Nat) (f : α → α) : Tab α := tset d t k (f (tget d t k))

/-- Table `t` with `f` applied at every listed key. -/
def tall {α : Type} [DecidableEq α] (d : α) (t : Tab α) (f : α → α) : Tab α :=
  (t.map fun e => (e.1, f e.2)).filter fun e => decide (e.2 ≠ d)

/-- The listed keys whose values satisfy `p`. -/
def tkeys {α : Type} (t : Tab α) (p : α → Bool) : List Nat := (t.filter fun e => p e.2).map Prod.fst

/-- The byte at address `a`; one nothing has written reads 0 (log 1). -/
def memByte (m : Tab Byte) (a : Nat) : Byte := tget 0 m a

/-- Memory with byte `b` at address `a`. -/
def memSet (m : Tab Byte) (a : Nat) (b : Byte) : Tab Byte := tset 0 m a b

/-- The `n` bytes from address `a` as one little-endian number (R6). -/
def memRead (m : Tab Byte) (a : Nat) : Nat → Nat
  | 0 => 0
  | n + 1 => (memByte m a).toNat + 256 * memRead m (a + 1) n

/-- Memory with the low `n` bytes of the number `v` written from address `a`, little-endian (R6). -/
def memWrite (m : Tab Byte) (a : Nat) : Nat → Nat → Tab Byte
  | 0, _ => m
  | n + 1, v => memWrite (memSet m a (BitVec.ofNat 8 v)) (a + 1) n (v / 256)

/-- The canonical form of a memory: addresses strictly rising, no byte listed that reads as an unlisted one. -/
def memWf (m : Tab Byte) : Bool := twf 0 m

end Sys2Proof.Machine
end

