-- ==== Sys2Proof/Machine/Access.lean ====
section
/-! DEFINITION. Where each piece of State is read and written: waves, registers and predicates, cores, pairs, groups,
contexts, queues, stacks. -/

namespace Sys2Proof.Machine

open Sys2Proof.Machine.State

/-- The wave named `w`. -/
def wv (s : State) (w : Nat) : Wave := tget idleWave s.waves w
/-- `s` with wave `w` replaced. -/
def setWv (s : State) (w : Nat) (v : Wave) : State := { s with waves := tset idleWave s.waves w v }
/-- `s` with `f` applied to wave `w`. -/
def modWv (s : State) (w : Nat) (f : Wave → Wave) : State := setWv s w (f (wv s w))

/-- The core of global index `c` (R3). -/
def cr (s : State) (c : Nat) : Core := tget resetCore s.cores c
def setCr (s : State) (c : Nat) (v : Core) : State := { s with cores := tset resetCore s.cores c v }
def modCr (s : State) (c : Nat) (f : Core → Core) : State := setCr s c (f (cr s c))

/-- The pair of global index `p` (R3). -/
def pr (s : State) (p : Nat) : Pair := tget resetPair s.pairs p
def setPr (s : State) (p : Nat) (v : Pair) : State := { s with pairs := tset resetPair s.pairs p v }
def modPr (s : State) (p : Nat) (f : Pair → Pair) : State := setPr s p (f (pr s p))

/-- The group named `g`. -/
def gp (s : State) (g : Nat) : Group := tget noGroup s.groups g
def setGp (s : State) (g : Nat) (v : Group) : State := { s with groups := tset noGroup s.groups g v }
def modGp (s : State) (g : Nat) (f : Group → Group) : State := setGp s g (f (gp s g))

/-- The context slot `c` (R406). -/
def cx (s : State) (c : Nat) : Ctx := tget resetCtx s.ctxs c
def setCx (s : State) (c : Nat) (v : Ctx) : State := { s with ctxs := tset resetCtx s.ctxs c v }
def modCx (s : State) (c : Nat) (f : Ctx → Ctx) : State := setCx s c (f (cx s c))

/-- The launch queue keyed 64 * port + q (R180). -/
def qu (s : State) (q : Nat) : Queue := tget resetQueue s.queues q
def setQu (s : State) (q : Nat) (v : Queue) : State := { s with queues := tset resetQueue s.queues q v }
def modQu (s : State) (q : Nat) (f : Queue → Queue) : State := setQu s q (f (qu s q))

/-- The memory side of stack `k` (R41 to R50). -/
def stk (s : State) (k : Nat) : StackMem := tget resetStack s.stackMems k
def setStk (s : State) (k : Nat) (v : StackMem) : State := { s with stackMems := tset resetStack s.stackMems k v }
def modStk (s : State) (k : Nat) (f : StackMem → StackMem) : State := setStk s k (f (stk s k))

/-- The region keyed 8 * stack + g (R44). -/
def rgn (s : State) (r : Nat) : Region := tget resetRegion s.regions r
def setRgn (s : State) (r : Nat) (v : Region) : State := { s with regions := tset resetRegion s.regions r v }
def modRgn (s : State) (r : Nat) (f : Region → Region) : State := setRgn s r (f (rgn s r))

/-- Host port `p`. -/
def prt (s : State) (p : Nat) : Port := s.ports.getD p resetPort
def modPrt (s : State) (p : Nat) (f : Port → Port) : State := { s with ports := lmod s.ports p f }

/-- `CYC` of stack `k` (R322). -/
def cycOf (s : State) (k : Nat) : Nat := tget 0 s.cyc k
/-- The stack of a core (R3). -/
def coreStack (c : Nat) : Nat := c / 64
/-- The pair of a core: its two cores are 2p and 2p + 1, the leader the even one (R3). -/
def corePair (c : Nat) : Nat := c / 2
/-- `CYC` of a core's stack. -/
def cycAt (s : State) (c : Nat) : Nat := cycOf s (coreStack c)

/-- The tile field of a matrix instruction. -/
def matHead (i : Instr) : Head :=
  match i with
  | .mma h _ | .mmas h _ | .mmap h _ | .mzero h _ | .mfill h _ | .mdrain h _ | .mscale h _ => h
  | _ => { d := 0, w := 0, a := 0, b := 0 }

/-- R329: the matrix instruction has retired: a drain that has read its tile, and whose writes have left. -/
def matRetired (m : MatOp) : Bool := m.drained && m.data.isEmpty

/-- R333, R340: the matrix instruction has accesses of its thread that have still to be made. -/
def matHolds (m : MatOp) : Bool :=
  match m.instr with
  | .mzero .. | .mscale .. => false
  | .mdrain .. => !(matRetired m)
  | _ => m.reads.isNone

/-- R52: the name of the pins that the tile fetch unit places for a multiply's operation. -/
def matPin (op : Nat) : Nat := 2 ^ 60 + op

/-- The operand `k` of the event being performed (log 4). -/
def arg (s : State) (k : Nat) : Nat := s.args.getD k 0

/-- A fresh name, and the state with it taken (log 4). -/
def fresh (s : State) : Nat × State := (s.nextId, { s with nextId := s.nextId + 1 })

/-- A free value and the state with the counter advanced (log 3). -/
def draw (s : State) : Nat × State := (Config.freeNat s.draws, { s with draws := s.draws + 1 })

/-- `s` with an output appended. -/
def out (s : State) (o : Out) : State := { s with outbox := s.outbox ++ [o] }

/-! ### Registers of a wave -/

/-- The key of lane `l`'s register `r`. -/
def vkey (l r : Nat) : Nat := 256 * l + r
/-- The key under which `replayEmpty` names uniform register `r` (R386). -/
def skey (r : Nat) : Nat := 8192 + r

/-- The lane record of lane `l`. -/
def ln (v : Wave) (l : Nat) : Lane := v.lanes.getD l idleLane
/-- The wave with `f` applied to the lanes of `m`. -/
def modLanes (v : Wave) (m : Lanes) (f : Lane → Lane) : Wave :=
  { v with lanes := v.lanes.mapIdx fun l x => if inLanes m l then f x else x }

/-- Lane register `r` of lane `l`. -/
def vreg (v : Wave) (l r : Nat) : VReg := tget zeroReg v.vregs (vkey l r)
def setVreg (v : Wave) (l r : Nat) (x : VReg) : Wave := { v with vregs := tset zeroReg v.vregs (vkey l r) x }
/-- Uniform register `r`. -/
def sreg (v : Wave) (r : Nat) : SReg := tget zeroSReg v.sregs r
def setSreg (v : Wave) (r : Nat) (x : SReg) : Wave := { v with sregs := tset zeroSReg v.sregs r x }

/-- R385: the wave runs its handler. -/
def inh (v : Wave) : Bool := v.tstat.getLsbD 5

/-- R386: a register held empty only by a replay entry, which the handler reads as zero without blocking. -/
def heldEmpty (v : Wave) (key : Nat) : Bool := inh v && v.replayEmpty.contains key

/-- R172: lane register `r` of lane `l` blocks a reader. -/
def vEmpty (v : Wave) (l r : Nat) : Bool := !(vreg v l r).full && !heldEmpty v (vkey l r)
/-- R172: uniform register `r` blocks a reader. -/
def sEmpty (v : Wave) (r : Nat) : Bool := !(sreg v r).full && !heldEmpty v (skey r)

/-- The bits a reader of lane register `r` gets in lane `l`. -/
def vread (v : Wave) (l r : Nat) : Word :=
  let x := vreg v l r
  if !x.full && heldEmpty v (vkey l r) then 0 else x.bits
/-- The bits a reader of uniform register `r` gets. -/
def sread (v : Wave) (r : Nat) : Word :=
  let x := sreg v r
  if !x.full && heldEmpty v (skey r) then 0 else x.bits

/-- The `n` lane registers from `r` in lane `l`, the first least significant (R202). -/
def vrun (v : Wave) (l r n : Nat) : List Word := (List.range n).map fun k => vread v l (r + k)
/-- The `n` uniform registers from `r`. -/
def srun (v : Wave) (r n : Nat) : List Word := (List.range n).map fun k => sread v (r + k)

/-- R221: the value of a source in lane `l`; an inline value is zero-extended (R307). -/
def srcVal (v : Wave) (l : Nat) (x : Src) : Nat :=
  if x.uni then (if 128 ≤ x.base then x.base - 128 else wordsNat (srun v x.base x.n)) else wordsNat (vrun v l x.base x.n)

/-- R163: lane predicate `k` of lane `l`; `p0` reads true. -/
def pred (v : Wave) (l k : Nat) : Bool := k = 0 || (ln v l).preds.getLsbD k
/-- R163: uniform predicate `k`; `q0` reads true. -/
def upred (v : Wave) (k : Nat) : Bool := k = 0 || v.q.getLsbD k

/-- An eight-bit set with bit `k` set to `b`. -/
def setBit8 (x : BitVec 8) (k : Nat) (b : Bool) : BitVec 8 :=
  if b then x ||| (1#8 <<< k) else x &&& ~~~(1#8 <<< k)

/-- Lane predicate `k` of lane `l` written; a write to `p0` is discarded (R255). -/
def setPred (v : Wave) (l k : Nat) (b : Bool) : Wave :=
  if k = 0 then v else { v with lanes := lmod v.lanes l fun x => { x with preds := setBit8 x.preds k b } }
/-- Uniform predicate `k` written; a write to `q0` is ignored (R310). -/
def setQ (v : Wave) (k : Nat) (b : Bool) : Wave := if k = 0 then v else { v with q := setBit8 v.q k b }

/-- R166: a lane that is neither exited nor asleep. -/
def awake (x : Lane) : Bool := !x.exited && decide (x.sleep = .awake)
/-- The lanes of a wave that satisfy `p`. -/
def lanesThat (v : Wave) (p : Lane → Bool) : Lanes := lanesWhere fun l => p (ln v l)
/-- The lanes of a wave that have not exited. -/
def liveLanes (v : Wave) : Lanes := lanesThat v fun x => !x.exited

/-! ### The group, the kernel and the scratch of a wave -/

/-- The group of wave `w`. -/
def groupOf (s : State) (w : Nat) : Group := gp s (wv s w).group

/-- R58: bytes of one bank. -/
def bankBytes : Nat := 16384

/-- R64: bytes `o` to `o + n - 1` of the allocation lie within the group's banks. -/
def scrIn (g : Group) (o n : Nat) : Bool := o + n ≤ g.nBanks * bankBytes
/-- The physical bank of group-relative offset `o`. -/
def scrBank (g : Group) (o : Nat) : Nat := g.bank0 + o / bankBytes
/-- The physical byte of group-relative offset `o` in the pair's SRAM. -/
def scrAddr (g : Group) (o : Nat) : Nat := g.bank0 * bankBytes + o
/-- The bank record of bank `k` of pair `p`. -/
def bank (s : State) (p k : Nat) : Bank := (pr s p).banks.getD k (resetBank k)
/-- R63: every byte of the run lies in a bank in SCRATCH mode. -/
def scrMode (s : State) (g : Group) (o n : Nat) : Bool :=
  decide ((bank s g.pair (scrBank g o)).mode = .scratch) &&
  decide ((bank s g.pair (scrBank g (o + n - 1))).mode = .scratch)
/-- The bytes of a scratch run as a number. -/
def scrRead (s : State) (g : Group) (o n : Nat) : Nat := memRead (pr s g.pair).scratch (scrAddr g o) n
/-- R140: the waits for a write of a word among bytes `a` to `a + n - 1` of pair `p`'s SRAM are over. -/
def wakeWords (s : State) (p a n : Nat) : State :=
  { s with waiters := s.waiters.map fun x =>
      if decide (x.dst = 1) && decide (x.home = p) && decide (x.addr < a + n) && decide (a < x.addr + 4) then { x with woken := true }
      else x }

/-- A scratch run written. -/
def scrWrite (s : State) (g : Group) (o n v : Nat) : State :=
  modPr (wakeWords s g.pair (scrAddr g o) n) g.pair fun p => { p with scratch := memWrite p.scratch (scrAddr g o) n v }
/-- The bytes of a scratch run. -/
def scrBytes (s : State) (g : Group) (o n : Nat) : List Byte := leBytes n (scrRead s g o n)

end Sys2Proof.Machine
end

