-- ==== Sys2Proof/Machine/Flags.lean ====
section
/-! DEFINITION. Register writes landing, `FMODE` and its sticky flags (R209), and the completion flags of a wave (R170). -/

namespace Sys2Proof.Machine

open Sys2Proof.Machine.State

/-- No write at all. -/
def noWrites : Writes := { regs := [], sregs := [], preds := [], qs := [], sticky := 0, sys := [] }

/-- One lane register written; `fill` makes it full, as does a write to a register that only a replay entry holds empty
(R168, R172, R386). -/
def landReg (fill : Bool) (v : Wave) (x : Nat × Nat × Word × Tag) : Wave :=
  let (l, r, b, t) := x
  let held := heldEmpty v (vkey l r)
  let v' := setVreg v l r { bits := b, full := fill || held || (vreg v l r).full, tag := t }
  if fill || held then { v' with replayEmpty := v'.replayEmpty.filter (· ≠ vkey l r) } else v'

/-- R325: register `r` becomes full with the value `b`: a guard slot that waits for it takes its value from it. -/
def fillGuard (r : Nat) (b : Word) (g : Guard) : Guard :=
  match g with
  | .pendS q due => if q = r then .pendQ (decide (b ≠ 0)) due else g
  | _ => g

/-- One uniform register written. -/
def landSreg (fill : Bool) (v : Wave) (x : Nat × Word) : Wave :=
  let (r, b) := x
  let held := heldEmpty v (skey r)
  let v' := setSreg v r { bits := b, full := fill || held || (sreg v r).full }
  if fill || held then
    { v' with replayEmpty := v'.replayEmpty.filter (· ≠ skey r), guards := v'.guards.map (fillGuard r b) }
  else v'

/-- One lane predicate written; a variable-latency write ends its pending mark (R244). -/
def landPred (fill : Bool) (v : Wave) (x : Nat × Nat × Bool) : Wave :=
  let (l, k, b) := x
  let v' := setPred v l k b
  if fill then { v' with lanes := lmod v'.lanes l fun y => { y with predPend := setBit8 y.predPend k false } } else v'

/-- One uniform predicate written. -/
def landQ (fill : Bool) (v : Wave) (x : Nat × Bool) : Wave :=
  let (k, b) := x
  let v' := setQ v k b
  if fill then { v' with qPend := setBit8 v'.qPend k false } else v'

/-- R323: a system register written by `ssetr` at the end of issue + 3; the fields are those a program may write
(R209, R385). The claims flag of R177 belongs to the group and is written where the event of time passes. -/
def landSys (v : Wave) (x : Nat × Word) : Wave :=
  let (n, b) := x
  if n = 0x40 then { v with fmode := b }
  else if n = 0x80 then
    { v with tstat := (b &&& 0x1FFFFF1F#32) ||| (v.tstat &&& 0xE0#32) }
  else if n = 0x81 then { v with tba := b &&& 0xFFFFFFFD#32 }
  else if n = 0x82 then { v with tframe := b &&& 0x000FFF00#32 }
  else v

/-- A set of writes landing in the registers of its wave; `fill` is true for a variable-latency result (R172). The
sticky flags of `FMODE` are set with them (R323). -/
def land (fill : Bool) (v : Wave) (x : Writes) : Wave :=
  let v := x.regs.foldl (landReg fill) v
  let v := x.sregs.foldl (landSreg fill) v
  let v := x.preds.foldl (landPred fill) v
  let v := x.qs.foldl (landQ fill) v
  let v := x.sys.foldl landSys v
  { v with fmode := v.fmode ||| x.sticky }

/-- R168: the wave with a fixed-latency result due at the end of the third cycle after issue. -/
def addPend (v : Wave) (issueCyc : Nat) (x : Writes) : Wave :=
  { v with pend := v.pend ++ [{ due := issueCyc + 4, writes := x }] }

/-! ### `FMODE` (R209) -/

/-- The rounding mode of an instruction: its RM field, or `FMODE.RND` when that is 0 (R210). -/
def rmode (v : Wave) (rm : BitVec 3) : Nat := if rm = 0 then (v.fmode.extractLsb' 0 3).toNat else rm.toNat
/-- `FMODE.DEN`. -/
def den (v : Wave) : Nat := (v.fmode.extractLsb' 3 2).toNat
/-- Sticky bits: FERR, IV, DZ, OF, UF, NX, CSAT. -/
def fFerr : Word := 0x80
def fIv : Word := 0x200
def fDz : Word := 0x400
def fOf : Word := 0x800
def fUf : Word := 0x1000
def fNx : Word := 0x2000
def fCsat : Word := 0x40
/-- The causes of an ARITH trap among raised flags: [0] IV, [1] DZ, [2] OF, each where its enable is set (R381). -/
def arithCause (fmode raised : Word) : Nat :=
  b2n (raised.getLsbD 9 && fmode.getLsbD 14) + 2 * b2n (raised.getLsbD 10 && fmode.getLsbD 15) +
    4 * b2n (raised.getLsbD 11 && fmode.getLsbD 16)

/-! ### Completion flags (R170) -/

/-- Flag `f` of the wave with `n` added; 12 to 15 name no flag. -/
def flagUp (v : Wave) (f : Nat) : Wave := { v with flags := lmod v.flags f (· + 1) }
def flagDown (v : Wave) (f : Nat) : Wave := { v with flags := lmod v.flags f (· - 1) }

/-- R170: every flag of the mask `w[sel]` has a count of zero. -/
def flagsClear (v : Wave) (sel : Nat) : Bool :=
  (List.range 12).all fun f => !((v.masks.getD sel 0).getLsbD f) || v.flags.getD f 0 = 0

end Sys2Proof.Machine
end

