-- ==== Sys2Proof/Machine/Operands.lean ====
section
/-! DEFINITION. The operands of an instruction: which lanes are active (R243), the words captured at issue (R389), and the
values an instruction reads from them, at issue and at replay alike. -/

namespace Sys2Proof.Machine

open Sys2Proof.Machine.State

/-- R243: the active lanes of a lane instruction, the lanes of the issuing PC group whose guard is true; of a uniform
instruction, the whole PC group or none (R221). -/
def active (sp : Spec) (s : State) : Lanes :=
  let v := wv s s.cur.wave
  if sp.uni then (if upred v sp.p != sp.pn then s.cur.lanes else 0)
  else lanesWhere fun l => inLanes s.cur.lanes l && (pred v l sp.p != sp.pn)

/-- One captured word, lane by lane: a lane register's value in each lane, a uniform register's in lane 0. -/
def captureWord (v : Wave) (x : Src) (k : Nat) : List Word :=
  if x.uni then (List.range 32).map fun l => if l = 0 then sread v (x.base + k) else 0
  else (List.range 32).map fun l => vread v l (x.base + k)

/-- A source that is a run of registers, not an inline value. -/
def isRun (x : Src) : Bool := !(x.uni && 128 ≤ x.base)

/-- R389: the words an instruction captures, its register sources in the order A, B, C, E, each run ascending. -/
def capture (v : Wave) (sp : Spec) : List (List Word) :=
  sp.srcs.flatMap fun x => if isRun x then (List.range x.n).map (captureWord v x) else []

/-- Where the words of source `k` begin among the captured words. -/
def srcPlace (sp : Spec) (k : Nat) : Nat := ((sp.srcs.take k).filter isRun).foldl (fun n x => n + x.n) 0

/-- The value that an operation reads as source `k` in lane `l`, from its captured words (R172, R389). -/
def opVal (sp : Spec) (words : List (List Word)) (k l : Nat) : Nat :=
  match sp.srcs[k]? with
  | none => 0
  | some x =>
    if isRun x then
      wordsNat (((words.drop (srcPlace sp k)).take x.n).map fun w => w.getD (if x.uni then 0 else l) 0)
    else x.base - 128

/-- The words of the instruction, head and extension, the latter 0 where there is none (R388). -/
def headExt (i : Instr) : Word × Word :=
  match encode i with
  | [] => (0, 0)
  | [w] => (w, 0)
  | w :: e :: _ => (w, e)

/-- The bytes an instruction takes. -/
def instrLen (sp : Spec) : Nat := if sp.long then 8 else 4

/-! ### Operations in flight -/

/-- The operation named `id` of wave `v`. -/
def findOp (v : Wave) (id : Nat) : Option Opr := v.ops.find? fun o => o.id = id
/-- The wave with `f` applied to the operation named `id`. -/
def modOp (v : Wave) (id : Nat) (f : Opr → Opr) : Wave :=
  { v with ops := v.ops.map fun o => if o.id = id then f o else o }

/-- R170, R288: the wave with operation `id` complete for the lanes of `m` and for `k` of its further parts; an
operation with nothing left leaves the wave and takes 1 from its flag. -/
def complete (v : Wave) (id : Nat) (m : Lanes) (k : Nat) : Wave :=
  let v := modOp v id fun o => { o with todo := o.todo &&& ~~~m, left := o.left - k }
  match findOp v id with
  | none => v
  | some o =>
    if o.todo = 0 ∧ o.left = 0 then flagDown { v with ops := v.ops.filter fun x => x.id ≠ id } o.flag else v

/-- `complete` on the state. -/
def completeOp (s : State) (w id : Nat) (m : Lanes) (k : Nat) : State := modWv s w fun v => complete v id m k

/-- R383: the window places taken. -/
def windowUsed (v : Wave) : Nat := (v.ops.filter fun o => o.window).length

end Sys2Proof.Machine
end

