-- ==== Sys2Proof/Machine/L1.lean ====
section
/-! DEFINITION. A core's L1 as a list of lines, one per set and bank, and its dirty-address FIFO (R59, R73, R76). -/

namespace Sys2Proof.Machine

open Sys2Proof.Machine.State

/-- The line address of a physical byte address. -/
def lineOf (a : Nat) : Nat := a / 128
/-- The mask of bytes `o` to `o + n - 1` of a line. -/
def byteMask (o n : Nat) : BitVec 128 := BitVec.ofNat 128 ((2 ^ n - 1) <<< o)
/-- The words of a line that a byte mask touches. -/
def wordsOfMask (m : BitVec 128) : BitVec 32 := lanesWhere fun w => m.extractLsb' (4 * w) 4 ≠ 0
/-- The byte mask of whole words. -/
def maskOfWords (w : BitVec 32) : BitVec 128 :=
  (List.range 32).foldl (fun m k => if w.getLsbD k then m ||| byteMask (4 * k) 4 else m) 0
/-- The bit mask of a byte mask. -/
def dataMask (m : BitVec 128) : BitVec 1024 :=
  BitVec.ofNat 1024 ((List.range 128).foldl (fun x k => if m.getLsbD k then x + (255 <<< (8 * k)) else x) 0)
/-- `d` with the bytes of `m` taken from `e`. -/
def mergeData (d e : BitVec 1024) (m : BitVec 128) : BitVec 1024 := (d &&& ~~~dataMask m) ||| (e &&& dataMask m)
/-- Bytes `o` to `o + n - 1` of a line's data as a number. -/
def dataBytes (d : BitVec 1024) (o n : Nat) : Nat := (d.toNat >>> (8 * o)) % 2 ^ (8 * n)
/-- Line data with bytes `o` to `o + n - 1` replaced. -/
def setData (d : BitVec 1024) (o n v : Nat) : BitVec 1024 := mergeData d (BitVec.ofNat 1024 (v <<< (8 * o))) (byteMask o n)

/-- The line a core's L1 holds, if it holds it. -/
def l1Find (c : Core) (line : Nat) : Option L1Line := c.l1.find? fun x => x.line = line
/-- The core with line `x` put in place of its older copy, or added; the most recently used stand first. -/
def l1Put (c : Core) (x : L1Line) : Core := { c with l1 := x :: c.l1.filter fun y => y.line ≠ x.line }
/-- The core without the line. -/
def l1Drop (c : Core) (line : Nat) : Core := { c with l1 := c.l1.filter fun y => y.line ≠ line }

/-- The bytes of sector `k` of a line. -/
def sectorMask (k : Nat) : BitVec 128 := byteMask (32 * k) 32

/-- R76: the WB entries of a line's dirty bytes, one for each sector that has some. -/
def wbEntries (x : L1Line) : List DafEntry :=
  ((List.range 4).filter fun k => decide (x.dirty &&& sectorMask k ≠ 0)).map fun k =>
    { kind := .wb x.line (x.dirty &&& sectorMask k) x.data ((x.owned ||| x.pend) &&& wordsOfMask (sectorMask k)), accs := [] }

/-- R59, R73: a line leaves the L1, its dirty bytes behind all earlier entries of the FIFO. Entries behind the 128th are write-backs
that wait for a place in it (R76, log 129). -/
def evictLine (c : Core) (x : L1Line) : Core :=
  let c := l1Drop c x.line
  { c with daf := c.daf ++ wbEntries x }

/-- R104: what core `c`'s fills in flight of a line bring back is not installed, since newer bytes of its own have left the L1. -/
def stopFills (s : State) (c : Nat) (gone : Nat → Bool) : State :=
  { s with accs := s.accs.map fun a => if a.core = c && gone (lineOf a.pa) then { a with fill := false } else a }

/-- A line of core `c`'s L1 evicted. -/
def evict (s : State) (c : Nat) (x : L1Line) : State :=
  let s := modCr s c fun k => evictLine k x
  if x.dirty = 0 then s else stopFills s c fun l => l = x.line

/-- R59: bank `k` of the pair's SRAM removed from the L1 of a core, with the lines and the copies of imago cells that it holds. -/
def dropBank (s : State) (c k : Nat) : State :=
  let s := ((cr s c).l1.filter fun x => x.bank = k).foldl (fun s x => evict s c x) s
  modCr s c fun y => { y with imago := y.imago.filter fun x => x.bank ≠ k }

/-- R59 on the state: bank `k` of pair `p` removed from whichever L1 holds it. -/
def removeBank (s : State) (p k : Nat) : State :=
  match (bank s p k).mode with
  | .cacheL => dropBank s (2 * p) k
  | .cacheF => dropBank s (2 * p + 1) k
  | _ => s

/-- Bank `k` of pair `p` in a mode, with an owner and no FIFO entry. -/
def setBank (s : State) (p k : Nat) (m : BankMode) (owner : Nat) : State :=
  modPr s p fun x => { x with banks := lmod x.banks k fun _ => { mode := m, owner := owner, fifo := [] } }

/-- The scratch bytes of bank `k` of pair `p` read zero from now on. -/
def clearBank (s : State) (p k : Nat) : State :=
  modPr s p fun x =>
    { x with scratch := x.scratch.filter fun e => decide (e.1 / bankBytes ≠ k) }

end Sys2Proof.Machine
end

