-- ==== Sys2Proof/Machine/Ops.lean ====
section
/-! DEFINITION. The named operations that meanings share: waking and ending waves, the register pool, the baton, fencing
a context, taking a trap and returning from one, the conditions of issue, and the two shapes of an arithmetic
instruction. -/

namespace Sys2Proof.Machine

open Sys2Proof.Machine.State

/-! ### Waking and ending -/

/-- R166, R386: the lanes of `m` awake; a wake for a lane asleep at a trap's entry takes effect at `rfe`. -/
def wake (v : Wave) (m : Lanes) : Wave :=
  { v with lanes := v.lanes.mapIdx fun l x =>
      if inLanes m l && !x.exited && decide (x.sleep ≠ .awake) then
        { x with sleep := if inh v && inLanes v.asleepAt l then .woken else .awake }
      else x }

/-- The key of a wave's quadrant: 4 * core + quadrant. -/
def quadKey (v : Wave) : Nat := 4 * v.core + v.quad

/-- R174: the pool of a group on a quadrant. -/
def poolOf (g : Group) (q : Nat) : Pool :=
  (g.pools.find? fun p => p.quad = q).getD { quad := q, free := 0, queue := [], dlk := false }
/-- The group with that pool replaced. -/
def setPool (g : Group) (p : Pool) : Group := { g with pools := p :: g.pools.filter fun x => x.quad ≠ p.quad }

/-- R175: `k` granules appended to a wave, zero, full and untyped, and its claiming lanes woken. What R175 checks of h it checks at issue,
so that claims of several PC groups of one wave, queued together, may take it past 32; they are granted all the same (log 139). -/
def grant (s : State) (w k : Nat) (m : Lanes) : State :=
  modWv s w fun v =>
    wake { v with h := v.h + k, vregs := v.vregs.filter fun e => decide (e.1 % 256 < 8 * v.h) } m

/-- R175: the claims of a pool served in order while the head fits. -/
def serveQueue (g q : Nat) : Nat → State → State
  | 0, s => s
  | n + 1, s =>
    let p := poolOf (gp s g) q
    match p.queue with
    | [] => s
    | (w, k, m) :: r =>
      if k ≤ p.free then
        serveQueue g q n (grant (modGp s g fun x => setPool x { p with free := p.free - k, queue := r }) w k m)
      else s

/-- R175: `k` granules released into the pool of a wave's group and quadrant, and its queue served. -/
def toPool (s : State) (g q k : Nat) : State :=
  let s := modGp s g fun x => setPool x { poolOf x q with free := (poolOf x q).free + k }
  serveQueue g q ((poolOf (gp s g) q).queue.length) s

/-- R178: the baton of pair `p` is to pass, to the wave `t` or to none, once its holder's matrix instructions issued so
far have retired. -/
def passBaton (s : State) (p : Nat) (t : Option Nat) : State :=
  let left := fun w : Nat => (((pr s p).mats.filter fun m => decide (m.wave = w) && !(matRetired m)) ++ (wv s w).heldMats).map fun m => m.op
  modPr s p fun x => { x with batonPass := some t, passMats := match x.baton with | some w => left w | none => [] }

/-! ### Groups, allocations and tiles -/

/-- R61, R68: the banks and accumulator tiles of a group are given back. A bank in CACHE mode is first removed from its
L1; the contents of every other bank are discarded. -/
def releaseAlloc (s : State) (g : Nat) : State :=
  let x := gp s g
  let s := (List.range x.nBanks).foldl
    (fun s k =>
      let b := x.bank0 + k
      let s := removeBank s x.pair b
      clearBank (setBank s x.pair b .reserve 0) x.pair b) s
  let clear := fun c : Core =>
    { c with tiles := c.tiles.filter fun e => decide (e.1 < x.tile0 ∨ x.tile0 + x.kernel.accum ≤ e.1) }
  modCr (modCr s (2 * x.pair) clear) (2 * x.pair + 1) clear

/-- R165: a group ends: its allocation and its waves' records go. -/
def endGroup (s : State) (g : Nat) : State :=
  let s := releaseAlloc s g
  let s := { s with waves := s.waves.filter fun (e : Nat × Wave) => decide (e.2.group ≠ g) }
  setGp s g noGroup

/-- Every pin `p` taken off, and every wait for one ended. -/
def unpin (s : State) (p : Nat) : State :=
  { s with
    l2 := tall noL2 s.l2 fun t => { t with pins := t.pins.filter fun x => x ≠ p }
    pinWait := s.pinWait.filter fun x => x.2 ≠ p }

/-- R55: a tile reaches FREE: its six lines are unpinned and dropped, and its count ends. A value of its contents that is on its way to a
core is not installed there (R54). -/
def tileToFree (s : State) (pa : Nat) : State :=
  let ls := (tget freeTile s.tiles pa).lines
  let s := ls.foldl
    (fun s l =>
      let t := tget noL2 s.l2 l
      { s with l2 := tset noL2 s.l2 l { t with valid := 0, dirty := 0, pins := t.pins.filter fun p => p ≠ pa + 1 } }) s
  { s with
    tiles := tset freeTile s.tiles pa freeTile
    pinWait := s.pinWait.filter fun p => p.2 ≠ pa + 1
    accs := s.accs.map fun a => if ls.contains (lineOf a.pa) then { a with fill := false } else a }

/-! ### Fencing and the fault log -/

/-- R398: the groups `gs` with their waves `ws` end at one instant, with everything they hold; `all` says that whatever belongs to a
context goes too. -/
def dropThese (s : State) (ws gs : List Nat) (all : Nat → Bool) : State :=
  let gone := fun w : Nat => ws.contains w
  let s := (gs.filter fun g => !(gp s g).savedAll).foldl releaseAlloc s
  let pins := (s.pairs.flatMap fun (e : Nat × Pair) => e.2.mats.filter fun m => gone m.wave).map fun m => matPin m.op
  let s := pins.foldl unpin s
  -- what their engines have not sent yet goes too
  let mine := (ws.flatMap fun w => (wv s w).ops.map (·.id)) ++
    (s.cores.flatMap fun (e : Nat × Core) => (e.2.scarab.filter fun y => gone y.wave || all y.ctx).map (·.id))
  let kept := fun e : DafEntry => match e.kind with | .eng t _ _ => !(mine.contains t) | _ => true
  let s := { s with
    pairs := tall resetPair s.pairs fun p => { p with
      batonQueue := p.batonQueue.filter fun y => !gone y.1, mats := p.mats.filter fun y => !gone y.wave } }
  let held := tkeys s.pairs fun p => match p.baton with | some w => gone w | none => false
  let s := held.foldl (fun s p => if (pr s p).batonPass = none then passBaton s p none else s) s
  { s with
    cores := tall resetCore s.cores fun x => { x with
      daf := x.daf.filter kept,
      scarab := x.scarab.filter fun y => !(gone y.wave || all y.ctx),
      walkers := x.walkers.filter fun y => !gone y.wave,
      prefetch := x.prefetch.filter fun y => !gs.contains y },
    waves := s.waves.filter fun (e : Nat × Wave) => !gone e.1,
    groups := s.groups.filter fun (e : Nat × Group) => !gs.contains e.1,
    accs := s.accs.filter fun y => !(gone y.wave || all y.ctx),
    waiters := s.waiters.filter fun y => !gone y.wave,
    pubs := s.pubs.filter fun y => !gone y.wave,
    frags := s.frags.filter fun y => !(gone y.wave || all y.ctx),
    binRecs := s.binRecs.filter fun y => !(gone y.wave || all y.ctx),
    bins := s.bins.filter fun y => !all y.ctx,
    flushes := s.flushes.filter fun y => !(gone y.wave || all y.ctx),
    colls := s.colls.filter fun y => !(gone y.wave || all y.ctx),
    hives := tall [] s.hives fun x => x.filter fun y => !(gs.contains y.group || all y.ctx) }

/-- R398: the waves of context `c` end at one instant, with everything they hold. -/
def dropWaves (s : State) (c : Nat) : State :=
  let s := dropThese s (tkeys s.waves fun v => decide (v.ctx = c)) (tkeys s.groups fun g => g.live && decide (g.ctx = c))
    fun x => decide (x = c)
  (tkeys s.tiles fun t => decide (t.ctx = c)).foldl tileToFree s

/-- R193, R398: the contracts of the queues of context `c` end and their pairs are no longer reserved. -/
def dropContracts (s : State) (c : Nat) : State :=
  let qs := tkeys s.queues fun q => q.contract && decide (q.ctx.toNat = c)
  qs.foldl
    (fun s q =>
      let s := modQu s q fun x => { x with contract := false }
      { s with pairs := tall resetPair s.pairs fun p => if p.reservedBy = q + 1 then { p with reservedBy := 0 } else p }) s

/-- R398: context `c` fenced. Its launches complete at FENCE_COMPLETE. -/
def fence (s : State) (c : Nat) : State :=
  if (cx s c).fenced then s else
  let s := dropContracts (dropWaves s c) c
  let s := modCx s c fun x => { x with fenced := true, saves := [] }
  { s with fences := s.fences ++ [c] }

/-- R391: STATUS of an entry of class `cls`: the status word of a translation fault (R34, R35), 0 of any other. -/
def logStatus (cls st : Nat) : Nat :=
  if decide (cls = 7 ∨ cls = 10) && decide (1 ≤ st % 256) && decide (st % 256 ≤ 0x0D) then st else 0

/-- R391: a new entry in the lowest free slot of the fault log; with none free the context is fenced. -/
def logEntry (s : State) (c : Nat) (e : LogSlot) : State :=
  let x := cx s c
  let e := { e with status := logStatus e.cls e.status }
  match (List.range 256).find? fun k => decide ((tget freeLog x.log k).state = 0) with
  | none => fence s c
  | some k =>
    setCx s c { x with log := tset freeLog x.log k e, firstCode := if x.firstCode = 0 then e.code + 1 else x.firstCode }

/-- A report entry (R391, STATE 2). -/
def report (code cls opk core addr status : Nat) : LogSlot :=
  { freeLog with state := 2, code := code, cls := cls, opk := opk, core := core, addr := addr, status := status }

/-- R297, R384, R391: the entry of a reduction that is parked with a fault. -/
def redSlot (a : Acc) (cls status group : Nat) : LogSlot :=
  match a.act with
  | .red code d =>
    { freeLog with
      state := 1, code := status % 256, cls := cls, opk := 1, core := a.core, addr := a.va, status := status
      data := code + 32 * (if a.n = 8 then 3 else 2), value := d, group := group, acc := some { a with stage := .failed } }
  | _ => freeLog

/-! ### The end of a wave -/

/-- R177, R323: the pending writes of a wave to `CLAIMS`. -/
def claimsPend (v : Wave) : List Pending :=
  (v.pend.map fun p => { p with writes := { noWrites with sys := p.writes.sys.filter fun x => decide (x.1 = 0x50) } }).filter
    fun p => !p.writes.sys.isEmpty

/-- R297, R317, R384: of an ended wave's accesses those that stopped at a fault go, a reduction into the fault log, with its waits for a
phase, which have no lane left; the others go on to their homes. -/
def endAccs (s : State) (w : Nat) : State :=
  let stops := fun a : Acc => decide (a.wave = w) && (decide (a.stage = .failed) || (match a.act with | .barWait _ => true | _ => false))
  (s.accs.filter stops).foldl
    (fun s a => match a.act with
      | .red .. => logEntry s a.ctx (redSlot a (if a.status = 1 then 12 else 10) a.status (wv s w).group)
      | _ => s)
    { s with accs := s.accs.filter fun a => !(stops a) }

/-- R317: a wave with no lane left ends: what it holds is released, its claims and waits go, and results not yet
written are discarded, but for a write to `CLAIMS`, which other waves read (R323). Its tile references are released one by one
(TILE_REFERENCE_RELEASE). Matrix instructions held for replay will not be performed, and the baton waits for them no longer (R351). -/
def endWave (s : State) (w : Nat) : State :=
  let v := wv s w
  if !v.live then s else
  let p := corePair v.core
  let s := setWv s w { v with
    live := false, lanes := v.lanes.map fun x => { x with exited := true, sleep := .awake },
    pend := claimsPend v, results := [], heldMats := [], trap := none, faulting := false, wsyncArrived := 0 }
  let s := endAccs s w
  let s := { s with waiters := s.waiters.filter fun x => x.wave ≠ w }
  let s := modCr s v.core fun c => { c with walkers := c.walkers.filter fun x => x.wave ≠ w }
  let s := modPr s p fun x => { x with batonQueue := x.batonQueue.filter fun y => y.1 ≠ w }
  let s := if (pr s p).baton = some w ∧ (pr s p).batonPass = none then passBaton s p none else s
  let s := modGp s v.group fun g =>
    { g with pools := g.pools.map fun x => { x with queue := x.queue.filter fun y => y.1 ≠ w } }
  toPool s v.group (quadKey v) v.h

/-- R112: lanes that have not exited and have not arrived since the last episode. -/
def wsyncMissing (v : Wave) : Lanes := liveLanes v &&& ~~~v.wsyncArrived

/-- R112: the episode completes when every lane that has not exited has arrived; every waiting lane proceeds. -/
def wsyncCheck (v : Wave) : Wave :=
  if v.wsyncArrived ≠ 0 ∧ wsyncMissing v = 0 then
    wake { v with wsyncArrived := 0 } (lanesThat v fun x => decide (x.sleep = .wsync))
  else v

/-- R317: the lanes of `m` become exited; a wave left with none ends. -/
def exitLanes (s : State) (w : Nat) (m : Lanes) : State :=
  let s := modWv s w fun v => wsyncCheck (modLanes v m fun x => { x with exited := true, sleep := .awake })
  if liveLanes (wv s w) = 0 then endWave s w else s

/-! ### Taking a trap (R386 to R389) -/

/-- R389: the lanes of an operation that are to be performed at replay: those that faulted and those not yet accepted
by a home or bank. -/
def heldLanes (s : State) (o : Opr) : Lanes :=
  s.accs.foldl
    (fun m a =>
      if a.op = o.id && (match a.stage with | .trans | .walk | .dir | .ready | .failed => true | _ => false) then
        m ||| a.lanes
      else m) (if o.flanes = 0 && engineOnly o.instr && o.window then o.todo else o.flanes)
where
  /-- An engine instruction that is still in the window when a trap is taken, and has not faulted, has been held whole
  behind an earlier access (R115); its lanes stand in the replay queue. -/
  engineOnly (i : Instr) : Bool :=
    match i with
    | .rast .. | .hitbin .. | .attr .. | .hvpost .. | .pgload .. | .nfmt .. | .rflush .. | .coll .. | .launchDev .. => true
    | _ => false

/-- R389: the bytes of a replay entry. -/
def entryBytes (o : Opr) (m : Lanes) : List Byte :=
  let (h, e) := headExt o.instr
  leBytes 4 h.toNat ++ leBytes 4 e.toNat ++ leBytes 4 m.toNat ++ leBytes 4 o.flanes.toNat ++ leBytes 4 o.status ++
    leBytes 1 o.words.length ++ leBytes 1 o.kind ++ leBytes 2 o.slot ++ leBytes 8 o.faddr ++
    o.words.flatMap fun w => w.flatMap fun x => leBytes 4 x.toNat

/-- The destination registers of an operation in lanes `m`, as keys of `replayEmpty`. -/
def dstKeys (o : Opr) (m : Lanes) : List Nat :=
  (specOf o.instr).dsts.flatMap fun d =>
    if d.uni then (List.range d.n).map fun k => skey (d.base + k)
    else (lanesOf m).flatMap fun l => (List.range d.n).map fun k => vkey l (d.base + k)

/-- An operation that resumes held engine work at replay (KIND 2). -/
def engineKind (o : Opr) : Bool := decide (o.kind = 2)

/-- R389: the lanes of the replay entry of an operation: the faulted ones of a walk, and all of one held whole. -/
def entryLanes (s : State) (o : Opr) : Lanes :=
  if !(engineKind o) then heldLanes s o
  else if (specOf o.instr).uni then o.lanes
  else if o.flanes = 0 then o.todo else o.flanes

/-- R388: the header of the frame. -/
def frameHeader (v : Wave) (t : Trap) (tstat : Nat) (asleep : Lanes) : List Byte :=
  let s0 := sreg v 0
  let s1 := sreg v 1
  leBytes 4 tstat ++ leBytes 4 t.lmask.toNat ++ leBytes 4 t.head.toNat ++ leBytes 4 t.ext.toNat ++ leBytes 8 t.data ++
    leBytes 4 t.status ++ leBytes 4 s0.bits.toNat ++ leBytes 4 s1.bits.toNat ++
    leBytes 1 (b2n s0.full + 2 * b2n s1.full) ++ leBytes 27 0 ++
    ((List.range 32).flatMap fun l => leBytes 8 (if (ln v l).exited then 2 ^ 64 - 1 else (ln v l).pc)) ++
    ((List.range 32).flatMap fun l =>
      leBytes 1 ((t.causes.find? fun c => c.1 = l).map (·.2.1) |>.getD 0)) ++
    ((List.range 32).flatMap fun l =>
      leBytes 8 ((t.causes.find? fun c => c.1 = l).map (·.2.2) |>.getD 0)) ++
    leBytes 4 asleep.toNat ++ leBytes 412 0

/-- The bytes `bs` written into scratch from offset `o`. -/
def scrPut (s : State) (g : Group) (o : Nat) (bs : List Byte) : State := scrWrite s g o bs.length (leNat bs)

/-- R385: ENTRY + 4 * OFF, taken as a 57-bit canonical address of the wave. -/
def handlerPc (v : Wave) : Nat := wrap 64 (v.entry + 4 * sext 30 (v.tba.toNat / 4))

/-- R386, R387: a trap taken. The frame is written with its replay entries, `s0`, `s1` and `TSTAT` change, and every lane
that is awake goes to the handler; or, where the handler cannot be entered, the trap is logged and the context fenced. -/
def takeTrap (s : State) (w : Nat) (imp : Bool) (t : Trap) : State :=
  let v := v0 s w
  let g := gp s v.group
  let es := ((v.ops.filter fun o => o.window).map fun o => (o, entryLanes s o)).filter fun e => decide (e.2 ≠ 0)
  let bodies := es.map fun e => entryBytes e.1 e.2
  let n := 1024 + (bodies.map (·.length)).foldl (· + ·) 0
  let off := v.tframe.toNat
  let faulted := (es.filter fun e => decide (e.1.flanes ≠ 0)).length
  -- the trap stands for the first of the faults in the window, or for a cause of its own
  let first := imp && v.trap.isNone
  let more := if first then decide (1 < faulted) else decide (0 < faulted)
  let skid := if first then ((es.find? fun e => decide (e.1.flanes ≠ 0)).map fun e => e.1.skid).getD 0 else 0
  let tstat := t.cls + 32 + 64 * b2n imp + 128 * b2n more + 256 * t.code + 65536 * skid + 2 ^ 24 * es.length
  if !(v.tba.getLsbD 0) || inh v || !(scrIn g off n) || !(scrModes s g off n) then
    -- the address of a control trap is the first lane's target (R388); the number of a software trap is no address
    let a := if t.cls = 7 then (t.causes.head?.map fun x => x.2.2).getD 0 else if t.cls = 8 then 0 else t.data
    fence (logEntry s v.ctx (report t.code t.cls 0 v.core a t.status)) v.ctx
  else
    let asleep := lanesThat v fun x => !x.exited && decide (x.sleep ≠ .awake)
    let s := scrPut s g off (frameHeader v t tstat asleep ++ bodies.flatten)
    let cut := es.filter fun e => !engineKind e.1
    let ids := cut.map fun e => e.1.id
    let held := fun op l : Nat => cut.any fun (e : Opr × Lanes) => decide (e.1.id = op) && inLanes e.2 l
    let s := { s with
      accs := s.accs.filter fun a =>
        !(ids.contains a.op && (match a.stage with | .trans | .walk | .dir | .ready | .failed => true | _ => false))
      frags := s.frags.filter fun f => !(decide (f.held = 3) && held f.op f.lane)
      binRecs := s.binRecs.filter fun r => !(decide (r.op ≠ 0) && held r.op r.lane)
      flushes := s.flushes.filter fun f => !(ids.contains f.op) }
    let v := cut.foldl (fun v e => splitOp v e.1 e.2) v
    let v := setSreg (setSreg v 0 { bits := BitVec.ofNat 32 off, full := true }) 1
      { bits := BitVec.ofNat 32 tstat, full := true }
    let v := { v with
      tstat := BitVec.ofNat 32 tstat, trap := none, faulting := false, holding := none, asleepAt := asleep, priority := none,
      ops := v.ops.map fun o =>
        if o.kind = 2 then { o with window := false, flanes := 0, slot := b2n (cutBefore cut o.id v.ops) } else o,
      frameOps := (es.filter engineOf).map fun e => e.1.id
      heldTiles := cut.filterMap fun e => match e.1.instr with | .lda _ x | .sta _ x => some x.c.toNat | _ => none
      -- `s0` and `s1` are the handler's own from here on, and a guard slot that waits for one waits for the frame's (log 153)
      replayEmpty := (v.replayEmpty ++ es.flatMap fun e => dstKeys e.1 (if engineOf e then e.1.todo else e.2)).filter
        fun k => k ≠ skey 0 ∧ k ≠ skey 1
      guards := v.guards.map fun g => match g with
        | .pendS r due => if r < 2 then .pendS (r + 256) due else .pendS r due
        | g => g
      lanes := v.lanes.map fun x => if awake x then { x with pc := handlerPc v } else x }
    setWv s w v
where
  /-- The wave as its frame finds it. Pending writes of `s0` and `s1` land in the frame's copies; every other one lands at its own
  cycle, in the handler (R168, log 131). -/
  v0 (s : State) (w : Nat) : Wave :=
    let v := wv s w
    let saved := fun r : Nat × Word => decide (r.1 < 2)
    let v := unstarted s v
    { v.pend.foldl (fun v p => land false v { noWrites with sregs := p.writes.sregs.filter saved }) v with
      pend := v.pend.map fun p => { p with writes := { p.writes with sregs := p.writes.sregs.filter fun r => !saved r } } }
  /-- R133: the lanes of a `barwait` whose PHASE is not being read are awake: it is performed again (log 135). -/
  unstarted (s : State) (v : Wave) : Wave :=
    let open_ := fun o : Opr => o.window && (match o.instr with | .barwait .. => decide (heldLanes s o ≠ 0) | _ => false)
    (v.ops.filter open_).foldl (fun v o => wake v (o.lanes &&& lanesThat v fun x => decide (x.sleep = .barwait 0))) v
  /-- An entry that resumes held engine work. -/
  engineOf (e : Opr × Lanes) : Bool := engineKind e.1
  /-- R102, R390: an operation before `id` is to be performed again at `rfe`; the copies of a later `kick` wait for it. -/
  cutBefore (cut : List (Opr × Lanes)) (id : Nat) (ops : List Opr) : Bool :=
    cut.any fun e => decide (e.1.id < id) || (ops.takeWhile fun o => o.id ≠ id).any fun o => o.id = e.1.id
  /-- R388: every byte of the frame lies in SCRATCH banks. -/
  scrModes (s : State) (g : Group) (o n : Nat) : Bool :=
    (List.range (n / bankBytes + 2)).all fun k =>
      let b := scrBank g o + k
      decide (scrBank g (o + n - 1) < b) || decide ((bank s g.pair b).mode = .scratch)
  /-- The lanes in the frame leave their operation; the flag stays counted for the entry (R288). -/
  splitOp (v : Wave) (o : Opr) (m : Lanes) : Wave :=
    let left := o.todo &&& ~~~m
    if left = 0 then { v with ops := v.ops.filter fun x => x.id ≠ o.id }
    else modOp (flagUp v o.flag) o.id fun x => { x with todo := left, window := false, flanes := 0 }

/-- R386: a value is on its way to `s0` or `s1` for an instruction that no frame will hold: a trap waits for it, so that it is copied into
the frame (log 153). -/
def frameRegsOwed (s : State) (w : Nat) : Bool :=
  (wv s w).ops.any fun o => !o.window && ((specOf o.instr).dsts.any fun d => d.uni && decide (d.base < 2)) &&
    ((wv s w).results.any (fun r => decide (r.op = o.id)) || s.accs.any fun a => decide (a.op = o.id))

/-- R381, R399: of the traps that are not the report of an instruction in the window, the one of a poisoned fetch is imprecise. -/
def trapImp (t : Trap) : Bool := decide (t.cls = 12)

/-- R382: a trap of wave `w`, taken at once when its replay window is empty and otherwise delivered when it has drained. -/
def raiseTrap (s : State) (w : Nat) (t : Trap) : State :=
  if windowUsed (wv s w) = 0 ∧ frameRegsOwed s w = false then takeTrap s w (trapImp t) t
  else modWv s w fun v => { v with trap := some t }

/-- The precise trap of the current instruction (R382). -/
def raisePrecise (s : State) (t : Trap) : State := raiseTrap s s.cur.wave t

/-- R388: a trap record of class `cls` and code `code` for the current instruction `i` and lanes `m`. -/
def trapOf (i : Instr) (cls code : Nat) (m : Lanes) : Trap :=
  let (h, e) := headExt i
  { cls := cls, code := code, lmask := m, head := h, ext := e, data := 0, status := code, causes := [] }

/-! ### The return from a handler (R390) -/

/-- A replay entry read back from the frame. -/
structure Entry where
  head : Word
  ext : Word
  lanes : Lanes
  words : List (List Word)
  kind : Nat
  slot : Nat
  deriving DecidableEq, Repr

/-- Replay entry number `n` upward from scratch offset `o`. -/
def readEntries (s : State) (g : Group) : Nat → Nat → List Entry
  | 0, _ => []
  | n + 1, o =>
    let nw := scrRead s g (o + 20) 1
    let word := fun k l => BitVec.ofNat 32 (scrRead s g (o + 32 + 128 * k + 4 * l) 4)
    { head := BitVec.ofNat 32 (scrRead s g o 4), ext := BitVec.ofNat 32 (scrRead s g (o + 4) 4),
      lanes := BitVec.ofNat 32 (scrRead s g (o + 8) 4), kind := scrRead s g (o + 21) 1, slot := scrRead s g (o + 22) 2,
      words := (List.range nw).map fun k => (List.range 32).map (word k) } ::
      readEntries s g n (o + 32 + 128 * nw)

/-- R390: a frame of wave `v` that lies with its `n` entries in SCRATCH banks of the allocation, and whose fields lie in their ranges. -/
def frameOk (s : State) (v : Wave) (g : Group) (o n : Nat) : Bool :=
  let ok := fun e : Entry =>
    decide (e.kind ≤ 3) && decide (e.words.length ≤ 16) && decide (e.slot < (if e.kind = 3 then 256 else 1)) &&
      (match decodeWords e.head e.ext with | .ok _ => true | .error _ => false)
  let es := readEntries s g n (o + 1024)
  let size := 1024 + (es.map fun e => 32 + 128 * e.words.length).foldl (· + ·) 0
  scrIn g o size && takeTrap.scrModes s g o size && decide (n ≤ 16) && es.all ok && decide (scrRead s g (o + 36) 1 < 4) &&
    (List.range 32).all fun l =>
      let p := scrRead s g (o + 64 + 8 * l) 8
      (ln v l).exited || (canonical p && decide (p % 4 = 0))

/-- R390: the entries of a frame performed in order: `replay` gets the wave, the operation that a KIND 2 entry resumes (0 for a
new one), and the entry. `held` are the operations that the frame held, `ids` those of its KIND 2 entries. -/
def replayEntries (w : Nat) (replay : State → Nat → Nat → Entry → State) (held : List Opr) : List Nat → List Entry → State → State
  | _, [], s => s
  | ids, e :: es, s =>
    match e.kind with
    | 3 => replayEntries w replay held ids es s
    | 2 =>
      (match held.find? fun o => decide (ids.head? = some o.id) with
      | some o =>
        let s := modWv s w fun v => { v with ops := v.ops ++ [{ o with window := true, slot := 0, flanes := 0 }] }
        replayEntries w replay held (ids.drop 1) es (replay s w o.id e)
      | none => replayEntries w replay held (ids.drop 1) es s)
    | _ => replayEntries w replay held ids es (replay s w 0 e)

/-- R325, R390: a guard slot that waited for `s0` or `s1` as the frame holds it takes its value, or waits for the register. -/
def guardBack (v : Wave) (g : Guard) : Guard :=
  match g with
  | .pendS q due =>
    let r := q % 256
    if r < 2 && (sreg v r).full then .pendQ (decide ((sreg v r).bits ≠ 0)) due else .pendS r due
  | g => g

/-- R390: the return. The frame at `s0` gives back `s0` and `s1`; each entry is performed in its original place, before what the
wave has under way; each lane's PC is restored, the lanes that slept and stand in the frame's ASLEEP resume their waits, and INH becomes
0. -/
def returnTrap (s : State) (w : Nat) (replay : State → Nat → Nat → Entry → State) : State :=
  let v := wv s w
  let g := gp s v.group
  let o := (sread v 0).toNat
  let n := bits (scrRead s g o 4) 28 24
  if !(frameOk s v g o n) then fence (logEntry s v.ctx (report 0 1 0 v.core 0 0)) v.ctx else
  let full := scrRead s g (o + 36) 1
  let es := readEntries s g n (o + 1024)
  let asleep : Lanes := BitVec.ofNat 32 (scrRead s g (o + 608) 4)
  let v := setSreg (setSreg v 0 { bits := BitVec.ofNat 32 (scrRead s g (o + 28) 4), full := bit full 0 }) 1
    { bits := BitVec.ofNat 32 (scrRead s g (o + 32) 4), full := bit full 1 }
  let held := v.ops
  let ids := v.frameOps
  let old := s.accs
  let v := { v with
    tstat := v.tstat &&& ~~~0x20#32, asleepAt := 0, replayEmpty := [], ops := [], frameOps := [], heldTiles := [], guards := v.guards.map (guardBack v),
    lanes := v.lanes.mapIdx fun l x =>
      let p := scrRead s g (o + 64 + 8 * l) 8
      if x.exited then x
      else { x with pc := p, sleep := if x.sleep = .woken || (inLanes v.asleepAt l && !inLanes asleep l) then .awake else x.sleep } }
  let s := replayEntries w replay held ids es { setWv s w v with accs := [] }
  let s := { s with accs := s.accs ++ old }
  modWv s w fun v => { v with ops := v.ops ++ held.filter fun o => !(ids.contains o.id) }

/-! ### The conditions of issue (R196, R231) -/

/-- What the conditions of issue decide: go, a wait under one of the seven conditions, or a precise trap. -/
inductive Verdict where
  | go | wait (k : Nat) | trap (cls code : Nat)
  deriving DecidableEq, Repr

/-- R174, R221: a register run lies within what the wave holds. -/
def runIn (v : Wave) (uni : Bool) (base n : Nat) : Bool :=
  if uni then decide (128 ≤ base) || decide (base + n ≤ v.uregs) else decide (base + n ≤ 8 * v.h)

/-- R231: every register run of the instruction lies within what the wave holds. -/
def runsIn (v : Wave) (sp : Spec) : Bool :=
  sp.srcs.all (fun x => runIn v x.uni x.base x.n) && sp.dsts.all fun d => runIn v d.uni d.base d.n

/-- R172: a source is empty in an active lane. -/
def srcEmpty (v : Wave) (m : Lanes) (x : Src) : Bool :=
  isRun x && decide (m ≠ 0) &&
    (if x.uni then (List.range x.n).any fun k => sEmpty v (x.base + k)
     else (lanesOf m).any fun l => (List.range x.n).any fun k => vEmpty v l (x.base + k))

/-- R172: a destination is empty in an active lane. -/
def dstEmpty (v : Wave) (m : Lanes) (d : Dst) : Bool :=
  decide (m ≠ 0) &&
    (if d.uni then (List.range d.n).any fun k => sEmpty v (d.base + k)
     else (lanesOf m).any fun l => (List.range d.n).any fun k => vEmpty v l (d.base + k))

/-- R244, R283: the predicate that guards the instruction is pending in a lane of its PC group, so that no lane is known to be
active. -/
def guardWait (v : Wave) (sp : Spec) (grp : Lanes) : Bool :=
  decide (sp.p ≠ 0) && (if sp.uni then v.qPend.getLsbD sp.p else (lanesOf grp).any fun l => (ln v l).predPend.getLsbD sp.p)

/-- R244, R283, R326: a predicate that the instruction reads or writes is pending in an active lane. -/
def predWait (v : Wave) (sp : Spec) (m : Lanes) : Bool :=
  let ks := (sp.pr ++ sp.pw).filter fun k => k ≠ 0
  if sp.uni then ks.any fun k => v.qPend.getLsbD k
  else (lanesOf m).any fun l => ks.any fun k => (ln v l).predPend.getLsbD k

/-- R168: D + 1 cycles have passed since the last issue of every lane of the group; `lastIssue` holds the cycle after it,
or 0 where the lane has not issued. -/
def distOk (v : Wave) (now : Nat) (grp : Lanes) (d : Nat) : Bool :=
  (lanesOf grp).all fun l => decide ((ln v l).lastIssue + d ≤ now) || decide ((ln v l).lastIssue = 0)

/-- R207, R245: the tags of a source agree with its check in every active lane. -/
def tagsOk (v : Wave) (m : Lanes) (x : Src) : Bool :=
  x.uni || (lanesOf m).all fun l =>
    let ts := (List.range x.n).map fun k => (vreg v l (x.base + k)).tag
    match x.tag with
    | .any => true
    | .is t => ts.all fun u => decide (u = t) || decide (u = .untyped)
    | .pair64 => ts.all (fun u => decide (u = .f64)) || ts.all fun u => decide (u = .untyped)

/-- R325: a guard slot is pending. -/
def slotPending (v : Wave) (k : Nat) : Bool :=
  match v.guards.getD k (.known true) with | .known _ => false | _ => true
/-- The value of a resolved guard slot. -/
def slotValue (v : Wave) (k : Nat) : Bool :=
  match v.guards.getD k (.known true) with | .known b => b | _ => true
/-- R228: the N instruction is discarded by its guard slot. -/
def discarded (v : Wave) (sp : Spec) : Bool := decide (sp.g ≠ 0) && (slotValue v sp.g == sp.gn)

/-- R197: the units of context `c` on a core cover a debit of 2^EC, or the context has no energy budget. -/
def ebudOk (s : State) (core c ec : Nat) : Bool :=
  decide ((cx s c).held.efill = 0) || decide (2 ^ ec ≤ tget 0 (cr s core).ebud c)

/-- R172: the sources in field order; the first that is empty decides. -/
def srcVerdict (v : Wave) (m : Lanes) : List Src → Verdict
  | [] => .go
  | x :: r => if srcEmpty v m x then (if x.trap then .trap 2 0 else .wait 3) else srcVerdict v m r

/-- R172, R196: the conditions of issue up to the register sources. -/
def gateSrc (sp : Spec) (bad : Bool) (s : State) : Verdict :=
  let v := wv s s.cur.wave
  if bad || !(runsIn v sp) then .trap 1 0
  else if !(distOk v (cycAt s v.core) s.cur.lanes sp.d) then .wait 1
  else if !(flagsClear v sp.w) then .wait 2
  else if guardWait v sp s.cur.lanes then .wait 3
  else srcVerdict v (active sp s) sp.srcs

/-- R196, R231: the conditions of issue of the current PC group's instruction, in the order of R196. `bad` is an
instruction's own illegal case, `busy` a wait of its own under condition 3 and `full` one under condition 7. Tags are
checked once nothing waits (R207, log 14). -/
def gate (sp : Spec) (bad busy full : Bool) (s : State) : Verdict :=
  let w := s.cur.wave
  let v := wv s w
  let m := active sp s
  match gateSrc sp bad s with
  | .trap c k => .trap c k
  | .wait k => .wait k
  | .go =>
    if sp.dsts.any (dstEmpty v m) || predWait v sp m || busy then .wait 3
    else if decide (sp.g ≠ 0) && slotPending v sp.g then .wait 4
    else if (match sp.ec with | some e => !(ebudOk s v.core v.ctx e) | none => false) then .wait 5
    else if sp.mat && decide ((pr s (corePair v.core)).baton ≠ some w) then .trap 5 0
    else if full || decide (63 ≤ v.flags.getD sp.flag 0) || (sp.win && decide (16 ≤ windowUsed v)) then .wait 7
    else if sp.srcs.all (tagsOk v m) then .go else .trap 3 0

/-! ### Issue -/

/-- R166: the loop buffer with an address most recently issued: it holds the 48 last issued. -/
def loopPush (b : List Nat) (pc : Nat) : List Nat := (pc :: b.filter fun x => x ≠ pc).take 48

/-- R168, R244: the register and predicate destinations of a variable-latency instruction made empty or pending. -/
def emptyDsts (v : Wave) (sp : Spec) (m : Lanes) : Wave :=
  if !sp.var || decide (m = 0) then v else
  let one := fun (v : Wave) (d : Dst) =>
    if d.uni then (List.range d.n).foldl (fun v k => setSreg v (d.base + k) { sreg v (d.base + k) with full := false }) v
    else (lanesOf m).foldl (fun v l =>
      (List.range d.n).foldl (fun v k => setVreg v l (d.base + k) { vreg v l (d.base + k) with full := false }) v) v
  let v := sp.dsts.foldl one v
  let ks := sp.pw.filter fun k => k ≠ 0
  if sp.uni then { v with qPend := ks.foldl (fun x k => setBit8 x k true) v.qPend }
  else modLanes v m fun x => { x with predPend := ks.foldl (fun y k => setBit8 y k true) x.predPend }

/-- R197: the debit of an instruction with an energy class. -/
def debit (s : State) (core c : Nat) (sp : Spec) : State :=
  match sp.ec with
  | none => s
  | some e =>
    if (cx s c).held.efill = 0 then s
    else modCr s core fun x => { x with ebud := tmod 0 x.ebud c fun n => n - 2 ^ e }

/-- R192: a task wave placed on the core that has not issued. -/
def taskWaits (s : State) (core g : Nat) : Bool :=
  let x := gp s g
  x.live && !x.posters.isEmpty && x.waves.any fun w => decide ((wv s w).core = core) && (wv s w).lanes.all fun l => decide (l.lastIssue = 0)

/-- R192: the group before the first of a list whose task wave was formed later. -/
def byForming (s : State) (g : Nat) : List Nat → List Nat
  | [] => [g]
  | x :: r => if (gp s g).launch < (gp s x).launch then g :: x :: r else x :: byForming s g r

/-- R179, R192: the core's prefetch buffer filled with the next task waves bound for it in the order of their forming, two at
most. -/
def fillPrefetch (s : State) (core : Nat) : State :=
  let held := (cr s core).prefetch
  let more := ((tkeys s.groups fun _ => true).filter fun g => !held.contains g && taskWaits s core g).foldr (byForming s) []
  modCr s core fun x => { x with prefetch := (held ++ more).take 2 }

/-- R192: the task wave of group `g` leaves the prefetch buffer as it issues. -/
def leavePrefetch (s : State) (core g : Nat) : State :=
  fillPrefetch (modCr s core fun x => { x with prefetch := x.prefetch.filter fun y => y ≠ g }) core

/-- A lane of the PC group as it issues from `pc` at cycle `now`. -/
def issueLane (sp : Spec) (pc now : Nat) (x : Lane) : Lane :=
  { x with pc := (pc + instrLen sp) % 2 ^ 64, lastIssue := now + 1, since := now, loopBuf := loopPush x.loopBuf pc }

/-- The wave as its PC group `c` issues: PCs, the distance clock, loop buffer, skid counts and the priority group move (R166, R168, R169,
R383). -/
def issueWave (sp : Spec) (c : Issue) (now : Nat) (v : Wave) : Wave :=
  let v := modLanes v c.lanes (issueLane sp c.pc now)
  { v with
    lastIssue := now, starved := false, ops := v.ops.map fun o => { o with skid := min 255 (o.skid + 1) },
    priority := match v.priority with
      | some (g, n) => if g = c.lanes then (if 63 ≤ n then none else some (g, n + 1)) else some (g, n)
      | none => none }

/-- R42, R179, R198: the core counts an issue of wave `w` of group `g`, which waits for no slot and whose task wave leaves the
prefetch buffer. -/
def countIssue (s : State) (core g w : Nat) : State :=
  let s := modCr s core fun x => { x with issued := x.issued + 1, slotQueue := x.slotQueue.filter fun y => y ≠ w }
  if (cr s core).prefetch.contains g then leavePrefetch s core g else s

/-- The current PC group issues (R166, R168, R198, R383), and the debit of R197 is made. Registers and memory do not change. -/
def advance (sp : Spec) (s : State) : State :=
  let v := wv s s.cur.wave
  debit (countIssue (setWv s s.cur.wave (issueWave sp s.cur (cycAt s v.core) v)) v.core v.group s.cur.wave) v.core v.ctx sp

/-- The kind of replay entry an instruction makes (R389). -/
def entryKind (i : Instr) (sp : Spec) : Nat :=
  match i with
  | .kick _ _ | .travs _ _ | .travr _ _ => 2
  | _ => if sp.mat then 2 else if sp.uni then 1 else 0

/-- R170, R383, R389: an operation in flight for lanes `m` and `parts` further parts, its words captured from the wave
as it stood, its destinations empty and its flag counted. The name is fresh: no other operation bears it. -/
def openOp (i : Instr) (sp : Spec) (m : Lanes) (parts : Nat) (words : List (List Word)) (s : State) : Nat × State :=
  let (id, s) := fresh s
  let w := s.cur.wave
  let o : Opr := { id := id, instr := i, pc := s.cur.pc, lanes := m, todo := m, window := sp.win, flag := sp.flag,
                   flanes := 0, status := 0, cls := 0, faddr := 0, kind := entryKind i sp, slot := 0,
                   words := words, left := parts, skid := 0, issuedAt := cycAt s (wv s w).core }
  (id, modWv s w fun v => flagUp { emptyDsts v sp m with ops := (v.ops.filter fun x => x.id ≠ id) ++ [o] } sp.flag)

/-- A wait: nothing issues; the first failing condition of the quadrant's cycle is noted for R198. -/
def stall (s : State) (k : Nat) : State := { s with stalled := if s.stalled = 0 then k else s.stalled }

/-- R411: a command to a register block that answers only once the device has come up. -/
def whenUp (s : State) (f : State → State) : State := if s.mgmt.boot = .run then f s else s

/-- R424: event `i` with its operands has fallen due and has not been performed: it is performed now. -/
def whenDue (i : Instr) (s : State) (f : State → State) : State :=
  if s.due.contains (i, s.args) then f { s with due := s.due.erase (i, s.args) } else s

/-- R196: the condition of issue at which a trap is raised, 8 where it is none of them. -/
def trapCondition (c : Nat) : Nat := match c with | 2 => 3 | 5 => 6 | _ => 8

/-- One instruction under the conditions of issue: a wait, a precise trap, or its effect on the active lanes. -/
def runOp (i : Instr) (sp : Spec) (bad busy full : Bool) (eff : Lanes → State → State) (s : State) :
    Host.Outcome State Fault Refusal :=
  match gate sp bad busy full s with
  | .wait k => .next (stall s k)
  | .trap c k => .next (raisePrecise (stall s (trapCondition c)) (trapOf i c k s.cur.lanes))
  | .go => .next (if discarded (wv s s.cur.wave) sp then advance sp s else eff (active sp s) s)

/-! ### Arithmetic instructions -/

/-- What an arithmetic instruction computes: its writes, and for each lane the flags it raised. -/
structure Alu where
  writes : Writes
  raised : List (Nat × Word)
  deriving DecidableEq, Repr

/-- All flags raised. -/
def Alu.flags (a : Alu) : Word := a.raised.foldl (fun x y => x ||| y.2) 0

/-- R209, R246: the effect of a computed result. An enabled exception traps, writes no destination and sets the sticky
flags of every exception raised, by steps whose results are not delivered too (R278); otherwise the writes land after issue + 3 for a fixed-latency instruction, or wait as
a result of the operation opened (R168, R172). -/
def aluEff (i : Instr) (sp : Spec) (a : Alu) (m : Lanes) (s : State) : State :=
  let w := s.cur.wave
  let v := wv s w
  let cause := arithCause v.fmode a.flags
  if cause ≠ 0 then
    let lm := lanesWhere fun l => a.raised.any fun r => decide (r.1 = l ∧ arithCause v.fmode r.2 ≠ 0)
    raisePrecise (modWv s w fun v => { v with fmode := v.fmode ||| a.flags ||| a.writes.sticky }) (trapOf i 4 cause lm)
  else
    let ws := { a.writes with sticky := a.writes.sticky ||| a.flags }
    if !sp.var then
      let s := advance sp s
      if m = 0 then s else modWv s w fun v => addPend v (cycAt s v.core) ws
    else
      let s := advance sp s
      if m = 0 then s else
      let (id, s) := openOp i sp m 0 [] s
      let (r, s) := fresh s
      modWv s w fun v => { v with results := v.results ++ [{ id := r, op := id, lanes := m, due := 0, writes := ws }] }

/-- An arithmetic instruction: `f` computes the result from the wave as it stands at issue and the active lanes. -/
def alu (i : Instr) (sp : Spec) (f : Wave → Lanes → Alu) (s : State) : Host.Outcome State Fault Refusal :=
  runOp i sp false false false (fun m s => aluEff i sp (f (wv s s.cur.wave) m) m s) s

/-- What one lane computes: the values of the destination registers with their tags, predicates, and flags raised. -/
structure LaneOut where
  regs : List (Word × Tag)
  preds : List (Nat × Bool)
  raised : Word
  deriving DecidableEq, Repr

/-- One register result. -/
def outReg (x : Nat) (t : Tag) : LaneOut := { regs := [(BitVec.ofNat 32 x, t)], preds := [], raised := 0 }
/-- `n` registers holding a number, all with one tag. -/
def outRun (n x : Nat) (t : Tag) : LaneOut := { regs := (natWords n x).map fun w => (w, t), preds := [], raised := 0 }
/-- One predicate result. -/
def outPred (k : Nat) (b : Bool) : LaneOut := { regs := [], preds := [(k, b)], raised := 0 }

/-- The registers named by the destinations of an instruction, in order. -/
def dstRegs (sp : Spec) : List Nat := sp.dsts.flatMap fun d => (List.range d.n).map fun k => d.base + k

/-- The writes of lane results. -/
def laneWrites (sp : Spec) (xs : List (Nat × LaneOut)) : Alu :=
  { writes := { noWrites with
      regs := xs.flatMap fun (l, o) => ((dstRegs sp).zip o.regs).map fun (r, b, t) => (l, r, b, t)
      preds := xs.flatMap fun (l, o) => o.preds.map fun (k, b) => (l, k, b) }
    raised := xs.map fun (l, o) => (l, o.raised) }

/-- R243: an instruction that computes each active lane independently: `f` gets the wave, the lane, and the value of each
source in that lane. -/
def laneAlu (i : Instr) (f : Wave → Nat → List Nat → LaneOut) (s : State) : Host.Outcome State Fault Refusal :=
  let sp := specOf i
  alu i sp (fun v m => laneWrites sp ((lanesOf m).map fun l => (l, f v l (sp.srcs.map (srcVal v l))))) s

/-- R307: a uniform instruction with register result `f` of its source values. -/
def uniAlu (i : Instr) (f : Wave → List Nat → Nat) (s : State) : Host.Outcome State Fault Refusal :=
  let sp := specOf i
  alu i sp (fun v m =>
    { writes := if m = 0 then noWrites else { noWrites with
        sregs := (dstRegs sp).zip (natWords (dstRegs sp).length (f v (sp.srcs.map (srcVal v 0)))) }
      raised := [] }) s

/-- R310: a uniform instruction that writes the predicate `k`. -/
def uniPred (i : Instr) (k : Nat) (f : Wave → List Nat → Bool) (s : State) : Host.Outcome State Fault Refusal :=
  let sp := specOf i
  alu i sp (fun v m =>
    { writes := if m = 0 then noWrites else { noWrites with qs := [(k, f v (sp.srcs.map (srcVal v 0)))] }
      raised := [] }) s

end Sys2Proof.Machine
end

