-- ==== Sys2Proof/Machine/Slices.lean ====
section
/-! DEFINITION. Homes and what stands at them: physical bytes, visibility tiles, the tags of the L2 slices, the words that
cores own, and how a home gathers the newest bytes of a line in one step (spec/02, R37, R43, R52; spec/03, R71 to R75). -/

namespace Sys2Proof.Machine

open Sys2Proof.Machine.State

/-! ### Homes (R13, R37, R38) -/

/-- R13: the end of usable GDDR7, and of GDDR7. -/
def gddrUsable : Nat := 0x47F0000000
def gddrEnd : Nat := 0x4800000000
/-- R13: the device MMIO range and the host windows. -/
def mmioBase : Nat := 0x8000000000
def hostBase : Nat := 0x100000000000
def hostEnd : Nat := 0x200000000000
/-- R13: the host port of a host-window address. -/
def hostPort (pa : Nat) : Nat := if pa < 0x180000000000 then 0 else 1
/-- R13: the address in the model of local address `pa` of another device `dev`, apart from every local address (log 125). -/
def farAddr (dev pa : Nat) : Nat := (dev + 1) * 2 ^ 52 + pa
/-- The address is another device's; `farDev` and `farLocal` are its parts. -/
def isFar (pa : Nat) : Bool := decide (2 ^ 52 ≤ pa)
def farDev (pa : Nat) : Nat := pa / 2 ^ 52 - 1
def farLocal (pa : Nat) : Nat := pa % 2 ^ 52
/-- The line lies in a host window. -/
def hostLine (line : Nat) : Bool := decide (hostBase ≤ 128 * line) && decide (128 * line < hostEnd)

/-- R37: the slice group of a granule index: the exclusive or of its eight 3-bit digits. -/
def sliceGroup (q : Nat) : Nat := (List.range 8).foldl (fun x k => x ^^^ (q / 8 ^ k % 8)) 0
/-- R37: home stack of a physical address. -/
def homeStack (pa : Nat) : Nat := pa / 4096 % 6
/-- R37: the memory-side cache region and GDDR7 channel of a physical address within its stack. -/
def homeGroup (pa : Nat) : Nat := sliceGroup (pa / 4096 / 6 % 2 ^ 24)
/-- R37: the home slice of a physical address, 256 * stack + slice. -/
def homeSlice (pa : Nat) : Nat := 256 * homeStack pa + 32 * homeGroup pa + pa / 128 % 32
/-- R37: the byte offset within the channel's device. -/
def channelOffset (pa : Nat) : Nat := pa / 4096 / 6 / 8 * 4096 + pa % 4096
/-- The region keyed 8 * stack + g of a physical address (R43). -/
def regionOf (pa : Nat) : Nat := 8 * homeStack pa + homeGroup pa

/-- The destination of a message: a home slice, 2048 + a peer device, or 8192 + a host port (R88). -/
def destOf (s : State) (pa : Nat) : Nat :=
  if isFar pa then 2048 + farDev pa
  else if hostBase ≤ pa ∧ !(prt s (hostPort pa)).cxlCache then 8192 + hostPort pa
  else homeSlice pa
/-- A destination outside the device, which the outside world answers for. -/
def remoteDest (d : Nat) : Bool := decide (2048 ≤ d)

/-! ### Channels (R88) -/

/-- A message put on its channel. -/
def send (s : State) (core dest vc : Nat) (b : MsgBody) : State :=
  let (id, s) := fresh s
  { s with net := s.net ++ [{ id := id, core := core, dest := dest, vc := vc, body := b }] }

/-- The message `id`, if it is the first of its channel between its core and its home. -/
def netFirst (s : State) (id : Nat) : Option Msg :=
  match s.net.find? fun m => m.id = id with
  | none => none
  | some m =>
    match s.net.find? fun n => decide (n.core = m.core) && decide (n.dest = m.dest) && decide (n.vc = m.vc) with
    | some n => if n.id = id then some m else none
    | none => none
/-- The message leaves the network. -/
def netDrop (s : State) (id : Nat) : State := { s with net := s.net.filter fun m => m.id ≠ id }

/-- The 4 KiB frame number of a physical address. -/
def frameOf (pa : Nat) : Nat := pa / 4096
/-- The lines that bytes `pa` to `pa + n - 1` touch. -/
def linesOf (pa n : Nat) : List Nat := (List.range (lineOf (pa + n - 1) - lineOf pa + 1)).map fun k => lineOf pa + k
/-- The bytes of `line` among `pa` to `pa + n - 1`. -/
def maskIn (line pa n : Nat) : BitVec 128 :=
  let lo := max pa (128 * line)
  byteMask (lo - 128 * line) (min (pa + n) (128 * line + 128) - lo)

/-! ### Bytes at their homes -/

/-- R54: the tile that holds a physical line, as the address of its first line. -/
def tileOf (s : State) (line : Nat) : Option Nat :=
  (s.tiles.find? fun (e : Nat × Tile) => e.2.lines.contains line).map Prod.fst

/-- Where a physical address lies among a tile's 768 bytes. -/
def tilePos (t : Tile) (pa : Nat) : Nat := 128 * t.lines.idxOf (lineOf pa) + pa % 128

/-- The byte at a home: of a tile's pinned line, or of memory (R54). -/
def homeByte (s : State) (pa : Nat) : Byte :=
  match tileOf s (lineOf pa) with
  | some t => let x := tget freeTile s.tiles t; x.bytes.getD (tilePos x pa) 0
  | none => memByte s.mem pa

/-- The identity of the launch that was accepted last among those not complete. -/
def newestLaunch (s : State) : Nat := (s.ctxs.flatMap fun (e : Nat × Ctx) => e.2.launches.map (·.id)).foldl max 0

/-- R232: a byte of a code page as it was before a write, kept with the instant of the write: the launches accepted before may still fetch it
so (log 126). -/
def keepWas (s : State) (pa : Nat) (b : Byte) : State :=
  if decide (newestLaunch s ≠ 0) && decide (memByte s.mem pa ≠ b) &&
      !(s.was.any fun e => decide (e.1 = pa) && decide (newestLaunch s < e.2.1)) then
    { s with was := s.was ++ [(pa, s.nextId, memByte s.mem pa)] }
  else s

/-- A byte written at its home. -/
def setHomeByte (s : State) (pa : Nat) (b : Byte) : State :=
  match tileOf s (lineOf pa) with
  | some t => { s with tiles := tmod freeTile s.tiles t fun x => { x with bytes := x.bytes.set (tilePos x pa) b } }
  | none => let s := keepWas s pa b; { s with mem := memSet s.mem pa b }

/-- `n` bytes at their homes as a number (R6). -/
def homeRead (s : State) (pa : Nat) : Nat → Nat
  | 0 => 0
  | n + 1 => (homeByte s pa).toNat + 256 * homeRead s (pa + 1) n

/-- The low `n` bytes of `v` written at their homes. -/
def homeWrite (s : State) (pa : Nat) : Nat → Nat → State
  | 0, _ => s
  | n + 1, v => homeWrite (setHomeByte s pa (BitVec.ofNat 8 v)) (pa + 1) n (v / 256)

/-- The bytes of a line's data under a mask, written at the home. -/
def homeLine (s : State) (line : Nat) (m : BitVec 128) (d : BitVec 1024) : State :=
  (List.range 128).foldl
    (fun s k => if m.getLsbD k then setHomeByte s (128 * line + k) (BitVec.ofNat 8 (dataBytes d k 1)) else s) s

/-- A sector of the range is poisoned (R399). -/
def poisonIn (s : State) (pa n : Nat) : Bool :=
  (List.range ((pa + n - 1) / 32 - pa / 32 + 1)).any fun k => s.poison.contains (pa / 32 + k)

/-- R82, R399: the sectors of words of a line are poisoned. -/
def poisonWords (s : State) (line : Nat) (ws : BitVec 32) : State :=
  let ks := (List.range 4).filter fun k => decide (ws.extractLsb' (8 * k) 8 ≠ 0)
  { s with poison := ks.foldl (fun l k => if l.contains (4 * line + k) then l else (4 * line + k) :: l) s.poison }

/-! ### Who owns words of a line (R71 to R74) -/

/-- The registry's entry of a line. -/
def regOf (s : State) (line : Nat) : Option RegEntry := s.registry.find? fun e => e.line = line
/-- The entry of a line gone. -/
def regDrop (s : State) (line : Nat) : State := { s with registry := s.registry.filter fun e => e.line ≠ line }

/-- R71: an entry that serves a request is the most recently used. -/
def regTouch (s : State) (line : Nat) : State :=
  if (regOf s line).isNone then s else
  { s with
    registry := s.registry.map fun e => if e.line = line then { e with stamp := s.regStamp } else e
    regStamp := s.regStamp + 1 }

/-- The 4-bit mask of word `w` in a byte mask. -/
def wordMask (m : BitVec 128) (w : Nat) : BitVec 4 := m.extractLsb' (4 * w) 4
/-- The words of a byte mask. -/
def maskWords (m : BitVec 128) : List Nat := (List.range 32).filter fun w => decide (wordMask m w ≠ 0)

/-- The owners of a list of words but one, each with its words of them. -/
def ownersOf (os : List (Nat × Nat × BitVec 4)) (ws : List Nat) (but : Option Nat) : List (Nat × BitVec 32) :=
  let mine := os.filter fun o => ws.contains o.1 && decide (some o.2.1 ≠ but)
  mine.foldl (fun l o =>
    let b : BitVec 32 := lane1 o.1
    if l.any fun x => x.1 = o.2.1 then l.map fun x => if x.1 = o.2.1 then (x.1, x.2 ||| b) else x else l ++ [(o.2.1, b)]) []

/-- The words of a line that the registry gives to core `c`. -/
def heldWords (s : State) (line c : Nat) : BitVec 32 :=
  match regOf s line with
  | none => 0
  | some e => match e.form with
    | .registered os => lanesWhere fun w => os.any fun o => o.1 = w && decide (o.2.1 = c)
    | .split ms => ms.foldl (fun w x => if x.1 = c then w ||| wordsOfMask x.2 else w) 0

/-- The words of a line whose REG from core `c` the home has not recorded yet: in the FIFO, in the network or parked. -/
def regWaiting (s : State) (c line : Nat) : BitVec 32 :=
  let one := fun (w : BitVec 32) (e : DafEntry) => match e.kind with
    | .reg l k => if l = line then w ||| wordsOfMask k else w
    | _ => w
  let msg := fun (w : BitVec 32) (m : Msg) => if m.core = c then (match m.body with | .daf e => one w e | _ => w) else w
  (s.parked.map fun p => p.msg).foldl msg (s.net.foldl msg ((cr s c).daf.foldl one 0))

/-- R72, R73: the words of its copy `x` that core `c` holds by a registration the home has recorded, its acknowledgement
come or still on its way. -/
def heldAt (s : State) (c : Nat) (x : L1Line) : BitVec 32 := x.owned ||| (x.pend &&& heldWords s x.line c)

/-- R73, R74: the words `ws` of core `c`'s copy are no longer held; its bytes stay valid. One for which a further REG is on its way
stays pending, and a later acknowledgement of another makes it owned no more. -/
def giveUp (s : State) (c : Nat) (ws : BitVec 32) (x : L1Line) : L1Line :=
  { x with
    owned := x.owned &&& ~~~ws, pend := x.pend &&& ~~~(ws &&& ~~~(regWaiting s c x.line)), dirty := x.dirty &&& ~~~(maskOfWords ws) }

/-! ### The L2 (R43, R52) -/

/-- The set of a line in its home slice; the manual does not say which (log 30). -/
def l2Set (line : Nat) : Nat := line / 192 % 2048
/-- The resident lines of the set of `line` in its home slice, itself apart. -/
def l2Mates (s : State) (line : Nat) : List (Nat × L2Tag) :=
  s.l2.filter fun e => decide (homeSlice (128 * e.1) = homeSlice (128 * line)) && decide (l2Set e.1 = l2Set line) && decide (e.1 ≠ line)

/-- R298: a line read for the DRAM die alone. -/
def dieRequest (s : State) (line core : Nat) : State :=
  let k := homeStack (128 * line)
  modStk s k fun m => { m with queue := m.queue ++ [{ line := line, sector := 0, write := false, core := core, arrived := cycOf s k, flush := 0, die := true, hp := 0 }] }

/-- A line request to the memory-side cache region of a line (R43). -/
def msRequest (s : State) (line : Nat) (write : Bool) (core : Nat) : State :=
  let k := homeStack (128 * line)
  modStk s k fun m => { m with queue := m.queue ++ [{ line := line, sector := 0, write := write, core := core, arrived := cycOf s k, flush := 0, die := false, hp := 0 }] }

/-- The sector bits of the bytes of a line. -/
def sectorBits (m : BitVec 128) : BitVec 4 :=
  (List.range 4).foldl (fun x k => if m.extractLsb' (32 * k) 32 ≠ 0 then x ||| (1#4 <<< k) else x) 0

/-- R39, R400: the line's home slice is retired. -/
def sliceOut (s : State) (line : Nat) : Bool := decide (128 * line < hostBase) && (cr s (homeSlice (128 * line) / 4)).noSlices

/-! ### The newest bytes of a line brought home (R72, R75, R82) -/

/-- The bytes of a line that a WB or a reply carries, of those in `k`, reach the home; the mask gathers them. -/
def bringEntry (line : Nat) (k : BitVec 128) (a : State × BitVec 128) (e : DafEntry) : State × BitVec 128 :=
  match e.kind with
  | .wb l m x _ | .reply l m x _ => if l = line then (homeLine a.1 line (m &&& k) x, a.2 ||| (m &&& k)) else a
  | _ => a

/-- The dirty bytes of the words `held` of an L1 copy of a line reach the home; the mask gathers them. -/
def bringCopy (line : Nat) (held : BitVec 32) (x : Option L1Line) (a : State × BitVec 128) : State × BitVec 128 :=
  match x with
  | some x => let d := x.dirty &&& maskOfWords held; (homeLine a.1 line d x.data, a.2 ||| d)
  | none => a

/-- The entry without the bytes `k` of a line, which have reached the home. -/
def spentEntry (line : Nat) (k : BitVec 128) (e : DafEntry) : DafEntry :=
  match e.kind with
  | .wb l m x o => if l = line then { e with kind := .wb l (m &&& ~~~k) x o } else e
  | .reply l m x b => if l = line then { e with kind := .reply l (m &&& ~~~k) x b } else e
  | _ => e

/-- `f` of the entry that a message of core `c` carries. -/
def onEntry {α : Type} (c : Nat) (f : α → DafEntry → α) (a : α) (m : Msg) : α :=
  if m.core = c then (match m.body with | .daf e => f a e | _ => a) else a

/-- The messages of core `c` with the entries they carry changed by `f`. -/
def mapEntries (c : Nat) (f : DafEntry → DafEntry) (ms : List Msg) : List Msg :=
  ms.map fun m => if m.core = c then (match m.body with | .daf e => { m with body := .daf (f e) } | _ => m) else m

/-- The messages of the requests parked at their homes. -/
def parkedMsgs (s : State) : List Msg := s.parked.map fun p => p.msg

/-- The entries that core `c` has sent, on their way or parked at their homes, changed by `f`. -/
def spendSent (c : Nat) (f : DafEntry → DafEntry) (s : State) : State :=
  { s with
    net := mapEntries c f s.net
    parked := s.parked.map fun p => if p.msg.core = c then { p with msg := (mapEntries c f [p.msg]).headD p.msg } else p }

/-- R72, R75: in one step core `c` returns to the home its dirty bytes of words `ws` of a line: those on their way as WB
entries, parked there, in the network or in its FIFO, and those of its L1 copy. `take` is a REVOKE or MERGE, after which the copy is
unowned; without it the core keeps what it holds, as for a FETCH. The mask gathers the bytes written. A retired core returns
nothing, and the words are poisoned (R82). -/
def pull (line : Nat) (take : Bool) (a : State × BitVec 128) (cw : Nat × BitVec 32) : State × BitVec 128 :=
  let c := cw.1
  let ws := cw.2
  let k := maskOfWords ws
  if (cr a.1 c).retired then (poisonWords a.1 line ws, a.2) else
  let a := (parkedMsgs a.1).foldl (onEntry c (bringEntry line k)) a
  let a := a.1.net.foldl (onEntry c (bringEntry line k)) a
  let a := (cr a.1 c).daf.foldl (bringEntry line k) a
  let held := match l1Find (cr a.1 c) line with | some x => heldAt a.1 c x &&& ws | none => 0
  let a := bringCopy line held (l1Find (cr a.1 c) line) a
  let s := spendSent c (spentEntry line k) a.1
  let s := if take then stopFills s c fun l => l = line else s
  (modCr s c fun y => { y with
    daf := y.daf.map (spentEntry line k)
    l1 := if take then y.l1.map fun x => if x.line = line then giveUp a.1 c held x else x else y.l1 }, a.2)

/-- R72, R74: the home has the newest of the bytes `m` of a line, in one step: the owners of words it touches are fetched or,
with `take`, revoked; a SPLIT line whose masks it overlaps is merged, and one it overlaps nowhere stays as it is. -/
def gather (s : State) (line : Nat) (m : BitVec 128) (take : Bool) : State × BitVec 128 :=
  match regOf s line with
  | none => (s, 0)
  | some e =>
    match e.form with
    | .registered os =>
      let ws := maskWords m
      let (s, k) := (ownersOf os ws none).foldl (pull line take) (regTouch s line, 0)
      if !take then (s, k) else
      let rest := os.filter fun o => !(ws.contains o.1)
      (if rest.isEmpty then regDrop s line else
        { s with registry := s.registry.map fun e => if e.line = line then { e with form := .registered rest } else e }, k)
    | .split ms =>
      if ms.any fun x => decide (x.2 &&& m ≠ 0) then
        let (s, k) := (ms.map fun x => (x.1, wordsOfMask x.2)).foldl (pull line true) (s, 0)
        (regDrop s line, k)
      else (s, 0)

/-- R43, R86: a line leaves its slice: dirty to the memory-side cache, or a HOST line, once its registered words are home, to its
host. -/
def l2Evict (s : State) (line : Nat) : State :=
  if hostLine line then
    let (s, k) := gather s line (BitVec.allOnes 128) true
    let dirty := decide ((tget noL2 s.l2 line).dirty ≠ 0) || decide (k ≠ 0)
    let (req, s) := fresh { s with l2 := tset noL2 s.l2 line noL2 }
    out { s with hostOwn := s.hostOwn.filter fun x => x ≠ line }
      (.d2h req (if dirty then 3 else 4) line (if dirty then homeRead s (128 * line) 128 else 0))
  else
    let t := tget noL2 s.l2 line
    let s := { s with l2 := tset noL2 s.l2 line noL2 }
    if t.dirty ≠ 0 then msRequest s line true 0xFFFF else s

/-- A line made resident: where its set is full an unpinned line, freely chosen (log 21), is evicted. -/
def l2Room (s : State) (line : Nat) : State :=
  if (tget noL2 s.l2 line) ≠ noL2 ∨ (l2Mates s line).length < 16 then s else
  let free := (l2Mates s line).filter fun e => e.2.pins.isEmpty
  let (n, s) := draw s
  match free[n % free.length]? with
  | some e => l2Evict s e.1
  | none => s

/-- R52: bytes of a line written in its slice: its sectors are valid and dirty, also one that the slice did not hold and that is
written in part (log 161). A sector written whole loses its poison (R399). The lines of a retired slice go to the memory-side cache directly (R400). -/
def l2Write (s : State) (line : Nat) (m : BitVec 128) : State :=
  if m = 0 then s else
  let out := sliceOut s line
  let s := if out then msRequest s line true 0xFFFF else l2Room s line
  let k := if out then 0 else sectorBits m
  let whole := (List.range 4).filter fun j => decide (m.extractLsb' (32 * j) 32 = BitVec.allOnes 32)
  { s with
    l2 := tmod noL2 s.l2 line fun t => { t with valid := t.valid ||| k, dirty := t.dirty ||| k }
    poison := s.poison.filter fun p => !(whole.any fun j => decide (p = 4 * line + j)) }

/-- Bytes written at the home. -/
def homePut (s : State) (line : Nat) (m : BitVec 128) (d : BitVec 1024) : State := l2Write (homeLine s line m d) line m

/-- R72, R74: the newest of the bytes `m` of a line stand at its home, written there as any owner's bytes are. -/
def settleLine (s : State) (line : Nat) (m : BitVec 128) (take : Bool) : State :=
  let (s, k) := gather s line m take
  l2Write s line k

/-- R71, R75: every byte of a line settled, its words unowned afterwards. -/
def gatherAll (s : State) (line : Nat) : State := settleLine s line (BitVec.allOnes 128) true

/-- The low `n` bytes of `v` written at their homes from `pa`, line by line; `k` bounds the number of lines. -/
def putBytes : Nat → Nat → Nat → Nat → State → State
  | 0, _, _, _, s => s
  | k + 1, pa, n, v, s =>
    if n = 0 then s else
    let m := min n (128 - pa % 128)
    putBytes k (pa + m) (n - m) (v / 2 ^ (8 * m))
      (homePut s (lineOf pa) (byteMask (pa % 128) m) (BitVec.ofNat 1024 ((v % 2 ^ (8 * m)) <<< (8 * (pa % 128)))))

/-- R69: the shortest time of a load that its home slice serves: its core's own slices (R39), its stack, or another. -/
def sliceDist (core pa : Nat) : Nat :=
  let k := homeSlice pa
  if k / 256 ≠ coreStack core then 70 else if k % 256 / 4 = core % 64 then 22 else 34

/-! ### Hosts that hold a line, or whose line it is (R84, R86) -/

/-- R84: a line of device memory that the host holds is snooped: given up for a write, kept shared for a read. The data of a
line that the host may have changed is a free value (log 20). -/
def snoopHost (s : State) (line : Nat) (take : Bool) : State :=
  match s.hostHeld.find? fun h => h.1 = line with
  | none => s
  | some h =>
    if !take && h.2 then s else
    let rest := s.hostHeld.filter fun x => x.1 ≠ line
    let s := out { s with hostHeld := if take then rest else (line, true) :: rest }
      (if take then .biSnpInv line else .biSnpData line)
    if h.2 then s else
    let (x, s) := draw s
    homePut s line (BitVec.allOnes 128) (BitVec.ofNat 1024 x)

/-- R86: before a unit of the device writes a HOST line its slice obtains it with RdOwn; what the host's memory holds is a free
value (log 20). -/
def ownHost (s : State) (line : Nat) : State :=
  if s.hostOwn.contains line then s else
  let (req, s) := fresh s
  let s := l2Room (out s (.d2h req 2 line 0)) line
  let (x, s) := draw s
  let s := if (tget noL2 s.l2 line).valid = 15 then s else homeLine s line (BitVec.allOnes 128) (BitVec.ofNat 1024 x)
  { s with hostOwn := line :: s.hostOwn, l2 := tmod noL2 s.l2 line fun t => { t with valid := 15 } }

/-! ### The line request of a unit's access (R43) -/

/-- A read of the line is on its way to the memory side. -/
def lineAsked (s : State) (line : Nat) : Bool :=
  let k := homeStack (128 * line)
  let m := stk s k
  (m.queue ++ m.held ++ m.slots ++ (rgn s (regionOf (128 * line))).waiting).any fun r => decide (r.line = line) && !r.write && !r.die

/-- R43, R48: a unit's read of a line that its slice does not hold asks the memory side for it, for core `core`. -/
def lineFill (s : State) (line : Nat) (m : BitVec 128) (core : Nat) : State :=
  if (tileOf s line).isSome || hostLine line then s
  else if sliceOut s line then msRequest s line false core
  else if sectorBits m &&& ~~~(tget noL2 s.l2 line).valid = 0 || lineAsked s line then s
  else msRequest s line false core

/-- What a home does before a unit of the device, a port or a peer reads or, with `take`, writes the bytes `pa` to `pa + n - 1`
there, in one step: the host's copy, the owners' bytes, and for a read the line from the memory side (log 33). -/
def reach (s : State) (pa n : Nat) (take : Bool) (core : Nat) : State :=
  (linesOf pa n).foldl (fun s line =>
    let m := maskIn line pa n
    let s := if hostLine line then (if take then ownHost s line else s) else snoopHost s line take
    let s := settleLine s line m take
    if take then s else lineFill s line m core) s

/-- R82: requests stand in line at one of the lines that the bytes touch. -/
def lineBusy (s : State) (pa n : Nat) : Bool :=
  s.parked.any fun p => decide (lineOf pa ≤ p.line) && decide (p.line ≤ lineOf (pa + n - 1))

/-- A line lies in the frame. -/
def lineIn (f line : Nat) : Bool := decide (frameOf (128 * line) = f)

/-- The bytes of a line that a WB of its own core carries are written. -/
def putEntry (line : Nat) (s : State) (e : DafEntry) : State :=
  match e.kind with
  | .wb l m x _ => if l = line then homePut s line m x else s
  | _ => s

/-- R26, R28: core `c` writes back one line of a frame that is PRIVATE to it, for an engine of its own: its WB entries and the dirty
bytes of its copy, which stays. -/
def pullOwn (c line : Nat) (s : State) : State :=
  let spent := fun e : DafEntry => match e.kind with | .wb l _ x o => if l = line then { e with kind := .wb l 0 x o } else e | _ => e
  let s := (parkedMsgs s ++ s.net).foldl (onEntry c (putEntry line)) s
  let s := (cr s c).daf.foldl (putEntry line) s
  let s := match l1Find (cr s c) line with | some x => homePut s line x.dirty x.data | none => s
  let s := stopFills (spendSent c spent s) c fun l => l = line
  modCr s c fun y => { y with
    daf := y.daf.map spent
    l1 := y.l1.map fun x => if x.line = line then { x with dirty := 0 } else x }

/-! ### One-step accesses that must wait (log 127) -/

/-- The access must wait, and with it what it is part of. -/
def mustWait (s : State) : State := { s with blocked := some 0 }
/-- R27: the access must wait for a frame to be recalled. -/
def mustRecall (s : State) (f : Nat) : State := { s with blocked := some (f + 1) }

/-- A recall of the frame is in flight. -/
def recallRuns (s : State) (f : Nat) : Bool := s.recalls.any fun r => decide (r.frame = f)
/-- R28, R33: an access to the frame waits: it is being recalled, or RELEASE_FRAME is at work on it. -/
def recalling (s : State) (f : Nat) : Bool :=
  recallRuns s f || s.ports.any fun p => p.tm.busy && decide (p.tm.op = 4) && decide (p.tm.waits.head? = some f)

/-- R28: the recall of a PRIVATE frame begins, unless it runs: the home of the frame's first line sends the message to the core (log 152). -/
def startRecall (s : State) (f : Nat) (waiters : List Nat) : State :=
  match tget .untouched s.dir f with
  | .privateTo c =>
    if recallRuns s f then s else
    let (id, s) := fresh s
    let s := { s with recalls := s.recalls ++ [{ id := id, frame := f, core := c, told := false, waiters := waiters }] }
    send s c (homeSlice (4096 * f)) 3 (.reclass id)
  | _ => s

/-- The state after what may have had to wait: as it was, with the recall that it waits for begun. -/
def orWait (s t : State) : State :=
  match t.blocked with
  | none => t
  | some 0 => s
  | some (f + 1) => startRecall s f []

/-- The same of an instruction that issues: one that must wait for an access of its own does not issue (R196). -/
def orStall (s t : State) : State := if t.blocked.isNone then t else stall (orWait s t) 7

end Sys2Proof.Machine
end

