-- ==== Sys2Proof/Machine/Translate.lean ====
section
/-! DEFINITION. Page walks, TLBs, permissions and classification (spec/01), with the one-step access that engines, ports and
instruction fetch make. -/

namespace Sys2Proof.Machine

open Sys2Proof.Machine.State

/-- R22, R25: before a walker reads or updates the `n` bytes at `a`, a table's frame that is PRIVATE is recalled, as for any
engine of a stack (log 60), and the words that cores own there are revoked. What it reads for core `c` follows the core's earlier
requests to that home (R88). -/
def walkerReach (s : State) (c : Option Nat) (a n : Nat) : State :=
  let s := if s.net.any fun m => decide (some m.core = c) && decide (m.vc = 1) && decide (m.dest = homeSlice a) then mustWait s else s
  let s := match tget .untouched s.dir (frameOf a) with | .privateTo _ => mustRecall s (frameOf a) | _ => s
  lineFill (reach s a n true 0xFFFF) (lineOf a) (maskIn (lineOf a) a n) 0xFFFF

/-! ### Page walks (R15 to R21) -/

/-- R34: a status word. -/
def statusWord (code level cls kind : Nat) (remote : Bool) : Nat :=
  code + 256 * level + 2048 * cls + 32768 * kind + 2 ^ 18 * b2n remote

/-- R34: the number of a class. -/
def clsNum (c : AccClass) : Nat :=
  match c with
  | .ld => 0 | .st => 1 | .at => 2 | .rd => 3 | .instrFetch => 4 | .cs => 5 | .cd => 6 | .sd => 7 | .im => 8 | .er => 9
/-- R17: the number of a kind. -/
def kindNum (k : PageKind) : Nat :=
  match k with | .normal => 0 | .imago => 1 | .twin => 2 | .host => 3 | .peer => 4 | .mmio => 5
/-- R17: the kind of a code; 6 and 7 name none. -/
def kindOf (k : Nat) : Option PageKind :=
  match k with
  | 0 => some .normal | 1 => some .imago | 2 => some .twin | 3 => some .host | 4 => some .peer | 5 => some .mmio
  | _ => none

/-- What a walk finds: a translation with the addresses of its leaf entries, or a fault with its level and kind. -/
inductive WalkRes where
  | ok (e : TlbEntry) (ptes : List Nat)
  | fault (code level kind : Nat)
  deriving DecidableEq, Repr

/-- R16: the entry for `va` in the table at `t` of a level. -/
def pteAddr (t level va : Nat) : Nat := t + 8 * (va / 2 ^ (12 + 9 * level) % 512)

/-- R15: the page size of a leaf, as a power of two. -/
def leafLog (level : Nat) : Nat := 12 + 9 * level

/-- R17: the frame of a leaf lies where its kind requires. -/
def frameOkFor (k : PageKind) (frame size : Nat) : Bool :=
  match k with
  | .normal | .imago => decide (frame + size ≤ gddrUsable)
  | .twin => decide (frame + 2 * size ≤ gddrUsable) && decide (frame % (2 * size) = 0)
  | .host => decide (hostBase ≤ frame) && decide (frame + size ≤ 0x200000000000)
  | .peer => true
  | .mmio => decide (mmioBase ≤ frame) && decide (frame + size ≤ mmioBase + 2 ^ 32)

/-- A translation built from a leaf entry `p` of page size 2^lg, dirty (R21) where `d`. -/
def leafEntry (asid va lg p : Nat) (d : Bool) (k : PageKind) (frame : Nat) : TlbEntry :=
  { asid := asid, base := va - va % 2 ^ lg, log2 := lg, w := bit p 2, x := bit p 3, lnd := bit p 4, d := d,
    kind := k, dev := bits p 63 52, frame := frame, lvl := (lg - 12) / 9, classes := [] }

/-- R15: every entry of the 64 KiB group at `g` carries bit `k`. -/
def groupBit (s : State) (g k : Nat) : Bool := (List.range 16).all fun i => bit (homeRead s (g + 8 * i) 8) k

/-- R15, R17: a leaf entry `p` read at a level. -/
def checkLeaf (s : State) (asid level va p a : Nat) : WalkRes :=
  let kn := bits p 10 8
  match kindOf kn with
  | none => .fault 2 level kn
  | some k =>
    let frame := bits p 51 12 * 4096
    let size := 2 ^ leafLog level
    let devBad := if k = .peer then decide (bits p 63 52 = s.mgmt.devid.toNat) else decide (bits p 63 52 ≠ 0)
    if bit p 11 || devBad || (bit p 7 && decide (level ≠ 0)) then .fault 2 level kn
    else if decide (level ≠ 0) && decide (frame % size ≠ 0) then .fault 2 level kn
    else if level = 0 ∧ bit p 7 then
      -- R15: a 64 KiB group of 16 entries
      let g := a - a % 128
      let q := fun i => homeRead s (g + 8 * i) 8
      let same := fun i => decide ((q i &&& (2 ^ 64 - 1 - 0x60)) = ((q 0 &&& (2 ^ 64 - 1 - 0x60)) + i * 4096))
      let f0 := bits (q 0) 51 12 * 4096
      if poisonIn s g 128 then .fault 0x0C 0 kn
      else if !((List.range 16).all same) || decide (f0 % 65536 ≠ 0) then .fault 9 0 kn
      else if !(frameOkFor k f0 65536) then .fault 2 0 kn
      else .ok (leafEntry asid va 16 p (groupBit s g 6) k f0) ((List.range 16).map fun i => g + 8 * i)
    else if !(frameOkFor k frame size) then .fault 2 level kn
    else .ok (leafEntry asid va (leafLog level) p (bit p 6) k frame) [a]

/-- R22: the deepest cached non-leaf entry of a stack's page-walk cache for `va`: its level and table. -/
def pwcFind (s : State) (k asid va : Nat) : Option (Nat × Nat) :=
  let es := (tget [] s.pwc k).filter fun e =>
    decide (e.asid = asid) && decide (e.tag = va / 2 ^ (12 + 9 * (e.level + 1)))
  [0, 1, 2, 3].findSome? fun l => (es.find? fun e => decide (e.level = l)).map fun e => (l, e.table)

/-- R22: an entry put into a stack's page-walk cache of 512; a full cache loses one entry, freely chosen (log 21). -/
def pwcPut (s : State) (k : Nat) (e : PwcEntry) : State :=
  let es := (tget [] s.pwc k).filter fun x => !(x.asid = e.asid && x.level = e.level && x.tag = e.tag)
  if es.length < 512 then { s with pwc := tset [] s.pwc k (e :: es) } else
    let (n, s) := draw s
    { s with pwc := tset [] s.pwc k (e :: es.eraseIdx (n % 512)) }

/-- R15, R22: one entry of a walk: the entry of the table `t` of a level, which the walker reads at its home after
recalling word ownership on it. Answers the next lower table, or the end of the walk. -/
@[irreducible] def walkEntry (c : Option Nat) (asid va level t : Nat) (s : State) : State × Except WalkRes Nat :=
  let a := pteAddr t level va
  let s := walkerReach s c a 8
  let p := homeRead s a 8
  let s := if bit p 0 && bit p 1 && bit p 7 && decide (level = 0) then walkerReach s c (a - a % 128) 128 else s
  let next := bits p 51 12 * 4096
  if s.poison.contains (a / 32) then (s, .error (.fault 0x0C level 7))
  else if !(bit p 0) then (s, .error (.fault 1 level 7))
  else if bit p 1 then (s, .error (if level ≤ 2 then checkLeaf s asid level va p a else .fault 2 level 7))
  else if level = 0 ∨ bits p 11 2 ≠ 0 ∨ bits p 63 52 ≠ 0 ∨ gddrUsable ≤ next then (s, .error (.fault 2 level 7))
  else (s, .ok next)

/-- R22: a stack's walker keeps the non-leaf entries it reads in its cache. -/
def walkKeep (s : State) (k : Option Nat) (asid va level next : Nat) : State :=
  match k with
  | some x => pwcPut s x { asid := asid, level := level, tag := va / 2 ^ (12 + 9 * (level + 1)), table := next }
  | none => s

/-- R15, R22: the walk for core `c` from the table `t` of a level downward (at level 0 `walkEntry` always ends it). -/
def walkFrom (c k : Option Nat) (asid va : Nat) : Nat → Nat → State → State × WalkRes
  | 0, t, s => match walkEntry c asid va 0 t s with
    | (s, .error r) => (s, r)
    | (s, .ok _) => (s, .fault 2 0 7)
  | l + 1, t, s => match walkEntry c asid va (l + 1) t s with
    | (s, .error r) => (s, r)
    | (s, .ok next) => walkFrom c k asid va l next (walkKeep s k asid va l next)

/-- R18: the classes that write; an imago operation says so itself. -/
def writeClass (c : AccClass) (im : Bool) : Bool :=
  match c with | .st | .at | .rd | .cd | .sd => true | .im => im | _ => false

/-- R21: the accessed bit, and for a write the dirty bit, set in every leaf entry of a page. -/
def setAD (s : State) (ptes : List Nat) (wr : Bool) : State :=
  ptes.foldl (fun s a =>
    let p := homeRead s a 8
    let q := p ||| 0x20 ||| (if wr then 0x40 else 0)
    if p = q then s else putBytes 2 a 8 q (walkerReach s none a 8)) s

/-- R18, R19, R20: the fault code of a class on a page, none where the access proceeds. `cxl` says whether the owning
port has negotiated CXL.cache. -/
def permFault (e : TlbEntry) (c : AccClass) (im cxl : Bool) (va n : Nat) : Option Nat :=
  let kindOk := match e.kind, c with
    | .normal, .sd | .normal, .im => false
    | .normal, _ => true
    | .imago, .im => true
    | .imago, _ => false
    | .twin, .ld | .twin, .cs | .twin, .sd | .twin, .er => true
    | .twin, _ => false
    | .host, .instrFetch | .host, .sd | .host, .im => false
    | .host, _ => true
    | .peer, .instrFetch | .peer, .sd => false
    | .peer, _ => true
    | .mmio, .ld | .mmio, .st => true
    | .mmio, _ => false
  if !kindOk then some 5
  else if writeClass c im && !e.w then some 3
  else if decide (c = .instrFetch) && !e.x then some 4
  else if decide (e.kind = .mmio) && !([1, 2, 4, 8].contains n && decide (va % n = 0)) then some 8
  else if decide (e.kind = .host) && (decide (c = .at) || decide (c = .rd)) && !cxl then some 0x0B
  else none

/-- R143: the visible side of the twin page whose side 0 is at `frame`. -/
def twinSide (s : State) (frame : Nat) : Bool := tget false s.twins frame

/-- The pod-physical address of an access through a translation: PEER frames carry their device, and a twin page is read
on its visible side and written on its shadow side (R13, R19). -/
def physOf (s : State) (e : TlbEntry) (c : AccClass) (va : Nat) : Nat :=
  let off := va % 2 ^ e.log2
  match e.kind with
  | .peer => farAddr e.dev (e.frame + off)
  | .twin =>
    let vis := twinSide s e.frame
    let side := if c = .sd then !vis else vis
    e.frame + (if side then 2 ^ e.log2 else 0) + off
  | _ => e.frame + off

/-- R35: code 0x0A, a PEER target with no route or a HOST window whose port is down. -/
def unreachable (s : State) (e : TlbEntry) : Bool :=
  match e.kind with
  | .peer => (tget 0 s.mgmt.routes e.dev &&& s.mgmt.fabricUp) = 0
  | .host => !(prt s (hostPort e.frame)).up
  | _ => false

/-! ### Classification (R25 to R28) -/

/-- R27: a demand access to a NORMAL frame by an agent of `core`, or by a non-core agent where that is none. -/
def classify (s : State) (f : Nat) (core : Option Nat) : State :=
  match tget .untouched s.dir f, core with
  | .privateTo c, some d => if c = d && !(recalling s f) then s else mustRecall s f
  | .privateTo _, none => mustRecall s f
  | st, core => if recalling s f then mustWait s else match st, core with
  | .untouched, some c => { s with dir := tset .untouched s.dir f (.privateTo c) }
  | .untouched, none => { s with dir := tset .untouched s.dir f .shared }
  | _, _ => s

/-! ### The TLBs (R22, R23) -/

/-- A translation held by a TLB. -/
def tlbFind (t : List TlbEntry) (asid va : Nat) : Option TlbEntry :=
  t.find? fun e => decide (e.asid = asid) && decide (e.base = va - va % 2 ^ e.log2)

/-- R22: an entry put into a TLB of `sets` sets of `ways`; a full set loses a freely chosen entry (log 21). The index is the
number of the page, modulo the sets: the manual's bits for the L1 TLB, the model's choice for the L2 TLB (log 30). -/
def tlbPut (s : State) (t : List TlbEntry) (sets ways : Nat) (e : TlbEntry) : State × List TlbEntry :=
  let set := fun x : TlbEntry => x.base / 2 ^ x.log2 % sets
  let e := { e with lvl := 7 }
  let t := t.filter fun x => !(x.asid = e.asid && x.base = e.base && x.log2 = e.log2)
  let here := t.filter fun x => decide (set x = set e)
  if here.length < ways then (s, e :: t) else
    let (n, s) := draw s
    match here[n % here.length]? with
    | none => (s, e :: t)
    | some x => (s, e :: t.filter fun y => y ≠ x)

/-- R22: a translation installed in a core's L1 TLB. -/
def l1TlbPut (s : State) (c : Nat) (e : TlbEntry) : State :=
  let (s, t) := tlbPut s (cr s c).tlb 64 4 e
  modCr s c fun y => { y with tlb := t }
/-- R22: a translation installed in a stack's L2 TLB. -/
def l2TlbPut (s : State) (k : Nat) (e : TlbEntry) : State :=
  let (s, t) := tlbPut s (tget [] s.l2tlb k) 1024 8 { e with classes := [] }
  { s with l2tlb := tset [] s.l2tlb k t }

/-- R23: the codes that a walk from memory must confirm. -/
def confirmed (code : Nat) : Bool := [1, 3, 4, 5].contains code

/-- R23: before a walk confirms a fault, the cached translation of `va` is dropped, from core `core`'s L1 TLB and stack `k`'s L2
TLB, with what its walk cache holds of the address space. -/
def dropCached (s : State) (core : Option Nat) (k asid va : Nat) : State :=
  let gone := fun e : TlbEntry => decide (e.asid = asid) && decide (e.base = va - va % 2 ^ e.log2)
  let s := match core with
    | some c => modCr s c fun y => { y with tlb := y.tlb.filter fun e => !gone e }
    | none => s
  { s with
    l2tlb := tmod [] s.l2tlb k fun t => t.filter fun e => !gone e
    pwc := tmod [] s.pwc k fun es => es.filter fun x => decide (x.asid ≠ asid) }

/-- R23: what a walk finds is a fault that a second walk must confirm; `bad` is the code of the access on a page. -/
def unsure (bad : State → TlbEntry → Option Nat) (s : State) (r : WalkRes) : Bool :=
  match r with
  | .fault code _ _ => confirmed code
  | .ok e _ => ((bad s e).map confirmed).getD false

/-- R22, R23: one walk by stack `k`: from its page-walk cache where that holds a table. A fault that must be confirmed is what a
second walk from memory finds. -/
def walkBy (s : State) (core : Option Nat) (k asid root va : Nat) (bad : State → TlbEntry → Option Nat) : State × WalkRes :=
  let (s, r) := match pwcFind s k asid va with
    | none => walkFrom core (some k) asid va 4 root s
    | some (l, t) => walkFrom core (some k) asid va l t s
  if unsure bad s r then walkFrom core (some k) asid va 4 root (dropCached s core k asid va) else (s, r)

/-- R22: every one of a stack's 64 walkers is on a walk. -/
def walkersFull (s : State) (k : Nat) : Bool := decide (64 ≤ (s.walks.filter fun w => w.stack = k).length)

/-! ### The one-step access -/

/-- Who makes a one-step access: an agent of a core, or a unit of a stack that is no core's (R26). -/
inductive Agent where
  | core (c : Nat) | unit (k : Nat)
  deriving DecidableEq, Repr

/-- The core of an agent, and its stack. -/
def Agent.core? : Agent → Option Nat
  | .core c => some c
  | .unit _ => none
def Agent.stack : Agent → Nat
  | .core c => coreStack c
  | .unit k => k
/-- The core that a line request of the agent names (R51). -/
def Agent.asker : Agent → Nat
  | .core c => c
  | .unit _ => 0xFFFF

/-- R22: the translation of an access that an agent's TLBs hold and that serves it, with the state it leaves: one from the L2 TLB
enters the L1 TLB. -/
def tlbServe (s : State) (ag : Agent) (asid va : Nat) (fits : TlbEntry → Bool) : Option (State × TlbEntry) :=
  let l1 := match ag with | .core c => (tlbFind (cr s c).tlb asid va).filter fits | .unit _ => none
  match l1 with
  | some e => some (s, e)
  | none => match (tlbFind (tget [] s.l2tlb ag.stack) asid va).filter fits with
    | some e => some (match ag with | .core c => l1TlbPut s c e | .unit _ => s, e)
    | none => none

/-- R22: the translation for `va` in a context, of an access that writes or not and that `bad` checks: by the agent's TLBs where they
serve the access, or by a walk with its A and D updates (R21), which enters them; with the fault code and status otherwise (R34 to
R36). It must wait while every walker of the stack is busy, and for a walk of its page that is in flight, with whose result it goes
on (R24). -/
def translateBy (s : State) (ag : Agent) (c cn : Nat) (wr : Bool) (va : Nat) (bad : State → TlbEntry → Option Nat) :
    State × Except Nat TlbEntry :=
  let x := cx s c
  let asid := x.held.asid.toNat
  let k := ag.stack
  if !(canonical va) then (s, .error (statusWord 6 7 cn 7 false))
  else if !x.bound then (s, .error (statusWord 0x0D 7 cn 7 false))
  else match tlbServe s ag asid va fun e => (bad s e).isNone && (e.d || !wr) with
  | some (s, e) => (s, if unreachable s e then .error (statusWord 0x0A 7 cn (kindNum e.kind) true) else .ok e)
  | none =>
    if walkersFull s k || s.walks.any (fun w => decide (w.asid = asid) && decide (w.page = va / 4096) && !w.stale) then (mustWait s, .error (statusWord 1 7 cn 7 false)) else
    match walkBy s ag.core? k asid x.held.root.toNat va bad with
    | (s, .fault code lv kn) => (s, .error (statusWord code lv cn kn false))
    | (s, .ok e ptes) =>
      let lv := (e.log2 - 12) / 9
      match bad s e with
      | some code => (s, .error (statusWord code lv cn (kindNum e.kind) false))
      | none =>
        if unreachable s e then (s, .error (statusWord 0x0A lv cn (kindNum e.kind) true))
        else
          let e := { e with d := e.d || wr }
          let s := l2TlbPut (setAD s ptes wr) k e
          (match ag with | .core c => l1TlbPut s c e | .unit _ => s, .ok e)

/-- The same for an access of a class that R19 checks. -/
def translate (s : State) (ag : Agent) (c : Nat) (cls : AccClass) (im : Bool) (va n : Nat) : State × Except Nat TlbEntry :=
  translateBy s ag c (clsNum cls) (writeClass cls im) va
    fun s e => permFault e cls im (prt s (hostPort e.frame)).cxlCache va n

/-- R69: the cycles that the path which serves a line takes beyond an L1 hit. -/
def missTime (s : State) (c pa : Nat) : Nat :=
  let line := lineOf pa
  let cc := if sectorBits (maskIn line pa 32) &&& ~~~(tget noL2 s.l2 line).valid = 0 || (tileOf s line).isSome then sliceDist c pa
    else if (tget noMsLine s.msLines line).present then 140 else 380
  cc - 8

/-- R42: the L2 line request slots of a core in use: one for each line of which an instruction awaits the reply, for each fetch under
way, and for each request of an engine whose reply has not been accepted. -/
def slotsUsed (s : State) (c : Nat) : Nat :=
  let takes := fun a : Acc => decide (a.core = c) && (match a.cls with | .st | .rd => false | _ => decide (a.kind ≠ .mmio)) &&
    (match a.stage with | .home | .parked => true | _ => false)
  ((s.accs.filter takes).map fun a => (a.op, a.pa / 128)).eraseDups.length + (cr s c).fetches.length +
    ((cr s c).reqs.filter fun q => decide (cycAt s c < q.2.2)).length

/-- R42: a request for a line leaves core `c` for a slice: its slot is held for the time of the path that serves the line (R69), in which
the reply is accepted (log 156). -/
def takeSlot (c : Nat) (s : State) (line : Nat) : State :=
  let now := cycAt s c
  let old := (cr s c).reqs.filter fun q => decide (now < q.2.2)
  if old.any fun q => decide (q.1 = line) then s
  else modCr s c fun x => { x with reqs := old ++ [(line, now, now + missTime s c (128 * line))] }

/-- The lines of bytes that an access reads or writes at once, which core `c`'s L1 does not hold. -/
def linesAway (s : State) (c pa n : Nat) : List Nat := (linesOf pa n).filter fun l => (l1Find (cr s c) l).isNone

/-- R42: the waves of a core that wait for a slot and can still issue, in the order they began. -/
def slotWaiters (s : State) (c : Nat) : List Nat :=
  (cr s c).slotQueue.filter fun w => let v := wv s w; v.live && !v.saved && !v.faulting && v.trap.isNone

/-- R42: a memory instruction of wave `w` waits for a slot: none is free, or other waves began to wait first. -/
def slotsWait (s : State) (c w : Nat) : Bool :=
  decide (384 ≤ slotsUsed s c) || (match slotWaiters s c with | [] => false | x :: _ => decide (x ≠ w))

/-- R42: an agent of a core finds no free slot for a line that its L1 does not hold. The lines that one event asks for take their turn as
slots come free in it (log 156). -/
def noSlot (s : State) (ag : Agent) (pa n : Nat) : Bool :=
  match ag with
  | .core c =>
    let before := { cr s c with reqs := (cr s c).reqs.filter fun q => decide (q.2.1 < cycAt s c) }
    !(linesAway s c pa n).isEmpty && decide (384 ≤ slotsUsed (setCr s c before) c)
  | .unit _ => false

/-- An engine's, port's or fetch's demand access to bytes that lie in one page: translated, its frame classified (R27) and its
lines made ready at their homes (R82, R83); the address at which it is performed, with the level that a status word names (R34), or the
status of its fault. A write waits behind the requests that stand at its line (R82). -/
def demandAt (s : State) (ag : Agent) (c : Nat) (cls : AccClass) (va n : Nat) : State × Except Nat (Nat × Nat) :=
  match translate s ag c cls false va n with
  | (s, .error st) => (s, .error st)
  | (s, .ok e) =>
    let pa := physOf s e cls va
    let wr := writeClass cls false
    let s := if e.kind = .normal then classify s (frameOf pa) ag.core? else s
    if isFar pa || decide (e.kind = .mmio) || (decide (e.kind = .host) && remoteDest (destOf s pa)) then (s, .ok (pa, e.lvl))
    else if wr && lineBusy s pa n then (mustWait s, .ok (pa, e.lvl))
    else if noSlot s ag pa n then (mustWait s, .ok (pa, e.lvl))
    else
      let s := match ag with | .core c => (linesAway s c pa n).foldl (takeSlot c) s | .unit _ => s
      let s := reach s pa n wr ag.asker
      (match ag with
      | .core c => if tget .untouched s.dir (frameOf pa) = .privateTo c then (linesOf pa n).foldl (fun s l => pullOwn c l s) s else s
      | .unit _ => s, .ok (pa, e.lvl))

/-- The same for the address alone. -/
def demand (s : State) (ag : Agent) (c : Nat) (cls : AccClass) (va n : Nat) : State × Except Nat Nat :=
  match demandAt s ag c cls va n with
  | (s, .error st) => (s, .error st)
  | (s, .ok x) => (s, .ok x.1)

end Sys2Proof.Machine
end

