-- ==== Sys2Proof/Machine/Control.lean ====
section
/-! DEFINITION. Branches, jumps, calls and returns, ending lanes and waves, software traps, system registers, the register
pool, guard slots and election (spec/13, R312 to R326; spec/07, R175 to R177). -/

namespace Sys2Proof.Machine

open Sys2Proof.Machine.State

/-- A control instruction: `eff` acts on the active lanes once the PC group has issued. -/
def control (i : Instr) (eff : Lanes → State → State) (s : State) : Host.Outcome State Fault Refusal :=
  let sp := specOf i
  runOp i sp false false false (fun m s => orStall s (eff m (advance sp s))) s

/-! ### Branches and jumps (R312 to R316) -/

/-- R227, R312: next + 4 * OFF. -/
def directTarget (pc : Nat) (t : BExt) : Nat := wrap 64 ((pc + 8 : Nat) + 4 * sext 24 t.off.toNat)
/-- R312: the register value + 4 * OFF, modulo 2^64. -/
def registerTarget (x : Nat) (t : BExt) : Nat := wrap 64 ((x : Nat) + 4 * sext 24 t.off.toNat)

/-- The PCs of the lanes of `m` of wave `w`. -/
def setPcs (s : State) (w : Nat) (m : Lanes) (f : Nat → Nat) : State :=
  modWv s w fun v => { v with lanes := v.lanes.mapIdx fun l x => if inLanes m l then { x with pc := f l } else x }

/-- R313: `br`. -/
def execBr (h : Head) (t : BExt) (s : State) : Host.Outcome State Fault Refusal :=
  control (.br h t) (fun m s => setPcs s s.cur.wave m fun _ => directTarget s.cur.pc t) s

/-- R313: `ubr`. -/
def execUbr (h : Head) (t : BExt) (s : State) : Host.Outcome State Fault Refusal :=
  control (.ubr h t) (fun m s => setPcs s s.cur.wave m fun _ => directTarget s.cur.pc t) s

/-- R314: a lane link, the address after the two-word call. -/
def laneLinks (sp : Spec) (m : Lanes) (pc : Nat) : Writes :=
  { noWrites with regs := (lanesOf m).flatMap fun l =>
      ((dstRegs sp).zip (natWords 2 (pc + 8))).map fun (r, b) => (l, r, b, Tag.untyped) }

/-- R314: the direct `call`. -/
def execCallDirect (h : Head) (t : BExt) (s : State) : Host.Outcome State Fault Refusal :=
  let i := Instr.callDirect h t
  control i (fun m s =>
    let w := s.cur.wave
    let s := setPcs s w m fun _ => directTarget s.cur.pc t
    if m = 0 then s else
    modWv s w fun v => addPend v (cycAt s v.core) (laneLinks (specOf i) m s.cur.pc)) s

/-- R314: `ucall`. -/
def execUcall (h : Head) (t : BExt) (s : State) : Host.Outcome State Fault Refusal :=
  let i := Instr.ucall h t
  control i (fun m s =>
    let w := s.cur.wave
    let s := setPcs s w m fun _ => directTarget s.cur.pc t
    if m = 0 then s else
    modWv s w fun v => addPend v (cycAt s v.core)
      { noWrites with sregs := (dstRegs (specOf i)).zip (natWords 2 (s.cur.pc + 8)) }) s

/-- R316: a land word. -/
def landWord (w : Nat) : Bool := bit w 31 == false && bit w 30 == false && decide (bits w 23 0 = 0xD40000)

/-- R315: the check of one target: the state after it, the cause (0 for none) and the status word of a translation
fault. -/
def checkTarget (s : State) (core ctx t : Nat) (lnd : Bool) : State × Nat × Nat :=
  if t % 4 ≠ 0 then (s, 0x20, 0x20)
  else if !(canonical t) then (s, 6, statusWord 6 7 4 7 false)
  else match translate s (.core core) ctx .instrFetch false t 4 with
    | (s, .error st) => (s, st % 256, st)
    | (s, .ok e) =>
      if lnd && e.lnd then
        match demand s (.core core) ctx .instrFetch t 4 with
        | (s, .error st) => (s, st % 256, st)
        | (s, .ok pa) =>
          -- a word that cannot be read raises its error where it is fetched (R399)
          if poisonIn s pa 4 || landWord (homeRead s pa 4) then (s, 0, 0)
          else (s, 7, statusWord 7 e.lvl 4 (kindNum e.kind) false)
      else (s, 0, 0)

/-- R315: the checks of the lanes' targets in turn; for each lane its cause, target and status. -/
def checkTargets (core ctx : Nat) (lnd : Bool) : List (Nat × Nat) → State → State × List (Nat × Nat × Nat × Nat)
  | [], s => (s, [])
  | (l, t) :: r, s =>
    let (s, c, st) := checkTarget s core ctx t lnd
    let (s, cs) := checkTargets core ctx lnd r s
    (s, (l, c, t, st) :: cs)

/-- R315: an instruction with register targets: `ts` gives each active lane's target. The lanes with no cause take
theirs, with the writes `link` makes for them; the others keep their PCs at the instruction, and any cause is one precise
control trap. -/
def registerJump (i : Instr) (lnd : Bool) (ts : Wave → Lanes → List (Nat × Nat)) (link : Lanes → Writes) (s : State) :
    Host.Outcome State Fault Refusal :=
  control i (fun m s =>
    let w := s.cur.wave
    let v := wv s w
    let (s, cs) := checkTargets v.core v.ctx lnd (ts v m) s
    let good := lanesWhere fun l => cs.any fun c => c.1 = l && c.2.1 = 0
    let bad := cs.filter fun c => decide (c.2.1 ≠ 0)
    let s := setPcs s w good fun l => ((cs.find? fun c => c.1 = l).map fun c => c.2.2.1).getD 0
    let s := if good = 0 then s else modWv s w fun v => addPend v (cycAt s v.core) (link good)
    match bad with
    | [] => s
    | b :: _ =>
      let lm := lanesWhere fun l => bad.any fun c => c.1 = l
      let s := setPcs s w lm fun _ => s.cur.pc
      raisePrecise s { trapOf i 7 b.2.1 lm with status := b.2.2.2, causes := bad.map fun c => (c.1, c.2.1, c.2.2.1) }) s

/-- The lanes' register targets: the pair at `b` in each lane. -/
def laneTargets (b : Nat) (f : Nat → Nat) (v : Wave) (m : Lanes) : List (Nat × Nat) :=
  (lanesOf m).map fun l => (l, f (wordsNat (vrun v l b 2)))

/-- One uniform register target for every lane of the PC group. -/
def uniTargets (b : Nat) (f : Nat → Nat) (v : Wave) (m : Lanes) : List (Nat × Nat) :=
  (lanesOf m).map fun l => (l, f (wordsNat (srun v b 2)))

/-- R314: `jmp`. -/
def execJmp (h : Head) (t : BExt) (s : State) : Host.Outcome State Fault Refusal :=
  registerJump (.jmp h t) true (laneTargets h.b.toNat fun x => registerTarget x t) (fun _ => noWrites) s

/-- R314: the register-target `call`. -/
def execCallRegister (h : Head) (t : BExt) (s : State) : Host.Outcome State Fault Refusal :=
  let i := Instr.callRegister h t
  registerJump i true (laneTargets h.b.toNat fun x => registerTarget x t) (fun m => laneLinks (specOf i) m s.cur.pc) s

/-- R314: `ret`. -/
def execRet (h : Head) (t : BExt) (s : State) : Host.Outcome State Fault Refusal :=
  registerJump (.ret h t) false (laneTargets h.b.toNat id) (fun _ => noWrites) s

/-- R314: the short `ret v0:v1`. -/
def execRetShort (h : Head) (s : State) : Host.Outcome State Fault Refusal :=
  registerJump (.retShort h) false (laneTargets 0 id) (fun _ => noWrites) s

/-- R314: `ujmp`. -/
def execUjmp (h : Head) (t : BExt) (s : State) : Host.Outcome State Fault Refusal :=
  registerJump (.ujmp h t) true (uniTargets h.b.toNat fun x => registerTarget x t) (fun _ => noWrites) s

/-- R314: `uret`. -/
def execUret (h : Head) (t : BExt) (s : State) : Host.Outcome State Fault Refusal :=
  registerJump (.uret h t) false (uniTargets h.b.toNat id) (fun _ => noWrites) s

/-- R314: the short `uret s0:s1`. -/
def execUretShort (h : Head) (s : State) : Host.Outcome State Fault Refusal :=
  registerJump (.uretShort h) false (uniTargets 0 id) (fun _ => noWrites) s

/-- R316: `land` has no effect of its own. -/
def execLand (h : Head) (s : State) : Host.Outcome State Fault Refusal := control (.land h) (fun _ s => s) s

/-- R222: `nop`. -/
def execNop (h : Head) (s : State) : Host.Outcome State Fault Refusal := control (.nop h) (fun _ s => s) s

/-! ### Ending lanes and waves (R317) -/

/-- R317: `exit` with a guard. -/
def execExitL (h : Head) (t : BExt) (s : State) : Host.Outcome State Fault Refusal :=
  control (.exitL h t) (fun m s => exitLanes s s.cur.wave m) s

/-- R317: the short `exit`. -/
def execExitShort (h : Head) (s : State) : Host.Outcome State Fault Refusal :=
  control (.exitShort h) (fun m s => exitLanes s s.cur.wave m) s

/-- R317: `end` with a guard: every lane of the wave, wherever it stands. -/
def execEndW (h : Head) (t : BExt) (s : State) : Host.Outcome State Fault Refusal :=
  control (.endW h t) (fun m s => if m = 0 then s else exitLanes s s.cur.wave allLanes) s

/-- R317: the short `end`. -/
def execEndShort (h : Head) (s : State) : Host.Outcome State Fault Refusal :=
  control (.endShort h) (fun m s => if m = 0 then s else exitLanes s s.cur.wave allLanes) s

/-! ### Software traps (R319) -/

/-- R319: `trap`; the resumption address is the next instruction. -/
def execTrapSw (h : Head) (e : IExt) (s : State) : Host.Outcome State Fault Refusal :=
  let i := Instr.trapSw h e
  control i (fun m s => if m = 0 then s else raisePrecise s { trapOf i 8 0 m with data := e.imm.toNat }) s

/-! ### System registers (R321 to R323) -/

/-- R46, R322: the thermal allowance of a core. -/
def thalw (s : State) (c : Core) : Nat :=
  let t := min c.dieTerm c.dramTerm
  if s.mgmt.capped then min t 127 else t

/-- R197: `EBUD` of a context on a core as it reads. -/
def ebudRead (s : State) (core c : Nat) : Nat :=
  if (cx s c).held.efill = 0 then 0xFFFFFF else tget 0 (cr s core).ebud c

/-- R177: `CLAIMS` as wave `w` reads it. -/
def claimsRead (s : State) (w : Nat) : Nat :=
  let v := wv s w
  let p := poolOf (gp s v.group) (quadKey v)
  v.h % 64 + 256 * p.free + 65536 * min 15 p.queue.length + 2 ^ 24 * b2n p.dlk

/-- R321, R322: a system register as wave `w` reads it; none for a reserved number. -/
def sysRead (s : State) (w num : Nat) : Option Nat :=
  let v := wv s w
  let c := v.core
  match num with
  | 0x000 => some (cycAt s c % 2 ^ 32)
  | 0x001 => some ((v.cycHigh.map (·.toNat)).getD (cycAt s c / 2 ^ 32 % 2 ^ 32))
  | 0x010 => some (c + 65536 * (c % 64) + 2 ^ 22 * v.quad)
  | 0x011 => some (corePair c + 256 * (c % 2))
  | 0x012 => some (coreStack c + 65536 * s.mgmt.devid.toNat)
  | 0x020 => some (thalw s (cr s c))
  | 0x030 => some (ebudRead s c v.ctx)
  | 0x031 => some (cx s v.ctx).held.efill.toNat
  | 0x040 => some v.fmode.toNat
  | 0x050 => some (claimsRead s w)
  | 0x060 => some (256 - (cr s c).scarab.length + 65536 * ((cr s c).scarab.filter fun x => x.wave = w).length)
  | 0x070 => some (s.mgmt.owner.toNat + 65536 * s.mgmt.lease.toNat)
  | 0x080 => some v.tstat.toNat
  | 0x081 => some v.tba.toNat
  | 0x082 => some v.tframe.toNat
  | _ => none

/-- R323: `sgetr`; a read of number 0 latches the high word of the count. -/
def execSgetr (h : Head) (e : IExt) (s : State) : Host.Outcome State Fault Refusal :=
  let i := Instr.sgetr h e
  let sp := specOf i
  let num := e.imm.toNat
  runOp i sp (sysRead s s.cur.wave num).isNone false false (fun m s =>
    let x := (sysRead s s.cur.wave num).getD 0
    let s := if num = 0 ∧ m ≠ 0 then
        modWv s s.cur.wave fun v => { v with cycHigh := some (BitVec.ofNat 32 (cycAt s v.core / 2 ^ 32)) }
      else s
    aluEff i sp { writes := { noWrites with sregs := [(h.a.toNat, BitVec.ofNat 32 x)] }, raised := [] } m s) s

/-- R323: the numbers a program may write. -/
def sysWritable (num : Nat) : Bool := [0x040, 0x050, 0x080, 0x081, 0x082].contains num

/-- R209: RND and DEN hold values that are not reserved. -/
def fmodeOk (x : Nat) : Bool := decide (1 ≤ x % 8) && decide (x % 8 ≤ 5) && decide (bits x 4 3 ≠ 3)

/-- R323: `ssetr`, effective at the end of issue + 3. -/
def execSsetr (h : Head) (e : IExt) (s : State) : Host.Outcome State Fault Refusal :=
  let i := Instr.ssetr h e
  let sp := specOf i
  let num := e.imm.toNat
  runOp i sp (!(sysWritable num)) false false (fun m s =>
    let x := (sp.srcs.map (srcVal (wv s s.cur.wave) 0)).getD 0 0
    if m ≠ 0 ∧ num = 0x040 ∧ fmodeOk x = false then raisePrecise s (trapOf i 1 0 s.cur.lanes)
    else aluEff i sp { writes := { noWrites with sys := [(num, BitVec.ofNat 32 x)] }, raised := [] } m s) s

/-! ### The register pool (R175, R176, R324) -/

/-- R175: `rclaim`: the claim joins its pool's queue, the PC group sleeps, and the queue is served. -/
def execRclaim (h : Head) (e : IExt) (s : State) : Host.Outcome State Fault Refusal :=
  let i := Instr.rclaim h e
  let sp := specOf i
  runOp i sp false false false (fun m s =>
    let w := s.cur.wave
    let v := wv s w
    let k := (sp.srcs.map (srcVal v 0)).getD 0 0
    if m = 0 then advance sp s
    else if k < 1 ∨ 32 < v.h + k then raisePrecise s (trapOf i 1 0 s.cur.lanes)
    else
      let s := advance sp s
      let s := modWv s w fun v => modLanes v m fun x => { x with sleep := .rclaim k }
      let q := quadKey v
      let s := modGp s v.group fun g => setPool g { poolOf g q with queue := (poolOf g q).queue ++ [(w, k, m)] }
      serveQueue v.group q (poolOf (gp s v.group) q).queue.length s) s

/-- R173: every register of granules `h - k` to `h - 1` is full. -/
def granulesFull (v : Wave) (k : Nat) : Bool :=
  v.vregs.all fun e => e.2.full || decide (e.1 % 256 < 8 * (v.h - k)) || decide (8 * v.h ≤ e.1 % 256)

/-- R175: `rfree`, which waits until the registers it releases are full (log 22). -/
def execRfree (h : Head) (e : IExt) (s : State) : Host.Outcome State Fault Refusal :=
  let i := Instr.rfree h e
  let sp := specOf i
  let v := wv s s.cur.wave
  let k := (sp.srcs.map (srcVal v 0)).getD 0 0
  let ok := decide (1 ≤ k) && decide (k < v.h)
  runOp i sp false (decide (active sp s ≠ 0) && ok && !(granulesFull v k)) false (fun m s =>
    let w := s.cur.wave
    if m = 0 then advance sp s
    else if !ok then raisePrecise s (trapOf i 1 0 s.cur.lanes)
    else
      let s := advance sp s
      let s := modWv s w fun v =>
        { v with h := v.h - k, vregs := v.vregs.filter fun x => decide (x.1 % 256 < 8 * (v.h - k)) }
      toPool s v.group (quadKey v) k) s

/-! ### Guard slots and election (R325, R326) -/

/-- R325: `guard`: the slot is pending, and takes its value at the end of issue + 3, or when its source fills. -/
def execGuardW (h : Head) (g : GExt) (s : State) : Host.Outcome State Fault Refusal :=
  let i := Instr.guardW h g
  let sp := specOf i
  runOp i sp (decide (gT g = 2) && decide ((wv s s.cur.wave).uregs ≤ h.b.toNat)) false false (fun m s =>
    let s := advance sp s
    if m = 0 then s else
    modWv s s.cur.wave fun v =>
      let due := cycAt s v.core + 4
      let b := h.b.toNat
      let x : Guard := match gT g with
        | 0 => .pendQ (upred v b) due
        | 1 => .pendQ (!(upred v b)) due
        | _ => if sEmpty v b then .pendS b due else .pendQ (decide (sread v b ≠ 0)) due
      { v with guards := v.guards.set h.a.toNat x }) s

/-- R326: `elect`. In `.group` the arrivals at the election unit are taken in issue order. -/
def execElect (h : Head) (g : GExt) (s : State) : Host.Outcome State Fault Refusal :=
  let i := Instr.elect h g
  let sp := specOf i
  runOp i sp false false false (fun m s =>
    let w := s.cur.wave
    let v := wv s w
    let me := v.index % 32 + 256 * firstLane s.cur.lanes
    let gr := gp s v.group
    let key := BitVec.ofNat 32 ((sp.srcs.map (srcVal v 0)).getD 0 0)
    let (won, r, gr) := match gT g with
      | 0 => (true, me, gr)
      | 1 => (match gr.elected with
        | some (k, wi, l) =>
          if k = key then (false, wi + 256 * l, gr)
          else (true, me, { gr with elected := some (key, v.index % 32, firstLane s.cur.lanes) })
        | none => (true, me, { gr with elected := some (key, v.index % 32, firstLane s.cur.lanes) }))
      | _ => (decide (v.core % 2 = 0), me, gr)
    let s := if m = 0 then s else setGp s v.group gr
    aluEff i sp { writes := { noWrites with
        sregs := [(h.a.toNat, BitVec.ofNat 32 (r + 2 ^ 31 * b2n won))], qs := [(g.c.toNat, won)] }, raised := [] } m s) s

end Sys2Proof.Machine
end

