-- ==== Sys2Proof/Machine/Num.lean ====
section
/-! DEFINITION. Number formats and exact arithmetic (spec/09, R200 to R216). A finite value is a sign, a natural number and
a power of two; results that are not dyadic carry enough bits and a last odd bit, which no rounding of R210 can tell from
the exact value. -/

namespace Sys2Proof.Machine

/-- R200: a floating-point format. -/
structure Fmt where
  eb : Nat
  mb : Nat
  bias : Nat
  inf : Bool
  deriving DecidableEq, Repr

def F64 : Fmt := { eb := 11, mb := 52, bias := 1023, inf := true }
def F32 : Fmt := { eb := 8, mb := 23, bias := 127, inf := true }
def F16 : Fmt := { eb := 5, mb := 10, bias := 15, inf := true }
def BF16 : Fmt := { eb := 8, mb := 7, bias := 127, inf := true }
def E5M2 : Fmt := { eb := 5, mb := 2, bias := 15, inf := true }
def E4M3 : Fmt := { eb := 4, mb := 3, bias := 7, inf := false }

/-- The width of a format. -/
def Fmt.width (f : Fmt) : Nat := f.eb + f.mb + 1
/-- R213: the formats on which `FMODE.DEN` acts. -/
def Fmt.denActs (f : Fmt) : Bool := decide (f = F32 ∨ f = F16 ∨ f = BF16)
/-- R200: the largest finite value as a multiple of 2 to the power `bias - mb` of its top binade. -/
def Fmt.maxMant (f : Fmt) : Nat := 2 ^ (f.mb + 1) - (if f.inf then 1 else 2)
/-- The exponent of the unit of the top binade. -/
def Fmt.maxExp (f : Fmt) : Int := (if f.inf then (f.bias : Int) else f.bias + 1) - f.mb
/-- The exponent of the smallest normal value. -/
def Fmt.emin (f : Fmt) : Int := 1 - (f.bias : Int)
/-- The bits of an infinity or, in a format with none, of the NaN that R212 puts in its place. -/
def Fmt.infBits (f : Fmt) (neg : Bool) : Nat :=
  if f.inf then (2 ^ f.eb - 1) * 2 ^ f.mb + b2n neg * 2 ^ (f.eb + f.mb) else 2 ^ (f.eb + f.mb) - 1
/-- R200: the canonical NaN. -/
def Fmt.nanBits (f : Fmt) : Nat :=
  if f.inf then (2 ^ f.eb - 1) * 2 ^ f.mb + 2 ^ (f.mb - 1) else 2 ^ (f.eb + f.mb) - 1
/-- The bits of the largest finite value of a sign. -/
def Fmt.maxBits (f : Fmt) (neg : Bool) : Nat :=
  (if f.inf then (2 ^ f.eb - 1) * 2 ^ f.mb - 1 else 2 ^ (f.eb + f.mb) - 2) + b2n neg * 2 ^ (f.eb + f.mb)

/-- A value: a NaN, signalling or not; an infinity; or (-1)^neg * m * 2^e. -/
inductive Val where
  | nan (sig : Bool)
  | inf (neg : Bool)
  | num (neg : Bool) (m : Nat) (e : Int)
  deriving DecidableEq, Repr

/-- R200: the value of a bit pattern. -/
def valOf (f : Fmt) (x : Nat) : Val :=
  let neg := bit x (f.eb + f.mb)
  let e := bits x (f.eb + f.mb - 1) f.mb
  let m := x % 2 ^ f.mb
  if f.inf && decide (e = 2 ^ f.eb - 1) then
    (if m = 0 then .inf neg else .nan (!bit m (f.mb - 1)))
  else if !f.inf && decide (e = 2 ^ f.eb - 1) && decide (m = 2 ^ f.mb - 1) then .nan false
  else if e = 0 then .num neg m (f.emin - f.mb)
  else .num neg (2 ^ f.mb + m) ((e : Int) - f.bias - f.mb)

/-- R213: an operand under DEN = 2, where a subnormal is read as zero of its sign. -/
def readVal (f : Fmt) (den : Nat) (x : Nat) : Val :=
  if f.denActs && decide (den = 2) && decide (bits x (f.eb + f.mb - 1) f.mb = 0) then
    .num (bit x (f.eb + f.mb)) 0 0
  else valOf f x

/-- A NaN that sets IV. -/
def isSig : Val → Bool | .nan b => b | _ => false
def isNan : Val → Bool | .nan _ => true | _ => false
/-- A zero of either sign. -/
def isZero : Val → Bool | .num _ 0 _ => true | _ => false
/-- The sign of a value. -/
def isNeg : Val → Bool | .nan _ => false | .inf b => b | .num b _ _ => b
/-- The value with its sign changed. -/
def negV : Val → Val | .nan b => .nan b | .inf b => .inf (!b) | .num b m e => .num (!b) m e

/-- How a result is rounded: the mode (1 RNE, 2 RTZ, 3 RUP, 4 RDN, 5 stochastic), SAT, DEN, and the place of the draw
(R210, R211); `seed` is none where SEEDEN = 0 and `free` numbers the generator's draw (log 12). -/
structure Rnd where
  mode : Nat
  sat : Bool
  den : Nat
  seed : Option Nat
  free : Nat
  lane : Nat
  elem : Nat
  deriving DecidableEq, Repr

/-- R210 with RNE and no other setting, as engines, atomics and matrix sums use it. -/
def rne : Rnd := { mode := 1, sat := false, den := 0, seed := some 0, free := 0, lane := 0, elem := 0 }

/-- R211: the draw for stochastic rounding. -/
def stochBits (r : Rnd) (t : Nat) : Nat :=
  match r.seed with
  | none => Config.entropy32 (r.free + 32 * r.lane + r.elem) % 2 ^ 32
  | some sd =>
    let h := (sd * 0x9E3779B1 + r.lane * 0x85EBCA77 + r.elem * 0xC2B2AE3D + t) % 2 ^ 32
    let h := ((h ^^^ (h >>> 16)) * 0x7FEB352D) % 2 ^ 32
    let h := ((h ^^^ (h >>> 15)) * 0x846CA68B) % 2 ^ 32
    h ^^^ (h >>> 16)

/-- R210: the choice between a grid value `a` (as a number of units) and the next, for a remainder `r` of a unit
`2 ^ k`. -/
def roundUnit (c : Rnd) (neg : Bool) (a r k : Nat) : Nat :=
  if r = 0 then a else
  match c.mode with
  | 1 => if 2 * r < 2 ^ k then a else if 2 ^ k < 2 * r then a + 1 else if a % 2 = 0 then a else a + 1
  | 2 => a
  | 3 => if neg then a else a + 1
  | 4 => if neg then a + 1 else a
  | _ =>
    let t := r * 2 ^ 32 / 2 ^ k
    if stochBits c t < t then a + 1 else a

/-- R212: the result of an overflow. -/
def overflow (f : Fmt) (c : Rnd) (neg : Bool) : Nat :=
  if c.sat then f.maxBits neg
  else match c.mode with
  | 2 => f.maxBits neg
  | 3 => if neg then f.maxBits neg else f.infBits neg
  | 4 => if neg then f.infBits neg else f.maxBits neg
  | _ => f.infBits neg

/-- A rounded result: its bits and the flags raised. -/
structure FRes where
  bits : Nat
  raised : Word
  deriving DecidableEq, Repr

/-- The bits of (-1)^neg * y * 2^u, a value of the format's grid. -/
def packFmt (f : Fmt) (neg : Bool) (y : Nat) (u : Int) : Nat :=
  let s := b2n neg * 2 ^ (f.eb + f.mb)
  if y < 2 ^ f.mb then s + y
  else
    let k := y.log2 - f.mb
    s + (u + k + f.mb + f.bias).toNat * 2 ^ f.mb + (y >>> k - 2 ^ f.mb)

/-- R210, R213: a finite value rounded to a format. -/
def roundNum (f : Fmt) (c : Rnd) (neg : Bool) (m : Nat) (e : Int) : FRes :=
  if m = 0 then { bits := b2n neg * 2 ^ (f.eb + f.mb), raised := 0 } else
  let k : Int := m.log2 + e
  let u : Int := max k f.emin - f.mb
  let sh := (u - e).toNat
  let a := if u ≤ e then m <<< (e - u).toNat else m >>> sh
  let r := if u ≤ e then 0 else m % 2 ^ sh
  let y := roundUnit c neg a r sh
  let nx := if r = 0 then 0 else fNx
  -- y units of 2^u against the largest finite value
  let big := if f.maxExp ≤ u then decide (f.maxMant < y <<< (u - f.maxExp).toNat)
             else decide (f.maxMant <<< (f.maxExp - u).toNat < y)
  if big then { bits := overflow f c neg, raised := fOf ||| fNx }
  else
    let tiny := decide (y < 2 ^ f.mb) && decide (u = f.emin - f.mb)
    if f.denActs && decide (c.den ≠ 0) && tiny && decide (y ≠ 0) then
      { bits := b2n neg * 2 ^ (f.eb + f.mb), raised := fUf ||| fNx }
    else { bits := packFmt f neg y u, raised := nx ||| (if tiny && decide (r ≠ 0) then fUf else 0) }

/-- R210: a value rounded to a format; an infinite value is delivered as it is (R212). -/
def roundTo (f : Fmt) (c : Rnd) (x : Val) : FRes :=
  match x with
  | .nan _ => { bits := f.nanBits, raised := 0 }
  | .inf b => { bits := f.infBits b, raised := 0 }
  | .num b m e => roundNum f c b m e

/-- R212: an infinite operand of a conversion that is not exact, under SAT. -/
def roundCvt (f : Fmt) (c : Rnd) (x : Val) : FRes :=
  match x with
  | .inf b => { bits := if c.sat then f.maxBits b else f.infBits b, raised := 0 }
  | x => roundTo f c x

/-! ### Exact operations: a value and the flags of the operation itself -/

/-- IV where a signalling NaN is among the operands (R201). -/
def sigFlag (xs : List Val) : Word := if xs.any isSig then fIv else 0

/-- R260: b + c, exact; `rdn` decides the sign of an exact zero sum. -/
def addV (rdn : Bool) (b c : Val) : Val × Word :=
  match b, c with
  | .nan _, _ | _, .nan _ => (.nan false, sigFlag [b, c])
  | .inf x, .inf y => if x = y then (.inf x, 0) else (.nan false, fIv)
  | .inf x, _ => (.inf x, 0)
  | _, .inf y => (.inf y, 0)
  | .num x m e, .num y n g =>
    let k := min e g
    let i : Int := (if x then -1 else 1) * (m <<< (e - k).toNat : Nat)
    let j : Int := (if y then -1 else 1) * (n <<< (g - k).toNat : Nat)
    let t := i + j
    if t = 0 then (.num (if m = 0 ∧ n = 0 ∧ x = y then x else rdn) 0 0, 0)
    else (.num (decide (t < 0)) t.natAbs k, 0)

/-- R260: b * c, exact. -/
def mulV (b c : Val) : Val × Word :=
  match b, c with
  | .nan _, _ | _, .nan _ => (.nan false, sigFlag [b, c])
  | .inf x, .inf y => (.inf (x != y), 0)
  | .inf x, .num y n _ => if n = 0 then (.nan false, fIv) else (.inf (x != y), 0)
  | .num x m _, .inf y => if m = 0 then (.nan false, fIv) else (.inf (x != y), 0)
  | .num x m e, .num y n g => (.num (x != y) (m * n) (e + g), 0)

/-- R260: b * c + e, one rounding. -/
def fmaV (rdn : Bool) (b c e : Val) : Val × Word :=
  let (p, f) := mulV b c
  let (r, g) := addV rdn p e
  (r, f ||| g ||| sigFlag [b, c, e])

/-- Bits of a quotient or root that decide every rounding of R210 in every format, the stochastic draw included. -/
def guardBits : Nat := 110

/-- The quotient of two naturals as a significand with a last odd bit where a remainder is left. -/
def quot (m n : Nat) : Nat × Int :=
  let k := guardBits + n.log2 - m.log2
  let q := (m <<< k) / n
  (2 * q + b2n (decide ((m <<< k) % n ≠ 0)), -(k : Int) - 1)

/-- R260: b / c. -/
def divV (b c : Val) : Val × Word :=
  match b, c with
  | .nan _, _ | _, .nan _ => (.nan false, sigFlag [b, c])
  | .inf _, .inf _ => (.nan false, fIv)
  | .inf x, .num y _ _ => (.inf (x != y), 0)
  | .num x _ _, .inf y => (.num (x != y) 0 0, 0)
  | .num x m e, .num y n g =>
    if n = 0 then (if m = 0 then (.nan false, fIv) else (.inf (x != y), fDz))
    else if m = 0 then (.num (x != y) 0 0, 0)
    else
      let (q, k) := quot m n
      (.num (x != y) q (e - g + k), 0)

/-- The root of m * 2^e as a significand with a last odd bit where the root is not exact. -/
def rootOf (m : Nat) (e : Int) : Nat × Int :=
  let k := 2 * guardBits + (if (e - 2 * guardBits) % 2 = 0 then 0 else 1)
  let n := m <<< k
  let r := isqrt n
  (2 * r + b2n (decide (r * r ≠ n)), (e - k) / 2 - 1)

/-- R260: the square root. -/
def sqrtV (b : Val) : Val × Word :=
  match b with
  | .nan _ => (.nan false, sigFlag [b])
  | .inf x => if x then (.nan false, fIv) else (.inf false, 0)
  | .num x m e =>
    if m = 0 then (.num x 0 0, 0) else if x then (.nan false, fIv)
    else
      let (r, k) := rootOf m e
      (.num false r k, 0)

/-- The order of two values that are not NaN, with -0 below +0 (R261). -/
def ltV (b c : Val) : Bool :=
  match b, c with
  | .inf x, .inf y => x && !y
  | .inf x, _ => x
  | _, .inf y => !y
  | .num x m e, .num y n g =>
    let k := min e g
    let i := m <<< (e - k).toNat
    let j := n <<< (g - k).toNat
    match x, y with
    | true, false => true
    | false, true => false
    | false, false => decide (i < j)
    | true, true => decide (j < i)
  | _, _ => false

/-- Two values compare equal, zeros of either sign alike (R262). -/
def eqV (b c : Val) : Bool :=
  match b, c with
  | .inf x, .inf y => x == y
  | .num x m e, .num y n g =>
    let k := min e g
    decide (m <<< (e - k).toNat = n <<< (g - k).toNat) && (x == y || decide (m = 0))
  | _, _ => false

/-- R261: the lesser (`hi` false) or greater operand, as bits; a NaN yields to a number. -/
def minmax (f : Fmt) (hi : Bool) (den b c : Nat) : FRes :=
  let x := readVal f den b
  let y := readVal f den c
  let bx := (roundTo f rne x).bits
  let cy := (roundTo f rne y).bits
  let r := match isNan x, isNan y with
    | true, true => f.nanBits
    | true, false => cy
    | false, true => bx
    | false, false => if ltV x y != hi then bx else cy
  { bits := r, raised := sigFlag [x, y] }

/-- R264: a finite value rounded to an integer by the mode. -/
def roundInt (c : Rnd) (neg : Bool) (m : Nat) (e : Int) : Nat :=
  if 0 ≤ e then m <<< e.toNat else roundUnit c neg (m >>> (-e).toNat) (m % 2 ^ (-e).toNat) (-e).toNat

/-- R264: `vfrnd`. -/
def frnd (f : Fmt) (c : Rnd) (x : Val) : FRes :=
  match x with
  | .num b m e => if m = 0 then roundTo f rne x else { roundTo f rne (.num b (roundInt c b m e) 0) with raised := 0 }
  | x => { bits := (roundTo f rne x).bits, raised := sigFlag [x] }

/-- R264: `vfract`. -/
def fract (f : Fmt) (c : Rnd) (x : Val) : FRes :=
  match x with
  | .nan _ => { bits := f.nanBits, raised := sigFlag [x] }
  | .inf _ => { bits := f.nanBits, raised := fIv }
  | .num b m e =>
    if 0 ≤ e ∨ m = 0 then { bits := 0, raised := 0 } else
    let k := (-e).toNat
    let r := m % 2 ^ k
    let r := if b && decide (r ≠ 0) then 2 ^ k - r else r
    let y := roundTo f c (.num false r e)
    let one := (f.bias) * 2 ^ f.mb
    if y.bits = one then { y with bits := one - 1 } else y

/-- R215: a float converted to an integer of `w` bits. -/
def toInt (w : Nat) (uns : Bool) (c : Rnd) (x : Val) : FRes :=
  let lo : Int := if uns then 0 else -(2 ^ (w - 1) : Nat)
  let hi : Int := if uns then (2 ^ w : Nat) - 1 else (2 ^ (w - 1) : Nat) - 1
  match x with
  | .nan _ => { bits := 0, raised := fIv }
  | .inf b => { bits := wrap w (if b then lo else hi), raised := fIv }
  | .num b m e =>
    let r := roundInt c b m e
    let v : Int := if b then -(r : Int) else r
    let exact := decide (0 ≤ e) || decide (m % 2 ^ (-e).toNat = 0)
    if v < lo ∨ hi < v then { bits := wrap w (clamp lo hi v), raised := fIv }
    else { bits := wrap w v, raised := if exact then 0 else fNx }

/-- An integer as a value. -/
def ofInt (x : Int) : Val := .num (decide (x < 0)) x.natAbs 0

/-- R263: the class mask. -/
def classOf (f : Fmt) (x : Nat) : Nat :=
  let sub := decide (bits x (f.eb + f.mb - 1) f.mb = 0)
  match valOf f x with
  | .nan s => if s then 1 else 2
  | .inf b => if b then 4 else 512
  | .num b m _ =>
    if m = 0 then (if b then 32 else 64)
    else if sub then (if b then 16 else 128) else if b then 8 else 256

/-! ### I4E runs (R203, R204) -/

/-- R203: the elements of a run of 16 nibbles, exact and unscaled, and whether an escape had no room. -/
def i4eFrom (nib : Nat → Nat) : Nat → Nat → List Val × Bool
  | 0, _ => ([], false)
  | n + 1, j =>
    if 16 ≤ j then ([], false)
    else if nib j ≠ 8 then
      let (r, f) := i4eFrom nib n (j + 1)
      (ofInt (sext 4 (nib j)) :: r, f)
    else if j ≤ 13 then
      let (r, f) := i4eFrom nib n (j + 3)
      (valOf E4M3 (nib (j + 1) + 16 * nib (j + 2)) :: .num false 0 0 :: .num false 0 0 :: r, f)
    else
      let (r, _) := i4eFrom nib n (j + 1)
      (.num false 0 0 :: r, true)

/-- R203: a run held in 64 bits. -/
def i4eRun (x : Nat) : List Val × Bool := i4eFrom (fun j => bits x (4 * j + 3) (4 * j)) 16 0

/-- R204: a value multiplied by the block scale of byte `e`. -/
def scaleV (e : Nat) (x : Val) : Val :=
  if e = 255 then .nan false
  else match x with | .num b m k => .num b m (k + e - 127) | x => x

end Sys2Proof.Machine
end

