-- ==== Sys2Proof/Machine/Route.lean ====
section
/-! DEFINITION. How an access leaves its core: homes (R37), translation in the TLBs, classification, the L1 and the
dirty-address FIFO (spec/01, R22 to R28; spec/03, R70 to R81). -/

namespace Sys2Proof.Machine

open Sys2Proof.Machine.State

/-! ### Accesses -/

/-- The access named `id`. -/
def findAcc (s : State) (id : Nat) : Option Acc := s.accs.find? fun a => a.id = id
/-- An access that may still fault, or is not yet accepted by its home or bank (R383). -/
def openAcc (a : Acc) : Bool :=
  match a.stage with | .trans | .walk | .dir | .ready | .queued | .failed => true | _ => false
/-- R383: an operation leaves the window when none of its accesses is open and none of its lanes has faulted. -/
def refreshWindow (s : State) (w op : Nat) : State :=
  if s.accs.any fun a => a.op = op && openAcc a then s
  else modWv s w fun v => modOp v op fun o => if o.kind = 2 then o else { o with window := o.window && decide (o.flanes ≠ 0) }
/-- The access replaced by its newer state. -/
def putAcc (s : State) (a : Acc) : State :=
  refreshWindow { s with accs := s.accs.map fun b => if b.id = a.id then a else b } a.wave a.op
/-- A request that left the device for access `id` is answered. -/
def forgetFar (s : State) (id : Nat) : State :=
  { s with net := s.net.filter fun (m : Msg) => !(remoteDest m.dest) || (match m.body with | .load a | .imago a => decide (a ≠ id) | _ => true) }

/-- The access done with. -/
def dropAcc (s : State) (a : Acc) : State :=
  refreshWindow { s with accs := s.accs.filter fun b => b.id ≠ a.id } a.wave a.op

/-- R133, R156: lanes that went to sleep as their `barwait` or `cget` left the core are awake. -/
def wakeFrom (v : Wave) (a : Acc) : Wave :=
  wake v (a.lanes &&& lanesThat v fun x => match x.sleep, a.act with
    | .cget k, _ => decide (k = a.id)
    | .barwait 0, .barWait _ => true
    | _, _ => false)

/-- R36, R287: the access faults: its lanes join the faulted lanes of the instruction, whose status and address are those
of the lowest lane; IMPRECISE_FAULT then stops the wave (R383). A reduction whose wave has ended is parked instead (R297, R384). -/
def failAcc (s : State) (a : Acc) (cls status : Nat) : State :=
  let v := wv s a.wave
  if !v.live then
    match a.act with
    | .red .. => logEntry { s with accs := s.accs.filter fun b => b.id ≠ a.id } a.ctx (redSlot a cls status v.group)
    | _ => dropAcc s a
  else
    let s := putAcc s { a with stage := .failed, status := status }
    modWv s a.wave fun v =>
      modOp (wakeFrom v a) a.op fun o =>
        let low := decide (o.flanes = 0) || decide (firstLane a.lanes < firstLane o.flanes)
        { o with
          flanes := o.flanes ||| a.lanes, window := true, status := if low then status else o.status,
          cls := if low then cls else o.cls, faddr := if low then a.va else o.faddr }

/-- R143: the physical address at which the access is performed now. -/
def accPa (s : State) (a : Acc) : Nat :=
  if a.twin = 0 then a.pa
  else a.pa + (if twinSide s (a.pa - a.pa % 2 ^ a.twin) then 2 ^ a.twin else 0)

/-- R295, R18: the access writes. -/
def accWrites (a : Acc) : Bool :=
  match a.act with
  | .load => false
  | .imago op _ _ => decide (op = 0 ∨ op = 2)
  | .barWait _ | .fence | .scr => false
  | _ => true
/-- The access returns a value to its wave. -/
def accReturns (a : Acc) : Bool := match a.act with | .load | .atom .. | .imago .. | .barWait _ => true | _ => false
/-- The access is an atomic read-modify-write. -/
def accAtomic (a : Acc) : Bool := match a.act with | .load | .store _ | .fence | .scr => false | _ => true

/-- R292, R293: a replayed access of a FIFO or a tile that waits there for entries, for room or for a matrix instruction. -/
def bankWait (a : Acc) : Bool := (match a.act with | .scr => true | _ => false) && decide (a.stage = .ready) && !a.priv

/-- The access has no physical address yet; one that faulted without a translation never had one. -/
def untranslated (a : Acc) : Bool :=
  match a.stage with
  | .trans | .walk => true
  | .failed => decide (a.pa = 0)
  | _ => false

/-- Two accesses may name one sector: by physical address, or while one is untranslated by their place in a page, since two
mappings may lead to one frame. -/
def sameSector (a b : Acc) : Bool :=
  if untranslated a || untranslated b then decide (a.va % 4096 / 32 = b.va % 4096 / 32) else decide (a.pa / 32 = b.pa / 32)

/-- Two accesses may name an overlapping byte. -/
def overlaps (a b : Acc) : Bool := decide (a.mask &&& b.mask ≠ 0) && sameSector a b

/-- A fence with release, whose marker is not through (R114). -/
def relFence (a : Acc) : Bool := a.rel && (match a.act with | .fence => true | _ => false)

/-- R98, R115: access `x` of a wave, not yet performed, holds its later access `y`: before a release everything, and
otherwise an overlapping access of which one writes or the later is a strong read, also one whose value has not come back; an MMIO
access one before another and before a release, any that may prove to be one before an MMIO access, and a fence with release a later
strong write that makes no entry of the FIFO, and while its own marker is not in the FIFO any write that would make one before it
(R114). Accesses of different lanes that overlap keep the order of issue too: the model has no buffer per path (R111, log
128). -/
def holds (x y : Acc) : Bool :=
  let early := match x.stage with | .trans | .walk | .dir | .ready | .failed => true | _ => false
  let away := match x.stage with
    | .home | .parked => true
    -- a load's bytes on their way back, or an atomic's that is not performed yet (R81)
    | .ret => (match x.act with | .load => true | _ => accAtomic x && x.priv && decide (x.got ≠ 0))
    | _ => false
  let io := fun a : Acc => decide (a.kind = .mmio)
  (early && (y.rel || (overlaps x y && (accWrites x || accWrites y || y.strong)) || (io y && (io x || untranslated x)))) ||
    (away && io x && (io y || y.rel)) ||
    (relFence x && accWrites y && (io y || (y.priv && y.strong) || (decide (x.stage = .ready) && (y.strong || !y.priv)))) ||
    (away && overlaps x y && ((accReturns x && (accWrites y || y.strong)) || (accAtomic x && x.priv)))

/-- The earlier accesses of the same wave, in issue order. -/
def earlierAccs (s : State) (a : Acc) : List Acc := (s.accs.takeWhile fun b => b.id ≠ a.id).filter fun b => b.wave = a.wave
/-- The access waits for an earlier one of its wave. -/
def heldUp (s : State) (a : Acc) : Bool := (earlierAccs s a).any fun x => holds x a

/-! ### The L1 -/

/-- The banks that are ways of core `c`'s L1 (R58, R59). -/
def l1Banks (s : State) (c : Nat) : List Nat :=
  (List.range 64).filter fun k => decide ((bank s (corePair c) k).mode = (if c % 2 = 0 then .cacheL else .cacheF))
/-- R59: the set of a line. -/
def l1Set (line : Nat) : Nat := line % 128
/-- R66: a sampling set. -/
def sampled (line : Nat) : Bool := l1Set line % 16 = 0

/-- R155: the lines of a set whose cells the L1 holds copies of, each with the way that is its own (log 133). -/
def copyLines (k : Core) (set : Nat) : List (Nat × Nat) :=
  ((k.imago.map fun x => (lineOf x.cell, x.bank)).filter fun x => l1Set x.1 = set).eraseDups
/-- R155: the copies of a line's cells leave the L1. -/
def dropCopies (s : State) (c line : Nat) : State :=
  modCr s c fun k => { k with imago := k.imago.filter fun x => lineOf x.cell ≠ line }

/-- R59, R155: a free way of a line's set in core `c`'s L1; with none free a way is freely chosen (log 21) and what it holds, a line or the
copies of a line's cells, evicted. -/
def l1Way (s : State) (c line : Nat) : State × Nat :=
  let here := (cr s c).l1.filter fun y => l1Set y.line = l1Set line
  let copies := copyLines (cr s c) (l1Set line)
  match (l1Banks s c).find? fun b => !(here.any fun y => y.bank = b) && !(copies.any fun y => y.2 = b) with
  | some b => (s, b)
  | none =>
    let (n, s) := draw s
    let m := n % (here.length + copies.length)
    match here[m]? with
    | none =>
      let x := copies.getD (m - here.length) (0, 0)
      (dropCopies s c x.1, x.2)
    | some x =>
      let s := evict s c x
      (if sampled line then
          modCr s c fun k => { k with shadow := x.line :: k.shadow.filter fun y => decide (l1Set y ≠ l1Set line) }
        else s, x.bank)

/-- R59: a line of core `c`'s L1, or a fresh one in a way of its set. -/
def l1Line (s : State) (c line : Nat) (path : LinePath) : State × L1Line :=
  let blank := fun b : Nat =>
    { line := line, bank := b, path := path, data := 0, valid := 0, dirty := 0, owned := 0, pend := 0 : L1Line }
  match l1Find (cr s c) line with
  | some x => (s, x)
  | none =>
    let (s, b) := l1Way s c line
    (s, blank b)

/-- R66: the counts of an access of whatever kind to a line: a hit in the least recently used way, or, of a line that the L1 does not
hold, in the shadow way. One that the L1 holds without the bytes is neither. -/
def countHit (s : State) (c line : Nat) (hit : Bool) : State :=
  if !(sampled line) then s else
  let k := cr s c
  let here := k.l1.filter fun y => l1Set y.line = l1Set line
  if (l1Find k line).isSome then
    if hit ∧ here.length = (l1Banks s c).length ∧ (here.getLast?.map fun y => y.line) = some line then
      setCr s c { k with lruHits := k.lruHits + 1 }
    else s
  else if (k.shadow).contains line then setCr s c { k with shadowHits := k.shadowHits + 1 }
  else s

/-- The byte mask in its line of a sector mask. -/
def lineMask (pa : Nat) (m : BitVec 32) : BitVec 128 := BitVec.ofNat 128 (m.toNat <<< (pa % 128 / 32 * 32))
/-- The 32 bytes of a sector as line data. -/
def lineSector (pa : Nat) (d : Nat) : BitVec 1024 := BitVec.ofNat 1024 ((d % 2 ^ 256) <<< (pa % 128 / 32 * 256))
/-- The sector of a line's data at `pa`. -/
def sectorOf (pa : Nat) (d : BitVec 1024) : Nat := dataBytes d (pa % 128 / 32 * 32) 32
/-- Bytes `o` to `o + n - 1` of a sector. -/
def sectorBytes (x o n : Nat) : Nat := x / 2 ^ (8 * o) % 2 ^ (8 * n)

/-- How a line is reached, if an L1 holds it (R70); none holds a line that is pinned for a tile (R54). -/
def pathOf (s : State) (a : Acc) : Option LinePath :=
  if (tileOf s (lineOf (accPa s a))).isSome then none else
  match a.kind with
  | .normal => some (if a.priv then .priv else .shared)
  | .twin => some .twin
  | .host => if (prt s (hostPort a.pa)).cxlCache then some .host else none
  | .peer => some .peer
  | _ => none

/-- R70: lines whose stores are registered at the home. -/
def registeredPath (p : LinePath) : Bool := match p with | .shared | .host => true | _ => false

/-- R73: bytes of a line written in core `c`'s L1; `dirty` marks them so, and otherwise they become clean valid bytes. -/
def l1Write (s : State) (c pa : Nat) (path : LinePath) (m : BitVec 32) (d : Nat) (dirty : Bool) : State :=
  let (s, x) := l1Line s c (lineOf pa) path
  let k := lineMask pa m
  modCr s c fun y => l1Put y { x with
    path := path, data := mergeData x.data (lineSector pa d) k, valid := x.valid ||| k,
    dirty := if dirty then x.dirty ||| k else x.dirty &&& ~~~k }

/-- R80, R95: bytes `got` of a sector that came back take the place of its clean bytes, so that no hit mixes bytes of two instants; the
dirty ones stay. -/
def l1Install (s : State) (c pa : Nat) (path : LinePath) (got : BitVec 32) (d : Nat) : State :=
  let (s, x) := l1Line s c (lineOf pa) path
  let k := lineMask pa got &&& ~~~x.dirty
  let old := lineMask pa (BitVec.allOnes 32) &&& ~~~x.dirty
  modCr s c fun y => l1Put y { x with data := mergeData x.data (lineSector pa d) k, valid := (x.valid &&& ~~~old) ||| k }

/-- A whole sector installed. -/
def l1Fill (s : State) (c pa : Nat) (path : LinePath) (d : Nat) : State := l1Install s c pa path (BitVec.allOnes 32) d

/-- R79: the self-invalidation of an acquire, on the whole L1; fills on their way are not installed. -/
def selfInvalidate (s : State) (c : Nat) : State :=
  let one := fun x : L1Line =>
    match x.path with
    | .priv => x
    | _ =>
      let keep := x.dirty &&& maskOfWords x.owned
      -- a pending word's dirty bytes are not lost: their registration is on its way (R73)
      { x with valid := keep ||| (x.dirty &&& maskOfWords x.pend) }
  let s := modCr s c fun y => { y with
    l1 := (y.l1.map one).filter fun x => decide (x.valid ≠ 0) || decide (x.owned ≠ 0) || decide (x.pend ≠ 0) }
  { s with accs := s.accs.map fun a => if a.core = c && !a.priv then { a with fill := false } else a }

/-! ### The dirty-address FIFO (R76) -/

/-- `k` entries fit. -/
def dafRoom (s : State) (c k : Nat) : Bool := decide ((cr s c).daf.length + k ≤ 128)
/-- An entry at the tail. -/
def dafPush (s : State) (c : Nat) (e : DafEntry) : State := modCr s c fun y => { y with daf := y.daf ++ [e] }

/-- R81, R94, R104: a WB of the word's dirty bytes ahead of a WT or ATM, the core's ownership of the words cleared, and the target's
bytes no longer valid in its L1, since a later load of the core must see what the home makes of them. -/
def wbAhead (s : State) (c pa : Nat) (m : BitVec 32) : State :=
  match l1Find (cr s c) (lineOf pa) with
  | none => s
  | some x =>
    let ws := wordsOfMask (lineMask pa m) &&& (x.owned ||| x.pend)
    let d := x.dirty &&& maskOfWords ws
    let s := if d = 0 then s else
      dafPush s c { kind := .wb x.line d x.data ws, accs := [] }
    modCr s c fun y => l1Put y { x with
      valid := x.valid &&& ~~~(lineMask pa m), dirty := x.dirty &&& ~~~d, owned := x.owned &&& ~~~ws, pend := x.pend &&& ~~~ws }

/-- R73: one REG entry for the line with the newly registered bytes: joined to a queued one that no release follows, nor an entry that
writes bytes of the line, ahead of which the home may not take the registration (log 150), or new. -/
def regPush (s : State) (c line : Nat) (m : BitVec 128) (acc : Nat) : State :=
  let on := fun i : Nat => (findAcc s i).any fun b => decide (lineOf (accPa s b) = line)
  let stops := fun e : DafEntry => match e.kind with
    | .rel _ => true
    | .wb l k _ _ => decide (l = line) && decide (k ≠ 0)
    | .wt i | .atm i => on i
    | .eng _ ps _ => ps.any fun x => decide (lineOf x.pa = line)
    | _ => false
  let isReg := fun e : DafEntry => match e.kind with | .reg l _ => l = line | _ => false
  let ds := (cr s c).daf
  let tail := (ds.reverse.takeWhile fun e => !stops e).reverse
  if tail.any isReg then
    let n := ds.length - tail.length
    modCr s c fun y => { y with daf := ds.take n ++ tail.map fun e =>
      match e.kind with
      | .reg l k => if l = line then { kind := .reg l (k ||| m), accs := e.accs ++ [acc] } else e
      | _ => e }
  else dafPush s c { kind := .reg line m, accs := [acc] }

/-- R80: a load waits for a queued or unacknowledged WT, ATM or REL on its bytes, and for a WB whose bytes the L1 no
longer holds. -/
def dafBlocks (s : State) (a : Acc) (pa : Nat) : Bool :=
  let c := cr s a.core
  let accHit := fun id : Nat => match findAcc s id with
    | some b => decide (b.id ≠ a.id) && decide (b.pa / 32 = pa / 32) && decide (b.mask &&& a.mask ≠ 0)
    | none => false
  let have_ := ((l1Find c (lineOf pa)).map (·.valid)).getD 0
  let one := fun e : DafEntry => match e.kind with
    | .wt x | .atm x | .rel x => accHit x
    | .wb l m _ _ => decide (l = lineOf pa) && decide (m &&& lineMask pa a.mask &&& ~~~have_ ≠ 0)
    | .eng _ ps _ => ps.any fun x => decide (lineOf x.pa = lineOf pa) && decide (x.twin = 0) && decide (maskIn (lineOf pa) x.pa x.n &&& lineMask pa a.mask ≠ 0)
    | _ => false
  c.daf.any one || c.unacked.any fun e => one e.2

/-- R104: the bytes of a line that entries of core `c`'s own, queued or unacknowledged, are still to write at the home. -/
def ownPending (s : State) (c line : Nat) : BitVec 128 :=
  let one := fun (m : BitVec 128) (e : DafEntry) => match e.kind with
    | .wt i | .atm i | .rel i => (match findAcc s i with
      | some a => if lineOf (accPa s a) = line then m ||| lineMask (accPa s a) a.mask else m
      | none => m)
    | .wb l k _ _ => if l = line then m ||| k else m
    | .eng _ ps _ => ps.foldl (fun m x => if lineOf x.pa = line ∨ x.twin ≠ 0 then m ||| maskIn line x.pa x.n else m) m
    | _ => m
  ((cr s c).unacked.map Prod.snd).foldl one ((cr s c).daf.foldl one 0)

/-! ### Serving an access -/

/-- The access goes to its home as a request for data: the lanes of a sector make one read (R110). A strong load leaves the L1 as it
is (R94), but for an atomic on a PRIVATE frame, which waits for its bytes there (R81); and bytes that the core's own entries are still
to write at the home are not filled from it (R104). -/
def askHome (s : State) (a : Acc) (pa : Nat) : State :=
  let d := destOf s pa
  let own := (ownPending s a.core (lineOf pa)).extractLsb' (pa % 128 / 32 * 32) 32
  let s := putAcc s { a with stage := .home, fill := !a.strong || (accAtomic a && a.priv), got := a.mask ||| ~~~own }
  let s := send s a.core d 1 (.load a.id)
  if 8192 ≤ d then out s (.pcie a.id false (pa - pa % 32) 32 0)
  else if 2048 ≤ d then match a.act with
    | .barWait p => out s (.peer a.id (d - 2048) 0x43 (farLocal pa) 16 p 0)
    | _ => out s (.peer a.id (d - 2048) 0 (farLocal pa - pa % 32) 32 0 0)
  else s

/-- R79, R80, R94: a load served by the L1 where it may, and otherwise at its home. -/
def routeLoad (s : State) (a : Acc) : State :=
  let pa := accPa s a
  let m := lineMask pa a.mask
  if dafBlocks s a pa then s
  else
    let hit := match pathOf s a, l1Find (cr s a.core) (lineOf pa) with
      | some _, some x =>
        if (x.valid &&& m) = m ∧ (!a.strong ∨ a.priv ∨ (x.dirty &&& maskOfWords x.owned &&& m) = m) then some x else none
      | _, _ => none
    match hit with
    | some x => putAcc (modCr (countHit s a.core (lineOf pa) true) a.core fun y => l1Put y x)
        { a with stage := .ret, val := sectorOf pa x.data, fill := false, lat := 8 }
    | none => if slotsUsed s a.core < 384 then askHome (countHit s a.core (lineOf pa) false) a pa else s

/-- R78, R94: a write or operation that travels to its home: a REL entry where it is a release, and otherwise WT or
ATM. -/
def routeHomeWrite (s : State) (a : Acc) (k : Nat → DafKind) : State :=
  if !(dafRoom s a.core 2) then s else
  let s := wbAhead s a.core (accPa s a) a.mask
  let s := { s with accs := s.accs.map fun b =>
    if b.core = a.core && decide (lineOf b.pa = lineOf a.pa) then { b with fill := false } else b }
  let s := dafPush s a.core { kind := if a.rel then .rel a.id else k a.id, accs := [a.id] }
  putAcc s { a with stage := .queued, priv := false }

/-- R296, R294: the new value of an atomic: code, size in bytes, old value, operand, and for `.cas` the new value. -/
def atomNew (code n old d e : Nat) : Nat :=
  let w := 8 * n
  match code with
  | 0 => (old + d) % 2 ^ w
  | 1 => if sext w old ≤ sext w d then old else d
  | 2 => if sext w old ≤ sext w d then d else old
  | 3 => min old d
  | 4 => max old d
  | 5 => old &&& d
  | 6 => old ||| d
  | 7 => old ^^^ d
  | 8 => atomFadd n old d
  | 9 => atomMinMax n false old d
  | 10 => atomMinMax n true old d
  | 11 => d
  | 12 => if old = d then e else old
  | _ => old
where
  /-- R294: FP32 or FP64 addition, rounded to nearest even, subnormals kept, NaNs canonical. -/
  atomFadd (n old d : Nat) : Nat :=
    let f := if n = 8 then F64 else F32
    (roundTo f rne (addV false (valOf f old) (valOf f d)).1).bits
  /-- R261, R294: the minimum or maximum. -/
  atomMinMax (n : Nat) (big : Bool) (old d : Nat) : Nat :=
    (minmax (if n = 8 then F64 else F32) big 0 old d).bits

/-- An access performed: it goes, and completes its lanes of its instruction (R288). -/
def completeAcc (s : State) (a : Acc) : State := completeOp (dropAcc s a) a.wave a.op a.lanes 0

/-- R73: a store whose words wait for the acknowledgement of a REG that has left the FIFO is performed when that comes, though it has no
entry of its own and is complete (R288): it is kept with the last such entry. -/
def awaitReg (s : State) (a : Acc) (line : Nat) : State :=
  let c := cr s a.core
  let regs := c.unacked.filter fun u => match u.2.kind with | .reg l _ => decide (l = line) | _ => false
  match regs.getLast? with
  | none => completeAcc s a
  | some u =>
    let s := modCr s a.core fun y => { y with unacked := y.unacked.map fun x =>
      if x.1 = u.1 then (x.1, { x.2 with accs := x.2.accs ++ [a.id] }) else x }
    completeOp (putAcc s { a with stage := .queued }) a.wave a.op a.lanes 0

/-- R76, R288: a release to a PRIVATE frame, written in the L1: its instruction counts the lanes as complete, and the marker in the
FIFO stands for the access until it is acknowledged. -/
def leaveRelease (s : State) (a : Acc) : State :=
  let s := dafPush (completeOp s a.wave a.op a.lanes 0) a.core { kind := .rel a.id, accs := [a.id] }
  putAcc s { a with op := 0, stage := .queued }

/-- R73, R78, R94: a store; one to words that a queued REG names, which it may not join, makes a further REG (log 150). One that goes to its home from a line that the L1 holds read only drops the core's own copy of the whole
line, of which the manual says nothing for a PEER line (R87, log 130). -/
def routeStore (s : State) (a : Acc) (d : Nat) : State :=
  let c := a.core
  let line := lineOf a.pa
  let m := lineMask a.pa a.mask
  match pathOf s a with
  | some .priv =>
    -- R70, R288: complete when written in the L1; a release leaves its marker in the FIFO (R76)
    if !(dafRoom s c 2) then s else
    let s := l1Write (countHit s c line true) c a.pa .priv a.mask d true
    if a.rel then leaveRelease s a else completeAcc s a
  | some p =>
    if registeredPath p then
      if a.strong then
        if !(dafRoom s c 3) then s else
        let s := routeHomeWrite (countHit s c line true) a .wt
        l1Write s c a.pa p a.mask d false
      else
        if !(dafRoom s c 2) then s else
        let x := (l1Find (cr s c) line)
        let known := (x.map fun y => y.owned ||| y.pend).getD 0
        let fresh_ := m &&& ~~~(maskOfWords known)
        let queued := (cr s c).daf.any fun e => match e.kind with | .reg l _ => l = line | _ => false
        let owned := maskOfWords ((x.map (·.owned)).getD 0)
        let s := l1Write (countHit s c line true) c a.pa p a.mask d true
        let s := modCr s c fun y => match l1Find y line with
          | some z => l1Put y { z with pend := z.pend ||| (wordsOfMask fresh_ &&& ~~~z.owned) }
          | none => y
        if fresh_ ≠ 0 then putAcc (regPush s c line (if queued then m else fresh_) a.id) { a with stage := .queued }
        else if queued ∧ (m &&& ~~~owned) ≠ 0 then putAcc (regPush s c line m a.id) { a with stage := .queued }
        else if m &&& ~~~owned ≠ 0 then awaitReg s a line
        else completeAcc s a
    else
      let s := routeHomeWrite s a .wt
      if (findAcc s a.id).any fun b => decide (b.stage = .queued) then modCr s c fun y => l1Drop y line else s
  | none => routeHomeWrite s a .wt

/-- The old value at an access's bytes in sector data, and the sector with the new one (R295). -/
def atomApply (a : Acc) (code d e sect : Nat) : Nat × Nat :=
  let o := a.va % 32
  let old := sectorBytes sect o a.n
  (old, sect - old * 2 ^ (8 * o) + atomNew code a.n old d e * 2 ^ (8 * o))

/-- R81: an atomic or reduction: in the L1 on a PRIVATE frame, once its bytes are there, and otherwise at the home. A release completes
with its marker; until then no other access of the core takes the bytes (R80). -/
def routeAtomic (s : State) (a : Acc) (code d e : Nat) (ret : Bool) : State :=
  if pathOf s a ≠ some .priv then routeHomeWrite s a .atm else
  if !(dafRoom s a.core 2) ∨ dafBlocks s a a.pa = true then s else
  -- what has come from the home was counted as it left (R66)
  let count := fun s hit => if a.lat = 0 then countHit s a.core (lineOf a.pa) hit else s
  let m := lineMask a.pa a.mask
  match (l1Find (cr s a.core) (lineOf a.pa)).filter fun x => decide ((x.valid &&& m) = m) with
  | some x =>
    let (old, sect) := atomApply a code d e (sectorOf a.pa x.data)
    let s := l1Write (count s true) a.core a.pa .priv a.mask sect true
    let a := { a with val := old, got := 0, fill := false }
    if a.rel ∧ ret = false then leaveRelease s a
    else if a.rel then putAcc (dafPush s a.core { kind := .rel a.id, accs := [a.id] }) { a with stage := .queued }
    else if ret then putAcc s { a with stage := .ret }
    else completeAcc s a
  | none => if slotsUsed s a.core < 384 then askHome (count s false) a a.pa else s

/-- R155: the copy of a decided cell that answers an operation of generation `g`. -/
def imagoHit (s : State) (a : Acc) (g : Nat) : Option ImagoCopy :=
  (cr s a.core).imago.find? fun x => decide (x.cell = a.pa) && decide (x.gen = g)

/-- An imago result as one number: status in the low 32 bits, then GEN or the cause, then VALUE (R152). -/
def imagoVal (st g v : Nat) : Nat := st + 2 ^ 32 * g + 2 ^ 64 * v

/-- R155: the copy that answers an imago access, none where it goes to the cell's home. -/
def imagoAnswer (s : State) (a : Acc) : Option ImagoCopy :=
  match a.act with
  | .imago op g _ => if op = 0 ∨ op = 1 then imagoHit s a g else none
  | _ => none

/-- R154, R157: an imago operation: answered from a copy, or sent as a REL entry (`cprop`, `crecyc`) or a request. A `cget` of
another device's cell sleeps from here on, since its core does not see it parked (R156, log 132). -/
def routeImago (s : State) (a : Acc) (op g : Nat) : State :=
  match imagoAnswer s a with
  | some x => putAcc s { a with stage := .ret, val := imagoVal 1 x.gen x.value, fill := false, lat := 8 }
  | none =>
    if op = 0 ∨ op = 2 then routeHomeWrite s { a with rel := true } .atm
    else
      let d := destOf s a.pa
      let s := putAcc s { a with stage := .home, deadline := cycAt s a.core + 2048 }
      let s := send s a.core d 1 (.imago a.id)
      if remoteDest d then
        let s := if op = 1 then
            modWv s a.wave fun v => modLanes v a.lanes fun x => if awake x then { x with sleep := .cget a.id } else x
          else s
        out s (.peer a.id (d - 2048) (0x30 + op) (farLocal a.pa) 16 0 g)
      else s

/-- A load or store by lanes, which makes one piece for each sector (R95). -/
def pieceOf (a : Acc) : Bool := match a.act with | .load | .store _ => decide (a.kind ≠ .mmio) | _ => false

/-- R108, R110: two accesses of one instruction to one sector as one piece: lanes reached it through two mappings. A store's lanes
write in ascending order. -/
def joinAcc (a b : Acc) : Acc :=
  let ps := (List.range 32).flatMap fun l =>
    ((a.parts.filter fun p => p.1 = l).map fun p => (p, a)) ++ ((b.parts.filter fun p => p.1 = l).map fun p => (p, b))
  let piece := fun (x : Acc) => match x.act with | .store d => d | _ => 0
  let act := match a.act with
    | .store _ => Act.store (ps.foldl (fun d x =>
        let o := x.1.2 % 32
        d - sectorBytes d o a.n * 2 ^ (8 * o) + sectorBytes (piece x.2) o a.n * 2 ^ (8 * o)) 0)
    | y => y
  { a with
    lanes := a.lanes ||| b.lanes, parts := ps.map Prod.fst, mask := a.mask ||| b.mask, act := act,
    va := ((ps.head?).map fun x => x.1.2).getD a.va }

/-- The accesses of one instruction that are one piece with `a`, and have not left the core. -/
def twinsOf (s : State) (a : Acc) : List Acc :=
  s.accs.filter fun b => decide (b.op = a.op) && decide (b.wave = a.wave) && decide (b.id ≠ a.id) && pieceOf b &&
    (match b.stage with | .dir | .ready => decide (b.kind = a.kind) && decide (b.pa / 32 = a.pa / 32) | _ => false)

/-- R108, R110: an access with every other access of its instruction to its sector joined to it. -/
def joinTwins (s : State) (a : Acc) : State × Acc :=
  if !(pieceOf a) then (s, a) else
  let bs := twinsOf s a
  if bs.isEmpty then (s, a) else
  let x := bs.foldl joinAcc a
  (putAcc { s with accs := s.accs.filter fun b => !(bs.any fun y => y.id = b.id) } x, x)

/-- An access of the same instruction may yet prove to be of the same sector. -/
def twinOpen (s : State) (a : Acc) : Bool :=
  pieceOf a && s.accs.any fun b => decide (b.op = a.op) && decide (b.wave = a.wave) && decide (b.id ≠ a.id) && pieceOf b &&
    (match b.stage with | .trans | .walk => sameSector a b | _ => false)

/-- R80, R133: bytes of the access, which is read at its home alone, are still on their way there from its own core, or in its L1 with
their registration. -/
def ownWaits (s : State) (a : Acc) : Bool :=
  let line := lineOf a.pa
  let m := lineMask a.pa a.mask
  decide (ownPending s a.core line &&& m ≠ 0) ||
    (l1Find (cr s a.core) line).any fun x => decide (x.pend &&& wordsOfMask m ≠ 0)

/-- R70: a translated and classified access leaves for where it is performed, unless it must wait. MMIO accesses are
performed by LOAD_RETURN, one at a time (R19), a release once nothing of the core is unacknowledged. -/
def route (s : State) (a : Acc) : State :=
  if a.stage ≠ .ready ∨ twinOpen s a = true then s else
  let (s, a) := joinTwins s a
  -- an operation answered from a copy makes no release (R157)
  if heldUp s { a with rel := a.rel && (imagoAnswer s a).isNone } then s
  else if a.kind = .mmio then
    let c := cr s a.core
    if a.rel && !(c.daf.isEmpty && c.unacked.isEmpty && c.relOut.isNone) then s else putAcc s { a with stage := .home }
  else match a.act with
  | .load => routeLoad s a
  | .store d => routeStore s a d
  | .atom code d e => routeAtomic s a code d e true
  | .red code d => routeAtomic s a code d 0 false
  | .imago op g _ => routeImago s a op g
  | .barWait _ => if !(ownWaits s a) && decide (slotsUsed s a.core < 384) then askHome s a a.pa else s
  | .barInit .. | .barExp _ | .barArr _ => routeHomeWrite s a .atm
  | .fence | .scr =>
    if !(bankWait a) && dafRoom s a.core 1 then
      putAcc (dafPush s a.core { kind := .rel a.id, accs := [a.id] }) { a with stage := .queued }
    else s

/-- The accesses of core `c` that wait to leave, tried again in issue order. -/
def reroute (s : State) (c : Nat) : State :=
  ((s.accs.filter fun a => a.core = c && decide (a.stage = .ready)).map (·.id)).foldl
    (fun s id => match findAcc s id with | some a => route s a | none => s) s

/-! ### Translation of an access (R22 to R27) -/

/-- R26, R131: the access is made for its core; a barrier operation is a non-core agent's. -/
def coreAgent (a : Acc) : Bool :=
  match a.act with | .barInit .. | .barExp _ | .barArr _ | .barWait _ => false | _ => true

/-- R18: an imago operation of the write class. -/
def imWrites (a : Acc) : Bool := match a.act with | .imago op _ _ => decide (op = 0 ∨ op = 2) | _ => false

/-- R19, R20 with the parts of the access: the code of its fault, none where it proceeds. -/
def accFault (s : State) (a : Acc) (e : TlbEntry) : Option Nat :=
  permFault e a.cls (imWrites a) (prt s (hostPort e.frame)).cxlCache a.va a.n

/-- R131, R146: a barrier operation on a HOST page. -/
def barKind (a : Acc) (e : TlbEntry) : Bool := decide (e.kind = .host) && !(coreAgent a)

/-- The access with its translation: its address, the kind of its page, and the level of its leaf, 7 where no walk was made. -/
def withPage (a : Acc) (e : TlbEntry) (lvl : Nat) : Acc :=
  let pa := e.frame + a.va % 2 ^ e.log2
  { a with
    kind := e.kind, pa := if e.kind = .peer then farAddr e.dev pa else pa, twin := if e.kind = .twin then e.log2 else 0
    lvl := lvl, stage := .dir }

/-- A permitted translation taken by an access: its address, and for a NORMAL page its frame's classification (R25). -/
def takePage (s : State) (a : Acc) (e : TlbEntry) (lvl : Nat) : State :=
  let a := withPage a e lvl
  if barKind a e then failAcc s a 11 4
  else if unreachable s e then failAcc s a 10 (statusWord 0x0A lvl (clsNum a.cls) (kindNum e.kind) true)
  else if e.kind = .normal then
    let f := frameOf a.pa
    let st : Option FrameState := (e.classes.find? fun (c : Nat × FrameState) => decide (c.1 = f)).map (·.2)
    match st, recalling s f with
    | some (.privateTo c), false =>
      if c = a.core && coreAgent a then route (putAcc s { a with priv := true, stage := .ready }) { a with priv := true, stage := .ready }
      else putAcc s { a with stage := .dir }
    | some .shared, false => route (putAcc s { a with stage := .ready }) { a with stage := .ready }
    | _, _ => putAcc s { a with stage := .dir }
  else route (putAcc s { a with stage := .ready }) { a with stage := .ready }

/-- R22: a translation by the L1 TLB, or else by the L2 TLB; a miss in both, a fault to be confirmed (R23) or a first
write (R21) goes to the walker. -/
def tryTranslate (s : State) (a : Acc) : State :=
  let x := cx s a.ctx
  let fits := fun e : TlbEntry => (accFault s a e).isNone && (e.d || !(writeClass a.cls (imWrites a)))
  if !(canonical a.va) then failAcc s a 10 (statusWord 6 7 (clsNum a.cls) 7 false)
  else if !x.bound then failAcc s a 10 (statusWord 0x0D 7 (clsNum a.cls) 7 false)
  else match (tlbFind (cr s a.core).tlb x.held.asid.toNat a.va).filter fits with
    | some e => takePage s a e 7
    | none => match (tlbFind (tget [] s.l2tlb (coreStack a.core)) x.held.asid.toNat a.va).filter fits with
      | some e => takePage (l1TlbPut s a.core e) a e 7
      | none => putAcc s { a with stage := .trans }

/-- R25: the state of a frame copied into the core's L1 TLB entry that covers `va`. -/
def setClass (s : State) (c asid va f : Nat) (st : FrameState) : State :=
  modCr s c fun y => { y with tlb := y.tlb.map fun e =>
    if e.asid = asid ∧ e.base = va - va % 2 ^ e.log2 then
      { e with classes := (f, st) :: e.classes.filter fun k => k.1 ≠ f }
    else e }

/-- The directory's answer reaches an access: its state is copied, and it leaves. -/
def classified (s : State) (a : Acc) (st : FrameState) : State :=
  let s := if coreAgent a then setClass s a.core (cx s a.ctx).held.asid.toNat a.va (frameOf a.pa) st else s
  let a := { a with priv := coreAgent a && decide (st = .privateTo a.core), stage := .ready }
  route (putAcc s a) a

/-- New accesses of an operation, in order; a replay's take their place before the later ones of the wave (R390). -/
def beginAccs (s : State) (replay : Bool) (as : List Acc) : State :=
  let s := { s with accs := if replay then as ++ s.accs else s.accs ++ as }
  let s := as.foldl (fun s a => match findAcc s a.id with
    | some b => if b.stage = .trans then tryTranslate s b else s
    | none => s) s
  -- those that waited for a twin's translation
  as.foldl (fun s a => match findAcc s a.id with | some b => route s b | none => s) s

end Sys2Proof.Machine
end

