-- ==== Sys2Proof/Machine/Memory.lean ====
section
/-! DEFINITION. Loads, stores, atomics, reductions, prefetch, scratch, FIFO and accumulator accesses, fences and `wsync`
(spec/12, R285 to R300; spec/04, R92 to R94, R112, R114). An instruction reads its operands only from the words captured
at issue, so that `rfe` can perform it again (R390). -/

namespace Sys2Proof.Machine

open Sys2Proof.Machine.State

/-! ### Fields and classes of memory instructions -/

/-- The M extension of a memory instruction. -/
def mExtOf (i : Instr) : Option MExt :=
  match i with
  | .ld _ m | .st _ m | .ldl _ m | .stl _ m | .ldq _ m | .stq _ m | .lda _ m | .sta _ m | .atom _ m | .red _ m | .atoml _ m
  | .pfx _ m | .cprop _ m | .cget _ m | .crecyc _ m | .cprobe _ m | .fence _ m | .wsync _ m | .sld _ m | .sst _ m
  | .satom _ m | .barinit _ m | .barexp _ m | .bararr _ m | .barwait _ m | .waddr _ m | .kick _ m | .pub _ m | .sbank _ m
  | .msflushRange _ m | .msflushStack _ m => some m
  | _ => none

/-- The ORD, IMM and size fields. -/
def ordOf (i : Instr) : Nat := ((mExtOf i).map fun m => m.ord.toNat).getD 0
def immOf (i : Instr) : Nat := ((mExtOf i).map fun m => m.imm.toNat).getD 0
/-- R285: the bytes moved. -/
def sizeOf_ (i : Instr) : Nat := 2 ^ ((mExtOf i).map fun m => m.sz.toNat).getD 0
/-- IMM as a signed offset (R226). -/
def offOf (i : Instr) : Int := sext 12 (immOf i)

/-- A load, or an operation that returns a value as a load does (R94). -/
def isLoad (i : Instr) : Bool :=
  match i with
  | .ld .. | .ldl .. | .ldq .. | .lda .. | .sld .. | .atom .. | .atoml .. | .satom .. | .cprop .. | .cget .. | .crecyc ..
  | .cprobe .. => true
  | _ => false
/-- R92, R157: an acquire that holds the wave's later accesses. -/
def isAcquire (i : Instr) : Bool :=
  match i with
  | .cprop .. | .cget .. | .crecyc .. | .cprobe .. => true
  | .fence .. => decide (ordOf i = 3)
  | i => isLoad i && decide (ordOf i % 2 = 1)
/-- R92, R94, R157: a release, which waits for the wave's earlier loads. -/
def isRelease (i : Instr) : Bool :=
  match i with
  | .st .. | .stl .. | .stq .. | .sta .. | .sst .. | .atom .. | .atoml .. | .satom .. | .red .. => decide (2 ≤ ordOf i)
  | .fence .. | .bararr .. | .pub .. | .cprop .. | .crecyc .. => true
  | _ => false
/-- Makes entries of the dirty-address FIFO (R76). -/
def usesDaf (i : Instr) : Bool :=
  match i with
  | .st .. | .sst .. | .atom .. | .atoml .. | .satom .. | .red .. | .fence .. | .bararr .. | .barinit .. | .barexp ..
  | .cprop .. | .crecyc .. => true
  | i => isRelease i

/-- R94, R304: an acquire or a `pub` of the wave has not completed. -/
def acquireOut (v : Wave) : Bool :=
  v.ops.any fun o => isAcquire o.instr || (match o.instr with | .pub .. => true | _ => false)
/-- R94: an earlier load of the wave has not returned. -/
def loadsOut (v : Wave) : Bool := v.ops.any fun o => isLoad o.instr

/-- R333, R340: a multiply, fill or drain of the wave, not in a trap frame, has accesses to make: a later access of the wave waits. -/
def matPending (s : State) (w : Nat) : Bool :=
  let v := wv s w
  (pr s (corePair v.core)).mats.any fun m => decide (m.wave = w) && matHolds m && ((findOp v m.op).any fun o => o.window)

/-- R63, R64: the wave's scratch, FIFO or tile stores that wait for their release marker. -/
def ownScrWaits (s : State) (w : Nat) : Bool :=
  s.accs.any fun a => decide (a.wave = w) && (match a.act with | .scr => true | _ => false)

/-- R64, R65: an instruction performed at a bank or a tile, in the wave's program order. -/
def atBank (i : Instr) : Bool :=
  match i with
  | .ldl .. | .stl .. | .ldq .. | .stq .. | .lda .. | .sta .. | .barinit .. | .barexp .. | .bararr .. | .barwait .. | .waddr .. => true
  | .sld _ m | .sst _ m => m.c ≠ 128
  | _ => false

/-- R93, R98: a strong store performed at a bank or a tile, or a barrier operation on a scratch object. -/
def bankStore (i : Instr) : Bool :=
  match i with
  | .stl .. | .stq .. | .sta .. => true
  | .sst _ m => m.c ≠ 128
  | .barinit .. | .barexp .. => true
  | _ => false

/-- R114: a fence with release of the wave has not completed. -/
def fenceOut (s : State) (w : Nat) : Bool := s.accs.any fun a => decide (a.wave = w) && relFence a

/-- R98, R115: an earlier instruction of the wave has faulted, so that nothing which must stand behind it goes on: of one that faulted
at a bank or a tile, its later accesses of banks and tiles, and of any one its releases. -/
def faultHeld (i : Instr) (v : Wave) : Bool :=
  v.ops.any fun o => decide (o.flanes ≠ 0) && o.window && (isRelease i || (atBank i && atBank o.instr))

/-- R42: an instruction whose requests to L2 slices take slots. -/
def takesSlot (i : Instr) : Bool :=
  match i with
  | .ld .. | .atom .. | .atoml .. | .satom .. | .cprop .. | .cget .. | .crecyc .. | .cprobe .. => true
  | .sld _ m => decide (m.c = 128)
  | .barwait .. => decide (immOf i % 2 = 1)
  | _ => false

/-- R94, R196: the waits of a memory instruction under condition 7: an acquire outstanding, earlier loads before a
release, request slots (R42) and FIFO space (R76); an access of a bank behind an earlier one that its release marker holds
(R64, R65, log 63), or one that faulted (R115), and a store there behind a fence with release (R114). -/
def memWaits (i : Instr) (s : State) : Bool :=
  let v := wv s s.cur.wave
  acquireOut v || matPending s s.cur.wave || (atBank i && ownScrWaits s s.cur.wave) || (isRelease i && loadsOut v) ||
    (takesSlot i && slotsWait s v.core s.cur.wave) || (usesDaf i && !(dafRoom s v.core 1)) || faultHeld i v ||
    (bankStore i && fenceOut s s.cur.wave)

/-! ### Faults of lanes and results -/

/-- R286, R287: lanes of an operation that fault without an access: lane, code and address. -/
def failLanes (s : State) (w id cls : Nat) (fs : List (Nat × Nat × Nat)) : State :=
  match fs with
  | [] => s
  | (l0, code, addr) :: _ =>
    modWv s w fun v =>
      modOp v id fun o =>
        let low := decide (o.flanes = 0) || decide (l0 < firstLane o.flanes)
        { o with
          flanes := o.flanes ||| lanesWhere (fun l => fs.any fun f => f.1 = l), window := true,
          status := if low then code else o.status, cls := if low then cls else o.cls,
          faddr := if low then addr else o.faddr }

/-- R287: a uniform instruction or a whole operation faults: all its lanes. -/
def failAll (s : State) (w id cls code addr : Nat) : State :=
  match findOp (wv s w) id with
  | none => s
  | some o => failLanes s w id cls ((lanesOf o.lanes).map fun l => (l, code, addr))

/-- R172, R69: a variable-latency result of operation `id`, to be written for lanes `m` no sooner than `n` cycles after its issue. -/
def addResultIn (n : Nat) (s : State) (w id : Nat) (m : Lanes) (x : Writes) : State :=
  if m = 0 then s else
  let (r, s) := fresh s
  let at_ := ((findOp (wv s w) id).map (·.issuedAt)).getD 0
  modWv s w fun v => { v with results := v.results ++ [{ id := r, op := id, lanes := m, due := at_ + n, writes := x }] }

/-- The same of an operation whose shortest time the manual does not give. -/
def addResult (s : State) (w id : Nat) (m : Lanes) (x : Writes) : State := addResultIn 0 s w id m x

/-- R285, R287: the register writes of lane values `xs` of `n` bytes. -/
def loadWrites (o : Opr) (n : Nat) (t : Tag) (xs : List (Nat × Nat)) : Writes :=
  let rs := dstRegs (specOf o.instr)
  if (specOf o.instr).uni then
    { noWrites with sregs := match xs with
        | [] => []
        | (_, x) :: _ => rs.zip (natWords ((n + 3) / 4) x) }
  else { noWrites with regs := xs.flatMap fun (l, x) => (rs.zip (natWords ((n + 3) / 4) x)).map fun (r, b) => (l, r, b, t) }

/-! ### Addresses (R226) -/

/-- The 64-bit address of a lane, from the words captured; `k` is the place of the address's first source. -/
def laneVa (i : Instr) (o : Opr) (k l : Nat) (imm : Int) : Nat :=
  let sp := specOf i
  let x := opVal sp o.words k l
  let base : Nat := match sp.srcs[k + 1]? with
    | some y => if y.uni && decide (y.fld = .c) then opVal sp o.words (k + 1) l else 0
    | none => 0
  wrap 64 ((x + base : Nat) + imm)

/-- The group-relative scratch offset of a lane, an integer (R9). -/
def laneScrOff (i : Instr) (o : Opr) (k l : Nat) : Int :=
  let sp := specOf i
  let x := opVal sp o.words k l
  let base : Nat := match sp.srcs[k + 1]? with
    | some y => if y.uni && decide (y.fld = .c) then opVal sp o.words (k + 1) l else 0
    | none => 0
  (x + base : Nat) + offOf i

/-- R286, R63, R64: the fault of a scratch access of `n` bytes at `a`, none where it proceeds. -/
def scrFault (s : State) (g : Group) (a : Int) (n : Nat) : Option Nat :=
  if a % n ≠ 0 then some 0x20
  else if a < 0 ∨ !(scrIn g a.toNat n) then some 0x21
  else if !(scrMode s g a.toNat n) then some 0x22
  else none

/-! ### Translated accesses -/

/-- A fresh access of operation `id`. -/
def newAcc (s : State) (w : Nat) (o : Opr) (lanes : Lanes) (parts : List (Nat × Nat)) (n va : Nat) (mask : BitVec 32)
    (cls : AccClass) (act : Act) : State × Acc :=
  let (id, s) := fresh s
  let v := wv s w
  let i := o.instr
  (s, { id := id, op := o.id, wave := w, core := v.core, ctx := v.ctx, lanes := lanes, parts := parts, n := n, mask := mask,
        cls := cls, act := act, va := va, strong := decide (ordOf i ≠ 0) || (match act with | .load | .store _ => false | _ => true),
        acq := isAcquire i, rel := isRelease i, kind := .normal, pa := 0, twin := 0, priv := false, stage := .trans, val := 0, got := BitVec.allOnes 32,
        status := 0, fill := false, deadline := 0, lat := 0, lvl := 7 })

/-- The mask of bytes `o` to `o + n - 1` of a sector. -/
def secMask (o n : Nat) : BitVec 32 := BitVec.ofNat 32 ((2 ^ n - 1) <<< o)

/-- R108, R110: one access for each sector that lanes name, in order of their lowest lanes; `data` gives a store's bytes
by lane. -/
def sectorAccs (w : Nat) (o : Opr) (n : Nat) (cls : AccClass) (data : Option (Nat → Nat)) (ps : List (Nat × Nat)) :
    List Nat → State → State × List Acc
  | [], s => (s, [])
  | sec :: r, s =>
    let mine := ps.filter fun p => p.2 / 32 = sec
    let mask := mine.foldl (fun m p => m ||| secMask (p.2 % 32) n) 0
    let lanes := if (specOf o.instr).uni then o.lanes else lanesWhere fun l => mine.any fun p => p.1 = l
    let act := match data with
      | none => Act.load
      | some f => .store (mine.foldl (fun d p =>
          let old := sectorBytes d (p.2 % 32) n
          d - old * 2 ^ (8 * (p.2 % 32)) + (f p.1 % 2 ^ (8 * n)) * 2 ^ (8 * (p.2 % 32))) 0)
    let va := (mine.head?.map (·.2)).getD 0
    let (s, a) := newAcc s w o lanes mine n va mask cls act
    let (s, as) := sectorAccs w o n cls data ps r s
    (s, a :: as)

/-- The sectors named, each once, in order of first naming. -/
def sectorsOf (ps : List (Nat × Nat)) : List Nat :=
  ps.foldl (fun l p => if l.contains (p.2 / 32) then l else l ++ [p.2 / 32]) []

/-- R115: misaligned accesses of `n` bytes, which have faulted and are not made: one for each sector that one names, behind which
later accesses stand. -/
def badAccs (w : Nat) (o : Opr) (n : Nat) (cls : AccClass) (act : Act) : List (Lanes × Nat) → State → State × List Acc
  | [], s => (s, [])
  | (m, va) :: r, s =>
    let k := min n (32 - va % 32)
    let (s, a) := newAcc s w o m [] n va (secMask (va % 32) k) cls act
    let (s, b) := newAcc s w o m [] n ((va + k) % 2 ^ 64) (secMask 0 (n - k)) cls act
    let (s, as) := badAccs w o n cls act r s
    (s, { a with stage := .failed, status := 0x20 } :: (if k < n then [{ b with stage := .failed, status := 0x20 }] else []) ++ as)

/-- R286, R287, R289: the lanes' accesses of `n` bytes at the addresses `ps`: the misaligned fault, of a uniform instruction for its
whole PC group, and the others are made. -/
def startSectors (s : State) (replay : Bool) (w : Nat) (o : Opr) (n : Nat) (cls : AccClass) (data : Option (Nat → Nat))
    (ps : List (Nat × Nat)) : State :=
  let bad := ps.filter fun p => decide (p.2 % n ≠ 0)
  let good := ps.filter fun p => decide (p.2 % n = 0)
  let group := fun l : Nat => if (specOf o.instr).uni then o.lanes else lane1 l
  let (s, as) := sectorAccs w o n cls data good (sectorsOf good) s
  let (s, bs) := badAccs w o n cls (if data.isSome then .store 0 else .load) (bad.map fun p => (group p.1, p.2)) s
  let s := failLanes s w o.id 10 (bad.flatMap fun p => (lanesOf (group p.1)).map fun l => (l, 0x20, p.2))
  refreshWindow (beginAccs s replay (as ++ bs)) w o.id

/-- R295, R296, R154: one access for each (lanes, address, action). -/
def listAccs (w : Nat) (o : Opr) (n : Nat) (cls : AccClass) : List (Lanes × Nat × Act) → State → State × List Acc
  | [], s => (s, [])
  | (m, va, act) :: r, s =>
    let (s, a) := newAcc s w o m ((lanesOf m).map fun l => (l, va)) n va (secMask (va % 32) n) cls act
    let (s, as) := listAccs w o n cls r s
    (s, a :: as)

/-- R286: accesses that each name one aligned location; the misaligned fault. -/
def startAtomics (s : State) (replay : Bool) (w : Nat) (o : Opr) (n : Nat) (cls : AccClass) (xs : List (Lanes × Nat × Act)) : State :=
  let bad := xs.filter fun x => decide (x.2.1 % n ≠ 0)
  let (s, as) := listAccs w o n cls (xs.filter fun x => decide (x.2.1 % n = 0)) s
  let (s, bs) := badAccs w o n cls (.red 0 0) (bad.map fun x => (x.1, x.2.1)) s
  let s := failLanes s w o.id 10 (bad.flatMap fun x => (lanesOf x.1).map fun l => (l, 0x20, x.2.1))
  refreshWindow (beginAccs s replay (as ++ bs)) w o.id

/-- R295: the operation of an atomic: code, operand and, for `.cas`, the new value. -/
def atomAct (i : Instr) (n x : Nat) : Act := .atom (immOf i % 32) (x % 2 ^ (8 * n)) (x / 2 ^ (8 * n))

/-- R296: the lanes of a `red` combined by address, in ascending order. -/
def redCombine (code n : Nat) (xs : List (Nat × Nat × Nat)) : List (Lanes × Nat × Act) :=
  let addrs := xs.foldl (fun l x => if l.contains x.2.1 then l else l ++ [x.2.1]) []
  addrs.map fun a =>
    let mine := xs.filter fun x => x.2.1 = a
    let c := match mine with
      | [] => 0
      | x :: r => r.foldl (fun c y => atomNew code n c y.2.2 0) x.2.2
    (lanesWhere (fun l => mine.any fun x => x.1 = l), a, .red code c)

/-- The actions of the imago operations: 0 `cprop`, 1 `cget`, 2 `crecyc`, 3 `cprobe`. -/
def imagoAct (i : Instr) (x : Nat) : Act :=
  match i with
  | .cprop .. => .imago 0 (x / 2 ^ 64 % 2 ^ 32) (x % 2 ^ 64)
  | .cget .. => .imago 1 (x % 2 ^ 32) 0
  | .crecyc .. => .imago 2 (x % 2 ^ 32) 0
  | _ => .imago 3 0 0

/-- R154, R157, R158: imago operations: a misaligned lane makes no access; FAULT with cause 1 returns to it as a result. -/
def startImago (s : State) (replay : Bool) (w : Nat) (o : Opr) (m : Lanes) : State :=
  let i := o.instr
  let sp := specOf i
  let ls := (lanesOf m).map fun l =>
    (l, wrap 64 ((opVal sp o.words 0 l : Nat) + offOf i), imagoAct i (opVal sp o.words 1 l))
  let bad := ls.filter fun x => decide (x.2.1 % 16 ≠ 0)
  let good := ls.filter fun x => decide (x.2.1 % 16 = 0)
  let (s, as) := listAccs w o 16 .im (good.map fun x => (lane1 x.1, x.2.1, x.2.2)) s
  let (s, bs) := listAccs w o 16 .im (bad.map fun x => (lane1 x.1, x.2.1, .imago 3 0 0)) s
  let bs := bs.map fun a => { a with mask := 0, stage := .ret, val := imagoVal 4 1 0 }
  refreshWindow (beginAccs s replay (as ++ bs)) w o.id

/-! ### Scratch, FIFO and accumulator accesses (R291 to R293) -/

/-- The lanes of a scratch access split into those that fault and those that proceed. -/
def scrSplit (s : State) (g : Group) (n : Nat) (xs : List (Nat × Int)) : List (Nat × Nat × Nat) × List (Nat × Nat) :=
  (xs.filterMap fun x => (scrFault s g x.2 n).map fun c => (x.1, c, wrap 64 x.2),
   xs.filterMap fun x => match scrFault s g x.2 n with | none => some (x.1, x.2.toNat) | some _ => none)

/-- R291: `ldl`, and `sld` of scratch: performed at the bank. -/
def scrLoad (s : State) (w : Nat) (o : Opr) (xs : List (Nat × Int)) : State :=
  let n := sizeOf_ o.instr
  let g := groupOf s w
  let (bad, good) := scrSplit s g n xs
  let uni := (specOf o.instr).uni
  let s := addResultIn 6 s w o.id (if uni then (if good.isEmpty then 0 else o.lanes) else lanesWhere fun l => good.any fun x => x.1 = l)
    (loadWrites o n .untyped (good.map fun x => (x.1, scrRead s g x.2 n)))
  if uni then (match bad with | [] => s | (_, c, a) :: _ => failAll s w o.id 10 c a) else failLanes s w o.id 10 bad

/-- R108, R291: `stl`, and `sst` to scratch: performed at the bank, in ascending lane order. -/
def scrStore (s : State) (w : Nat) (o : Opr) (f : Nat → Nat) (xs : List (Nat × Int)) : State :=
  let n := sizeOf_ o.instr
  let g := groupOf s w
  let (bad, good) := scrSplit s g n xs
  let s := good.foldl (fun s x => scrWrite s g x.2 n (f x.1 % 2 ^ (8 * n))) s
  if (specOf o.instr).uni then
    (match bad with | [] => completeOp s w o.id o.lanes 0 | (_, c, a) :: _ => failAll s w o.id 10 c a)
  else completeOp (failLanes s w o.id 10 bad) w o.id (lanesWhere fun l => good.any fun x => x.1 = l) 0

/-- R165: the pair and bank of a FIFO number, or the code of its fault. -/
def fifoBank (s : State) (g : Group) (k : Nat) (write : Bool) : Except Nat (Nat × Nat) :=
  let ok := fun (x : Group) (b : Nat) =>
    if (bank s x.pair (x.bank0 + b)).mode = .fifo then .ok (x.pair, x.bank0 + b) else .error 0x22
  if k < 64 then (if k < g.nBanks then ok g k else .error 0x21)
  else if write || decide (g.upstream = 0) then .error 0x21
  else
    let u := gp s g.upstream
    if k - 64 < u.nBanks then ok u (k - 64) else .error 0x21

/-- R292: the entries that `m` lanes of `n` bytes take. -/
def fifoEntries (m n : Nat) : Nat := (m * n + 31) / 32

/-- R292: entries promised to release `stq` instructions whose markers have not completed (log 23). -/
def fifoPromised (s : State) (p b : Nat) : Nat :=
  (s.accs.map fun a => if bankWait a then 0 else match a.act with
    | .scr => (match findOp (wv s a.wave) a.op with
      | some o => (match o.instr with
        | .stq _ m => (match fifoBank s (groupOf s a.wave) (m.imm.toNat % 128) true with
          | .ok (q, k) => if q = p ∧ k = b then fifoEntries (laneCount a.lanes) (sizeOf_ o.instr) else 0
          | .error _ => 0)
        | _ => 0)
      | none => 0)
    | _ => 0).foldl (· + ·) 0

/-- R292: `ldq` of a group must wait for entries, `stq` for free ones. -/
def fifoShort (s : State) (g : Group) (i : Instr) (m : Lanes) : Bool :=
  let e := fifoEntries (laneCount m) (sizeOf_ i)
  match i with
  | .ldq .. => (match fifoBank s g (immOf i % 128) false with
    | .ok (p, b) => decide ((bank s p b).fifo.length < e)
    | .error _ => false)
  | .stq .. => (match fifoBank s g (immOf i % 128) true with
    | .ok (p, b) => decide (511 < (bank s p b).fifo.length + fifoPromised s p b + e)
    | .error _ => false)
  | _ => false

/-- The same for the current wave. -/
def fifoWaits (i : Instr) (m : Lanes) (s : State) : Bool := fifoShort s (groupOf s s.cur.wave) i m

/-- The FIFO of bank `b` of pair `p` replaced. -/
def setFifo (s : State) (p b : Nat) (f : List (BitVec 256)) : State :=
  modPr s p fun x => { x with banks := lmod x.banks b fun y => { y with fifo := f } }

/-- R292: `ldq`. -/
def fifoLoad (s : State) (w : Nat) (o : Opr) (m : Lanes) : State :=
  let n := sizeOf_ o.instr
  match fifoBank s (groupOf s w) (immOf o.instr % 128) false with
  | .error c => failAll s w o.id 10 c (immOf o.instr % 128)
  | .ok (p, b) =>
    let e := fifoEntries (laneCount m) n
    let f := (bank s p b).fifo
    let bytes := (f.take e).foldr (fun x y => x.toNat + 2 ^ 256 * y) 0
    let xs := (lanesOf m).zipIdx.map fun x => (x.1, bytes / 2 ^ (8 * n * x.2) % 2 ^ (8 * n))
    addResult (setFifo s p b (f.drop e)) w o.id m (loadWrites o n .untyped xs)

/-- R292: `stq`. -/
def fifoStore (s : State) (w : Nat) (o : Opr) (m : Lanes) : State :=
  let i := o.instr
  let n := sizeOf_ i
  match fifoBank s (groupOf s w) (immOf i % 128) true with
  | .error c => failAll s w o.id 10 c (immOf i % 128)
  | .ok (p, b) =>
    let e := fifoEntries (laneCount m) n
    let bytes := (lanesOf m).zipIdx.foldl
      (fun y x => y + (opVal (specOf i) o.words 0 x.1 % 2 ^ (8 * n)) * 2 ^ (8 * n * x.2)) 0
    completeOp (setFifo s p b ((bank s p b).fifo ++ (List.range e).map fun k => BitVec.ofNat 256 (bytes >>> (256 * k))))
      w o.id m 0

/-- R293: the fault of a tile offset. -/
def tileFault (a : Int) (n : Nat) : Option Nat :=
  if a % n ≠ 0 then some 0x20 else if a < 0 ∨ (16384 - n : Int) < a then some 0x23 else none

/-- The physical tile of a group-relative accumulator index (R68). -/
def tileIdx (g : Group) (t : Nat) : Nat := g.tile0 + t
/-- A core's physical tile. -/
def accTile (s : State) (c t : Nat) : AccTile := tget emptyTile (cr s c).tiles t
def setTile (s : State) (c t : Nat) (x : AccTile) : State := modCr s c fun y => { y with tiles := tset emptyTile y.tiles t x }

/-- R293: the tile offsets of the lanes: those that fault and those that proceed. -/
def tileSplit (o : Opr) (k : Nat) (m : Lanes) : List (Nat × Nat × Nat) × List (Nat × Nat) :=
  let n := sizeOf_ o.instr
  let xs := (lanesOf m).map fun l => (l, ((opVal (specOf o.instr) o.words k l % 2 ^ 32 : Nat) : Int) + offOf o.instr)
  (xs.filterMap fun x => (tileFault x.2 n).map fun c => (x.1, c, wrap 64 x.2),
   xs.filterMap fun x => match tileFault x.2 n with | none => some (x.1, x.2.toNat) | some _ => none)

/-- R293: `lda`; the destinations carry F32. -/
def tileLoad (s : State) (w : Nat) (o : Opr) (t : Nat) (m : Lanes) : State :=
  let n := sizeOf_ o.instr
  let (bad, good) := tileSplit o 0 m
  let x := accTile s (wv s w).core (tileIdx (groupOf s w) t)
  let rd := fun a : Nat => wordsNat ((List.range (n / 4)).map fun k => tget 0 x.elems (a / 4 + k))
  failLanes (addResultIn 6 s w o.id (lanesWhere fun l => good.any fun y => y.1 = l)
    (loadWrites o n .f32 (good.map fun y => (y.1, rd y.2)))) w o.id 10 bad

/-- R293: `sta`; the tile's tag becomes F32. -/
def tileStore (s : State) (w : Nat) (o : Opr) (t : Nat) (m : Lanes) : State :=
  let n := sizeOf_ o.instr
  let (bad, good) := tileSplit o 1 m
  let c := (wv s w).core
  let k := tileIdx (groupOf s w) t
  let x := accTile s c k
  let x := good.foldl (fun (x : AccTile) y =>
    (natWords (n / 4) (opVal (specOf o.instr) o.words 0 y.1)).zipIdx.foldl
      (fun (x : AccTile) z => { empty := false, elems := tset 0 x.elems (y.2 / 4 + z.2) z.1 }) x) x
  let s := if good.isEmpty then s else setTile s c k x
  completeOp (failLanes s w o.id 10 bad) w o.id (lanesWhere fun l => good.any fun y => y.1 = l) 0

/-- R92, R94, R101: a scratch, FIFO or tile store with the release bit is performed when its marker completes (R78). -/
def deferScr (s : State) (replay : Bool) (w : Nat) (o : Opr) (m : Lanes) (k : State → State) : State :=
  if isRelease o.instr then
    let (s, a) := newAcc s w o m [] 4 0 0 .st .scr
    let a := { a with priv := true, stage := .ready }
    let s := { s with accs := if replay then a :: s.accs else s.accs ++ [a] }
    if heldUp s a ∨ !(dafRoom s a.core 1) then s
    else putAcc (dafPush s a.core { kind := .rel a.id, accs := [a.id] }) { a with stage := .queued }
  else refreshWindow (k s) w o.id

/-- R291 to R293: a scratch, FIFO or tile store performed for lanes `m`. -/
def scrPerform (s : State) (w : Nat) (o : Opr) (m : Lanes) : State :=
  let i := o.instr
  let sp := specOf i
  match i with
  | .stl .. => scrStore s w o (fun l => opVal sp o.words 0 l) ((lanesOf m).map fun l => (l, laneScrOff i o 1 l))
  | .sst .. => scrStore s w o (fun _ => opVal sp o.words 0 0) [(firstLane o.lanes, (opVal sp o.words 1 0 : Nat) + offOf i)]
  | .stq .. => fifoStore s w o m
  | .sta _ x => tileStore s w o x.c.toNat m
  | _ => s

/-- R79: the self-invalidation of an acquire whose value is read at this instant. -/
def acquireNow (s : State) (w : Nat) (i : Instr) : State :=
  if ordOf i % 2 = 1 then selfInvalidate s (wv s w).core else s

/-! ### Starting an instruction, at issue and at replay -/

/-- The accesses of operation `id` of wave `w` for lanes `m` begin, its operands being the words it captured. -/
def startMem (s : State) (replay : Bool) (w id : Nat) (m : Lanes) : State :=
  match findOp (wv s w) id with
  | none => s
  | some o =>
    let i := o.instr
    let sp := specOf i
    let n := sizeOf_ i
    match i with
    | .ld .. => startSectors s replay w o n .ld none ((lanesOf m).map fun l => (l, laneVa i o 0 l (offOf i)))
    | .st .. => startSectors s replay w o n .st (some fun l => opVal sp o.words 0 l)
        ((lanesOf m).map fun l => (l, laneVa i o 1 l (offOf i)))
    | .sld _ x =>
      if x.c = 128 then startSectors s replay w o n .ld none [(firstLane o.lanes, wrap 64 ((opVal sp o.words 0 0 : Nat) + offOf i))]
      else refreshWindow (acquireNow (scrLoad s w o [(firstLane o.lanes, (opVal sp o.words 0 0 : Nat) + offOf i)]) w i) w id
    | .sst _ x =>
      if x.c = 128 then startSectors s replay w o n .st (some fun _ => opVal sp o.words 0 0)
        [(firstLane o.lanes, wrap 64 ((opVal sp o.words 1 0 : Nat) + offOf i))]
      else deferScr s replay w o m fun s => scrPerform s w o m
    | .ldl .. =>
      refreshWindow (acquireNow (scrLoad s w o ((lanesOf m).map fun l => (l, laneScrOff i o 0 l))) w i) w id
    | .stl .. => deferScr s replay w o m fun s => scrPerform s w o m
    | .ldq .. => refreshWindow (acquireNow (fifoLoad s w o m) w i) w id
    | .stq .. => deferScr s replay w o m fun s => scrPerform s w o m
    | .lda _ x => refreshWindow (acquireNow (tileLoad s w o x.c.toNat m) w i) w id
    | .sta .. => deferScr s replay w o m fun s => scrPerform s w o m
    | .atom .. | .atoml .. =>
      startAtomics s replay w o n .at ((lanesOf m).map fun l => (lane1 l, opVal sp o.words 0 l, atomAct i n (opVal sp o.words 1 l)))
    | .satom .. => startAtomics s replay w o n .at [(o.lanes, opVal sp o.words 0 0, atomAct i n (opVal sp o.words 1 0))]
    | .red .. =>
      startAtomics s replay w o n .rd
        (redCombine (immOf i % 32) n ((lanesOf m).map fun l => (l, opVal sp o.words 1 l, opVal sp o.words 0 l % 2 ^ (8 * n))))
    | .cprop .. | .cget .. | .crecyc .. | .cprobe .. => startImago s replay w o m
    | _ => s

/-- R362: an instruction that a helper lane does not perform. -/
def helperSkips (i : Instr) : Bool :=
  match i with
  | .st .. | .stl .. | .stq .. | .sta .. | .atom .. | .atoml .. | .red .. | .cprop .. | .crecyc .. => true
  | _ => false

/-- R362: the lanes of `m` that perform the instruction. -/
def workLanes (i : Instr) (v : Wave) (m : Lanes) : Lanes := if helperSkips i then m &&& ~~~v.helpers else m

/-- R362: operation `id` is over for the helper lanes `m`; one that returns a value fills their destinations with zero. -/
def skipHelpers (s : State) (w id : Nat) (m : Lanes) : State :=
  if m = 0 then s else
  match findOp (wv s w) id with
  | none => s
  | some o =>
    if (dstRegs (specOf o.instr)).isEmpty then completeOp s w id m 0
    else addResult s w id m (loadWrites o (4 * (dstRegs (specOf o.instr)).length) .untyped ((lanesOf m).map fun l => (l, 0)))

/-- R42: the wave takes its place among those of its core that wait for a slot. -/
def awaitSlot (s : State) : State :=
  let w := s.cur.wave
  modCr s (wv s w).core fun k => if k.slotQueue.contains w then k else { k with slotQueue := k.slotQueue ++ [w] }

/-- R42: the state with the place that an instruction's wave takes where it finds no free slot. -/
def inSlotOrder (i : Instr) (sp : Spec) (bad busy full : Bool) (s : State) : State :=
  if takesSlot i && slotsWait s (wv s s.cur.wave).core s.cur.wave && decide (gate sp bad busy full s = .wait 7) then awaitSlot s else s

/-- A memory instruction: under the conditions of issue, its operation opens with its words captured, and its accesses
begin; `late` is a precise trap decided once nothing waits (class, code). -/
def memOp (i : Instr) (bad busy full : Bool) (late : Option (Nat × Nat)) (s : State) : Host.Outcome State Fault Refusal :=
  let sp := specOf i
  let full := memWaits i s || full
  runOp i sp bad busy full (fun m s =>
    match late, decide (m = 0) with
    | some (c, k), false => raisePrecise s (trapOf i c k s.cur.lanes)
    | _, _ =>
      let w := s.cur.wave
      let words := capture (wv s w) sp
      let s := advance sp s
      if m = 0 then s else
      let (id, s) := openOp i sp m 0 words s
      let k := workLanes i (wv s w) m
      let s := skipHelpers s w id (m &&& ~~~k)
      if k = 0 then refreshWindow s w id else startMem s false w id k) (inSlotOrder i sp bad busy full s)

/-! ### The instructions -/

/-- R289: `ld`. -/
def execLd (h : Head) (m : MExt) (s : State) : Host.Outcome State Fault Refusal := memOp (.ld h m) false false false none s
/-- R289: `st`. -/
def execSt (h : Head) (m : MExt) (s : State) : Host.Outcome State Fault Refusal := memOp (.st h m) false false false none s
/-- R289: `sld`. -/
def execSld (h : Head) (m : MExt) (s : State) : Host.Outcome State Fault Refusal := memOp (.sld h m) false false false none s
/-- R289: `sst`. -/
def execSst (h : Head) (m : MExt) (s : State) : Host.Outcome State Fault Refusal := memOp (.sst h m) false false false none s
/-- R291: `ldl`. -/
def execLdl (h : Head) (m : MExt) (s : State) : Host.Outcome State Fault Refusal := memOp (.ldl h m) false false false none s
/-- R291: `stl`. -/
def execStl (h : Head) (m : MExt) (s : State) : Host.Outcome State Fault Refusal := memOp (.stl h m) false false false none s
/-- R292: `ldq`. -/
def execLdq (h : Head) (m : MExt) (s : State) : Host.Outcome State Fault Refusal :=
  let i := Instr.ldq h m
  memOp i false false (fifoWaits i (active (specOf i) s) s) none s
/-- R292: `stq`. -/
def execStq (h : Head) (m : MExt) (s : State) : Host.Outcome State Fault Refusal :=
  let i := Instr.stq h m
  memOp i false false (fifoWaits i (workLanes i (wv s s.cur.wave) (active (specOf i) s)) s) none s

/-- R293, R350: for wave `w`, a matrix instruction of the pair naming the tile has issued and not retired, one held for replay among
them. One in the wave's own trap frame takes its place at `rfe`. -/
def tileNamed (s : State) (w t : Nat) : Bool :=
  let p := corePair (wv s w).core
  let k := tileIdx (groupOf s w) t
  ((pr s p).mats.any fun x => !(matRetired x) && decide (x.tile = k)) ||
    s.waves.any fun (e : Nat × Wave) => e.2.live && !e.2.saved && decide (corePair e.2.core = p) && e.2.heldMats.any fun m =>
      decide (m.tile = k) && (decide (e.1 ≠ w) || ((findOp e.2 m.op).isSome && !(e.2.frameOps.contains m.op)))

/-- The same for the current wave. -/
def tileBusy (s : State) (t : Nat) : Bool := tileNamed s s.cur.wave t

/-- The tile of an `lda` or `sta`. -/
def tileField (i : Instr) : Option Nat := match i with | .lda _ x | .sta _ x => some x.c.toNat | _ => none

/-- R293: an `lda` or `sta` of the tile that has issued on this core and not been performed: a store that waits for its release marker,
one that has faulted, or one in the trap frame of another wave. -/
def staWaits (s : State) (c t : Nat) : Bool :=
  let names := fun (g : Nat) (i : Instr) => (tileField i).any fun x => decide (tileIdx (gp s g) x = t)
  (s.accs.any fun a => decide (a.core = c) && (match a.act with
    | .scr => (findOp (wv s a.wave) a.op).any fun o => names (wv s a.wave).group o.instr
    | _ => false)) ||
  s.waves.any fun (e : Nat × Wave) => e.2.live && !e.2.saved && decide (e.2.core = c) &&
    ((e.2.ops.any fun o => decide (o.flanes ≠ 0) && names e.2.group o.instr) ||
      (decide (e.1 ≠ s.cur.wave) && e.2.heldTiles.any fun x => decide (tileIdx (gp s e.2.group) x = t)))

/-- R292, R293: a replayed operation of wave `w` must wait as it would at issue. -/
def bankShort (s : State) (w : Nat) (o : Opr) (m : Lanes) : Bool :=
  fifoShort s (groupOf s w) o.instr m || (tileField o.instr).any (tileNamed s w)

/-- R292, R293: a replayed operation performed at its FIFO or tile; an `lda` finds a tile EMPTY. -/
def bankPerform (s : State) (w : Nat) (o : Opr) (m : Lanes) : State :=
  match o.instr with
  | .lda _ x => if (accTile s (wv s w).core (tileIdx (groupOf s w) x.c.toNat)).empty then failAll s w o.id 3 0 0 else startMem s false w o.id m
  | _ => startMem s false w o.id m

/-- R292, R293, R390: `ldq`, `stq`, `lda` or `sta` performed anew: where it would have to wait at issue, and behind one that waits, it
waits at the bank (log 157). -/
def startBank (s : State) (w id : Nat) (m : Lanes) : State :=
  match findOp (wv s w) id with
  | none => s
  | some o =>
    if (s.accs.any fun a => decide (a.wave = w) && bankWait a) || bankShort s w o m then
      let (s, a) := newAcc s w o m [] 4 0 0 .st .scr
      { s with accs := s.accs ++ [{ a with stage := .ready, acq := false, rel := false }] }
    else bankPerform s w o m

/-- R292, R293: what waits at a bank goes on where it no longer must, in order for each wave. -/
def bankResume (s : State) (id : Nat) : State :=
  match findAcc s id with
  | none => s
  | some a =>
    match findOp (wv s a.wave) a.op with
    | none => dropAcc s a
    | some o =>
      if (earlierAccs s a).any bankWait || bankShort s a.wave o a.lanes then s else bankPerform (dropAcc s a) a.wave o a.lanes

/-- The same of all that waits so. -/
def bankResumeAll (s : State) : State := ((s.accs.filter bankWait).map fun a => a.id).foldl bankResume s

/-- R293: `lda`; of an EMPTY tile it raises TAG_MISMATCH. -/
def execLda (h : Head) (m : MExt) (s : State) : Host.Outcome State Fault Refusal :=
  let g := groupOf s s.cur.wave
  let t := m.c.toNat
  let empty := (accTile s (wv s s.cur.wave).core (tileIdx g t)).empty
  memOp (.lda h m) (decide (g.kernel.accum ≤ t)) false (tileBusy s t) (if empty then some (3, 0) else none) s
/-- R293: `sta`. -/
def execSta (h : Head) (m : MExt) (s : State) : Host.Outcome State Fault Refusal :=
  let g := groupOf s s.cur.wave
  memOp (.sta h m) (decide (g.kernel.accum ≤ m.c.toNat)) false (tileBusy s m.c.toNat) none s

/-- R295: `atom`. -/
def execAtom (h : Head) (m : MExt) (s : State) : Host.Outcome State Fault Refusal := memOp (.atom h m) false false false none s
/-- R295: `atoml`. -/
def execAtoml (h : Head) (m : MExt) (s : State) : Host.Outcome State Fault Refusal := memOp (.atoml h m) false false false none s
/-- R295: `satom`. -/
def execSatom (h : Head) (m : MExt) (s : State) : Host.Outcome State Fault Refusal := memOp (.satom h m) false false false none s
/-- R296: `red`. -/
def execRed (h : Head) (m : MExt) (s : State) : Host.Outcome State Fault Refusal := memOp (.red h m) false false false none s
/-- R150: `cprop`. -/
def execCprop (h : Head) (m : MExt) (s : State) : Host.Outcome State Fault Refusal := memOp (.cprop h m) false false false none s
/-- R150: `cget`. -/
def execCget (h : Head) (m : MExt) (s : State) : Host.Outcome State Fault Refusal := memOp (.cget h m) false false false none s
/-- R150: `crecyc`. -/
def execCrecyc (h : Head) (m : MExt) (s : State) : Host.Outcome State Fault Refusal := memOp (.crecyc h m) false false false none s
/-- R150: `cprobe`. -/
def execCprobe (h : Head) (m : MExt) (s : State) : Host.Outcome State Fault Refusal := memOp (.cprobe h m) false false false none s

/-- R298, R104: the line at `line` filled into core `c`'s L1 from its home, but for poisoned sectors (R399) and for bytes that the
core's own entries are still to write there. -/
def prefetchL1 (s : State) (c line : Nat) (p : LinePath) : State :=
  if (tileOf s line).isSome then s else
  let s := reach s (128 * line) 128 false c
  let own := ownPending s c line
  -- what a fill in flight brings is older (R104)
  let s := stopFills s c fun l => l = line
  (List.range 4).foldl (fun s k =>
    let pa := 128 * line + 32 * k
    if s.poison.contains (pa / 32) then s
    else l1Install s c pa p (~~~(own.extractLsb' (32 * k) 32)) (homeRead s pa 32)) s

/-- R298: one lane's prefetch, dropped where its translation or kind check fails. -/
def prefetchLane (core ctx lvl : Nat) (s : State) (va : Nat) : State :=
  if 320 < slotsUsed s core then s else
  match translate s (.core core) ctx .ld false va 1 with
  | (s, .error _) => s
  | (s, .ok e) =>
    if e.kind = .normal ∨ e.kind = .twin then
      let pa := physOf s e .ld va
      let line := lineOf pa
      let s := if e.kind = .normal then classify s (frameOf pa) (some core) else s
      let mine := decide (tget .untouched s.dir (frameOf pa) = .privateTo core)
      let s := if lvl = 0 ∧ (l1Find (cr s core) line).isSome then s else takeSlot core s line
      match lvl with
      | 0 => prefetchL1 s core line (if e.kind = .twin then LinePath.twin else if mine then .priv else .shared)
      | 1 => reach s (128 * line) 128 false core
      | _ => if (tileOf s line).isSome then s else dieRequest s line core
    else s

/-- R298: `pfx`: each lane in turn; nothing is reported and nothing returns. -/
def execPfx (h : Head) (m : MExt) (s : State) : Host.Outcome State Fault Refusal :=
  let i := Instr.pfx h m
  let sp := specOf i
  runOp i sp false false (acquireOut (wv s s.cur.wave)) (fun a s =>
    let v := wv s s.cur.wave
    let words := capture v sp
    let o : Opr := { id := 0, instr := i, pc := 0, lanes := a, todo := a, window := false, flag := 15, flanes := 0, status := 0,
                     cls := 0, faddr := 0, kind := 0, slot := 0, words := words, left := 0, skid := 0, issuedAt := cycAt s v.core }
    orStall s ((lanesOf a).foldl (fun s l => prefetchLane v.core v.ctx m.sz.toNat s (laneVa i o 0 l (offOf i))) (advance sp s))) s

/-! ### Fences and `wsync` -/

/-- Operation `id`, the release side of a `fence`: an entry behind the wave's accesses. -/
def startFence (s : State) (w id : Nat) : State :=
  match findOp (wv s w) id with
  | none => s
  | some o =>
    let (s, x) := newAcc s w o o.lanes [] 0 0 0 .st .fence
    let x := { x with priv := true, stage := .ready }
    let s := { s with accs := s.accs ++ [x] }
    if heldUp s x then s
    else putAcc (dafPush s x.core { kind := .rel x.id, accs := [x.id] }) { x with stage := .queued }

/-- R383: an access of the wave may still fault, or has: a release marker cannot stand behind it yet (log 62). -/
def mayFault (s : State) (w : Nat) : Bool :=
  s.accs.any fun a => decide (a.wave = w) && (match a.stage with | .trans | .walk | .dir | .ready | .failed => true | _ => false)

/-- R114: a fence: the self-invalidation of its acquire, and for a release a marker behind the wave's accesses. -/
def execFence (h : Head) (m : MExt) (s : State) : Host.Outcome State Fault Refusal :=
  let i := Instr.fence h m
  let sp := specOf i
  let v := wv s s.cur.wave
  runOp i sp false false (acquireOut v || loadsOut v || mayFault s s.cur.wave || faultHeld i v || matPending s s.cur.wave ||
      !(dafRoom s v.core 1)) (fun a s =>
    let w := s.cur.wave
    let s := advance sp s
    if a = 0 then s else
    -- with a release the self-invalidation follows its completion (R114)
    let s := if m.ord.toNat = 1 then selfInvalidate s v.core else s
    if m.ord.toNat < 2 then s else
    let (id, s) := openOp i sp a 0 [] s
    startFence s w id) s

/-- R112: what the lanes' accesses before an arrival still wait for: results, fixed-latency writes or accesses that
have not landed or been performed (log 24). -/
def arrivalWaits (s : State) (w : Nat) : Bool :=
  !(wv s w).results.isEmpty || !(wv s w).pend.isEmpty || matPending s w || (s.accs.any fun a => a.wave = w && decide (a.stage ≠ .failed)) ||
    (cr s (wv s w).core).walkers.any fun x => decide (x.wave = w) && !x.held

/-- R112: lanes `m` arrive and wait; the lanes of the group whose guard is false count as arrived. -/
def arrive (s : State) (m : Lanes) : State :=
  let w := s.cur.wave
  modWv s w fun v =>
    let v := modLanes v m fun x => { x with sleep := .wsync }
    wsyncCheck { v with wsyncArrived := v.wsyncArrived ||| s.cur.lanes }

/-- R300: `wsync` with a guard. -/
def execWsync (h : Head) (m : MExt) (s : State) : Host.Outcome State Fault Refusal :=
  let i := Instr.wsync h m
  let sp := specOf i
  runOp i sp false false (arrivalWaits s s.cur.wave) (fun a s => arrive (advance sp s) a) s

/-- R300: the short `wsync`. -/
def execWsyncShort (h : Head) (s : State) : Host.Outcome State Fault Refusal :=
  let i := Instr.wsyncShort h
  let sp := specOf i
  runOp i sp false false (arrivalWaits s s.cur.wave) (fun a s => arrive (advance sp s) a) s

end Sys2Proof.Machine
end

