-- ==== Sys2Proof/Machine/Barrier.lean ====
section
/-! DEFINITION. Barrier objects (spec/05, R131 to R134, R146; spec/12, R301) and `waddr` (R140, R302). -/

namespace Sys2Proof.Machine

open Sys2Proof.Machine.State

/-! ### The object (R131, R132) -/

def barPhase (b : Nat) : Nat := bits b 31 0
def barArrLeft (b : Nat) : Nat := bits b 47 32
def barArrPer (b : Nat) : Nat := bits b 63 48
def barBytesLeft (b : Nat) : Int := sext 32 (bits b 95 64)
def barBytesPer (b : Nat) : Nat := bits b 127 96

/-- An object from its fields. -/
def barObject (phase arrLeft arrPer : Nat) (bytesLeft : Int) (bytesPer : Nat) : Nat :=
  phase % 2 ^ 32 + 2 ^ 32 * (arrLeft % 2 ^ 16) + 2 ^ 48 * (arrPer % 2 ^ 16) + 2 ^ 64 * wrap 32 bytesLeft +
    2 ^ 96 * (bytesPer % 2 ^ 32)

/-- R132: complete_if_done. -/
def barDone (b : Nat) : Nat :=
  if barArrLeft b = 0 ∧ barBytesLeft b = 0 then
    barObject (barPhase b + 1) (barArrPer b) (barArrPer b) (sext 32 (barBytesPer b)) (barBytesPer b)
  else b

/-- R132: bar_init; a bad operand raises BAR_OPERAND (3). -/
def barInitOp (arrivals bytes : Nat) : Except Nat Nat :=
  if (arrivals = 0 ∧ bytes = 0) ∨ 2 ^ 31 - 1 < bytes ∨ 65535 < arrivals then .error 3
  else .ok (barObject 0 arrivals arrivals bytes bytes)

/-- R132: bar_arrive; an arrival at ARRLEFT = 0 raises BAR_OVERRUN (2). -/
def barArriveOp (b : Nat) : Except Nat Nat :=
  if barArrLeft b = 0 then .error 2
  else .ok (barDone (barObject (barPhase b) (barArrLeft b - 1) (barArrPer b) (barBytesLeft b) (barBytesPer b)))

/-- R132: `k` arrivals in order; the first that overruns ends them, and those before it stand. -/
def barArrivesOp : Nat → Nat → Nat × Bool
  | 0, b => (b, true)
  | k + 1, b => match barArriveOp b with
    | .ok b' => barArrivesOp k b'
    | .error _ => (b, false)

/-- R132: bar_count. -/
def barCountOp (b : Nat) (n : Int) : Except Nat Nat :=
  let x := barBytesLeft b + n
  if x < -(2 ^ 31) ∨ 2 ^ 31 - 1 < x then .error 2
  else .ok (barDone (barObject (barPhase b) (barArrLeft b) (barArrPer b) x (barBytesPer b)))

/-- R132: `barexp`; a count outside 1 to 2^31 - 1 raises BAR_OPERAND. -/
def barExpOp (b n : Nat) : Except Nat Nat := if n = 0 ∨ 2 ^ 31 - 1 < n then .error 3 else barCountOp b n

/-- R133: a wait for phase `p` returns. -/
def barReturns (b p : Nat) : Bool :=
  let d := wrap 32 ((barPhase b : Int) - p)
  decide (1 ≤ d) && decide (d ≤ 2 ^ 31 - 1)

/-- One barrier operation on an object: the object after it, and the code of its fault. `lanes` is the number of
arrivals. -/
def barApply (act : Act) (b : Nat) : Nat × Option Nat :=
  let ex := fun r : Except Nat Nat => match r with | .ok x => (x, none) | .error c => (b, some c)
  match act with
  | .barInit a n => ex (barInitOp a n)
  | .barExp n => ex (barExpOp b n)
  | .barArr k => match barArrivesOp k b with | (x, true) => (x, none) | (x, false) => (x, some 2)
  | _ => (b, none)

/-! ### The instructions (R301) -/

/-- IMM[11:4], the offset in units of 16 bytes. -/
def barOff (i : Instr) : Int := 16 * sext 8 (bits (immOf i) 11 4)
/-- The object is in scratch. -/
def barScr (i : Instr) : Bool := immOf i % 2 = 0

/-- The place among the sources of the object's base and of the last operand. -/
def barBaseIdx (i : Instr) : Nat := match i with | .barinit .. => 1 | _ => 0

/-- The operation of an instruction for an operation record. -/
def barAct (o : Opr) : Act :=
  let sp := specOf o.instr
  let x := fun k => opVal sp o.words k 0
  match o.instr with
  | .barinit .. => .barInit (x 0) (x 2)
  | .barexp .. => .barExp (x 1)
  | .bararr .. => .barArr (laneCount o.lanes)
  | _ => .barWait (x 1)

/-- The fault of a scratch object at `a`: BAR_ALIGN first, then the bounds and mode (class, code). -/
def barFault (s : State) (g : Group) (a : Int) : Option (Nat × Nat) :=
  if a % 16 ≠ 0 then some (11, 1) else (scrFault s g a 16).map fun c => (10, c)

/-- R133, R166: a PC group asleep on operation `o`, recorded as a waiter. -/
def addWaiter (s : State) (w : Nat) (o : Opr) (space home addr arg dst deadline : Nat) (sl : Nat → Sleep) : State :=
  let (id, s) := fresh s
  let s := { s with waiters := s.waiters ++
    [{ id := id, wave := w, op := o.id, lanes := o.lanes, space := space, home := home, addr := addr, arg := arg,
       dst := dst, deadline := deadline, woken := false }] }
  modWv s w fun v => modLanes v o.lanes fun x => if x.exited then x else { x with sleep := sl id }

/-- R69: the groups that sleep on the scratch object at `a` of pair `p` wake no earlier than 5 cycles after the `bararr` that completes
their phase, issued at `t` on core `c`, and no earlier than 12 on the other core of the pair. -/
def wakeLater (s : State) (c p a t : Nat) : State :=
  { s with waiters := s.waiters.map fun x =>
      if decide (x.dst = 0) && decide (x.space = 0) && decide (x.home = p) && decide (x.addr = a) && !x.woken then
        { x with deadline := t + (if (wv s x.wave).core = c then 5 else 12) }
      else x }

/-- A scratch barrier operation performed at its bank. -/
def barPerform (s : State) (w : Nat) (o : Opr) : State :=
  let i := o.instr
  let g := groupOf s w
  let a : Int := (opVal (specOf i) o.words (barBaseIdx i) 0 : Nat) + barOff i
  match barFault s g a with
  | some (c, k) => failAll s w o.id c k (wrap 64 a)
  | none =>
    let b := scrRead s g a.toNat 16
    match barAct o with
    | .barWait p =>
      if barReturns b p then completeOp (selfInvalidate s (wv s w).core) w o.id o.lanes 0
      else addWaiter s w o 0 g.pair (scrAddr g a.toNat) p 0 0 .barwait
    | act =>
      let (b', f) := barApply act b
      let s := scrWrite s g a.toNat 16 b'
      let s := if barPhase b' = barPhase b then s else wakeLater s (wv s w).core g.pair (scrAddr g a.toNat) o.issuedAt
      match f with
      | some c => failAll s w o.id 11 c (wrap 64 a)
      | none => completeOp s w o.id o.lanes 0

/-- A barrier operation on a translated object (R131): one access of class AT. A `barwait`'s PC group does not go on while PHASE is
being read, and sleeps from here (log 135). -/
def barAccess (s : State) (replay : Bool) (w : Nat) (o : Opr) : State :=
  let i := o.instr
  let a := wrap 64 ((opVal (specOf i) o.words (barBaseIdx i) 0 : Nat) + barOff i)
  if a % 16 ≠ 0 then failAll s w o.id 11 1 a else
  let (s, x) := newAcc s w o o.lanes ((lanesOf o.lanes).map fun l => (l, a)) 16 a (secMask (a % 32) 16) .at (barAct o)
  let s := match barAct o with
    | .barWait _ => modWv s w fun v => modLanes v o.lanes fun y => if y.exited then y else { y with sleep := .barwait 0 }
    | _ => s
  refreshWindow (beginAccs s replay [x]) w o.id

/-- R140, R302: `waddr`: the word at once where it differs, and otherwise a bounded sleep. -/
def startWaddr (s : State) (w : Nat) (o : Opr) : State :=
  let i := o.instr
  let g := groupOf s w
  let a : Int := (opVal (specOf i) o.words 0 0 : Nat) + offOf i
  let e := opVal (specOf i) o.words 1 0
  match scrFault s g a 4 with
  | some c => failAll s w o.id 10 c (wrap 64 a)
  | none =>
    let x := scrRead s g a.toNat 4
    if x ≠ e then
      addResult (selfInvalidate s (wv s w).core) w o.id o.lanes (loadWrites o 4 .untyped [(0, x)])
    else addWaiter s w o 0 g.pair (scrAddr g a.toNat) e 1 (cycAt s (wv s w).core + 2048) .waddr

/-- Operation `id` begins, for every memory instruction of this and the former file. -/
def startBar (s : State) (replay : Bool) (w id : Nat) (m : Lanes) : State :=
  match findOp (wv s w) id with
  | none => s
  | some o =>
    let i := o.instr
    match i with
    | .barinit .. | .barexp .. | .barwait .. =>
      if barScr i then refreshWindow (barPerform s w o) w id else barAccess s replay w o
    | .bararr .. => if barScr i then deferScr s replay w o o.lanes fun s => barPerform s w o else barAccess s replay w o
    | .waddr .. => refreshWindow (startWaddr s w o) w id
    | _ => startMem s replay w id m

/-- A barrier instruction or `waddr`. -/
def barOp (i : Instr) (s : State) : Host.Outcome State Fault Refusal :=
  let sp := specOf i
  runOp i sp false false (memWaits i s) (fun m s =>
    let w := s.cur.wave
    let words := capture (wv s w) sp
    let s := advance sp s
    if m = 0 then s else
    let (id, s) := openOp i sp m 0 words s
    startBar s false w id m) (inSlotOrder i sp false false (memWaits i s) s)

/-- R301: `barinit`. -/
def execBarinit (h : Head) (m : MExt) (s : State) : Host.Outcome State Fault Refusal := barOp (.barinit h m) s
/-- R301: `barexp`. -/
def execBarexp (h : Head) (m : MExt) (s : State) : Host.Outcome State Fault Refusal := barOp (.barexp h m) s
/-- R301: `bararr`, a release. -/
def execBararr (h : Head) (m : MExt) (s : State) : Host.Outcome State Fault Refusal := barOp (.bararr h m) s
/-- R301: `barwait`, whose wake is an acquire. -/
def execBarwait (h : Head) (m : MExt) (s : State) : Host.Outcome State Fault Refusal := barOp (.barwait h m) s
/-- R302: `waddr`. -/
def execWaddr (h : Head) (m : MExt) (s : State) : Host.Outcome State Fault Refusal := barOp (.waddr h m) s

/-! ### Waking (R133, R134, R140) -/

/-- The condition of a waiter on what its object or word holds now, in a core's L1 too where a store has left it there (R134, log
151); a write of a word that stores what it held is marked where it is made (R140). -/
def waiterReady (s : State) (x : Waiter) : Bool :=
  let v := fun n : Nat =>
    if x.space = 0 then memRead (pr s x.home).scratch x.addr n
    else homeRead (gather s (lineOf x.addr) (byteMask (x.addr % 128) n) false).1 x.addr n
  if x.dst = 1 then decide (v 4 ≠ x.arg) else barReturns (v 16) x.arg

/-- R133, R134, R140: every waiter whose object or word changed so as to end its wait is marked; a waiter of another device
is answered over the fabric (`wave` 0, the device in `op`). -/
def noteWakes (s : State) : State :=
  if s.waiters.isEmpty then s else
  let far := s.waiters.filter fun x => decide (x.wave = 0) && decide (x.dst = 0) && waiterReady s x
  let s := far.foldl (fun s x => out s (.farReply x.op 0 0 x.id)) s
  { s with waiters := (s.waiters.filter fun x => !(far.any fun y => y.id = x.id)).map fun x =>
      if !x.woken && decide (x.dst ≤ 1) && waiterReady s x then { x with woken := true } else x }

/-- The waiter named `id`. -/
def findWaiter (s : State) (id : Nat) : Option Waiter := s.waiters.find? fun x => x.id = id
/-- The waiter gone and its lanes awake. -/
def endWait (s : State) (x : Waiter) : State :=
  modWv { s with waiters := s.waiters.filter fun y => y.id ≠ x.id } x.wave fun v => wake v x.lanes

/-- R69, R133: a sleeping `barwait` may end. -/
def wakeDue (s : State) (x : Waiter) : Bool :=
  decide (x.dst = 0) && (x.woken || waiterReady s x) && decide (x.deadline ≤ cycAt s (wv s x.wave).core)

/-- R133: BARRIER_WAKE: the wake is an acquire of its core. -/
def execBarrierWake (s : State) : Host.Outcome State Fault Refusal :=
  .next (match findWaiter s (arg s 0) with
    | some x =>
      if wakeDue s x then
        completeOp (selfInvalidate (endWait s x) (wv s x.wave).core) x.wave x.op x.lanes 0
      else s
    | none => s)

/-- R140: the word read again as an acquire and returned. -/
def waddrReturn (s : State) (x : Waiter) : State :=
  let s := selfInvalidate (endWait s x) (wv s x.wave).core
  match findOp (wv s x.wave) x.op with
  | none => s
  | some o => addResult s x.wave x.op x.lanes (loadWrites o 4 .untyped [(0, memRead (pr s x.home).scratch x.addr 4)])

/-- R140: WADDR_WAKE: a write of the word, or a pre-emption request to the wave. -/
def execWaddrWake (s : State) : Host.Outcome State Fault Refusal :=
  .next (match findWaiter s (arg s 0) with
    | some x =>
      if x.dst = 1 ∧ (x.woken || waiterReady s x || (wv s x.wave).request) = true then waddrReturn s x else s
    | none => s)

/-- R140: WADDR_TIMEOUT: 2,048 cc have passed. -/
def execWaddrTimeout (s : State) : Host.Outcome State Fault Refusal :=
  .next (match findWaiter s (arg s 0) with
    | some x => if x.dst = 1 ∧ x.deadline ≤ cycAt s (wv s x.wave).core then waddrReturn s x else s
    | none => s)

end Sys2Proof.Machine
end

