-- ==== Sys2Proof/Machine/Imago.lean ====
section
/-! DEFINITION. Imago cells at their home, their copies and their waiting reads (spec/06, R147 to R159). -/

namespace Sys2Proof.Machine

open Sys2Proof.Machine.State

/-! ### The home of a cell -/

/-- R156: the lanes parked at the home slice of `pa`; one whose result is on its way is parked no longer. -/
def cellWaiters (s : State) (pa : Nat) : Nat :=
  (s.accs.filter fun a => decide (a.stage = .parked) && decide (a.status = 0) && decide (homeSlice a.pa = homeSlice pa) &&
    (match a.act with | .imago .. => true | _ => false)).length +
  (s.waiters.filter fun x => decide (x.dst = 2) && decide (homeSlice x.addr = homeSlice pa)).length

/-- R153: wake_waiters: the result is on its way to every lane parked on the cell, of this device or another. -/
def wakeCell (s : State) (pa st g v : Nat) : State :=
  let far := s.waiters.filter fun x => decide (x.dst = 2) && decide (x.addr = pa)
  let s := far.foldl (fun s x => out s (.farReply x.op v st g)) s
  { s with
    waiters := s.waiters.filter fun x => !(decide (x.dst = 2) && decide (x.addr = pa))
    accs := s.accs.map fun a =>
      if decide (a.stage = .parked) && decide (a.pa = pa) && decide (a.status = 0) &&
          (match a.act with | .imago .. => true | _ => false) then
        { a with status := 1, val := imagoVal st g v }
      else a }

/-- R153: imago_home: operation 0 `cprop`, 1 `cget`, 2 `crecyc`, 3 `cprobe` with generation `g` and value `v` on the cell at
`pa`: status, GEN or cause, VALUE; none while pending. The words of the line have been recalled (R149). -/
def imagoHome (s : State) (pa op g v : Nat) : State × Option (Nat × Nat × Nat) :=
  let put := fun (s : State) (v c st : Nat) =>
    homePut s (lineOf pa) (byteMask (pa % 128) 16) (BitVec.ofNat 1024 ((v % 2 ^ 64 + 2 ^ 64 * c + 2 ^ 96 * st) <<< (8 * (pa % 128))))
  if s.poison.contains (pa / 32) then (s, some (4, 4, 0)) else
  let value := homeRead s pa 8
  let c := homeRead s (pa + 8) 4
  let state := homeRead s (pa + 12) 1
  if 1 < state ∨ homeRead s (pa + 13) 3 ≠ 0 then (s, some (4, 2, 0)) else
  if op = 3 then (s, some (if state = 1 then (1, c, value) else (5, c, 0)))
  else if g < c then (s, some (2, c, 0))
  else if c < g then (s, some (3, c, 0))
  else match op with
    | 0 =>
      if state = 0 then
        (wakeCell (put s v c 1) pa 1 c v, some (0, c, v))
      else (s, some (1, c, value))
    | 1 =>
      if state = 1 then (s, some (1, c, value))
      else if 4096 ≤ cellWaiters s pa then (s, some (5, c, 0))
      else (s, none)
    | _ =>
      if c = 0xFFFFFFFF then (s, some (4, 3, 0))
      else (wakeCell (put s 0 (c + 1) 0) pa 2 (c + 1) 0, some (0, c + 1, 0))

/-- R88: a value for access `a` leaves its home in its turn on the channel for data. -/
def sendData (s : State) (a : Acc) : State := send s a.core (destOf s (accPa s a)) 2 (.data a.id)

/-- R153, R156: an imago access performed at its home; a pending lane sleeps and its bound starts. -/
def imagoPerform (s : State) (a : Acc) : State :=
  match a.act with
  | .imago op g v =>
    (match imagoHome s a.pa op g v with
    | (s, some (st, c, x)) => sendData (putAcc s { a with stage := .ret, val := imagoVal st c x }) a
    | (s, none) =>
      let s := putAcc s { a with stage := .parked, status := 0, deadline := cycAt s a.core + 2048 }
      modWv s a.wave fun w => modLanes w a.lanes fun x => if awake x then { x with sleep := .cget a.id } else x)
  | _ => s

/-- R155: the way of core `c`'s L1 that holds the copies of a line's cells, or one for them (log 133). -/
def copyRoom (s : State) (c line : Nat) : State × Nat :=
  match (copyLines (cr s c) (l1Set line)).find? fun x => x.1 = line with
  | some x => (s, x.2)
  | none => l1Way s c line

/-- R155: the copies of a core after a result: WON or LOST of `cprop` or `cget` installs one, a `crecyc`'s return drops it. -/
def imagoCopies (s : State) (a : Acc) (op st g v : Nat) : State :=
  let rest := fun c : Core => c.imago.filter fun x => decide (x.cell ≠ a.pa)
  if (op = 0 ∨ op = 1) ∧ st ≤ 1 then
    let (s, b) := copyRoom s a.core (lineOf a.pa)
    modCr s a.core fun c => { c with
      imago := { cell := a.pa, bank := b, asid := (cx s a.ctx).held.asid.toNat, va := a.va, value := v, gen := g } :: rest c }
  else if op = 2 then modCr s a.core fun c => { c with imago := rest c }
  else s

/-- R152, R155, R157: a result returns to its lane: an acquire, its copy, and its four registers. -/
def imagoDeliver (s : State) (a : Acc) (val : Nat) : State :=
  let st := val % 2 ^ 32
  let g := val / 2 ^ 32 % 2 ^ 32
  let v := val / 2 ^ 64
  let op := match a.act with | .imago op _ _ => op | _ => 3
  let s := imagoCopies (selfInvalidate s a.core) a op st g v
  let s := modWv (dropAcc s a) a.wave fun w =>
    wake w (a.lanes &&& lanesThat w fun x => decide (x.sleep = .cget a.id))
  match findOp (wv s a.wave) a.op with
  | none => s
  | some o => addResultIn a.lat s a.wave a.op a.lanes (loadWrites o 16 .untyped [(firstLane a.lanes, v + 2 ^ 64 * st + 2 ^ 96 * g)])

/-- The message that carries access `id`'s value to its core, if one does. -/
def dataMsg (s : State) (id : Nat) : Option Msg :=
  s.net.find? fun m => match m.body with | .data a => decide (a = id) | _ => false
/-- R88: no earlier message of its channel stands before the access's value. -/
def dataTurn (s : State) (id : Nat) : Bool :=
  match dataMsg s id with
  | some m => (netFirst s m.id).isSome
  | none => true
/-- The access's value has come. -/
def dataCome (s : State) (id : Nat) : State :=
  { s with net := s.net.filter fun m => match m.body with | .data a => decide (a ≠ id) | _ => true }

/-- R155: IMAGO_RESULT. For a cell of another device the result comes from outside: `ext`, or a fault found there as `status`. -/
def execImagoResult (s : State) : Host.Outcome State Fault Refusal :=
  .next (match findAcc s (arg s 0) with
    | none => s
    | some a =>
      match a.act, a.stage with
      | .imago .., .ret => if dataTurn s a.id then imagoDeliver (dataCome s a.id) a a.val else s
      | .imago .., .home =>
        if !(remoteDest (destOf s a.pa)) then s
        else if arg s 2 ≠ 0 then failAcc (forgetFar s a.id) a 10 (statusWord (arg s 2 % 256) a.lvl 8 (kindNum a.kind) true)
        else imagoDeliver (forgetFar s a.id) a (arg s 1)
      | _, _ => s)

/-- A parked `cget`. -/
def parkedGet (a : Acc) : Bool :=
  decide (a.stage = .parked) && (match a.act with | .imago .. => true | _ => false)

/-- R156: CGET_WAKE: a decision or a recycle reaches the lane. -/
def execCgetWake (s : State) : Host.Outcome State Fault Refusal :=
  .next (match findAcc s (arg s 0) with
    | none => s
    | some a => if parkedGet a && decide (a.status = 1) then imagoDeliver s a a.val else s)

/-- R156: the bound of a parked `cget` has passed, or a pre-emption request has reached its wave. -/
def getExpired (s : State) (a : Acc) : Bool :=
  (parkedGet a || (decide (a.stage = .home) && remoteDest (destOf s a.pa) && (match a.act with | .imago 1 _ _ => true | _ => false))) &&
    (decide (a.deadline ≤ cycAt s a.core) || (wv s a.wave).request)

/-- R156: CGET_TIMEOUT: EMPTY with the GEN last seen. -/
def execCgetTimeout (s : State) : Host.Outcome State Fault Refusal :=
  .next (match findAcc s (arg s 0) with
    | none => s
    | some a =>
      let g := match a.act with | .imago _ g _ => g | _ => 0
      if getExpired s a then imagoDeliver (forgetFar s a.id) a (imagoVal 5 g 0) else s)

def readyImago (s : State) : List (Instr × List Nat) :=
  s.accs.filterMap fun a =>
    match a.act, a.stage with
    | .imago .., .ret => if dataTurn s a.id then some (.imagoResult, [a.id]) else none
    | .imago .., .parked =>
      if a.status = 1 then some (.cgetWake, [a.id]) else if getExpired s a then some (.cgetTimeout, [a.id]) else none
    | .imago 1 _ _, .home => if getExpired s a then some (.cgetTimeout, [a.id]) else none
    | _, _ => none

end Sys2Proof.Machine
end

