-- ==== Sys2Proof/Machine/Home.lean ====
section
/-! DEFINITION. The dirty-address FIFO as it drains, and the home: registration, loads, write-backs, atomics, recalls and
merges (spec/03, R71 to R89). -/

namespace Sys2Proof.Machine

open Sys2Proof.Machine.State

/-! ### Fills (R43) -/

/-- R43: the line's data has come from the memory side; the requests that waited for it go on. -/
def fillDone (s : State) (line : Nat) : State :=
  let s := if sliceOut s line then s else l2Room s line
  { s with
    l2 := if sliceOut s line then s.l2 else tmod noL2 s.l2 line fun t => { t with valid := 15 }
    parked := s.parked.map fun p => if p.line = line && decide (p.need = .fill) then { p with need := .turn } else p }

/-! ### Requests at a home -/

/-- A request parked at the line. -/
def park (s : State) (line : Nat) (m : Msg) (n : Need) : State :=
  { s with parked := { line := line, msg := m, need := n } :: s.parked }

/-- The request leaves its place at the line. -/
def unpark (s : State) (line id : Nat) : State :=
  { s with parked := s.parked.filter fun p => !(decide (p.line = line) && decide (p.msg.id = id)) }

/-- The first of the requests parked at a line. -/
def firstParked (s : State) (line : Nat) : Option Parked := s.parked.find? fun p => decide (p.line = line)

/-- R143, R144: where an engine's write is performed now: on a TWIN page, on the side that is not visible. -/
def engPa (s : State) (x : EngPart) : Nat :=
  if x.twin = 0 then x.pa else x.pa + (if twinSide s (x.pa - x.pa % 2 ^ x.twin) then 0 else 2 ^ x.twin)

/-- The lines of a message's request, none where the access it carries is gone. An engine's entry may touch several lines of its home,
all of which it takes at one instant (R339). -/
def msgLines (s : State) (m : Msg) : List Nat :=
  let ofAcc := fun id => ((findAcc s id).map fun a => lineOf (accPa s a)).toList
  match m.body with
  | .daf e => (match e.kind with
    | .reg l _ | .wb l _ _ _ | .reply l _ _ _ => [l]
    | .eng _ ps _ => (ps.map fun x => lineOf (engPa s x)).eraseDups
    | .wt a | .atm a | .rel a => ofAcc a)
  | .load a | .imago a => ofAcc a
  | .revoke l _ | .fetch l _ | .merge l => [l]
  | .data _ | .ack _ | .reclass _ => []

/-- The request behind those parked at each of its lines. -/
def parkBehind (s : State) (m : Msg) : State :=
  { s with parked := s.parked ++ (msgLines s m).map fun l => { line := l, msg := m, need := .turn } }

/-- The turn of the request named `id` has come: it is the first of those parked at each of its lines, and waits for nothing else. -/
def turnCome (s : State) (id : Nat) : Bool :=
  (s.parked.filter fun p => decide (p.msg.id = id)).all fun p =>
    decide (p.need = .turn) && (firstParked s p.line).any fun q => decide (q.msg.id = id)

/-- A request that may be served now: the first of its channel, or one parked whose turn has come; with the state it leaves. A request
that finds others parked at a line of its own joins them behind. -/
def takeRequest (s : State) (id : Nat) : State × Option Msg :=
  match netFirst s id with
  | some m =>
    let s := netDrop s id
    if (msgLines s m).any fun l => (firstParked s l).isSome then (parkBehind s m, none) else (s, some m)
  | none =>
    match s.parked.find? fun p => decide (p.msg.id = id) with
    | none => (s, none)
    | some p =>
      if turnCome s id then ({ s with parked := s.parked.filter fun q => decide (q.msg.id ≠ id) }, some p.msg) else (s, none)

/-- R77: an acknowledgement, under the name of the message it answers. -/
def ackTo (s : State) (m : Msg) : State :=
  let as := match m.body with | .daf e => e.accs | _ => []
  { s with net := s.net ++ [{ id := m.id, core := m.core, dest := m.dest, vc := 2, body := .ack as }] }

/-! ### The registry (R71 to R75) -/

/-- An entry replaced or added, as the most recently used; where its set is full the least recently used entry's words
are first brought home. -/
def regPut (s : State) (line : Nat) (f : RegForm) : State :=
  let mates := s.registry.filter fun e =>
    decide (homeSlice (128 * e.line) = homeSlice (128 * line)) && decide (l2Set e.line % 512 = l2Set line % 512) && decide (e.line ≠ line)
  let s := if (regOf s line).isSome ∨ mates.length < 16 then s else
    match mates.foldl (fun (b : Option RegEntry) e => match b with
      | none => some e
      | some x => if e.stamp < x.stamp then some e else some x) none with
    | some v => gatherAll s v.line
    | none => s
  { s with
    registry := { line := line, form := f, stamp := s.regStamp } :: s.registry.filter fun e => e.line ≠ line
    regStamp := s.regStamp + 1 }

/-- R74: the members that owners become. -/
def splitOf (owners : List (Nat × Nat × BitVec 4)) : List (Nat × BitVec 128) :=
  owners.foldl (fun ms (w, c, k) =>
    let m := BitVec.ofNat 128 (k.toNat <<< (4 * w))
    if ms.any fun x => x.1 = c then ms.map fun x => if x.1 = c then (c, x.2 ||| m) else x else ms ++ [(c, m)]) []

/-- R74: a core's bytes added to the members. -/
def addMember (ms : List (Nat × BitVec 128)) (c : Nat) (m : BitVec 128) : List (Nat × BitVec 128) :=
  if ms.any fun x => x.1 = c then ms.map fun x => if x.1 = c then (c, x.2 ||| m) else x else ms ++ [(c, m)]

/-- Messages REVOKE, FETCH or MERGE to cores; a retired core answers with no data at once and the bytes are poisoned
(R82, R400). -/
def recallFrom (s : State) (line : Nat) (kind : Nat) (cs : List (Nat × BitVec 32)) : State :=
  cs.foldl (fun s (c, ws) =>
    send s c (destOf s (128 * line)) 3
      (match kind with | 0 => .revoke line ws | 1 => .fetch line ws | _ => .merge line)) s

/-- R72, R74: before an access that takes the bytes `m` away from every owner but `but`: none where nothing stands in its
way, or the state with the recalls sent and the request parked. `exact` is for loads, which only FETCH. -/
def recallFor (s : State) (msg : Msg) (line : Nat) (m : BitVec 128) (but : Option Nat) (load : Bool) : Option State :=
  match regOf s line with
  | none => none
  | some e =>
    match e.form with
    | .registered os =>
      let cs := ownersOf os (maskWords m) but
      if cs.isEmpty then none
      else some (recallFrom (park s line msg (.owner (cs.map Prod.fst))) line (if load then 1 else 0) cs)
    | .split ms =>
      if ms.any fun x => decide (some x.1 ≠ but) && decide (x.2 &&& m ≠ 0) then
        some (recallFrom (park s line msg (.members (ms.map Prod.fst))) line 2 (ms.map fun x => (x.1, 0)))
      else none

/-- R84, R86: what a line needs of the host before the access: its response to a back-invalidate snoop for a line it holds,
or the line itself for a HOST line. `own` is for accesses that write; of the others one whose data may still be kept in an L1
(`fill`) sends RdShared, and one whose data may not sends RdCurr (log 134). -/
def hostFor (s : State) (msg : Msg) (line : Nat) (own fill : Bool) : Option State :=
  if hostBase ≤ 128 * line then
    let t := tget noL2 s.l2 line
    if own then
      if s.hostOwn.contains line then none else
      let (req, s) := fresh s
      some (out { park s line msg (.d2h req) with d2hWait := (req, line, 2) :: s.d2hWait } (.d2h req 2 line 0))
    else if t.valid = 15 then none
    else
      let (req, s) := fresh s
      let k := if fill then 1 else 0
      some (out { park s line msg (.d2h req) with d2hWait := (req, line, k) :: s.d2hWait } (.d2h req k line 0))
  else
    match s.hostHeld.find? fun h => h.1 = line with
    | none => none
    | some h =>
      if own then some (out (park s line msg .bisnp) (.biSnpInv line))
      else if h.2 then none
      else some (out (park s line msg .bisnp) (.biSnpData line))

/-- R43: a read of a sector that the slice does not hold waits for the memory side; a tile's lines are never filled
(R54), nor those of a retired slice, which are read where they lie (R400). -/
def fillFor (s : State) (msg : Msg) (line : Nat) (m : BitVec 128) : Option State :=
  if (tileOf s line).isSome ∨ hostBase ≤ 128 * line ∨ sliceOut s line = true then none
  else if sectorBits m &&& ~~~(tget noL2 s.l2 line).valid = 0 then none
  else some (msRequest (park s line msg .fill) line false msg.core)

/-! ### REG (R72, R74) -/

/-- One REG served: recorded, or parked behind a recall or merge. -/
def serveReg (s : State) (msg : Msg) (line : Nat) (m : BitVec 128) : State :=
  let d := msg.core
  match hostFor s msg line true true with
  | some s => s
  | none =>
    match regOf s line with
    | none => ackTo (regPut s line (.registered ((maskWords m).map fun w => (w, d, wordMask m w)))) msg
    | some e =>
      match e.form with
      | .split ms =>
        if ms.any fun x => decide (x.1 ≠ d) && decide (x.2 &&& m ≠ 0) then
          (recallFor s msg line m (some d) false).getD s
        else
          let ms' := addMember ms d m
          if 8 < ms'.length then
            recallFrom (park s line msg (.members (ms.map Prod.fst))) line 2 (ms.map fun x => (x.1, 0))
          else ackTo (regPut s line (.split ms')) msg
      | .registered os =>
        let others := os.filter fun o => decide (o.2.1 ≠ d) && decide (wordMask m o.1 ≠ 0)
        let clash := others.filter fun o => decide (o.2.2 &&& wordMask m o.1 ≠ 0)
        if !clash.isEmpty then
          -- an overlapping owner of a word is revoked (R72)
          let cs := ownersOf clash (clash.map Prod.fst) none
          recallFrom (park s line msg (.owner (cs.map Prod.fst))) line 0 cs
        else if !others.isEmpty then
          -- disjoint masks in one word: the line becomes SPLIT (R74)
          let ms' := addMember (splitOf os) d m
          if 8 < ms'.length then
            let ms := splitOf os
            recallFrom (park (regPut s line (.split ms)) line msg (.members (ms.map Prod.fst))) line 2 (ms.map fun x => (x.1, 0))
          else ackTo (regPut s line (.split ms')) msg
        else
          let kept := os.map fun o => if o.2.1 = d then (o.1, d, o.2.2 ||| wordMask m o.1) else o
          let new := ((maskWords m).filter fun w => !(os.any fun o => o.1 = w)).map fun w => (w, d, wordMask m w)
          ackTo (regPut s line (.registered (kept ++ new))) msg

/-- R72: HOME_REG. -/
def execHomeReg (s : State) : Host.Outcome State Fault Refusal :=
  .next (match takeRequest s (arg s 0) with
    | (s, none) => s
    | (s, some m) => match m.body with
      | .daf e => (match e.kind with | .reg l k => serveReg s m l k | _ => s)
      | _ => s)

/-! ### Loads (R72, R74, R80) -/

/-- R399: the sector is poisoned. -/
def poisoned (s : State) (pa : Nat) : Bool := s.poison.contains (pa / 32)

/-- R133: a `barwait` performed at the object's home: it returns, or its wave is recorded there as a waiter. -/
def waitAtHome (s : State) (a : Acc) (pa p : Nat) : State :=
  if barReturns (homeRead s pa 16) p then sendData (putAcc s { a with stage := .ret }) a
  else match findOp (wv s a.wave) a.op with
    | none => dropAcc s a
    | some o => addWaiter (dropAcc s a) a.wave o 1 0 pa p 0 0 .barwait

/-- The bytes of a line that cores other than `c` may hold newer: their owned words, or their members' bytes. -/
def othersBytes (s : State) (line c : Nat) : BitVec 128 :=
  match regOf s line with
  | none => 0
  | some e => match e.form with
    | .registered os => maskOfWords (lanesWhere fun w => os.any fun o => o.1 = w && decide (o.2.1 ≠ c))
    | .split ms => ms.foldl (fun m x => if x.1 = c then m else m ||| x.2) 0

/-- R95, R104: the bytes of a line that core `c` has written and its home does not hold yet: its write-backs on their way, parked,
in the network and in its FIFO, and above them the dirty bytes of its L1. -/
def ownNewest (s : State) (c line : Nat) (d : BitVec 1024) : BitVec 1024 :=
  let put := fun (d : BitVec 1024) (e : DafEntry) => match e.kind with
    | .wb l m x _ | .reply l m x _ => if l = line then mergeData d x m else d
    | _ => d
  let d := (parkedMsgs s ++ s.net).foldl (fun d (m : Msg) => if m.core = c then (match m.body with | .daf e => put d e | _ => d) else d) d
  let d := (cr s c).daf.foldl put d
  match l1Find (cr s c) line with
  | some x => mergeData d x.data x.dirty
  | none => d

/-- R69: the same for a line that the slice does not hold: from the memory-side cache, or from GDDR7 with its row open. A load that
joins a fill already asked for takes no less. -/
def fillDist (s : State) (a : Acc) (line : Nat) : State :=
  if s.parked.any fun p => decide (p.line = line) && decide (p.need = .fill) then s
  else putAcc s { a with lat := if (tget noMsLine s.msLines line).present then 140 else 380 }

/-- A load's value leaves its home, with the core's own newer bytes, all as they stand at this instant (R95); of the rest of its
sector the bytes that no other core may hold newer come with it, and that no entry of its own core is to write (R104). -/
def performLoad (s : State) (a : Acc) : State :=
  let pa := accPa s a
  if poisoned s pa then failAcc s a 12 1
  else match a.act with
    | .barWait p => waitAtHome s a pa p
    | _ =>
      let others := (othersBytes s (lineOf pa) a.core).extractLsb' (pa % 128 / 32 * 32) 32
      let v := sectorOf pa (ownNewest s a.core (lineOf pa) (lineSector pa (homeRead s (pa - pa % 32) 32)))
      sendData (putAcc s { a with
        stage := .ret, val := v, got := a.mask ||| (a.got &&& ~~~others), lat := max a.lat (sliceDist a.core pa) }) a

/-- One load or fill served. -/
def serveLoad (s : State) (msg : Msg) (a : Acc) : State :=
  let pa := accPa s a
  let line := lineOf pa
  let m := lineMask pa a.mask
  let wait := match a.act with | .barWait _ => true | _ => false
  let s := regTouch s line
  match hostFor s msg line false a.fill with
  | some s => s
  | none =>
    match fillFor (fillDist s a line) msg line (lineMask pa (BitVec.allOnes 32)) with
    | some s => s
    | none =>
      match recallFor s msg line m (if wait then none else some a.core) (!wait) with
      | some s => s
      | none => performLoad s a

/-- R72: HOME_LOAD. -/
def execHomeLoad (s : State) : Host.Outcome State Fault Refusal :=
  .next (match takeRequest s (arg s 0) with
    | (s, none) => s
    | (s, some m) => match m.body with
      | .load id => (match findAcc s id with | some a => serveLoad s m a | none => s)
      | _ => s)

/-! ### Write-backs (R72, R74) -/

/-- The words of `own` no longer belong to core `c`. -/
def disown (s : State) (line c : Nat) (own : BitVec 32) : State :=
  match regOf s line with
  | none => s
  | some e =>
    match e.form with
    | .registered os =>
      let os := os.filter fun o => !(decide (o.2.1 = c) && own.getLsbD o.1)
      if os.isEmpty then regDrop s line else regPut s line (.registered os)
    | .split ms =>
      -- the member goes with the last of its words: an eviction writes back sector by sector (R76, log 85)
      let ms := (ms.map fun x => if x.1 = c then (c, x.2 &&& ~~~maskOfWords own) else x).filter fun x => decide (x.2 ≠ 0)
      if ms.isEmpty then regDrop s line else regPut s line (.split ms)

/-- R72, R74: a write-back of core `c` performed: its bytes are written and its words unowned. -/
def writeBack (s : State) (line c : Nat) (k : BitVec 128) (d : BitVec 1024) (own : BitVec 32) : State :=
  disown (homePut s line k d) line c own

/-- R45, R72: a write-back waits for nothing but the requests of its own core that stand parked at the line. -/
def takeWriteback (s : State) (id : Nat) : State × Option Msg :=
  match netFirst s id with
  | some m =>
    let s := netDrop s id
    if s.parked.any fun p => (msgLines s m).contains p.line && decide (p.msg.core = m.core) then (parkBehind s m, none) else (s, some m)
  | none => takeRequest s id

/-- R72: HOME_WRITEBACK. -/
def execHomeWriteback (s : State) : Host.Outcome State Fault Refusal :=
  .next (match takeWriteback s (arg s 0) with
    | (s, none) => s
    | (s, some m) => match m.body with
      | .daf e => (match e.kind with
        | .wb l k d own => ackTo (writeBack s l m.core k d own) m
        | _ => s)
      | _ => s)

/-- R72, R89: what core `c`'s write-backs parked at a line hold of the words that the registry gives to it is written before the reply
that has come behind them. -/
def bringParked (s : State) (line c : Nat) : State :=
  let ws := heldWords s line c
  let one := fun (s : State) (e : DafEntry) => match e.kind with
    | .wb l m d own => if l = line then writeBack s line c (m &&& maskOfWords ws) d (own &&& ws) else s
    | _ => s
  spendSent c (spentEntry line (maskOfWords ws)) ((parkedMsgs s).foldl (onEntry c one) s)

/-! ### Atomics, write-throughs and barrier operations (R82) -/

/-- R384, R391: `e` parked in the fault log of context `c` for operation `op` of wave `w`, whose instruction has left the window. If the
wave lives it takes a MEMORY trap, with an entry of KIND 3 for the lanes of `m` in the operation's place in issue order (R383); `st` is
the fault's status word or code. -/
def parkFault (s : State) (w op c : Nat) (m : Lanes) (st : Nat) (e : LogSlot) : State :=
  let v := wv s w
  let slot := ((List.range 256).find? fun k => decide ((tget freeLog (cx s c).log k).state = 0)).getD 0
  let s := logEntry s c e
  if (cx s c).fenced || !v.live then s
  else
    let (id, s) := fresh s
    let of := findOp v op
    let x : Opr :=
      { id := id, instr := (of.map (·.instr)).getD (.nop { d := 0, w := 0, a := 0, b := 0 }), pc := 0, lanes := m, todo := m, window := true,
        flag := 15, flanes := m, status := st, cls := 10, faddr := e.addr, kind := 3, slot := slot, words := [], left := 0
        skid := (of.map (·.skid)).getD 0, issuedAt := 0 }
    modWv s w fun v => { v with ops :=
      if of.isNone then v.ops ++ [x] else v.ops.flatMap fun o => if o.id = op then [o, x] else [o] }

/-- R297, R384: a reduction that faults at its home after its instruction left the window. Its lanes stay counted by its flag until RETRY has
performed it (R288). -/
def parkRed (s : State) (a : Acc) (cls status : Nat) : State :=
  match a.act with
  | .red .. => parkFault (dropAcc s a) a.wave a.op a.ctx a.lanes status (redSlot a cls status (wv s a.wave).group)
  | _ => failAcc s a cls status

/-- An atomic's access in its line: the old value at its bytes and the sector after it. -/
def homeAtomic (s : State) (a : Acc) (pa code d e : Nat) : State × Nat :=
  let (old, sect) := atomApply { a with va := pa } code d e (homeRead s (pa - pa % 32) 32)
  (homePut s (lineOf pa) (lineMask pa a.mask) (lineSector pa sect), old)

/-- R82: one write or operation performed at its home; a returning one's old value leaves with it. -/
def performHome (s : State) (a : Acc) : State :=
  let pa := accPa s a
  let line := lineOf pa
  let m := lineMask pa a.mask
  let reads := match a.act with | .store _ => false | _ => true
  if reads && poisoned s pa then
    (match a.act with | .red .. => parkRed s a 12 1 | _ => failAcc s a 12 1)
  else match a.act with
    | .store d => putAcc (homePut s line m (lineSector pa d)) { a with stage := .home }
    | .atom code d e =>
      let (s, old) := homeAtomic s a pa code d e
      sendData (putAcc s { a with stage := .ret, val := old }) a
    | .red code d => let (s, _) := homeAtomic s a pa code d 0; putAcc s { a with stage := .home }
    | .barInit .. | .barExp _ | .barArr _ =>
      let (b, f) := barApply a.act (homeRead s pa 16)
      let s := homePut s line (byteMask (pa % 128) 16) (BitVec.ofNat 1024 (b <<< (8 * (pa % 128))))
      (match f with | some c => failAcc s a 11 c | none => putAcc s { a with stage := .home })
    | _ => s

/-- One such request served. -/
def serveHome (s : State) (msg : Msg) (a : Acc) : State :=
  let pa := accPa s a
  let line := lineOf pa
  let m := lineMask pa a.mask
  let reads := match a.act with | .store _ => false | _ => true
  match hostFor s msg line true true with
  | some s => s
  | none =>
    match (if reads then fillFor s msg line m else none) with
    | some s => s
    | none =>
      match recallFor s msg line m none false with
      | some s => s
      | none => ackTo (performHome s a) msg

/-- R26: the copy of the bytes in the L1 of the core for which an engine writes, kept equal to the home on its PRIVATE
frames. -/
def ownCopy (s : State) (core pa n v : Nat) : State :=
  if tget .untouched s.dir (frameOf pa) ≠ .privateTo core then s else
  modCr s core fun c => { c with l1 := c.l1.map fun x =>
    let o := 128 * x.line
    if pa < o + 128 ∧ o < pa + n then
      let lo := max pa o
      let hi := min (pa + n) (o + 128)
      { x with data := setData x.data (lo - o) (hi - lo) (v / 2 ^ (8 * (lo - pa))) }
    else x }

/-- The sum of runs of FP32 words, word by word (R296). -/
def addWords : Nat → Nat → Nat → Nat
  | 0, _, _ => 0
  | k + 1, x, y => atomNew 8 4 (x % 2 ^ 32) (y % 2 ^ 32) 0 + 2 ^ 32 * addWords k (x / 2 ^ 32) (y / 2 ^ 32)

/-- R82, R83: a write of an engine of core `c` performed at its home: `n` bytes of a line, or their addition to the words there. On a
frame PRIVATE to the core its L1 copy is written home first and follows (R26). -/
def performEng (s : State) (c pa n v : Nat) (add : Bool) : State :=
  let s := if tget .untouched s.dir (frameOf pa) = .privateTo c then pullOwn c (lineOf pa) s else s
  let v := if add then addWords (n / 4) (homeRead s pa n) v else v
  ownCopy (putBytes 2 pa n v s) c pa n v

/-- The wave that has the operation `tag` of an engine. -/
def tagOwner (s : State) (tag : Nat) : Option Nat :=
  (s.waves.find? fun (e : Nat × Wave) => e.2.ops.any fun o => o.id = tag).map Prod.fst

/-- R384: words of an add-on-store, each with its addend, that find their lines poisoned, or cannot be reached at a peer: they are parked in
the fault log and take no effect; the wave, if it lives, takes a MEMORY trap whose entry names the slot. `st` is the status word of a
translation fault, and 0 for any other (R391). -/
def parkEng (s : State) (c tag code cls st : Nat) (words : List (Nat × Nat)) : State :=
  match words, tagOwner s tag with
  | (pa, _) :: _, some w =>
    let v := wv s w
    parkFault s w tag v.ctx allLanes (if st = 0 then code else st)
      { freeLog with state := 1, code := code, cls := cls, opk := 5, core := c, addr := pa, status := st, group := v.group, words := words }
  | _, _ => s

/-- The words of a part of an add-on-store, each with its addend. -/
def partWords (s : State) (x : EngPart) : List (Nat × Nat) :=
  (List.range (x.n / 4)).map fun k => (engPa s x + 4 * k, x.v / 2 ^ (32 * k) % 2 ^ 32)

/-- What a part of an engine's entry still needs before it may be performed: its data, its words recalled; none where it may be. The entry
keeps its place at its other lines (R339). -/
def partWaits (msg : Msg) (add : Bool) (s : State) (x : EngPart) : Option State :=
  let line := lineOf (engPa s x)
  let m := maskIn line (engPa s x) x.n
  let t := (hostFor s msg line true true).or <| (if add then fillFor s msg line m else none).or <| recallFor s msg line m none false
  t.map fun t => { t with parked := (((msgLines s msg).filter fun l => l ≠ line).map fun l => { line := l, msg := msg, need := .turn }) ++ t.parked }

/-- R82, R83, R339: an entry of an engine served: all its parts at one instant. -/
def serveEng (s : State) (msg : Msg) (tag : Nat) (ps : List EngPart) (add : Bool) : State :=
  match ps.findSome? (partWaits msg add s) with
  | some s => s
  | none =>
    let bad := if add then ps.filter fun x => poisonIn s (engPa s x) x.n else []
    let words := bad.flatMap (partWords s)
    let left := words.filter fun w => s.poison.contains (w.1 / 32)
    let rest := words.filter fun w => !(s.poison.contains (w.1 / 32))
    let s := (ps.filter fun x => !(bad.contains x)).foldl (fun s x => performEng s msg.core (engPa s x) x.n x.v add) s
    let s := rest.foldl (fun s w => performEng s msg.core w.1 4 w.2 add) s
    ackTo (parkEng s msg.core tag 1 12 0 left) msg

/-- The access of a WT, ATM or REL entry. -/
def dafAcc (e : DafEntry) : Option Nat := match e.kind with | .wt a | .atm a | .rel a => some a | _ => none

/-- R82: HOME_ATOMIC. -/
def execHomeAtomic (s : State) : Host.Outcome State Fault Refusal :=
  .next (match takeRequest s (arg s 0) with
    | (s, none) => s
    | (s, some m) => match m.body with
      | .daf e => (match e.kind with
        | .eng tag ps add => serveEng s m tag ps add
        | _ => match (dafAcc e).bind (findAcc s) with
          | some a => (match a.act with | .imago .. => s | _ => serveHome s m a)
          | none => ackTo s m)
      | _ => s)

/-- R84, R149, R153: one imago operation served: the host gives up its copy, the line's data is fetched and its words recalled first. `ack`
where it came as an entry of the FIFO. -/
def serveImago (s : State) (msg : Msg) (a : Acc) (ack : Bool) : State :=
  let line := lineOf a.pa
  let m := lineMask a.pa a.mask
  match (hostFor s msg line (accWrites a) true).or (fillFor s msg line m) with
  | some s => s
  | none =>
    match recallFor s msg line m none false with
    | some s => s
    | none => if ack then ackTo (imagoPerform s a) msg else imagoPerform s a

/-- R153: IMAGO_HOME_OP: an operation of the request channel, or one that came as a REL entry (R157). -/
def execImagoHomeOp (s : State) : Host.Outcome State Fault Refusal :=
  .next (match takeRequest s (arg s 0) with
    | (s, none) => s
    | (s, some m) =>
      match m.body with
      | .imago id => (match findAcc s id with | some a => serveImago s m a false | none => s)
      | .daf e => (match (dafAcc e).bind (findAcc s) with
        | some a => serveImago s m a true
        | none => ackTo s m)
      | _ => s)

/-! ### Recalls at the core (R72, R75) -/

/-- What a core returns of a line: the dirty bytes of its words `held` among those named, and the bytes of write-backs of the line
that still wait in its FIFO, which go with the reply. -/
def replyData (c : Core) (line : Nat) (ws held : BitVec 32) : BitVec 128 × BitVec 1024 :=
  let k := maskOfWords ws
  let (m, d) := c.daf.foldl (fun (m, d) e => match e.kind with
    | .wb l b x _ => if l = line then (m ||| (b &&& k), mergeData d x (b &&& k)) else (m, d)
    | _ => (m, d)) (0, 0)
  match l1Find c line with
  | none => (m, d)
  | some x => let b := x.dirty &&& maskOfWords held; (m ||| b, mergeData d x.data b)

/-- The bytes returned are no longer owed by the FIFO. -/
def clearWbs (c : Core) (line : Nat) (ws : BitVec 32) : Core :=
  { c with daf := c.daf.map fun e => match e.kind with
    | .wb l b x o => if l = line then { e with kind := .wb l (b &&& ~~~maskOfWords ws) x o } else e
    | _ => e }

/-- R72, R76: the reply goes to the head of the FIFO, with the bytes of the named words that the core holds by a registration that its
home has recorded; they are held no longer, unless they are kept. -/
def replyAt (s : State) (core line : Nat) (ws : BitVec 32) (keep merge : Bool) : State :=
  let c := cr s core
  let ws := ws &&& heldWords s line core
  let held := match l1Find c line with | some x => heldAt s core x &&& ws | none => 0
  let (m, d) := replyData c line ws held
  let c := clearWbs c line ws
  let c := { c with l1 := c.l1.map fun (y : L1Line) => if decide (y.line = line) && !keep then giveUp s core held y else y }
  let s := setCr s core { c with daf := { kind := .reply line m d merge, accs := [] } :: c.daf }
  if keep then s else stopFills s core fun l => l = line

/-- R72, R95: a request whose owners have all answered goes on: a load is served with the bytes fetched, all of them as they stand at this
instant (log 151), any other finds the words unowned. -/
def ownersDone (s : State) (p : Parked) : State :=
  match p.msg.body with
  | .load id =>
    (match findAcc s id with
    | some a => (match a.act with
      | .barWait _ => { s with parked := s.parked.map fun q => if q = p then { q with need := .turn } else q }
      | _ => performLoad (settleLine (unpark s p.line p.msg.id) p.line (lineMask (accPa s a) a.mask) false) a)
    | none => unpark s p.line p.msg.id)
  | _ => { s with parked := s.parked.map fun q => if q = p then { q with need := .turn } else q }

/-- R72: the words of a line that core `c` owns with bytes that overlap a REG's. -/
def clashWords (s : State) (line c : Nat) (m : BitVec 128) : BitVec 32 :=
  match regOf s line with
  | some e => (match e.form with
    | .registered os => lanesWhere fun w => os.any fun o => o.1 = w && o.2.1 = c && decide (o.2.2 &&& wordMask m w ≠ 0)
    | .split _ => 0)
  | none => 0

/-- The words of the access `id` in its line. -/
def accWords (s : State) (id : Nat) : BitVec 32 :=
  match findAcc s id with
  | some a => wordsOfMask (lineMask (accPa s a) a.mask)
  | none => 0

/-- The request only FETCHes: a load that is no `barwait`. -/
def fetches (s : State) (m : Msg) : Bool :=
  match m.body with
  | .load id =>
    (match findAcc s id with
    | some a => (match a.act with | .barWait _ => false | _ => true)
    | none => true)
  | _ => false

/-- The words of a line that a request has recalled from core `c`. -/
def recalledWords (s : State) (m : Msg) (line c : Nat) : BitVec 32 :=
  match m.body with
  | .daf e =>
    (match e.kind with
    | .reg _ k => clashWords s line c k
    | .wt a | .atm a | .rel a => accWords s a
    | .eng _ ps _ => wordsOfMask ((ps.filter fun x => lineOf (engPa s x) = line).foldl (fun k x => k ||| maskIn line (engPa s x) x.n) 0)
    | _ => 0)
  | .load id | .imago id => accWords s id
  | _ => 0

/-- R72, R75: core `c` has answered the recall of a line; `fetched` keeps its ownership. -/
def answered (s : State) (line c : Nat) : State :=
  match firstParked s line with
  | none => s
  | some p =>
    match p.need with
    | .owner left =>
      let s := if fetches s p.msg then s else disown s line c (recalledWords s p.msg line c)
      let left := left.filter fun x => x ≠ c
      let q := { p with need := .owner left }
      let s := { s with parked := s.parked.map fun x => if x = p then q else x }
      if left.isEmpty then ownersDone s q else s
    | .members left =>
      let q := { p with need := .members (left.filter fun x => x ≠ c) }
      { s with parked := s.parked.map fun x => if x = p then q else x }
    | _ => s

/-- The recall message `id` reaches its core. -/
def recallAtCore (s : State) (id kind : Nat) : State :=
  match netFirst s id with
  | none => s
  | some m =>
    let s := netDrop s id
    if (cr s m.core).retired then
      (match m.body with
      | .revoke l ws | .fetch l ws => answered (poisonWords s l ws) l m.core
      | .merge l => answered (poisonWords s l (heldWords s l m.core)) l m.core
      | _ => s)
    else match m.body, kind with
    | .revoke l ws, 0 => replyAt s m.core l ws false false
    | .fetch l ws, 1 => replyAt s m.core l ws true false
    | .merge l, 2 => replyAt s m.core l (BitVec.allOnes 32) false true
    | _, _ => s

/-- R72: REVOKE. -/
def execRevokeWord (s : State) : Host.Outcome State Fault Refusal := .next (recallAtCore s (arg s 0) 0)
/-- R72: FETCH. -/
def execFetchWord (s : State) : Host.Outcome State Fault Refusal := .next (recallAtCore s (arg s 0) 1)
/-- R75: MERGE. -/
def execMergeLine (s : State) : Host.Outcome State Fault Refusal := .next (recallAtCore s (arg s 0) 2)

/-- R72: OWNER_REPLY: the returned bytes are written at the home. -/
def execOwnerReply (s : State) : Host.Outcome State Fault Refusal :=
  .next (match netFirst s (arg s 0) with
    | none => s
    | some m => match m.body with
      | .daf e => (match e.kind with
        | .reply l k d _ => ackTo (answered (homePut (bringParked (netDrop s m.id) l m.core) l k d) l m.core) m
        | _ => s)
      | _ => s)

/-- R75: MERGE_COMPLETE: the entry is freed and the access that caused the merge proceeds. -/
def execMergeComplete (s : State) : Host.Outcome State Fault Refusal :=
  let line := arg s 0
  .next (match firstParked s line with
    | some p =>
      if p.need = .members [] then
        { regDrop s line with parked := s.parked.map fun x => if x = p then { x with need := .turn } else x }
      else s
    | none => s)

/-! ### The FIFO drains (R77, R78) -/

/-- Where an entry goes, none where its access is gone. -/
def dafDest (s : State) (e : DafEntry) : Option Nat :=
  match e.kind with
  | .reg l _ | .wb l _ _ _ | .reply l _ _ _ => some (destOf s (128 * l))
  | .eng _ ps _ => ps.head?.map fun x => destOf s (engPa s x)
  | .wt a | .atm a | .rel a => (findAcc s a).map fun a => destOf s (accPa s a)

/-- The runs of consecutive bytes of a sector mask: first byte and length. -/
def maskRuns (m : BitVec 32) : List (Nat × Nat) :=
  (List.range 32).foldl (fun l k =>
    if !(m.getLsbD k) then l
    else match l.getLast? with
      | some (o, n) => if o + n = k then l.dropLast ++ [(o, n + 1)] else l ++ [(k, 1)]
      | none => [(k, 1)]) []

/-- R87: the messages of an engine's write to a peer, under the name of the message: the bytes, or one addition for each word. -/
def sendEng (s : State) (d id : Nat) (add : Bool) (x : EngPart) : State :=
  let pa := engPa s x
  if 8192 ≤ d then out s (.pcie id true pa x.n x.v)
  else if add then
    (List.range (x.n / 4)).foldl
      (fun s k => out s (.peer id (d - 2048) 0x18 (farLocal pa + 4 * k) 4 (x.v / 2 ^ (32 * k) % 2 ^ 32) 0)) s
  else out s (.peer id (d - 2048) 1 (farLocal pa) x.n x.v 0)

/-- R84, R87: what leaves the device for a write or operation to a peer or over PCIe. The lanes of a store to one sector of a peer's
memory make one message, operation 2, with the mask of the bytes (R108); over PCIe a write carries consecutive bytes. -/
def sendOut (s : State) (d id : Nat) (e : DafEntry) : State :=
  match e.kind with
  | .eng _ ps add => ps.foldl (fun s x => sendEng s d id add x) s
  | _ =>
  match (dafAcc e).bind (findAcc s) with
  | none => s
  | some a =>
    let pa := accPa s a
    let sec := pa - pa % 32
    if 8192 ≤ d then
      match a.act with
      | .store x => (maskRuns a.mask).foldl (fun s r => out s (.pcie a.id true (sec + r.1) r.2 (sectorBytes x r.1 r.2))) s
      | _ => s
    else
      let one := fun op x c => out s (.peer a.id (d - 2048) op (farLocal pa) a.n x c)
      match a.act with
      | .store x => out s (.peer a.id (d - 2048) 2 (farLocal sec) 32 x a.mask.toNat)
      | .atom code x c => one (0x10 + code) x c
      | .red code x => one (0x10 + code) x 0
      | .imago op g v => one (0x30 + op) v g
      | .barInit x y => one 0x40 x y
      | .barExp x => one 0x41 x 0
      | .barArr x => one 0x42 x 0
      | _ => s

/-- The head entry sent: it awaits its acknowledgement. -/
def sendHead (s : State) (core : Nat) (e : DafEntry) (r : List DafEntry) : State :=
  let s := modCr s core fun c => { c with daf := r }
  match dafDest s e with
  | none => s
  | some d =>
    let (id, s) := fresh s
    let s := { s with net := s.net ++ [{ id := id, core := core, dest := d, vc := 0, body := .daf e }] }
    let s := modCr s core fun c => { c with unacked := c.unacked ++ [(id, e)] }
    if remoteDest d then sendOut s d id e else s

/-- R77: the head of a core's FIFO may leave: not a REL, and not behind one, except for a reply (R76). -/
def headFree (s : State) (core : Nat) : Bool :=
  let c := cr s core
  decide (c.unacked.length < 256) && (match c.daf with
    | [] => false
    | e :: _ => match e.kind with | .rel _ => false | .reply .. => true | _ => c.relOut.isNone)

/-- R77: DAF_HEAD_SEND. -/
def execDafHeadSend (s : State) : Host.Outcome State Fault Refusal :=
  let core := arg s 0
  .next (if !headFree s core then s else
    match (cr s core).daf with
    | [] => s
    | e :: r => reroute (sendHead s core e r) core)

/-- R78: a REL at the head with nothing unacknowledged. -/
def relFree (s : State) (core : Nat) : Bool :=
  let c := cr s core
  c.unacked.isEmpty && c.relOut.isNone && (match c.daf with | e :: _ => (match e.kind with | .rel _ => true | _ => false) | [] => false)

/-- R78: a REL completes that carries no write: its store or operation has been performed in the L1, and an atomic's value may return
now, or it is a fence's, which with
acquire now makes its self-invalidation (R114), or its scratch access is performed now. -/
def relComplete (s : State) (a : Acc) : State :=
  match a.act with
  | .scr =>
    (match findOp (wv s a.wave) a.op with
    | none => dropAcc s a
    | some o =>
      let s := dropAcc s a
      match o.instr with
      | .bararr .. => barPerform s a.wave o
      | _ => scrPerform s a.wave o a.lanes)
  | .fence => completeAcc (if a.acq then selfInvalidate s a.core else s) a
  | .atom .. => putAcc s { a with stage := .ret }
  | _ => completeAcc s a

/-- R78: REL_SEND. -/
def execRelSend (s : State) : Host.Outcome State Fault Refusal :=
  let core := arg s 0
  .next (if !relFree s core then s else
    match (cr s core).daf with
    | [] => s
    | e :: r =>
      let s' := modCr s core fun c => { c with daf := r }
      match e.accs, (dafAcc e).bind (findAcc s) with
      | _ :: _, some a =>
        if a.priv then reroute (relComplete s' a) core
        else
          let t := sendHead s core e r
          reroute (modCr t core fun c => { c with relOut := c.unacked.getLast?.map Prod.fst }) core
      | _, _ => reroute s' core)

/-- R73: the words of an acknowledged REG become owned where no later REG for the line covers them. -/
def regAcked (c : Core) (line : Nat) (m : BitVec 128) : Core :=
  let again := (c.daf ++ c.unacked.map Prod.snd).foldl
    (fun w e => match e.kind with | .reg l k => if l = line then w ||| wordsOfMask k else w | _ => w) (0 : BitVec 32)
  { c with l1 := c.l1.map fun x => if x.line = line then
      let ws := wordsOfMask m &&& x.pend &&& ~~~again
      { x with owned := x.owned ||| ws, pend := x.pend &&& ~~~ws }
    else x }

/-- R17, R34, R87: the status of a fault that a peer found: a translation's code as a status word, any other as it is. -/
def farStatus (a : Acc) (code cls : Nat) : Nat :=
  if cls = 0 ∨ cls = 10 then statusWord code a.lvl (clsNum a.cls) (kindNum a.kind) true else code

/-- R17, R87: access `a` faults at a peer with a code of class `cls`, MEMORY where that is 0. -/
def failFar (s : State) (a : Acc) (code cls : Nat) : State :=
  let k := if cls = 0 then 10 else cls
  match a.act with
  | .red .. => parkRed s a k (farStatus a code cls)
  | _ => failAcc s a k (farStatus a code cls)

/-- R350: a matrix instruction that has faulted on an access: it and every later one of the pair that has not retired are held for replay
with their tiles unchanged, and what they had read is read again. -/
def matFault (s : State) (p : Nat) (m : MatOp) (cls code addr : Nat) : State :=
  let gone := fun x : MatOp => decide (x.op ≠ m.op) && !(matRetired x)
  let later := ((pr s p).mats.filter gone).map fun x => { x with reads := none }
  let s := later.foldl (fun s x => unpin s (matPin x.op)) (unpin s (matPin m.op))
  let s := modPr s p fun x => { x with mats := x.mats.filter fun y => decide (y.op ≠ m.op) && matRetired y }
  if !(wv s m.wave).live then s else
  let s := modWv s m.wave fun v =>
    later.foldl (fun v x => modOp v x.op fun o => { o with window := true }) { v with heldMats := v.heldMats ++ m :: later }
  failAll s m.wave m.op cls code addr

/-- R350: parts of the drain `m` of wave `w` fault at a peer: it is held, or stands already, with them left to write. -/
def failDrain (s : State) (w : Nat) (m : MatOp) (ps : List EngPart) (st : Nat) : State :=
  let left := ps.map fun x => (x.va, x.n, x.v)
  let more := fun x : MatOp => if x.op = m.op then { x with data := x.data ++ left } else x
  if matRetired m && !((wv s w).heldMats.any fun x => x.op = m.op) then
    matFault s (corePair (wv s w).core) { m with data := left } 10 st ((left.head?.map Prod.fst).getD 0)
  else modWv (modPr s (corePair (wv s w).core) fun x => { x with mats := x.mats.map more }) w fun v => { v with heldMats := v.heldMats.map more }

/-- R141, R350, R384: a write of an engine of `core` faults at a peer: its copy stops, a drain is held, and an addition is parked. -/
def failEng (s : State) (core tag : Nat) (ps : List EngPart) (add : Bool) (code : Nat) : State :=
  let lvl := (ps.head?.map fun x => x.lvl).getD 7
  let st := statusWord code lvl (clsNum (if add then .rd else .cd)) (kindNum .peer) true
  if add then parkEng s core tag code 10 st (ps.flatMap (partWords s))
  else if (cr s core).scarab.any fun c => c.id = tag then
    modCr s core fun x => { x with scarab := x.scarab.map fun c => if c.id = tag then { c with status := st } else c }
  else match tagOwner s tag with
    | some w =>
      (match ((pr s (corePair core)).mats ++ (wv s w).heldMats).find? fun m => m.op = tag with
      | some m => failDrain s w m ps st
      | none => failAll s w tag 10 st ((ps.head?.map fun x => x.va).getD 0))
    | none => s

/-- R77: an entry is acknowledged: its accesses complete, those that return a value apart; or they fault at a peer, with a code and a
class. -/
def entryAcked (s : State) (core : Nat) (e : DafEntry) (code cls : Nat) : State :=
  let s := match e.kind with
    | .reg l m => modCr s core fun c => regAcked c l m
    | .eng tag ps add => if code = 0 then s else failEng s core tag ps add code
    | _ => s
  e.accs.foldl (fun s id => match findAcc s id with
    | some a =>
      (match e.kind with
      | .reg .. => completeAcc s a
      | _ => if code ≠ 0 then (if a.stage = .failed then s else failFar s a code cls)
             else if accReturns a then (if a.stage = .queued then putAcc s { a with stage := .home } else s)
             else if a.stage = .failed then s else completeAcc s a)
    | none => s) s

/-- R77: the acknowledgement of message `tok` reaches `core`; for a message that left the device the outside world gives it, with the
code and class of a fault found there. -/
def ackMessage (s : State) (core tok code cls : Nat) : State :=
  let due := match netFirst s tok with
    | some m => decide (m.core = core) && (match m.body with
      | .ack _ => true
      | .daf _ => remoteDest m.dest
      | _ => false)
    | none => false
  match due, (cr s core).unacked.find? fun u => u.1 = tok with
  | true, some u =>
    let s := netDrop s tok
    let s := modCr s core fun c => { c with
      unacked := c.unacked.filter fun x => x.1 ≠ tok
      relOut := if c.relOut = some tok then none else c.relOut }
    reroute (entryAcked s core u.2 code cls) core
  | true, none => netDrop s tok
  | false, _ => s
/-- R77: ACK_RECEIVED. -/
def execAckReceived (s : State) : Host.Outcome State Fault Refusal := .next (ackMessage s (arg s 0) (arg s 1) (arg s 2) (arg s 3))

/-! ### Which of these have an occasion -/

/-- The event that a message brings about. -/
def msgEvent (s : State) (m : Msg) : Option (Instr × List Nat) :=
  match m.body with
  | .daf e =>
    if remoteDest m.dest then none
    else (match e.kind with
      | .reg .. => some (.homeReg, [m.id])
      | .wb .. => some (.homeWriteback, [m.id])
      | .reply .. => some (.ownerReply, [m.id])
      | .eng .. => some (.homeAtomic, [m.id])
      | .wt a | .atm a | .rel a => match findAcc s a with
        | some b => (match b.act with | .imago .. => some (.imagoHomeOp, [m.id]) | _ => some (.homeAtomic, [m.id]))
        | none => some (.homeAtomic, [m.id]))
  | .load _ => if remoteDest m.dest then none else some (.homeLoad, [m.id])
  | .imago _ => if remoteDest m.dest then none else some (.imagoHomeOp, [m.id])
  | .revoke .. => some (.revokeWord, [m.id])
  | .fetch .. => some (.fetchWord, [m.id])
  | .merge _ => some (.mergeLine, [m.id])
  | .reclass _ => some (.reclassify, [m.id])
  | .data _ => none
  | .ack _ => some (.ackReceived, [m.core, m.id])

def readyHome (s : State) : List (Instr × List Nat) :=
  (s.net.filterMap fun m => if (netFirst s m.id).isSome then msgEvent s m else none) ++
  (s.parked.filterMap fun p =>
    match firstParked s p.line with
    | some q =>
      if q.msg.id ≠ p.msg.id then none
      else if p.need = .turn then (if turnCome s p.msg.id then msgEvent s p.msg else none)
      else if p.need = .members [] then some (.mergeComplete, [p.line])
      else none
    | none => none) ++
  (s.cores.flatMap fun (c, _) =>
    (if headFree s c then [(Instr.dafHeadSend, [c])] else []) ++ (if relFree s c then [(Instr.relSend, [c])] else []))

end Sys2Proof.Machine
end

