-- ==== Sys2Proof/Machine/Cache.lean ====
section
/-! DEFINITION. The memory-side cache, GDDR7, hot-page sampling, pins of the L2, and the carve-out sampler (spec/02, R40 to R52,
R66). None of them changes a value that an access returns (R43). -/

namespace Sys2Proof.Machine

open Sys2Proof.Machine.State

/-! ### GDDR7 (R41) -/

/-- The four sector requests of a line, held for GDDR7 in arrival order. -/
def gddrLine (s : State) (line : Nat) (write : Bool) (core flush : Nat) (die : Bool) : State :=
  let k := homeStack (128 * line)
  modStk s k fun m => { m with held := m.held ++ (List.range 4).map fun i =>
    { line := line, sector := i, write := write, core := core, arrived := cycOf s k, flush := flush, die := die, hp := 0 : MsReq } }

/-- R48: a dirty line written to GDDR7. -/
def msWriteBack (s : State) (line flush : Nat) : State :=
  modStk (gddrLine s line true 0xFFFF flush true) (homeStack (128 * line)) fun m => { m with wb := (m.wb + 1) % 2 ^ 64 }

/-- R41: GDDR7_REQUEST_ISSUE: the oldest held request takes a free slot. -/
def execGddr7RequestIssue (s : State) : Host.Outcome State Fault Refusal :=
  let k := arg s 0
  .next (match (stk s k).held with
    | r :: rest =>
      if (stk s k).slots.length < 12288 then modStk s k fun m => { m with held := rest, slots := m.slots ++ [r] } else s
    | [] => s)

/-- R69: read data is back no sooner than the path to GDDR7 takes, of which the way to the home and back is at least 22 cc. -/
def gddrBack (s : State) (k : Nat) (r : MsReq) : Bool := r.write || decide (r.arrived + 358 ≤ cycOf s k)

/-- R41: GDDR7_COMPLETE: a slot's data returns or its write is acknowledged; with the last sector of a line read, the requests
waiting for it go on, and its slice holds it, unless it was read for the DRAM die alone. -/
def execGddr7Complete (s : State) : Host.Outcome State Fault Refusal :=
  let k := arg s 0
  let m := stk s k
  .next (match m.slots[arg s 1]? with
    | none => s
    | some r =>
      if !(gddrBack s k r) || (m.slots.take (arg s 1)).any fun x => decide (x.line = r.line ∧ x.sector = r.sector) then s
      else
        let s := modStk s k fun m => { m with slots := m.slots.eraseIdx (arg s 1) }
        if r.write then s
        else if ((stk s k).slots ++ (stk s k).held).any fun x => decide (x.line = r.line) && !x.write then s
        else if r.die && !(s.parked.any fun p => decide (p.line = r.line) && decide (p.need = .fill)) then s
        else fillDone s r.line)

/-! ### The memory-side cache (R43, R44) -/

/-- The set of a line in its region. -/
def msSet (line : Nat) : Nat := channelOffset (128 * line) / 128 % 2 ^ 21
/-- The resident lines of the set of `line`, itself apart. -/
def msMates (s : State) (line : Nat) : List (Nat × MsLine) :=
  s.msLines.filter fun e =>
    decide (regionOf (128 * e.1) = regionOf (128 * line)) && decide (msSet e.1 = msSet line) && decide (e.1 ≠ line)

/-- R43: a line allocated or updated; with its set full the least recently used line leaves, to GDDR7 where it is dirty. -/
def msPut (s : State) (line : Nat) (dirty : Bool) : State :=
  let mates := msMates s line
  let here := tget noMsLine s.msLines line
  let s := if here.present ∨ mates.length < 4 then s else
    match mates.foldl (fun (b : Option (Nat × MsLine)) e => match b with
      | none => some e
      | some x => if e.2.stamp < x.2.stamp then some e else some x) none with
    | some (l, e) =>
      let s := { s with msLines := tset noMsLine s.msLines l noMsLine }
      if e.dirty then msWriteBack s l 0 else s
    | none => s
  let (id, s) := fresh s
  { s with msLines := tset noMsLine s.msLines line { present := true, dirty := here.dirty || dirty, stamp := id } }

/-- R44: a line of a region in BYPASS is written back if it is dirty, and invalidated. -/
def msDrain (s : State) (line : Nat) : State :=
  let e := tget noMsLine s.msLines line
  let s := { s with msLines := tset noMsLine s.msLines line noMsLine }
  if e.dirty then msWriteBack s line 0 else s

/-- R50, R51: the record of a request that was taken as it arrived (`r.hp`), with what the DRAM die made of it; a full ring drops it. -/
def hpNote (s : State) (r : MsReq) (hit : Bool) : State :=
  let k := homeStack (128 * r.line)
  let m := stk s k
  if r.hp = 0 ∨ m.hpEn = false then s else
  let head := m.hpHead + BitVec.ofNat 32 m.hpWriting.length
  let size := 2 ^ m.hpSize.toNat
  if size ≤ (head - m.hpTail).toNat then setStk s k { m with hpDrop := m.hpDrop + 1 }
  else
    let rec_ := 128 * r.line + b2n r.write + 2 * b2n hit + 2 ^ 64 * (if r.write then 0xFFFF else r.core % 2 ^ 16) + 2 ^ 96 * ((r.hp - 1) % 2 ^ 32)
    setStk s k { m with hpWriting := m.hpWriting ++ [(m.hpBase.toNat + 16 * (head.toNat % size), rec_)] }

/-- R43, R48: a line request decided at the DRAM die. One for a line that the die alone is to hold (R298) asks for nothing where it may
allocate none. -/
def msServe (s : State) (r : MsReq) : State :=
  let k := homeStack (128 * r.line)
  let hit := (tget noMsLine s.msLines r.line).present
  let s := hpNote s r hit
  let bypass := decide ((rgn s (regionOf (128 * r.line))).mode = .bypass)
  let count := fun (s : State) (h : Bool) => modStk s k fun m =>
    if h then { m with hit := (m.hit + 1) % 2 ^ 64 } else { m with miss := (m.miss + 1) % 2 ^ 64 }
  if r.die && bypass && !hit then s
  else if hit then
    let s := msPut (count s true) r.line r.write
    if r.write || r.die then s else fillDone s r.line
  else if r.write then
    if bypass then msWriteBack (count s false) r.line 0 else msPut (count s true) r.line true
  else
    let s := count s false
    let s := if bypass then s else msPut s r.line false
    gddrLine s r.line false r.core 0 r.die

/-- R50: one request in 2^(RATE+4) is taken as it arrives. The count goes on over EN = 0 and over a change of RATE (log 154). -/
def hpTake (s : State) (r : MsReq) : State × MsReq :=
  let k := homeStack (128 * r.line)
  let m := stk s k
  if !m.hpEn then (s, r) else
  let n := m.hpCount + 1
  if n < 2 ^ (m.hpRate.toNat + 4) then (setStk s k { m with hpCount := n }, r)
  else (setStk s k { m with hpCount := 0 }, { r with hp := cycOf s k + 1 })

/-- R44: a region admits one request per 4 cc while it is THROTTLED or in BYPASS. -/
def throttled (g : Region) : Bool := match g.mode with | .throttled | .bypass => true | _ => false

/-- A request admitted to a region. -/
def msAdmit (s : State) (r : MsReq) : State :=
  let g := regionOf (128 * r.line)
  let now := cycOf s (homeStack (128 * r.line))
  msServe (modRgn s g fun x => { x with nextAdmit := if throttled x then now + 4 else x.nextAdmit }) r

/-- R43: MS_CACHE_REQUEST: the next request reaches its region, and waits there for a refresh or its admission. -/
def execMsCacheRequest (s : State) : Host.Outcome State Fault Refusal :=
  let k := arg s 0
  .next (match (stk s k).queue with
    | [] => s
    | r :: rest =>
      let now := cycOf s k
      let (s, r) := hpTake (modStk s k fun m => { m with queue := rest }) r
      let g := regionOf (128 * r.line)
      let x := rgn s g
      if decide (x.refreshUntil ≠ 0) || !x.waiting.isEmpty || (throttled x && decide (now < x.nextAdmit)) then
        setRgn s g { x with waiting := x.waiting ++ [{ r with arrived := now }] }
      else msAdmit s r)

/-- The stack of a region. -/
def regionStack (g : Nat) : Nat := g / 8

/-- R44: the region may admit a waiting request now, or write back a line that it drains. -/
def mayAdmit (s : State) (g : Nat) : Bool :=
  let x := rgn s g
  let now := cycOf s (regionStack g)
  throttled x && !(x.waiting.isEmpty && x.drains.isEmpty) && decide (x.refreshUntil = 0) && decide (x.nextAdmit ≤ now)

/-- R49: the waits of a region's requests until now. -/
def waitSum (x : Region) (now : Nat) : Nat := x.waiting.foldl (fun n r => n + (now - r.arrived)) 0
/-- R48: cycles waited for throttled admission, added to `MSTHR` of stack `k`. -/
def addThr (s : State) (k n : Nat) : State := modStk s k fun m => { m with thr := (m.thr + n) % 2 ^ 64 }

/-- R44, R48: the first waiting request of region `g` is admitted; its wait is added to `MSTHR`. -/
def admitNext (s : State) (g : Nat) (r : MsReq) (rest : List MsReq) : State :=
  let k := regionStack g
  msAdmit (addThr (modRgn s g fun x => { x with waiting := rest }) k (cycOf s k - r.arrived)) r

/-- R44: the first line that region `g` drains is written back and invalidated; the next comes at the throttled rate. -/
def drainNext (s : State) (g line : Nat) (rest : List Nat) : State :=
  msDrain (modRgn s g fun x => { x with drains := rest, nextAdmit := cycOf s (regionStack g) + 4 }) line

/-- R44, R48: THROTTLED_ADMISSION. The manual does not say whether a waiting request or the write-back of a line goes first: a free choice
does (log 137). -/
def execThrottledAdmission (s : State) : Host.Outcome State Fault Refusal :=
  let g := arg s 0
  .next (if !(mayAdmit s g) then s else
    match (rgn s g).waiting, (rgn s g).drains with
    | r :: rest, [] => admitNext s g r rest
    | [], l :: ls => drainNext s g l ls
    | r :: rest, l :: ls =>
      let (n, s) := draw s
      if n % 2 = 0 then admitNext s g r rest else drainNext s g l ls
    | [], [] => s)

/-- R44, R49: a refresh of a region begins: what its requests have waited so far was for admission. -/
def beginRefresh (s : State) (g : Nat) : State :=
  let k := regionStack g
  let now := cycOf s k
  let s := addThr s k (waitSum (rgn s g) now)
  modRgn s g fun x => { x with refreshUntil := now + 286, waiting := x.waiting.map fun r => { r with arrived := now } }

/-- R44: REFRESH_START: the region is occupied for 286 cc. -/
def execRefreshStart (s : State) : Host.Outcome State Fault Refusal :=
  .next (whenDue .refreshStart s fun s => beginRefresh s (arg s 0))

/-- R44: a refresh has run its time. -/
def refreshOver (s : State) (g : Nat) : Bool :=
  decide ((rgn s g).refreshUntil ≠ 0) && decide ((rgn s g).refreshUntil ≤ cycOf s (regionStack g))

/-- R44, R48: REFRESH_END: the waits of its requests are added to `MSRSTALLg`; they proceed, under admission where the region is
throttled. -/
def execRefreshEnd (s : State) : Host.Outcome State Fault Refusal :=
  let g := arg s 0
  .next (if !refreshOver s g then s else
    let k := regionStack g
    let now := cycOf s k
    let x := rgn s g
    let wait := waitSum x now
    let s := modStk s k fun m => { m with stall := lmod m.stall (g % 8) fun n => (n + wait) % 2 ^ 64 }
    if throttled x then
      setRgn s g { x with refreshUntil := 0, waiting := x.waiting.map fun r => { r with arrived := now } }
    else x.waiting.foldl msAdmit (setRgn s g { x with refreshUntil := 0, waiting := [] }))

/-- R44: the state after a sample of `t` degrees. -/
def nextMode (m : RegionMode) (t : Nat) : RegionMode :=
  match m with
  | .normal => if 85 < t then .double else .normal
  | .double => if t ≤ 83 then .normal else if 95 < t then .throttled else .double
  | .throttled => if t ≤ 93 then .double else if 105 < t then .bypass else .throttled
  | .bypass => if t ≤ 90 then .throttled else .bypass

/-- R46: the DRAM term of a region's state. -/
def dramTermOf (m : RegionMode) : Nat :=
  match m with | .normal => 255 | .double => 191 | .throttled => 95 | .bypass => 31

/-- R44: on entry to BYPASS the region's clean lines are invalidated, and its dirty ones are written back one by one at the
throttled rate, and serve hits until then (log 137). -/
def enterBypass (s : State) (g : Nat) : State :=
  let mine := s.msLines.filter fun e => decide (regionOf (128 * e.1) = g) && e.2.dirty
  let s := { s with msLines := s.msLines.filter fun e => decide (regionOf (128 * e.1) ≠ g) || e.2.dirty }
  modRgn s g fun x => { x with drains := mine.map Prod.fst }

/-- R44: a region left from BYPASS starts empty: what it still holds is written back. -/
def leaveBypass (s : State) (g : Nat) : State :=
  let mine := (s.msLines.filter fun e => decide (regionOf (128 * e.1) = g)).map Prod.fst
  let s := modRgn s g fun x => { x with drains := [] }
  mine.foldl msDrain s

/-- R44: a region that is throttled no longer admits what waits, unless a refresh holds it. -/
def admitAll (s : State) (g : Nat) : State :=
  let x := rgn s g
  if throttled x || decide (x.refreshUntil ≠ 0) then s else
  let k := regionStack g
  let s := addThr s k (waitSum x (cycOf s k))
  x.waiting.foldl msAdmit (setRgn s g { x with waiting := [] })

/-- R44, R46: a region's sensor is sampled. -/
def sampleRegion (s : State) (g : Nat) : State :=
  let t := min 255 (tget 0 s.inputs.regionTemp g)
  let old := (rgn s g).mode
  let new := nextMode old t
  let s := modRgn s g fun x => { x with mode := new, sample := t }
  let s := if new = .bypass ∧ old ≠ .bypass then enterBypass s g
    else if old = .bypass ∧ new ≠ .bypass then leaveBypass s g
    else s
  let s := if old = .throttled ∧ new = .double then admitAll s g else s
  (List.range 8).foldl
    (fun s i => modCr s (64 * regionStack g + 8 * (g % 8) + i) fun c => { c with dramTerm := dramTermOf new }) s

/-- R44, R46: REGION_SAMPLE. -/
def execRegionSample (s : State) : Host.Outcome State Fault Refusal :=
  .next (whenDue .regionSample s fun s => sampleRegion s (arg s 0))

/-! ### Flushes (R47) -/

/-- The flush `id` with its instruction, if one is in progress. -/
def findFlush (s : State) (id : Nat) : Option (Nat × Nat × Nat) :=
  s.stackMems.findSome? fun (e : Nat × StackMem) => e.2.flushes.find? fun f => f.1 = id

/-- R47: GDDR7 has acknowledged every write of the flush. -/
def flushDone (s : State) (id : Nat) : Bool :=
  s.stackMems.all fun (e : Nat × StackMem) => (e.2.held ++ e.2.slots).all fun r => decide (r.flush ≠ id)

/-- R47: MS_FLUSH_COMPLETE. -/
def execMsFlushComplete (s : State) : Host.Outcome State Fault Refusal :=
  let id := arg s 0
  .next (match findFlush s id, flushDone s id with
    | some (_, w, op), true =>
      let s := { s with stackMems := tall resetStack s.stackMems fun m => { m with flushes := m.flushes.filter fun f => f.1 ≠ id } }
      modWv s w fun v => match findOp v op with | some o => complete v op o.todo 1 | none => v
    | _, _ => s)

/-! ### Hot pages (R50) -/

/-- R27, R50: the frames of a ring of records are SHARED. -/
def shareRing (s : State) (base size k : Nat) : State :=
  (List.range (16 * size / 4096 + 1)).foldl
    (fun s i => if 4096 * i < 16 * size then classify s (frameOf base + i) (Agent.unit k).core? else s) s

/-- R50: a record is performed at its home, and HEAD increments. -/
def hpRecord (s : State) (k a v : Nat) (rest : List (Nat × Nat)) : State :=
  let m := stk s k
  let s := reach (shareRing s m.hpBase.toNat (2 ^ m.hpSize.toNat) k) a 16 true 0xFFFF
  let s := homePut s (lineOf a) (byteMask (a % 128) 16) (BitVec.ofNat 1024 (v <<< (8 * (a % 128))))
  modStk s k fun m => { m with hpWriting := rest, hpHead := m.hpHead + 1 }

/-- R50: HOT_PAGE_RECORD_DONE: the oldest record, behind the requests that stand at its line (R82). -/
def execHotPageRecordDone (s : State) : Host.Outcome State Fault Refusal :=
  let k := arg s 0
  .next (match (stk s k).hpWriting with
    | [] => s
    | (a, v) :: rest => if lineBusy s a 16 then s else orWait s (hpRecord s k a v rest))

/-- R50: `v` written to HPCTL of stack `k`: the sampling fields; EN = 1 is refused for a bad base, size or extent. -/
def writeHpctl (s : State) (k v : Nat) : State :=
  let b := (stk s k).hpBase.toNat
  let size := bits v 12 8
  let ok := decide (b % 4096 = 0) && decide (b < gddrUsable) && decide (6 ≤ size) && decide (size ≤ 20) &&
    decide (b + 16 * 2 ^ size ≤ gddrUsable)
  if 6 ≤ k then s else modStk s k fun m => { m with
    hpEn := bit v 0 && ok, hpRate := BitVec.ofNat 4 (bits v 4 1), hpSize := BitVec.ofNat 5 size }
/-- R50: HPCTL_WRITE. -/
def execHpctlWrite (s : State) : Host.Outcome State Fault Refusal := .next (whenUp s fun s => writeHpctl s (arg s 0) (arg s 1))

/-! ### Pins (R52) -/

/-- The pinned ways of the set of `line`, itself apart. -/
def pinnedWays (s : State) (line : Nat) : Nat := ((l2Mates s line).filter fun e => !e.2.pins.isEmpty).length

/-- R52: a pin may be placed: the line is pinned already, or fewer than 12 ways of its set are. -/
def pinFree (s : State) (line : Nat) : Bool :=
  !(tget noL2 s.l2 line).pins.isEmpty || decide (pinnedWays s line < 12)

/-- R52: pin `p` placed on a line, or waiting for its set. -/
def pinLine (s : State) (line p : Nat) : State :=
  if pinFree s line then
    let s := l2Room s line
    { s with l2 := tmod noL2 s.l2 line fun t => { t with pins := p :: t.pins } }
  else { s with pinWait := s.pinWait ++ [(line, p)] }

/-- R52: PIN_GRANTED. -/
def execPinGranted (s : State) : Host.Outcome State Fault Refusal :=
  .next (match s.pinWait[arg s 0]? with
    | some (line, p) =>
      if pinFree s line then pinLine { s with pinWait := s.pinWait.eraseIdx (arg s 0) } line p else s
    | none => s)

/-! ### The carve-out sampler (R60, R66) -/

/-- R60: lo and hi of a pair: the largest `cachemin` and the smallest `cachemax` of its resident kernels, and of `more`. -/
def cacheLimits (s : State) (p : Nat) (more : List (Nat × Nat)) : Nat × Nat :=
  let ks := ((s.groups.filter fun (e : Nat × Group) => e.2.live && !e.2.savedAll && decide (e.2.pair = p)).map
    fun (e : Nat × Group) => (e.2.kernel.cacheMin, e.2.kernel.cacheMax)) ++ more
  match ks with
  | [] => (4, 62)
  | _ => (ks.foldl (fun n k => max n k.1) 0, ks.foldl (fun n k => min n k.2) 62)

/-- The RESERVE banks of a pair that no group's allocation holds. -/
def reserveBanks (s : State) (p : Nat) : List Nat :=
  (List.range 64).filter fun k => decide ((bank s p k).mode = .reserve) && decide ((bank s p k).owner = 0)

/-- The banks of an L1 that belong to no group's allocation. -/
def freeL1Banks (s : State) (c : Nat) : List Nat := (l1Banks s c).filter fun k => decide ((bank s (corePair c) k).owner = 0)

/-- R58, R66: the bank that the sampler may take from core `c`'s L1: the highest-numbered outside every allocation, where two more remain
outside, so that the L1 keeps two at all times (log 159). -/
def bankToMove (s : State) (c : Nat) : Option Nat :=
  let ks := freeL1Banks s c
  if 2 < ks.length then ks.getLast? else none

/-- R66: one bank of core `c`'s L1 to RESERVE. -/
def bankToReserve (s : State) (c : Nat) : State :=
  match bankToMove s c with
  | some k => setBank (removeBank s (corePair c) k) (corePair c) k .reserve 0
  | none => s

/-- R66: the lowest-numbered RESERVE bank to core `c`'s L1. -/
def bankFromReserve (s : State) (c : Nat) : State :=
  match reserveBanks s (corePair c) with
  | k :: _ => setBank s (corePair c) k (if c % 2 = 0 then .cacheL else .cacheF) 0
  | [] => s

/-- R66: one bank from the L1 of `c` to that of `d`. -/
def bankAcross (s : State) (c d : Nat) : State :=
  match bankToMove s c with
  | some k => setBank (removeBank s (corePair c) k) (corePair c) k (if d % 2 = 0 then .cacheL else .cacheF) 0
  | none => s

/-- R66: the carve-out sampler moves at most one bank of a pair. -/
def carveOut (s : State) (p : Nat) : State :=
  let a := 2 * p
  let b := 2 * p + 1
  let (lo, hi) := cacheLimits s p []
  let n := fun c => (l1Banks s c).length
  let c := n a + n b
  let sh := fun x => (cr s x).shadowHits
  let lr := fun x => (cr s x).lruHits
  let g := if sh b ≤ sh a then a else b
  let o := if g = a then b else a
  let m := if lr a ≤ lr b then a else b
  let res := (reserveBanks s p).length
  let s :=
    if hi < c ∧ 2 < n m then bankToReserve s m
    else if c < lo ∧ 0 < res then bankFromReserve s g
    else if 0 < res ∧ c < hi ∧ 8 ≤ sh g then bankFromReserve s g
    else if lr o + 8 ≤ sh g ∧ 2 < n o then bankAcross s o g
    else if lo < c ∧ lr m < 2 ∧ 2 < n m then bankToReserve s m
    else s
  let clear := fun x : Core => { x with shadowHits := 0, lruHits := 0 }
  modCr (modCr s a clear) b clear

/-- R66: CARVE_OUT. -/
def execCarveOut (s : State) : Host.Outcome State Fault Refusal := .next (whenDue .carveOut s fun s => carveOut s (arg s 0))

/-- R399: CORRECTED_SOFT_ERROR: counted, and nothing else changes. -/
def execCorrectedSoftError (s : State) : Host.Outcome State Fault Refusal :=
  let k := arg s 0
  .next (if k < 6 then modStk s k fun m => { m with eccCe := (m.eccCe + 1) % 2 ^ 64 } else s)

/-! ### Which of these have an occasion -/

def readyCache (s : State) : List (Instr × List Nat) :=
  (s.stackMems.flatMap fun (k, m) =>
    (if m.queue.isEmpty then [] else [(Instr.msCacheRequest, [k])]) ++
    (if m.hpWriting.isEmpty then [] else [(Instr.hotPageRecordDone, [k])]) ++
    (match m.slots.findIdx? (gddrBack s k) with | some i => [(Instr.gddr7Complete, [k, i])] | none => []) ++
    (if m.held.isEmpty || decide (12288 ≤ m.slots.length) then [] else [(Instr.gddr7RequestIssue, [k])]) ++
    ((m.flushes.filter fun f => flushDone s f.1).map fun f => (Instr.msFlushComplete, [f.1]))) ++
  (s.regions.flatMap fun (g, _) =>
    (if refreshOver s g then [(Instr.refreshEnd, [g])] else []) ++ (if mayAdmit s g then [(Instr.throttledAdmission, [g])] else [])) ++
  ((List.range s.pinWait.length).filterMap fun k => match s.pinWait[k]? with
    | some x => if pinFree s x.1 then some (Instr.pinGranted, [k]) else none
    | none => none)

end Sys2Proof.Machine
end

