-- ==== Sys2Proof/Machine/Engine.lean ====
section
/-! DEFINITION. The reads and writes of engines. A read, or the write of a unit that is no core's, is made at one instant (log 33);
what an engine of a core writes passes through the core's dirty-address FIFO (spec/03, R76, R83, R86, R87). -/

namespace Sys2Proof.Machine

open Sys2Proof.Machine.State

/-- Why an engine's access fails: class, status word or code, and address (R34, R399). -/
abbrev EngFault := Nat × Nat × Nat

/-- The agent that is a unit of the home stack of context `c`. -/
def ctxUnit (s : State) (c : Nat) : Agent := .unit (cx s c).held.home.toNat

/-- The bytes are held by this device: its own memory, or a host line that its slice holds (R86). -/
def heldHere (s : State) (pa : Nat) : Bool :=
  decide (pa < gddrEnd) || (hostLine (lineOf pa) && decide ((tget noL2 s.l2 (lineOf pa)).valid = 15))

/-- R86, R87: the read that a unit sends for a line of a peer's or a host's memory. -/
def askFar (s : State) (pa n : Nat) : State :=
  let (id, s) := fresh s
  if isFar pa then out s (.peer id (farDev pa) 0 (farLocal pa) n 0 0)
  else if remoteDest (destOf s pa) then out s (.pcie id false pa n 0)
  else out s (.d2h id 0 (lineOf pa) 0)

/-- Bytes in one line read where they lie. What a peer's or a host's memory holds is a free value (log 20). -/
def readLine (s : State) (pa n : Nat) : State × Nat :=
  if heldHere s pa then (s, homeRead s pa n) else
  let (x, s) := draw (askFar s pa n)
  (s, x % 2 ^ (8 * n))

/-- Bytes read line by line; `k` bounds the number of lines. -/
def readLines : Nat → Nat → Nat → State → State × Nat
  | 0, _, _, s => (s, 0)
  | k + 1, pa, n, s =>
    if n = 0 then (s, 0) else
    let m := min n (128 - pa % 128)
    let (s, lo) := readLine s pa m
    let (s, hi) := readLines k (pa + m) (n - m) s
    (s, lo + 2 ^ (8 * m) * hi)

/-- R17, R87: a peer's answer to a unit's access of class `cls`, whose page was found at a level: it may refuse the frame, which no page of
this device shows, so that a free choice does (log 20). -/
def peerAnswer (s : State) (cls : AccClass) (pa lvl va : Nat) : State × Option EngFault :=
  if !(isFar pa) then (s, none) else
  let (x, s) := draw s
  (s, if x % 2 = 0 then none else some (10, statusWord 2 lvl (clsNum cls) (kindNum .peer) true, va))

/-- The engine's read of bytes in one page. -/
def engReadPage (s : State) (ag : Agent) (c : Nat) (cls : AccClass) (va n : Nat) : State × Except EngFault Nat :=
  match demandAt s ag c cls va n with
  | (s, .error st) => (s, .error (10, st, va))
  | (s, .ok (pa, lvl)) =>
    if poisonIn s pa n then (s, .error (12, 1, va)) else
    match peerAnswer s cls pa lvl va with
    | (s, some e) => (askFar s pa n, .error e)
    | (s, none) => let (s, x) := readLines (n / 128 + 2) pa n s; (s, .ok x)

/-- The engine's read of `n` bytes from `va`, split at 4 KiB pages; `k` bounds the number of pages. -/
def engReadFrom (ag : Agent) (c : Nat) (cls : AccClass) : Nat → Nat → Nat → State → State × Except EngFault Nat
  | 0, _, _, s => (s, .ok 0)
  | k + 1, va, n, s =>
    if n = 0 then (s, .ok 0) else
    let m := min n (4096 - va % 4096)
    match engReadPage s ag c cls va m with
    | (s, .error e) => (s, .error e)
    | (s, .ok lo) =>
      match engReadFrom ag c cls k ((va + m) % 2 ^ 64) (n - m) s with
      | (s, .error e) => (s, .error e)
      | (s, .ok hi) => (s, .ok (lo + 2 ^ (8 * m) * hi))

/-- The engine's read of `n` bytes from `va` for context `c`, as a number. -/
def engRead (s : State) (ag : Agent) (c : Nat) (cls : AccClass) (va n : Nat) : State × Except EngFault Nat :=
  engReadFrom ag c cls (n / 4096 + 2) va n s

/-- The bytes of a record that an engine reads. -/
def engBytes (s : State) (ag : Agent) (c : Nat) (cls : AccClass) (va n : Nat) : State × Except EngFault (List Byte) :=
  match engRead s ag c cls va n with
  | (s, .ok x) => (s, .ok (leBytes n x))
  | (s, .error e) => (s, .error e)

/-- A unit's write of `n` bytes in one page, performed at its home under R82, or sent to a peer or over PCIe. -/
def engWritePage (s : State) (ag : Agent) (c : Nat) (cls : AccClass) (va n v : Nat) : State × Except EngFault Unit :=
  match demandAt s ag c cls va n with
  | (s, .error st) => (s, .error (10, st, va))
  | (s, .ok (pa, lvl)) =>
    let d := destOf s pa
    if remoteDest d then
      let (id, s) := fresh s
      let s := out s (if 8192 ≤ d then .pcie id true pa n v else .peer id (farDev pa) 1 (farLocal pa) n v 0)
      match peerAnswer s cls pa lvl va with
      | (s, some e) => (s, .error e)
      | (s, none) => (s, .ok ())
    else (putBytes (n / 128 + 2) pa n v s, .ok ())

/-- A unit's write of `n` bytes from `va`, split at 4 KiB pages. -/
def engWriteFrom (ag : Agent) (c : Nat) (cls : AccClass) : Nat → Nat → Nat → Nat → State → State × Except EngFault Unit
  | 0, _, _, _, s => (s, .ok ())
  | k + 1, va, n, v, s =>
    if n = 0 then (s, .ok ()) else
    let m := min n (4096 - va % 4096)
    match engWritePage s ag c cls va m (v % 2 ^ (8 * m)) with
    | (s, .error e) => (s, .error e)
    | (s, .ok _) => engWriteFrom ag c cls k ((va + m) % 2 ^ 64) (n - m) (v / 2 ^ (8 * m)) s

/-- A unit's write of the low `n` bytes of `v` from `va` for context `c`. -/
def engWrite (s : State) (ag : Agent) (c : Nat) (cls : AccClass) (va n v : Nat) : State × Except EngFault Unit :=
  engWriteFrom ag c cls (n / 4096 + 2) va n v s

/-! ### Writes through the dirty-address FIFO (R76) -/

/-- The parts of the bytes `v` from `pa` that lie in each line: address, size, value. -/
def lineParts (pa n v : Nat) : List (Nat × Nat × Nat) :=
  (linesOf pa n).map fun l =>
    let lo := max pa (128 * l)
    let m := min (pa + n) (128 * l + 128) - lo
    (lo, m, v / 2 ^ (8 * (lo - pa)) % 2 ^ (8 * m))

/-- R76: the write of an engine of core `core`, for its operation `tag`, of `n` bytes in one page enters the core's FIFO: with `add`
an addition of FP32 words. It waits where the FIFO is full. What it writes is not brought into the L1 by fills in flight. -/
def engQueuePage (s : State) (core c : Nat) (cls : AccClass) (va n v tag : Nat) (add : Bool) : State × Except EngFault Unit :=
  match translate s (.core core) c cls false va n with
  | (s, .error st) => (s, .error (10, st, va))
  | (s, .ok e) =>
    let twin := if e.kind = .twin then e.log2 else 0
    let pa := if twin = 0 then physOf s e cls va else e.frame + va % 2 ^ e.log2
    let s := if e.kind = .normal then classify s (frameOf pa) (some core) else s
    let ps := lineParts pa n v
    if !(dafRoom s core ps.length) then (mustWait s, .ok ()) else
    let s := ps.foldl
      (fun s p => dafPush s core { kind := .eng tag [{ va := va + (p.1 - pa), lvl := e.lvl, pa := p.1, n := p.2.1, v := p.2.2, twin := twin }] add, accs := [] }) s
    (stopFills s core fun l => (linesOf pa n).contains l, .ok ())

/-- The same of bytes that may cross into further pages; `k` bounds the number of pages. -/
def engQueueFrom (core c : Nat) (cls : AccClass) (tag : Nat) (add : Bool) : Nat → Nat → Nat → Nat → State → State × Except EngFault Unit
  | 0, _, _, _, s => (s, .ok ())
  | k + 1, va, n, v, s =>
    if n = 0 then (s, .ok ()) else
    let m := min n (4096 - va % 4096)
    match engQueuePage s core c cls va m (v % 2 ^ (8 * m)) tag add with
    | (s, .error e) => (s, .error e)
    | (s, .ok _) => engQueueFrom core c cls tag add k ((va + m) % 2 ^ 64) (n - m) (v / 2 ^ (8 * m)) s

/-- R76: an engine of core `core` writes the low `n` bytes of `v` from `va`. -/
def engQueue (s : State) (core c : Nat) (cls : AccClass) (va n v tag : Nat) (add : Bool) : State × Except EngFault Unit :=
  engQueueFrom core c cls tag add (n / 4096 + 2) va n v s

/-- Writes of the operation `tag` of an engine of core `core` are not acknowledged yet. -/
def engLeft (s : State) (core tag : Nat) : Bool :=
  let one := fun e : DafEntry => match e.kind with | .eng t .. => decide (t = tag) | _ => false
  (cr s core).daf.any one || (cr s core).unacked.any fun u => one u.2

end Sys2Proof.Machine
end

