-- ==== Sys2Proof/Machine/IntOps.lean ====
section
/-! DEFINITION. Integer and bit arithmetic on operand values (R248 to R257), shared by the lane and the uniform set. -/

namespace Sys2Proof.Machine

/-- R248: the element width of an integer type. -/
def elemW (t : Nat) : Nat := match t % 16 with | 0 => 32 | 1 => 64 | 2 => 16 | _ => 8
/-- R248: the elements of a register or pair. -/
def elemN (t : Nat) : Nat := match t % 16 with | 2 => 2 | 3 => 4 | _ => 1
/-- R248: element `k` of a value, signed or unsigned by T[4]. -/
def elem (t v k : Nat) : Int :=
  let x := v >>> (elemW t * k)
  if t < 16 then sext (elemW t) x else ((x % 2 ^ elemW t : Nat) : Int)

/-- R248: the exact result `x` clamped to `w` bits, signed or unsigned, where `sat` is set, and wrapped. -/
def narrow (w : Nat) (uns sat : Bool) (x : Int) : Nat :=
  wrap w (if sat then (if uns then clamp 0 (2 ^ w - 1 : Nat) x else clamp (-(2 ^ (w - 1) : Nat)) ((2 ^ (w - 1) : Nat) - 1) x)
          else x)

/-- The value whose element `k` is `f k`, for `n` elements of `w` bits. -/
def pack (w n : Nat) (f : Nat → Nat) : Nat := (List.range n).foldl (fun x k => x + ((f k % 2 ^ w) <<< (w * k))) 0

/-- An element-wise operation (R248, R249). -/
def intOp (g : GExt) (f : Int → Int → Int) (b c : Nat) : Nat :=
  let t := gT g
  pack (elemW t) (elemN t) fun k => narrow (elemW t) (decide (16 ≤ t)) g.sat (f (elem t b k) (elem t c k))
/-- R249: the high half of the exact 64-bit product. -/
def mulhOp (g : GExt) (b c : Nat) : Nat := wrap 32 (elem (gT g) b 0 * elem (gT g) c 0 / (2 ^ 32 : Nat))
def minOp (g : GExt) (b c : Nat) : Nat := intOp g (fun x y => if x ≤ y then x else y) b c
def maxOp (g : GExt) (b c : Nat) : Nat := intOp g (fun x y => if x ≤ y then y else x) b c
/-- R249: the distance as an unsigned element. -/
def absdOp (g : GExt) (b c : Nat) : Nat := intOp g (fun x y => ((x - y).natAbs : Int)) b c
/-- R249: a bitwise operation on a register or pair. -/
def bitOp (_g : GExt) (f : Nat → Nat → Nat) (b c : Nat) : Nat := f b c
def andnOp (g : GExt) (b c : Nat) : Nat := b &&& ((2 ^ elemW (gT g) - 1) ^^^ (c % 2 ^ elemW (gT g)))
/-- R252: shifts take their amount from bits [7:0]. -/
def shlOp (g : GExt) (b c : Nat) : Nat := (b <<< (c % 256)) % 2 ^ elemW (gT g)
def shrOp (g : GExt) (b c : Nat) : Nat := (b % 2 ^ elemW (gT g)) >>> (c % 256)
def sarOp (g : GExt) (b c : Nat) : Nat :=
  let w := elemW (gT g)
  wrap w (sext w b / (2 ^ (c % 256) : Nat))
def rotOp (g : GExt) (b c : Nat) : Nat :=
  let w := elemW (gT g)
  let n := c % 256 % w
  ((b <<< n) ||| ((b % 2 ^ w) >>> (w - n))) % 2 ^ w

/-- R254: leading zeros of 32 bits. -/
def clzOp (b : Nat) : Nat := if b = 0 then 32 else 31 - b.log2
/-- R254: bits that are 1. -/
def popcOp (b : Nat) : Nat := ((List.range 32).filter fun k => bit b k).length
/-- R254: 32 bits reversed. -/
def brevOp (b : Nat) : Nat := (List.range 32).foldl (fun x k => if bit b k then x + 2 ^ (31 - k) else x) 0

/-- R253: the position and width of a control word. -/
def fieldPos (k : Nat) : Nat := k % 32
def fieldWid (k : Nat) : Nat := min (bits k 13 8) 32
/-- R253: bit-field extract; bits above 31 read zero. -/
def bfeOp (uns : Bool) (b k : Nat) : Nat :=
  let w := fieldWid k
  let x := (b % 2 ^ 32) >>> fieldPos k % 2 ^ w
  if w = 0 then 0 else if uns then x else wrap 32 (sext w x)
/-- R253: bit-field insert of `b` into `c`. -/
def bfiOp (b c k : Nat) : Nat :=
  let p := fieldPos k
  let n := min (p + fieldWid k) 32 - p
  let m := (2 ^ n - 1) <<< p
  (c % 2 ^ 32 - (c % 2 ^ 32 &&& m)) + ((b % 2 ^ n) <<< p)

/-- R254: byte permute. -/
def permOp (b c e : Nat) : Nat :=
  let pool := b % 2 ^ 32 + (c % 2 ^ 32) * 2 ^ 32
  pack 8 4 fun k =>
    let s := bits e (4 * k + 3) (4 * k)
    if 8 ≤ s then 0 else bits pool (8 * s + 7) (8 * s)

/-- R255: the relation of a code between integers. -/
def relOf (r : Nat) (b c : Int) : Bool :=
  match r with
  | 0 => decide (b = c) | 1 => decide (b ≠ c) | 2 => decide (b < c) | 3 => decide (b ≤ c) | 4 => decide (c < b)
  | _ => decide (c ≤ b)
/-- R255: the combination selected by E[4:3] with a predicate's value. -/
def combine (e : Nat) (x p : Bool) : Bool :=
  match bits e 4 3 with | 0 => x | 1 => x && p | 2 => x || p | _ => x != p
/-- R255: the comparison of `vcmp` and `scmp`. -/
def cmpOp (t b c : Nat) : Bool :=
  let w := if bit t 4 then 64 else 32
  let i := fun x : Nat => if bit t 3 then ((x % 2 ^ w : Nat) : Int) else sext w x
  relOf (t % 8) (i b) (i c)
/-- R256: a truth table applied to two predicates. -/
def tableOp (t : Nat) (b c : Bool) : Bool := bit t (2 * b2n b + b2n c)
/-- R257: address arithmetic with a scaled index. -/
def leaOp (t b c : Nat) : Nat :=
  let x : Int := if bit t 2 then sext 32 c else ((c % 2 ^ 32 : Nat) : Int)
  wrap 64 (b + x * (2 ^ (t % 4) : Nat))

end Sys2Proof.Machine
end

