-- ==== Sys2Proof/Machine/LaneInt.lean ====
section
/-! DEFINITION. Lane integer, bit, predicate and move instructions (spec/11, R248 to R258). -/

namespace Sys2Proof.Machine

open Sys2Proof.Machine.State

/-- The registers of a run with their tags, as moves and selects copy them (R245). -/
def copyRun (v : Wave) (l r n : Nat) : LaneOut :=
  { regs := (List.range n).map fun k => (vread v l (r + k), (vreg v l (r + k)).tag), preds := [], raised := 0 }


/-- R249: `vadd`, b + c. -/
def execVadd (h : Head) (g : GExt) (s : State) : Host.Outcome State Fault Refusal :=
  laneAlu (.vadd h g) (fun _ _ xs => outRun (wide (gT g)) (intOp g (· + ·) (xs.getD 0 0) (xs.getD 1 0)) .untyped) s

/-- R222: the short form of `vadd`. -/
def execVaddShort (h : Head) (s : State) : Host.Outcome State Fault Refusal :=
  laneAlu (.vaddShort h) (fun _ _ xs => outReg (intOp (shortG h.b) (· + ·) (xs.getD 0 0) (xs.getD 1 0)) .untyped) s

/-- R249: `vsub`, b - c. -/
def execVsub (h : Head) (g : GExt) (s : State) : Host.Outcome State Fault Refusal :=
  laneAlu (.vsub h g) (fun _ _ xs => outRun (wide (gT g)) (intOp g (· - ·) (xs.getD 0 0) (xs.getD 1 0)) .untyped) s

/-- R222: the short form of `vsub`. -/
def execVsubShort (h : Head) (s : State) : Host.Outcome State Fault Refusal :=
  laneAlu (.vsubShort h) (fun _ _ xs => outReg (intOp (shortG h.b) (· - ·) (xs.getD 0 0) (xs.getD 1 0)) .untyped) s

/-- R249: `vmul`, the low bits of b * c. -/
def execVmul (h : Head) (g : GExt) (s : State) : Host.Outcome State Fault Refusal :=
  laneAlu (.vmul h g) (fun _ _ xs => outRun (wide (gT g)) (intOp g (· * ·) (xs.getD 0 0) (xs.getD 1 0)) .untyped) s

/-- R222: the short form of `vmul`. -/
def execVmulShort (h : Head) (s : State) : Host.Outcome State Fault Refusal :=
  laneAlu (.vmulShort h) (fun _ _ xs => outReg (intOp (shortG h.b) (· * ·) (xs.getD 0 0) (xs.getD 1 0)) .untyped) s

/-- R249: `vmulh`, bits [63:32] of the exact product. -/
def execVmulh (h : Head) (g : GExt) (s : State) : Host.Outcome State Fault Refusal :=
  laneAlu (.vmulh h g) (fun _ _ xs => outRun (wide (gT g)) (mulhOp g (xs.getD 0 0) (xs.getD 1 0)) .untyped) s

/-- R222: the short form of `vmulh`. -/
def execVmulhShort (h : Head) (s : State) : Host.Outcome State Fault Refusal :=
  laneAlu (.vmulhShort h) (fun _ _ xs => outReg (mulhOp (shortG h.b) (xs.getD 0 0) (xs.getD 1 0)) .untyped) s

/-- R249: `vmin`, the lesser operand. -/
def execVmin (h : Head) (g : GExt) (s : State) : Host.Outcome State Fault Refusal :=
  laneAlu (.vmin h g) (fun _ _ xs => outRun (wide (gT g)) (minOp g (xs.getD 0 0) (xs.getD 1 0)) .untyped) s

/-- R222: the short form of `vmin`. -/
def execVminShort (h : Head) (s : State) : Host.Outcome State Fault Refusal :=
  laneAlu (.vminShort h) (fun _ _ xs => outReg (minOp (shortG h.b) (xs.getD 0 0) (xs.getD 1 0)) .untyped) s

/-- R249: `vmax`, the greater operand. -/
def execVmax (h : Head) (g : GExt) (s : State) : Host.Outcome State Fault Refusal :=
  laneAlu (.vmax h g) (fun _ _ xs => outRun (wide (gT g)) (maxOp g (xs.getD 0 0) (xs.getD 1 0)) .untyped) s

/-- R222: the short form of `vmax`. -/
def execVmaxShort (h : Head) (s : State) : Host.Outcome State Fault Refusal :=
  laneAlu (.vmaxShort h) (fun _ _ xs => outReg (maxOp (shortG h.b) (xs.getD 0 0) (xs.getD 1 0)) .untyped) s

/-- R249: `vabsd`, the exact distance. -/
def execVabsd (h : Head) (g : GExt) (s : State) : Host.Outcome State Fault Refusal :=
  laneAlu (.vabsd h g) (fun _ _ xs => outRun (wide (gT g)) (absdOp g (xs.getD 0 0) (xs.getD 1 0)) .untyped) s

/-- R222: the short form of `vabsd`. -/
def execVabsdShort (h : Head) (s : State) : Host.Outcome State Fault Refusal :=
  laneAlu (.vabsdShort h) (fun _ _ xs => outReg (absdOp (shortG h.b) (xs.getD 0 0) (xs.getD 1 0)) .untyped) s

/-- R249: `vand`, b and c. -/
def execVand (h : Head) (g : GExt) (s : State) : Host.Outcome State Fault Refusal :=
  laneAlu (.vand h g) (fun _ _ xs => outRun (wide (gT g)) (bitOp g (· &&& ·) (xs.getD 0 0) (xs.getD 1 0)) .untyped) s

/-- R222: the short form of `vand`. -/
def execVandShort (h : Head) (s : State) : Host.Outcome State Fault Refusal :=
  laneAlu (.vandShort h) (fun _ _ xs => outReg (bitOp (shortG h.b) (· &&& ·) (xs.getD 0 0) (xs.getD 1 0)) .untyped) s

/-- R249: `vor`, b or c. -/
def execVor (h : Head) (g : GExt) (s : State) : Host.Outcome State Fault Refusal :=
  laneAlu (.vor h g) (fun _ _ xs => outRun (wide (gT g)) (bitOp g (· ||| ·) (xs.getD 0 0) (xs.getD 1 0)) .untyped) s

/-- R222: the short form of `vor`. -/
def execVorShort (h : Head) (s : State) : Host.Outcome State Fault Refusal :=
  laneAlu (.vorShort h) (fun _ _ xs => outReg (bitOp (shortG h.b) (· ||| ·) (xs.getD 0 0) (xs.getD 1 0)) .untyped) s

/-- R249: `vxor`, b xor c. -/
def execVxor (h : Head) (g : GExt) (s : State) : Host.Outcome State Fault Refusal :=
  laneAlu (.vxor h g) (fun _ _ xs => outRun (wide (gT g)) (bitOp g (· ^^^ ·) (xs.getD 0 0) (xs.getD 1 0)) .untyped) s

/-- R222: the short form of `vxor`. -/
def execVxorShort (h : Head) (s : State) : Host.Outcome State Fault Refusal :=
  laneAlu (.vxorShort h) (fun _ _ xs => outReg (bitOp (shortG h.b) (· ^^^ ·) (xs.getD 0 0) (xs.getD 1 0)) .untyped) s

/-- R249: `vandn`, b and not c. -/
def execVandn (h : Head) (g : GExt) (s : State) : Host.Outcome State Fault Refusal :=
  laneAlu (.vandn h g) (fun _ _ xs => outRun (wide (gT g)) (andnOp g (xs.getD 0 0) (xs.getD 1 0)) .untyped) s

/-- R222: the short form of `vandn`. -/
def execVandnShort (h : Head) (s : State) : Host.Outcome State Fault Refusal :=
  laneAlu (.vandnShort h) (fun _ _ xs => outReg (andnOp (shortG h.b) (xs.getD 0 0) (xs.getD 1 0)) .untyped) s

/-- R252: `vshl`, left shift. -/
def execVshl (h : Head) (g : GExt) (s : State) : Host.Outcome State Fault Refusal :=
  laneAlu (.vshl h g) (fun _ _ xs => outRun (wide (gT g)) (shlOp g (xs.getD 0 0) (xs.getD 1 0)) .untyped) s

/-- R222: the short form of `vshl`. -/
def execVshlShort (h : Head) (s : State) : Host.Outcome State Fault Refusal :=
  laneAlu (.vshlShort h) (fun _ _ xs => outReg (shlOp (shortG h.b) (xs.getD 0 0) (xs.getD 1 0)) .untyped) s

/-- R252: `vshr`, logical right shift. -/
def execVshr (h : Head) (g : GExt) (s : State) : Host.Outcome State Fault Refusal :=
  laneAlu (.vshr h g) (fun _ _ xs => outRun (wide (gT g)) (shrOp g (xs.getD 0 0) (xs.getD 1 0)) .untyped) s

/-- R222: the short form of `vshr`. -/
def execVshrShort (h : Head) (s : State) : Host.Outcome State Fault Refusal :=
  laneAlu (.vshrShort h) (fun _ _ xs => outReg (shrOp (shortG h.b) (xs.getD 0 0) (xs.getD 1 0)) .untyped) s

/-- R252: `vsar`, arithmetic right shift. -/
def execVsar (h : Head) (g : GExt) (s : State) : Host.Outcome State Fault Refusal :=
  laneAlu (.vsar h g) (fun _ _ xs => outRun (wide (gT g)) (sarOp g (xs.getD 0 0) (xs.getD 1 0)) .untyped) s

/-- R222: the short form of `vsar`. -/
def execVsarShort (h : Head) (s : State) : Host.Outcome State Fault Refusal :=
  laneAlu (.vsarShort h) (fun _ _ xs => outReg (sarOp (shortG h.b) (xs.getD 0 0) (xs.getD 1 0)) .untyped) s

/-- R252: `vrot`, rotate left. -/
def execVrot (h : Head) (g : GExt) (s : State) : Host.Outcome State Fault Refusal :=
  laneAlu (.vrot h g) (fun _ _ xs => outRun (wide (gT g)) (rotOp g (xs.getD 0 0) (xs.getD 1 0)) .untyped) s

/-- R222: the short form of `vrot`. -/
def execVrotShort (h : Head) (s : State) : Host.Outcome State Fault Refusal :=
  laneAlu (.vrotShort h) (fun _ _ xs => outReg (rotOp (shortG h.b) (xs.getD 0 0) (xs.getD 1 0)) .untyped) s

/-- R254: `vclz`, leading zeros. -/
def execVclz (h : Head) (g : GExt) (s : State) : Host.Outcome State Fault Refusal :=
  laneAlu (.vclz h g) (fun _ _ xs => outReg (clzOp (xs.getD 0 0)) .untyped) s

/-- R222: the short form of `vclz`. -/
def execVclzShort (h : Head) (s : State) : Host.Outcome State Fault Refusal :=
  laneAlu (.vclzShort h) (fun _ _ xs => outReg (clzOp (xs.getD 0 0)) .untyped) s

/-- R254: `vpopc`, number of 1 bits. -/
def execVpopc (h : Head) (g : GExt) (s : State) : Host.Outcome State Fault Refusal :=
  laneAlu (.vpopc h g) (fun _ _ xs => outReg (popcOp (xs.getD 0 0)) .untyped) s

/-- R222: the short form of `vpopc`. -/
def execVpopcShort (h : Head) (s : State) : Host.Outcome State Fault Refusal :=
  laneAlu (.vpopcShort h) (fun _ _ xs => outReg (popcOp (xs.getD 0 0)) .untyped) s

/-- R254: `vbrev`, bits reversed. -/
def execVbrev (h : Head) (g : GExt) (s : State) : Host.Outcome State Fault Refusal :=
  laneAlu (.vbrev h g) (fun _ _ xs => outReg (brevOp (xs.getD 0 0)) .untyped) s

/-- R222: the short form of `vbrev`. -/
def execVbrevShort (h : Head) (s : State) : Host.Outcome State Fault Refusal :=
  laneAlu (.vbrevShort h) (fun _ _ xs => outReg (brevOp (xs.getD 0 0)) .untyped) s

/-- R250: the exact b * c + e wrapped or clamped to 32 bits. -/
def execVmad (h : Head) (g : GExt) (s : State) : Host.Outcome State Fault Refusal :=
  laneAlu (.vmad h g) (fun _ _ xs =>
    let t := gT g
    outReg (narrow 32 (decide (16 ≤ t)) g.sat
      (elem t (xs.getD 0 0) 0 * elem t (xs.getD 1 0) 0 + elem t (xs.getD 2 0) 0)) .untyped) s

/-- R250: the exact 64-bit product plus the 64-bit e. -/
def execVmadw (h : Head) (g : GExt) (s : State) : Host.Outcome State Fault Refusal :=
  laneAlu (.vmadw h g) (fun _ _ xs =>
    let t := gT g
    outRun 2 (narrow 64 (decide (16 ≤ t)) g.sat
      (elem t (xs.getD 0 0) 0 * elem t (xs.getD 1 0) 0 + elem (t + 1) (xs.getD 2 0) 0)) .untyped) s

/-- R251: `vmov`, bits and tag. -/
def execVmov (h : Head) (g : GExt) (s : State) : Host.Outcome State Fault Refusal :=
  laneAlu (.vmov h g) (fun v l _ => copyRun v l h.b.toNat (wide (gT g))) s

/-- R222: the short form of `vmov`. -/
def execVmovShort (h : Head) (s : State) : Host.Outcome State Fault Refusal :=
  laneAlu (.vmovShort h) (fun v l _ => copyRun v l h.b.toNat 1) s

/-- R251: `vsel`, with the tag of the register copied. -/
def execVsel (h : Head) (g : GExt) (s : State) : Host.Outcome State Fault Refusal :=
  laneAlu (.vsel h g) (fun v l _ =>
    copyRun v l (if pred v l g.e.toNat then h.b.toNat else g.c.toNat) (wide (gT g))) s

/-- R251: `vmovi`, the immediate sign-extended, zero-extended or shifted left by 16. -/
def execVmovi (h : Head) (e : IExt) (s : State) : Host.Outcome State Fault Refusal :=
  laneAlu (.vmovi h e) (fun _ _ _ =>
    outReg (match e.sub.toNat with
      | 0 => wrap 32 (sext 16 e.imm.toNat)
      | 1 => e.imm.toNat
      | _ => e.imm.toNat * 65536) .untyped) s

/-- R251: `vmovh`, the high half replaced. -/
def execVmovh (h : Head) (e : IExt) (s : State) : Host.Outcome State Fault Refusal :=
  laneAlu (.vmovh h e) (fun _ _ xs => outReg (e.imm.toNat * 65536 + xs.getD 0 0 % 65536) .untyped) s

/-- R251: `vaddi`, signed-clamped with SUB[0]. -/
def execVaddi (h : Head) (e : IExt) (s : State) : Host.Outcome State Fault Refusal :=
  laneAlu (.vaddi h e) (fun _ _ xs =>
    outReg (narrow 32 false (e.sub.getLsbD 0) (sext 32 (xs.getD 0 0) + sext 16 e.imm.toNat)) .untyped) s

/-- R253: `vbfe`. -/
def execVbfe (h : Head) (g : GExt) (s : State) : Host.Outcome State Fault Refusal :=
  laneAlu (.vbfe h g) (fun _ _ xs => outReg (bfeOp (decide (gT g = 16)) (xs.getD 0 0) (xs.getD 1 0)) .untyped) s

/-- R253: `vbfi`. -/
def execVbfi (h : Head) (g : GExt) (s : State) : Host.Outcome State Fault Refusal :=
  laneAlu (.vbfi h g) (fun _ _ xs => outReg (bfiOp (xs.getD 0 0) (xs.getD 1 0) (xs.getD 2 0)) .untyped) s

/-- R254: `vperm`. -/
def execVperm (h : Head) (g : GExt) (s : State) : Host.Outcome State Fault Refusal :=
  laneAlu (.vperm h g) (fun _ _ xs => outReg (permOp (xs.getD 0 0) (xs.getD 1 0) (xs.getD 2 0)) .untyped) s

/-- R255: `vcmp`. -/
def execVcmp (h : Head) (g : GExt) (s : State) : Host.Outcome State Fault Refusal :=
  laneAlu (.vcmp h g) (fun v l xs =>
    outPred h.a.toNat (combine g.e.toNat (cmpOp (gT g) (xs.getD 0 0) (xs.getD 1 0)) (pred v l (g.e.toNat % 8)))) s

/-- R255: `vcmpi`. -/
def execVcmpi (h : Head) (e : IExt) (s : State) : Host.Outcome State Fault Refusal :=
  laneAlu (.vcmpi h e) (fun _ _ xs =>
    let b := xs.getD 0 0
    let u := e.sub.getLsbD 3
    outPred h.a.toNat (relOf (e.sub.toNat % 8) (if u then ((b % 2 ^ 32 : Nat) : Int) else sext 32 b)
      (if u then (e.imm.toNat : Int) else sext 16 e.imm.toNat))) s

/-- R256: `vplog`. -/
def execVplog (h : Head) (g : GExt) (s : State) : Host.Outcome State Fault Refusal :=
  laneAlu (.vplog h g) (fun v l _ =>
    outPred h.a.toNat (tableOp (gT g) (pred v l h.b.toNat) (pred v l g.c.toNat))) s

/-- R256: `vpmov` in its four forms. -/
def execVpmov (h : Head) (g : GExt) (s : State) : Host.Outcome State Fault Refusal :=
  laneAlu (.vpmov h g) (fun v l xs =>
    match gT g with
    | 0 => outReg ((List.range 8).foldl (fun x k => x + b2n (pred v l k) * 2 ^ k) 0) .untyped
    | 1 => { regs := [], preds := [1, 2, 3, 4, 5, 6, 7].map fun k => (k, bit (xs.getD 0 0) k), raised := 0 }
    | 2 => outReg (b2n (pred v l h.b.toNat)) .untyped
    | _ => outPred h.a.toNat (decide (xs.getD 0 0 ≠ 0))) s

/-- R257: `vlea`. -/
def execVlea (h : Head) (g : GExt) (s : State) : Host.Outcome State Fault Refusal :=
  laneAlu (.vlea h g) (fun _ _ xs => outRun 2 (leaOp (gT g) (xs.getD 0 0) (xs.getD 1 0)) .untyped) s

/-- R160, R258, R311: the index that a selector names for lane `l` of a wave of group `g`. -/
def indexVal (g : Group) (v : Wave) (l sel : Nat) : Nat :=
  let k := g.kernel
  let t := 32 * v.index + l
  match sel with
  | 0 => l
  | 1 => v.index
  | 2 => t % k.gx
  | 3 => t / k.gx % k.gy
  | 4 => t / (k.gx * k.gy)
  | 5 => t
  | 6 => g.coord.1
  | 7 => g.coord.2.1
  | 8 => g.coord.2.2
  | 9 => g.stage
  | 10 => k.gx
  | 11 => k.gy
  | 12 => k.gz
  | 13 => g.extent.1
  | 14 => g.extent.2.1
  | 15 => g.extent.2.2
  | _ => (k.gx * k.gy * k.gz + 31) / 32

/-- R258: `vidx`. -/
def execVidx (h : Head) (e : IExt) (s : State) : Host.Outcome State Fault Refusal :=
  laneAlu (.vidx h e) (fun v l _ => outReg (indexVal (gp s v.group) v l e.sub.toNat) .untyped) s

end Sys2Proof.Machine
end

