-- ==== Sys2Proof/Machine/Transcend.lean ====
section
/-! DEFINITION. The transcendental operations (R265). Each result is enclosed between two values; where both round alike
that is the exact value's rounding, since the value between them is irrational, and where they do not the bits are a
free constant (log 10). -/

namespace Sys2Proof.Machine

/-- Fraction bits of the fixed-point enclosures. -/
def fxBits : Nat := 256
/-- ln 2 scaled by 2^256, rounded down. -/
def fxLn2 : Nat := 80260960185991308862233904206310070533990667611589946606122867505419956976171
/-- pi scaled by 2^256, rounded down. -/
def fxPi : Nat := 363771576891766324280234942777729862653393377328392429958772151117938894466185
/-- A product of two scaled numbers, rounded down. -/
def fxMul (a b : Nat) : Nat := (a * b) >>> fxBits

/-- A value strictly between lo * 2^e and hi * 2^e, rounded where that is decided. `op` and `x` name the free constant. -/
def between (f : Fmt) (c : Rnd) (op x : Nat) (neg : Bool) (lo hi : Nat) (e : Int) : FRes :=
  let a := roundNum f c neg (2 * lo + 1) (e - 1)
  let b := roundNum f c neg (2 * hi - 1) (e - 1)
  if a = b then a else { bits := Config.transcendental op c.mode x, raised := fNx }

/-- A number that names an operand for `Config.transcendental`. -/
def valKey (neg : Bool) (m : Nat) (e : Int) : Nat := (m * 4096 + (e + 2048).toNat) * 2 + b2n neg

/-- R265: `vrcp`. -/
def rcpF (f : Fmt) (c : Rnd) (x : Val) : FRes :=
  let (y, w) := divV (.num false 1 0) x
  let r := roundTo f c y
  { r with raised := r.raised ||| w }

/-- R265: `vrsq`. -/
def rsqF (f : Fmt) (c : Rnd) (x : Val) : FRes :=
  match x with
  | .nan _ => { bits := f.nanBits, raised := sigFlag [x] }
  | .inf b => if b then { bits := f.nanBits, raised := fIv } else { bits := 0, raised := 0 }
  | .num b m e =>
    if m = 0 then { bits := f.infBits b, raised := fDz }
    else if b then { bits := f.nanBits, raised := fIv }
    else
      let k := 2 * guardBits + m.log2 + 1
      let k := if (e + k) % 2 = 0 then k else k + 1
      let r := isqrt (2 ^ k / m)
      roundNum f c false (2 * r + b2n (decide (r * r * m ≠ 2 ^ k))) ((-e - k) / 2 - 1)

/-- The Taylor sum of e^x for a scaled x below 1, `n` terms left, from the term `t` numbered `k`. -/
def expSum (x : Nat) : Nat → Nat → Nat → Nat
  | 0, _, _ => 0
  | n + 1, k, t => t + expSum x n (k + 1) (fxMul t x / (k + 1))

/-- R265: `vexp2`. -/
def exp2F (f : Fmt) (c : Rnd) (x : Val) : FRes :=
  match x with
  | .nan _ => { bits := f.nanBits, raised := sigFlag [x] }
  | .inf b => { bits := if b then 0 else f.infBits false, raised := 0 }
  | .num b m e =>
    if m = 0 then roundNum f c false 1 0
    else if 20 < (m.log2 : Int) + e then roundNum f c false 1 (if b then -20000 else 20000)
    else if 0 ≤ e then roundNum f c false 1 ((if b then -1 else 1) * (m <<< e.toNat : Nat))
    else
      let j := (-e).toNat
      let r := m % 2 ^ j
      let q := m / 2 ^ j
      if r = 0 then roundNum f c false 1 ((if b then -1 else 1) * (q : Int)) else
      let n : Int := if b then -(q : Int) - 1 else q
      let fr := if b then 2 ^ j - r else r
      let t := if j ≤ fxBits then fr <<< (fxBits - j) else fr >>> (j - fxBits)
      let y := expSum (fxMul t fxLn2) 70 0 (2 ^ fxBits)
      between f c 1 (valKey b m e) false (max (2 ^ fxBits) (y - 256)) (min (2 ^ (fxBits + 1)) (y + 256)) (n - fxBits)

/-- The sum of z^(2k+1)/(2k+1), `n` terms left, from the power `t` numbered `k`. -/
def atanhSum (z2 : Nat) : Nat → Nat → Nat → Nat
  | 0, _, _ => 0
  | n + 1, k, t => t / (2 * k + 1) + atanhSum z2 n (k + 1) (fxMul t z2)

/-- R265: `vlog2`. -/
def log2F (f : Fmt) (c : Rnd) (x : Val) : FRes :=
  match x with
  | .nan _ => { bits := f.nanBits, raised := sigFlag [x] }
  | .inf b => if b then { bits := f.nanBits, raised := fIv } else { bits := f.infBits false, raised := 0 }
  | .num b m e =>
    if m = 0 then { bits := f.infBits true, raised := fDz }
    else if b then { bits := f.nanBits, raised := fIv }
    else
      let l := m.log2
      if m = 2 ^ l then roundTo f c (ofInt (e + l)) else
      let z := ((m - 2 ^ l) <<< fxBits) / (m + 2 ^ l)
      let a := 2 * atanhSum (fxMul z z) 90 0 z
      let y : Int := (e + l) * (2 ^ fxBits : Nat) + ((a <<< fxBits) / fxLn2 : Nat)
      let lo := if 0 ≤ y then y.toNat - 1024 else (-y).toNat - 1024
      let hi := if 0 ≤ y then y.toNat + 1024 else (-y).toNat + 1024
      between f c 2 (valKey b m e) (decide (y < 0)) lo hi (-(fxBits : Int))

/-- The alternating sum of x^(2k)/(2k+1)! for a scaled x^2, `n` terms left. -/
def sincSum (x2 : Nat) : Nat → Nat → Int → Int
  | 0, _, _ => 0
  | n + 1, k, t => t + sincSum x2 n (k + 1) (-(t * x2 / (2 ^ fxBits : Nat)) / ((2 * k + 2) * (2 * k + 3) : Nat))

/-- sin(pi * r / 2^j) for 0 < r < 2^(j-1), rounded with sign `neg`. -/
def sinQuarter (f : Fmt) (c : Rnd) (op key : Nat) (neg : Bool) (r j : Nat) : FRes :=
  let t := if j ≤ fxBits then r <<< (fxBits - j) else r >>> (j - fxBits)
  let a := fxMul fxPi t
  let y := (sincSum (fxMul a a) 60 0 (2 ^ fxBits : Nat)).toNat
  let lo := fxPi * r * (y - 1024)
  let hi := (fxPi + 1) * r * (y + 1024)
  between f c op key neg lo (min hi (2 ^ (2 * fxBits + j))) (-(2 * fxBits : Nat) - (j : Int))

/-- sin(pi * r / 2^j) for a residue r below 2^(j+1), not an integer multiple of pi; `neg` is the operand's sign. -/
def sinRes (f : Fmt) (c : Rnd) (op key : Nat) (neg : Bool) (r j : Nat) : FRes :=
  let neg := neg != decide (2 ^ j ≤ r)
  let r := r % 2 ^ j
  let r := if 2 ^ j < 2 * r then 2 ^ j - r else r
  if 2 * r = 2 ^ j then roundNum f c neg 1 0 else sinQuarter f c op key neg r j

/-- R265: `vsinp`. -/
def sinpF (f : Fmt) (c : Rnd) (x : Val) : FRes :=
  match x with
  | .nan _ => { bits := f.nanBits, raised := sigFlag [x] }
  | .inf _ => { bits := f.nanBits, raised := fIv }
  | .num b m e =>
    if 0 ≤ e ∨ m % 2 ^ (-e).toNat = 0 then { bits := b2n b * 2 ^ (f.eb + f.mb), raised := 0 }
    else sinRes f c 3 (valKey b m e) b (m % 2 ^ ((-e).toNat + 1)) (-e).toNat

/-- R265: `vcosp`, as the sine of the operand's magnitude and a half. -/
def cospF (f : Fmt) (c : Rnd) (x : Val) : FRes :=
  match x with
  | .nan _ => { bits := f.nanBits, raised := sigFlag [x] }
  | .inf _ => { bits := f.nanBits, raised := fIv }
  | .num _ m e =>
    if 0 ≤ e then roundNum f c (decide (e = 0 ∧ m % 2 = 1)) 1 0
    else
      let j := (-e).toNat
      let r := (m + 2 ^ (j - 1)) % 2 ^ (j + 1)
      if r % 2 ^ j = 0 then { bits := 0, raised := 0 } else sinRes f c 4 (valKey false m e) false r j

end Sys2Proof.Machine
end

