-- ==== Sys2Proof/Machine/LaneFloat.lean ====
section
/-! DEFINITION. Floating-point, narrow-format and conversion instructions of the lanes (spec/11, R259 to R273). -/

namespace Sys2Proof.Machine

open Sys2Proof.Machine.State

/-- R224: the format of an operand type. -/
def fmtOf (t : Nat) : Fmt := match t with | 0 => F32 | 1 => F64 | 2 => F16 | _ => BF16
/-- The elements of a type. -/
def fpN (t : Nat) : Nat := if t = 2 ∨ t = 3 then 2 else 1
/-- R206: the tag of a type. -/
def fpTag (t : Nat) : Tag := match t with | 0 => .f32 | 1 => .f64 | 2 => .f16x2 | _ => .bf16x2

/-- R210, R211: the rounding of an instruction in a lane and element; `free` numbers the generator's draws. -/
def rndOf (v : Wave) (rm : BitVec 3) (sat : Bool) (free lane elem : Nat) : Rnd :=
  { mode := rmode v rm, sat := sat, den := den v,
    seed := if v.fmode.getLsbD 8 then some (v.fmode.toNat / 2 ^ 17) else none, free := free, lane := lane, elem := elem }

/-- Free draws used by an instruction that rounds stochastically without a seed (log 12): one place for each lane and
element. -/
def bumpDraws (rm : BitVec 3) (s : State) (o : Host.Outcome State Fault Refusal) : Host.Outcome State Fault Refusal :=
  let v := wv s s.cur.wave
  match o with
  | .next t => .next (if rmode v rm = 5 ∧ !v.fmode.getLsbD 8 then { t with draws := t.draws + 1024 } else t)
  | o => o

/-- A lane result packed from `n` elements of `w` bits. -/
def packF (w n regs : Nat) (t : Tag) (f : Nat → FRes) : LaneOut :=
  { outRun regs (pack w n fun k => (f k).bits) t with
    raised := (List.range n).foldl (fun x k => x ||| (f k).raised) 0 }

/-- R259: a floating-point instruction computed element by element; `f` gets the format, DEN, the rounding and the bits of
each operand's element. -/
def fpAlu (i : Instr) (g : GExt) (f : Fmt → Rnd → List Nat → FRes) (s : State) : Host.Outcome State Fault Refusal :=
  let t := gT g
  let w := (fmtOf t).width
  bumpDraws g.rm s (laneAlu i (fun v l xs =>
    packF w (fpN t) (wide t) (fpTag t) fun k =>
      f (fmtOf t) (rndOf v g.rm g.sat s.draws l k) (xs.map fun x => bits x (w * k + w - 1) (w * k))) s)

/-- Operand `k` of an element as a value, under DEN (R213). -/
def opnd (f : Fmt) (c : Rnd) (xs : List Nat) (k : Nat) : Val := readVal f c.den (xs.getD k 0)
/-- An exact result with its own flags, rounded. -/
def finish (f : Fmt) (c : Rnd) (r : Val × Word) : FRes :=
  let y := roundTo f c r.1
  { y with raised := y.raised ||| r.2 }

def fAdd (f : Fmt) (c : Rnd) (xs : List Nat) : FRes :=
  finish f c (addV (decide (c.mode = 4)) (opnd f c xs 0) (opnd f c xs 1))
def fSub (f : Fmt) (c : Rnd) (xs : List Nat) : FRes :=
  finish f c (addV (decide (c.mode = 4)) (opnd f c xs 0) (negV (opnd f c xs 1)))
def fMul (f : Fmt) (c : Rnd) (xs : List Nat) : FRes := finish f c (mulV (opnd f c xs 0) (opnd f c xs 1))
def fFma (f : Fmt) (c : Rnd) (xs : List Nat) : FRes :=
  finish f c (fmaV (decide (c.mode = 4)) (opnd f c xs 0) (opnd f c xs 1) (opnd f c xs 2))
def fDiv (f : Fmt) (c : Rnd) (xs : List Nat) : FRes := finish f c (divV (opnd f c xs 0) (opnd f c xs 1))
def fMinMax (hi : Bool) (f : Fmt) (c : Rnd) (xs : List Nat) : FRes := minmax f hi c.den (xs.getD 0 0) (xs.getD 1 0)
def fSqrt (f : Fmt) (c : Rnd) (xs : List Nat) : FRes := finish f c (sqrtV (opnd f c xs 0))
def fRnd (f : Fmt) (c : Rnd) (xs : List Nat) : FRes := frnd f c (opnd f c xs 0)
def fFract (f : Fmt) (c : Rnd) (xs : List Nat) : FRes := fract f c (opnd f c xs 0)
def fRcp (f : Fmt) (c : Rnd) (xs : List Nat) : FRes := rcpF f c (opnd f c xs 0)
def fRsq (f : Fmt) (c : Rnd) (xs : List Nat) : FRes := rsqF f c (opnd f c xs 0)
def fExp2 (f : Fmt) (c : Rnd) (xs : List Nat) : FRes := exp2F f c (opnd f c xs 0)
def fLog2 (f : Fmt) (c : Rnd) (xs : List Nat) : FRes := log2F f c (opnd f c xs 0)
def fSinp (f : Fmt) (c : Rnd) (xs : List Nat) : FRes := sinpF f c (opnd f c xs 0)
def fCosp (f : Fmt) (c : Rnd) (xs : List Nat) : FRes := cospF f c (opnd f c xs 0)


/-- R260: `vfadd`, b + c. -/
def execVfadd (h : Head) (g : GExt) (s : State) : Host.Outcome State Fault Refusal :=
  fpAlu (.vfadd h g) g fAdd s

/-- R222: the short form of `vfadd`. -/
def execVfaddShort (h : Head) (s : State) : Host.Outcome State Fault Refusal :=
  fpAlu (.vfaddShort h) (shortG h.b) fAdd s

/-- R260: `vfsub`, b - c. -/
def execVfsub (h : Head) (g : GExt) (s : State) : Host.Outcome State Fault Refusal :=
  fpAlu (.vfsub h g) g fSub s

/-- R222: the short form of `vfsub`. -/
def execVfsubShort (h : Head) (s : State) : Host.Outcome State Fault Refusal :=
  fpAlu (.vfsubShort h) (shortG h.b) fSub s

/-- R260: `vfmul`, b * c. -/
def execVfmul (h : Head) (g : GExt) (s : State) : Host.Outcome State Fault Refusal :=
  fpAlu (.vfmul h g) g fMul s

/-- R222: the short form of `vfmul`. -/
def execVfmulShort (h : Head) (s : State) : Host.Outcome State Fault Refusal :=
  fpAlu (.vfmulShort h) (shortG h.b) fMul s

/-- R260: `vfdiv`, b / c. -/
def execVfdiv (h : Head) (g : GExt) (s : State) : Host.Outcome State Fault Refusal :=
  fpAlu (.vfdiv h g) g fDiv s

/-- R222: the short form of `vfdiv`. -/
def execVfdivShort (h : Head) (s : State) : Host.Outcome State Fault Refusal :=
  fpAlu (.vfdivShort h) (shortG h.b) fDiv s

/-- R261: `vfmin`, the lesser operand. -/
def execVfmin (h : Head) (g : GExt) (s : State) : Host.Outcome State Fault Refusal :=
  fpAlu (.vfmin h g) g (fMinMax false) s

/-- R222: the short form of `vfmin`. -/
def execVfminShort (h : Head) (s : State) : Host.Outcome State Fault Refusal :=
  fpAlu (.vfminShort h) (shortG h.b) (fMinMax false) s

/-- R261: `vfmax`, the greater operand. -/
def execVfmax (h : Head) (g : GExt) (s : State) : Host.Outcome State Fault Refusal :=
  fpAlu (.vfmax h g) g (fMinMax true) s

/-- R222: the short form of `vfmax`. -/
def execVfmaxShort (h : Head) (s : State) : Host.Outcome State Fault Refusal :=
  fpAlu (.vfmaxShort h) (shortG h.b) (fMinMax true) s

/-- R260: `vsqrt`, the square root. -/
def execVsqrt (h : Head) (g : GExt) (s : State) : Host.Outcome State Fault Refusal :=
  fpAlu (.vsqrt h g) g fSqrt s

/-- R222: the short form of `vsqrt`. -/
def execVsqrtShort (h : Head) (s : State) : Host.Outcome State Fault Refusal :=
  fpAlu (.vsqrtShort h) (shortG h.b) fSqrt s

/-- R264: `vfrnd`, rounded to an integer. -/
def execVfrnd (h : Head) (g : GExt) (s : State) : Host.Outcome State Fault Refusal :=
  fpAlu (.vfrnd h g) g fRnd s

/-- R222: the short form of `vfrnd`. -/
def execVfrndShort (h : Head) (s : State) : Host.Outcome State Fault Refusal :=
  fpAlu (.vfrndShort h) (shortG h.b) fRnd s

/-- R264: `vfract`, the fraction. -/
def execVfract (h : Head) (g : GExt) (s : State) : Host.Outcome State Fault Refusal :=
  fpAlu (.vfract h g) g fFract s

/-- R222: the short form of `vfract`. -/
def execVfractShort (h : Head) (s : State) : Host.Outcome State Fault Refusal :=
  fpAlu (.vfractShort h) (shortG h.b) fFract s

/-- R265: `vrcp`, 1 / b. -/
def execVrcp (h : Head) (g : GExt) (s : State) : Host.Outcome State Fault Refusal :=
  fpAlu (.vrcp h g) g fRcp s

/-- R222: the short form of `vrcp`. -/
def execVrcpShort (h : Head) (s : State) : Host.Outcome State Fault Refusal :=
  fpAlu (.vrcpShort h) (shortG h.b) fRcp s

/-- R265: `vrsq`, 1 / sqrt b. -/
def execVrsq (h : Head) (g : GExt) (s : State) : Host.Outcome State Fault Refusal :=
  fpAlu (.vrsq h g) g fRsq s

/-- R222: the short form of `vrsq`. -/
def execVrsqShort (h : Head) (s : State) : Host.Outcome State Fault Refusal :=
  fpAlu (.vrsqShort h) (shortG h.b) fRsq s

/-- R265: `vexp2`, 2 ^ b. -/
def execVexp2 (h : Head) (g : GExt) (s : State) : Host.Outcome State Fault Refusal :=
  fpAlu (.vexp2 h g) g fExp2 s

/-- R222: the short form of `vexp2`. -/
def execVexp2Short (h : Head) (s : State) : Host.Outcome State Fault Refusal :=
  fpAlu (.vexp2Short h) (shortG h.b) fExp2 s

/-- R265: `vlog2`, log2 b. -/
def execVlog2 (h : Head) (g : GExt) (s : State) : Host.Outcome State Fault Refusal :=
  fpAlu (.vlog2 h g) g fLog2 s

/-- R222: the short form of `vlog2`. -/
def execVlog2Short (h : Head) (s : State) : Host.Outcome State Fault Refusal :=
  fpAlu (.vlog2Short h) (shortG h.b) fLog2 s

/-- R265: `vsinp`, sin(pi b). -/
def execVsinp (h : Head) (g : GExt) (s : State) : Host.Outcome State Fault Refusal :=
  fpAlu (.vsinp h g) g fSinp s

/-- R222: the short form of `vsinp`. -/
def execVsinpShort (h : Head) (s : State) : Host.Outcome State Fault Refusal :=
  fpAlu (.vsinpShort h) (shortG h.b) fSinp s

/-- R265: `vcosp`, cos(pi b). -/
def execVcosp (h : Head) (g : GExt) (s : State) : Host.Outcome State Fault Refusal :=
  fpAlu (.vcosp h g) g fCosp s

/-- R222: the short form of `vcosp`. -/
def execVcospShort (h : Head) (s : State) : Host.Outcome State Fault Refusal :=
  fpAlu (.vcospShort h) (shortG h.b) fCosp s

/-- R260: `vfma`, one rounding. -/
def execVfma (h : Head) (g : GExt) (s : State) : Host.Outcome State Fault Refusal :=
  fpAlu (.vfma h g) g fFma s

/-- R262: the relation of `vfcmp`, with the flag it raises. -/
def fcmpOp (rel : Nat) (b c : Val) : Bool × Word :=
  let un := isNan b || isNan c
  let lt := ltV b c && !eqV b c
  let r := match rel with
    | 0 => !un && eqV b c
    | 1 => un || !eqV b c
    | 2 => !un && lt
    | 3 => !un && (lt || eqV b c)
    | 4 => !un && !(lt || eqV b c)
    | 5 => !un && !lt
    | 6 => un
    | _ => !un
  (r, if (2 ≤ rel ∧ rel ≤ 5 ∧ un) then fIv else sigFlag [b, c])

/-- R262: `vfcmp`. -/
def execVfcmp (h : Head) (g : GExt) (s : State) : Host.Outcome State Fault Refusal :=
  laneAlu (.vfcmp h g) (fun v l xs =>
    let f := fmtOf (gT g % 4)
    let (r, fl) := fcmpOp (gT g / 4) (readVal f (den v) (xs.getD 0 0)) (readVal f (den v) (xs.getD 1 0))
    { outPred h.a.toNat (combine g.e.toNat r (pred v l (g.e.toNat % 8))) with raised := fl }) s

/-- R263: `vfclass`. -/
def execVfclass (h : Head) (g : GExt) (s : State) : Host.Outcome State Fault Refusal :=
  laneAlu (.vfclass h g) (fun _ _ xs =>
    let f := fmtOf (gT g)
    outReg (pack 16 (fpN (gT g)) fun k => classOf f (bits (xs.getD 0 0) (f.width * k + f.width - 1) (f.width * k)))
      .untyped) s

/-- R266: a packed FP8 operation. -/
def fp8Alu (i : Instr) (g : GExt) (f : Fmt → Rnd → List Nat → FRes) (s : State) : Host.Outcome State Fault Refusal :=
  let fm := if gT g = 0 then E4M3 else E5M2
  let t := if gT g = 0 then Tag.e4m3x4 else Tag.e5m2x4
  bumpDraws g.rm s (laneAlu i (fun v l xs =>
    packF 8 4 1 t fun k => f fm (rndOf v g.rm g.sat s.draws l k) (xs.map fun x => bits x (8 * k + 7) (8 * k))) s)

/-- R266: `vpfma`. -/
def execVpfma (h : Head) (g : GExt) (s : State) : Host.Outcome State Fault Refusal := fp8Alu (.vpfma h g) g fFma s
/-- R266: `vpfadd`. -/
def execVpfadd (h : Head) (g : GExt) (s : State) : Host.Outcome State Fault Refusal := fp8Alu (.vpfadd h g) g fAdd s
/-- R266: `vpfmul`. -/
def execVpfmul (h : Head) (g : GExt) (s : State) : Host.Outcome State Fault Refusal := fp8Alu (.vpfmul h g) g fMul s

/-- R201, R214: a conversion between formats; `exact` carries infinities whatever SAT holds. -/
def cvtF (src dst : Fmt) (exact : Bool) (c : Rnd) (x : Nat) : FRes :=
  let v := readVal src c.den x
  let y := if exact then roundTo dst { c with sat := false } v else roundCvt dst c v
  { y with raised := y.raised ||| sigFlag [v] }

/-- A float converted to an integer (R215). -/
def cvtI (src : Fmt) (w : Nat) (uns : Bool) (c : Rnd) (x : Nat) : FRes :=
  let v := readVal src c.den x
  let y := toInt w uns c v
  { y with raised := y.raised ||| sigFlag [v] }

/-- One register or pair result of a conversion. -/
def cvtOut (n : Nat) (t : Tag) (r : FRes) : LaneOut := { outRun n r.bits t with raised := r.raised }

/-- R267: `vcvt` by its code. -/
def cvtOp (t : Nat) (c : Nat → Rnd) (x : Nat) : LaneOut :=
  let c0 := c 0
  match t with
  | 0 => cvtOut 1 .untyped (cvtI F32 32 false c0 x)
  | 1 => cvtOut 1 .untyped (cvtI F32 32 true c0 x)
  | 2 => cvtOut 1 .f32 (roundTo F32 c0 (ofInt (sext 32 x)))
  | 3 => cvtOut 1 .f32 (roundTo F32 c0 (ofInt x))
  | 4 => cvtOut 1 .f32 (cvtF F64 F32 false c0 x)
  | 5 => cvtOut 2 .f64 (cvtF F32 F64 true c0 x)
  | 6 => cvtOut 1 .untyped (cvtI F64 32 false c0 x)
  | 7 => cvtOut 2 .f64 (roundTo F64 c0 (ofInt (sext 32 x)))
  | 8 => cvtOut 2 .untyped (cvtI F64 64 false c0 x)
  | 9 => cvtOut 2 .f64 (roundTo F64 c0 (ofInt (sext 64 x)))
  | 10 => packF 16 2 1 .bf16x2 fun k => cvtF F16 BF16 false (c k) (bits x (16 * k + 15) (16 * k))
  | 11 => packF 16 2 1 .f16x2 fun k => cvtF BF16 F16 false (c k) (bits x (16 * k + 15) (16 * k))
  | 12 => packF 8 4 1 .e5m2x4 fun k => cvtF E4M3 E5M2 false (c k) (bits x (8 * k + 7) (8 * k))
  | _ => packF 8 4 1 .e4m3x4 fun k => cvtF E5M2 E4M3 false (c k) (bits x (8 * k + 7) (8 * k))

/-- R267: `vcvt`. -/
def execVcvt (h : Head) (g : GExt) (s : State) : Host.Outcome State Fault Refusal :=
  bumpDraws g.rm s (laneAlu (.vcvt h g) (fun v l xs =>
    cvtOp (gT g) (fun k => rndOf v g.rm g.sat s.draws l k) (xs.getD 0 0)) s)

/-- R268: `vpack` of two words by its code; the byte forms keep the half of `old` that they do not write. -/
def packOp (t : Nat) (r : Nat → Rnd) (b c old : Nat) : LaneOut :=
  let half := fun (f : Fmt) (u : Tag) =>
    packF 16 2 1 u fun k => cvtF F32 f false (r k) (if k = 0 then b else c)
  let byte := fun (u : Tag) (cv : Rnd → Nat → FRes) =>
    packF 8 4 1 u fun k =>
      if k / 2 = b2n (bit t 3) then cv (r k) (if k % 2 = 0 then b else c)
      else { bits := bits old (8 * k + 7) (8 * k), raised := 0 }
  match t % 8 with
  | 0 => half F16 .f16x2
  | 1 => half BF16 .bf16x2
  | 2 => byte .e4m3x4 (cvtF F32 E4M3 false)
  | 3 => byte .e5m2x4 (cvtF F32 E5M2 false)
  | _ => byte .i8x4 fun _ x => { bits := wrap 8 (clamp (-128) 127 (sext 32 x)), raised := 0 }

/-- R268: `vpack`. -/
def execVpack (h : Head) (g : GExt) (s : State) : Host.Outcome State Fault Refusal :=
  bumpDraws g.rm s (laneAlu (.vpack h g) (fun v l xs =>
    packOp (gT g) (fun k => rndOf v g.rm g.sat s.draws l k) (xs.getD 0 0) (xs.getD 1 0) (xs.getD 2 0)) s)

/-- R269: `vunpk` of element `i` of `x` by its code, with the scale byte `e` of an I4E run; `FERR` is raised where the run holds an
escape with no room. -/
def unpkOp (t : Nat) (c : Rnd) (x i e : Nat) : LaneOut :=
  let one := fun (f : Fmt) (n : Nat) =>
    cvtOut 1 .f32 (cvtF f F32 true c (bits x (f.width * (i % n) + f.width - 1) (f.width * (i % n))))
  match t with
  | 0 => one F16 2
  | 1 => one BF16 2
  | 2 => one E4M3 4
  | 3 => one E5M2 4
  | 4 => outReg (wrap 32 (sext 8 (bits x (8 * (i % 4) + 7) (8 * (i % 4))))) .untyped
  | _ =>
    let (els, err) := i4eRun x
    let y := roundTo F32 c (scaleV (e % 256) (els.getD (i % 16) (.num false 0 0)))
    { outReg y.bits .f32 with raised := y.raised ||| (if err then fFerr else 0) }

/-- R269: `vunpk`. -/
def execVunpk (h : Head) (g : GExt) (s : State) : Host.Outcome State Fault Refusal :=
  laneAlu (.vunpk h g) (fun v l xs =>
    unpkOp (gT g) { rndOf v 1 false 0 l 0 with sat := false } (xs.getD 0 0) (xs.getD 1 0) (xs.getD 2 0)) s

/-- R270: the elements of `x` multiplied by the block scale that T[4:3] picks from `scales`, each rounded. -/
def sclOp (t : Nat) (r : Nat → Rnd) (x scales : Nat) : LaneOut :=
  let f := fmtOf (t % 8)
  let e := bits scales (8 * (t / 8) + 7) (8 * (t / 8))
  packF f.width (fpN (t % 8)) 1 (fpTag (t % 8)) fun k =>
    let z := readVal f (r k).den (bits x (f.width * k + f.width - 1) (f.width * k))
    let y := roundCvt f (r k) (scaleV e z)
    { y with raised := y.raised ||| sigFlag [z] }

/-- R270: `vscl`. -/
def execVscl (h : Head) (g : GExt) (s : State) : Host.Outcome State Fault Refusal :=
  bumpDraws g.rm s (laneAlu (.vscl h g) (fun v l xs =>
    sclOp (gT g) (fun k => rndOf v g.rm g.sat s.draws l k) (xs.getD 0 0) (xs.getD 1 0)) s)

/-- R271: an integer dot product of `n` elements of `w` bits. -/
def dotOp (g : GExt) (w n b c e : Nat) : Nat :=
  let t := gT g
  let el := fun (uns : Bool) (x k : Nat) =>
    let y := bits x (w * k + w - 1) (w * k)
    if uns then (y : Int) else sext w y
  let sum := (List.range n).foldl (fun z k => z + el (bit t 0) b k * el (bit t 1) c k) (0 : Int)
  let u := decide (t = 3)
  narrow 32 u g.sat (sum + (if u then (e : Int) else sext 32 e))

/-- R271: `vdot4`. -/
def execVdot4 (h : Head) (g : GExt) (s : State) : Host.Outcome State Fault Refusal :=
  laneAlu (.vdot4 h g) (fun _ _ xs => outReg (dotOp g 8 4 (xs.getD 0 0) (xs.getD 1 0) (xs.getD 2 0)) .untyped) s
/-- R271: `vdot8`. -/
def execVdot8 (h : Head) (g : GExt) (s : State) : Host.Outcome State Fault Refusal :=
  laneAlu (.vdot8 h g) (fun _ _ xs => outReg (dotOp g 4 8 (xs.getD 0 0) (xs.getD 1 0) (xs.getD 2 0)) .untyped) s

/-- R272: the dot product of the two elements of `b` and `c` plus `a`, rounded once to FP32. -/
def fdot2Op (t : Nat) (c : Rnd) (b d a : Nat) : LaneOut :=
  let f := fmtOf t
  let rdn := decide (c.mode = 4)
  let el := fun (x k : Nat) => readVal f c.den (bits x (16 * k + 15) (16 * k))
  let (p, i) := mulV (el b 0) (el d 0)
  let (q, j) := mulV (el b 1) (el d 1)
  let (r, k) := addV rdn p q
  let (z, n) := addV rdn r (readVal F32 c.den a)
  let y := roundTo F32 c z
  { outReg y.bits .f32 with raised := y.raised ||| i ||| j ||| k ||| n }

/-- R272: `vfdot2`. -/
def execVfdot2 (h : Head) (g : GExt) (s : State) : Host.Outcome State Fault Refusal :=
  bumpDraws g.rm s (laneAlu (.vfdot2 h g) (fun v l xs =>
    fdot2Op (gT g) (rndOf v g.rm g.sat s.draws l 0) (xs.getD 0 0) (xs.getD 1 0) (xs.getD 2 0)) s)

/-- R206: the tag of a code. -/
def tagOfCode (k : Nat) : Tag :=
  match k with
  | 1 => .f32 | 2 => .f16x2 | 3 => .bf16x2 | 4 => .f64 | 5 => .e4m3x4 | 6 => .e5m2x4 | 7 => .i8x4 | 8 => .i4ex8
  | 9 => .e8m0x4 | _ => .untyped
/-- R206: the code of a tag. -/
def tagCode (t : Tag) : Nat :=
  match t with
  | .untyped => 0 | .f32 => 1 | .f16x2 => 2 | .bf16x2 => 3 | .f64 => 4 | .e4m3x4 => 5 | .e5m2x4 => 6 | .i8x4 => 7
  | .i4ex8 => 8 | .e8m0x4 => 9

/-- R273: `vftag`, a tag set or read. -/
def execVftag (h : Head) (g : GExt) (s : State) : Host.Outcome State Fault Refusal :=
  laneAlu (.vftag h g) (fun v l xs =>
    if gT g = 16 then outReg (tagCode (vreg v l h.b.toNat).tag) .untyped
    else outReg (xs.getD 0 0) (tagOfCode (gT g))) s

end Sys2Proof.Machine
end

