-- ==== Sys2Proof/Machine/Sched.lean ====
section
/-! DEFINITION. Instruction fetch, the candidates of a quadrant's cycle and its issue slots (spec/07, R166 to R169;
spec/08, R196, R198), and the passing of a cycle (R168, R323 to R325, R424). -/

namespace Sys2Proof.Machine

open Sys2Proof.Machine.State

/-! ### Fetch (R69: instructions are fetched through the core's L1 as class IF) -/

/-- R29: a run-ahead fetch at `va` by an agent of core `c`, filled by `fill` from its line and path. It never walks, classifies or faults, and
is dropped where its rules forbid it. `x` for instructions. -/
def aheadOf (s : State) (c ctx va : Nat) (x : Bool) (fill : State → Nat → Nat → LinePath → State) : State :=
  let asid := (cx s ctx).held.asid.toNat
  match (tlbFind (cr s c).tlb asid va).orElse fun _ => tlbFind (tget [] s.l2tlb (coreStack c)) asid va with
  | none => s
  | some e =>
    let pa := physOf s e .ld va
    let f := frameOf pa
    let path : Option LinePath := match e.kind, tget .untouched s.dir f with
      | .twin, _ => some .twin
      | .normal, .shared => some .shared
      | .normal, .privateTo d => if d = c then some .priv else none
      | _, _ => none
    match path with
    | none => s
    | some p =>
      if (x && !e.x) || recalling s f || decide (320 < slotsUsed s c) then s else
      let t := fill (takeSlot c s (lineOf pa)) c (lineOf pa) p
      if t.blocked.isSome then s else t

/-- R29: a run-ahead fetch of the line behind `va` into the L1 of core `c`: the manual does not say when the hardware fetches ahead, so a
free choice does (log 141). -/
def runAhead (s : State) (c ctx va : Nat) (x : Bool) : State :=
  let (n, s) := draw s
  if n % 2 = 0 then s else aheadOf s c ctx ((va / 128 + 1) * 128 % 2 ^ 64) x prefetchL1

/-- The launch of a group, if its context still holds it. -/
def launchOf (s : State) (g : Group) : Option Launch := (cx s g.ctx).launches.find? fun l => l.id = g.launch

/-- The launch under whose rules a launch's groups run: a task wave's is the one that posted it (R192). -/
def ruleLaunch (s : State) (l : Launch) : Launch :=
  if l.task then ((cx s l.ctx).launches.find? fun x => x.id = l.parent).getD l else l

/-- R232: a byte of a code page as a wave of the launch `id` may still find it: as it was before the first write since that launch was
accepted, or as it is. -/
def wasByte (s : State) (id pa : Nat) : Byte :=
  ((s.was.find? fun e => decide (e.1 = pa) && decide (id < e.2.1)).map fun e => e.2.2).getD (homeByte s pa)

/-- R232: a word of a code page that the current wave fetches: as it was before a write, as it is at its home, or as the core's L1 holds it,
`w`; chosen freely for each fetch where these differ. A launch accepted after the write fetches it as written. -/
def codeWord (s : State) (pa w : Nat) : State × Nat :=
  let id := ((launchOf s (gp s (wv s s.cur.wave).group)).map fun l => (ruleLaunch s l).id).getD 0
  let old := (List.range 4).foldl (fun x k => x + (wasByte s id (pa + k)).toNat * 2 ^ (8 * k)) 0
  let xs := [w, homeRead s pa 4, old].eraseDups
  if xs.length ≤ 1 then (s, w) else
  let (n, s) := draw s
  (s, xs.getD (n % xs.length) w)

/-- R69: the bytes of a sector that core `c` does not hold have had the time of the path that serves them, or need none, since every lane of
the group holds the instruction (`held`). -/
def fetchTimed (s : State) (c ctx va : Nat) (held : Bool) : Bool :=
  held || (cr s c).fetches.any fun f => decide (f.1 = ctx) && decide (f.2.1 = va / 32) && decide (f.2.2 ≤ cycAt s c)

/-- The sector of `pa` in reach of a fetch of core `c`, for a frame that is PRIVATE to it with its own bytes written. -/
def fetchReach (s : State) (c pa : Nat) (mine : Bool) : State :=
  let s := reach s (pa - pa % 32) 32 false c
  if mine then pullOwn c (lineOf pa) s else s

/-- One instruction word at `va` as core `c` fetches it for a context, or the status and class of its fault. A word that its L1 does not
hold waits for the path that serves it (R69), and its sector is filled. One that every lane holds (`held`) is no access of the L1 (R66). -/
def fetchWord (s : State) (c ctx va : Nat) (held : Bool) : State × Except (Nat × Nat) Nat :=
  match translate s (.core c) ctx .instrFetch false va 4 with
  | (s, .error st) => (s, .error (st, 7))
  | (s, .ok e) =>
    let pa := physOf s e .instrFetch va
    let line := lineOf pa
    let f := frameOf pa
    let s := classify s f (some c)
    let m := byteMask (pa % 128) 4
    match (l1Find (cr s c) line).filter fun x => decide ((x.valid &&& m) = m) && (tileOf s line).isNone with
    | some x =>
      let s := if held then s else modCr (countHit s c line true) c fun y => l1Put y x
      let (s, w) := codeWord s pa (dataBytes x.data (pa % 128) 4)
      (s, .ok w)
    | none =>
      if !(fetchTimed s c ctx va held) || noSlot s (.core c) pa 4 then (mustWait s, .ok 0) else
      let s := modCr (countHit s c line false) c fun y => { y with fetches := y.fetches.filter fun f => !(decide (f.1 = ctx) && decide (f.2.1 = va / 32)) }
      let mine := decide (tget .untouched s.dir f = .privateTo c)
      let s := fetchReach s c pa mine
      if s.poison.contains (pa / 32) then (s, .error (1, 12)) else
      let (s, w) := codeWord s pa (homeRead s pa 4)
      if (tileOf s line).isSome then (s, .ok w) else
      let own := (ownPending s c line).extractLsb' (pa % 128 / 32 * 32) 32
      let s := l1Install (stopFills s c fun l => l = line) c (pa - pa % 32) (if mine then .priv else .shared) (~~~own) (homeRead s (pa - pa % 32) 32)
      (runAhead s c ctx va true, .ok w)

/-- R69: a fetch that waits for words its core's L1 does not hold is under way: the first of the two words from `pc` whose sector has not been
asked for. -/
def beginFetch (s : State) (c ctx pc : Nat) : State :=
  let now := cycAt s c
  let old := (cr s c).fetches.filter fun f => decide (now ≤ f.2.2 + 1024)
  let asked := fun va : Nat => old.any fun f => decide (f.1 = ctx) && decide (f.2.1 = va / 32)
  let miss := fun va : Nat => match translate s (.core c) ctx .instrFetch false va 4 with
    | (t, .ok e) =>
      let pa := physOf t e .instrFetch va
      let m := byteMask (pa % 128) 4
      if t.blocked.isSome || (l1Find (cr t c) (lineOf pa)).any (fun (x : L1Line) => decide ((x.valid &&& m) = m)) then none else some pa
    | _ => none
  match [pc, (pc + 4) % 2 ^ 64].findSome? fun va => if asked va then none else (miss va).map fun pa => (va, pa) with
  | some (va, pa) => modCr s c fun y => { y with fetches := old ++ [(ctx, va / 32, now + missTime s c pa)] }
  | none => s

/-- R166: every lane of the group holds the instruction at its PC. -/
def groupHolds (s : State) : Bool := (lanesOf s.cur.lanes).all fun l => (ln (wv s s.cur.wave) l).loopBuf.contains s.cur.pc

/-- The instruction at the PC of the current PC group, none where fetching or decoding it raises a trap: a
precise control trap (R36) or an illegal instruction (R231), or the imprecise one of a poisoned sector (R381, R399). -/
def fetchCur (s : State) : State × Option Instr :=
  let k := s.cur
  let v := wv s k.wave
  let held := groupHolds s
  let failed := fun (s : State) (st cls pc h : Nat) =>
    let c := decide (cls = 7)
    raisePrecise s
      { cls := cls, code := st % 256, lmask := if c then k.lanes else 0, head := if c then BitVec.ofNat 32 h else 0, ext := 0
        data := if c then 0 else pc, status := st, causes := if c then (lanesOf k.lanes).map fun l => (l, st % 256, pc) else [] }
  let illegal := fun (s : State) (h e : Nat) => raisePrecise s
    { cls := 1, code := 0, lmask := k.lanes, head := BitVec.ofNat 32 h, ext := BitVec.ofNat 32 e, data := 0, status := 0,
      causes := [] }
  match fetchWord s v.core v.ctx k.pc held with
  | (s, .error (st, cls)) => (failed s st cls k.pc 0, none)
  | (s, .ok h) =>
    if hasExt (BitVec.ofNat 32 h) then
      match fetchWord s v.core v.ctx ((k.pc + 4) % 2 ^ 64) held with
      | (s, .error (st, cls)) => (failed s st cls ((k.pc + 4) % 2 ^ 64) h, none)
      | (s, .ok e) =>
        match decodeWords (BitVec.ofNat 32 h) (BitVec.ofNat 32 e) with
        | .ok i => (s, some i)
        | .error _ => (illegal s h e, none)
    else match decodeWords (BitVec.ofNat 32 h) 0 with
      | .ok i => (s, some i)
      | .error _ => (illegal s h 0, none)

/-! ### Candidates (R166, R167, R169, R196) -/

/-- The lanes of a wave that are awake at `pc`. -/
def lanesAt (v : Wave) (pc : Nat) : Lanes := lanesThat v fun x => awake x && decide (x.pc = pc)
/-- The PCs of a wave's PC groups. -/
def groupPcs (v : Wave) : List Nat := (v.lanes.filter awake).map fun x => x.pc
/-- The lowest of a list of PCs. -/
def lowest : List Nat → Option Nat
  | [] => none
  | a :: r => some (r.foldl min a)

/-- R169: the priority group ends when a lane of it sleeps or exits, or when it merges or diverges. -/
def settlePrio (v : Wave) : Wave :=
  match v.priority with
  | none => v
  | some (g, _) =>
    let pc := (ln v (firstLane g)).pc
    if lanesAt v pc = g then v else { v with priority := none }

/-- R167: the broadcast address; a wave waiting at a `yield` has no other group to issue (R394). -/
def broadcast (v : Wave) : Option Nat :=
  match v.holding with
  | some pc => some pc
  | none => match (settlePrio v).priority with
    | some (g, _) => some (ln v (firstLane g)).pc
    | none => lowest (groupPcs v)

/-- R167: the first candidate of wave `w`, and the second where its lanes hold their next instruction. -/
def waveCands (w : Nat) (v : Wave) : List (Issue × Bool) :=
  match broadcast v with
  | none => []
  | some pc =>
    let first : List (Issue × Bool) := if lanesAt v pc = 0 then [] else [({ wave := w, pc := pc, lanes := lanesAt v pc }, false)]
    if v.holding.isSome then first else
    match lowest ((groupPcs v).filter fun p => decide (pc < p)) with
    | none => first
    | some p =>
      let m := lanesAt v p
      if (lanesOf m).all fun l => (ln v l).loopBuf.contains p then first ++ [({ wave := w, pc := p, lanes := m }, true)]
      else first

/-- R382, R383, R394, R400: a wave that may issue at all. -/
def mayIssue (s : State) (v : Wave) : Bool :=
  v.live && !v.saved && !v.awaitBaton && v.trap.isNone && !v.faulting && !(cr s v.core).retired && !(cx s v.ctx).fenced

/-- R196: the place of a wave in its quadrant's ranking, as numbers compared in order. -/
def rankKey (s : State) (w : Nat) : List Nat :=
  let v := wv s w
  let l := (launchOf s (gp s v.group)).map (ruleLaunch s)
  [b2n (!v.starved), b2n (!((l.map (·.contract)).getD false)), 7 - (gp s v.group).prio, v.lastIssue, w]

/-- Lexicographic order. -/
def lexLt : List Nat → List Nat → Bool
  | a :: r, b :: t => decide (a < b) || (decide (a = b) && lexLt r t)
  | _, _ => false

/-- A list in the order of a key, by insertion. -/
def insertBy (f : Nat → List Nat) (a : Nat) : List Nat → List Nat
  | [] => [a]
  | b :: r => if lexLt (f a) (f b) then a :: b :: r else b :: insertBy f a r
def sortBy (f : Nat → List Nat) (l : List Nat) : List Nat := l.foldr (insertBy f) []

/-- The waves on a quadrant. -/
def quadWaves (s : State) (q : Nat) : List Nat := tkeys s.waves fun v => v.live && !v.saved && decide (quadKey v = q)

/-- The candidates of quadrant `q`'s cycle, in rank order. -/
def quadCands (s : State) (q : Nat) : List (Issue × Bool) :=
  (sortBy (rankKey s) ((quadWaves s q).filter fun w => mayIssue s (wv s w))).flatMap fun w => waveCands w (wv s w)

/-- The next quadrant of stack `k`, from key `q` on, that holds a wave. -/
def nextQuad (s : State) (k q : Nat) : Option Nat :=
  lowest ((s.waves.filter fun (e : Nat × Wave) =>
    e.2.live && !e.2.saved && decide (q ≤ quadKey e.2) && decide (quadKey e.2 < 256 * (k + 1))).map fun e => quadKey e.2)

/-- The schedule continues (log 4): the stacks take turns, each quadrant that holds a wave has its cycle, and then the
stack's `CYC` passes. `turn` is 257 * stack + the next quadrant. -/
def openTurn (s : State) : State :=
  let k := s.turn / 257
  match nextQuad s k (256 * k + s.turn % 257) with
  | some q =>
    { s with
      turn := 257 * k + q % 256 + 1, stalled := 0,
      moves := [.issue q (quadCands s q) 2 1 none] }
  | none => { s with turn := 257 * ((k + 1) % 6), moves := [.tick k] }

/-! ### One candidate -/

/-- R198: the cycle of a quadrant ends; if it issued nothing although a wave is not asleep, the failing condition is
counted. -/
def endQuad (s : State) (q : Nat) (issued : Bool) : State :=
  if issued || s.stalled = 0 || decide (7 < s.stalled) then s
  else modCr s (q / 4) fun c => { c with stalls := lmod c.stalls (s.stalled - 1) fun n => (n + 1) % 2 ^ 64 }

/-- The candidates after one attempt, with the slots left, or the end of the quadrant's cycle. -/
def pushRest (s : State) (q : Nat) (rest : List (Issue × Bool)) (lanes unis : Nat) (chosen : Option Nat) : State :=
  -- R167: once a wave is chosen, only its own second candidate and the first candidates of others may follow
  let rest := rest.filter fun x => !x.2 || decide (chosen = none) || decide (chosen = some x.1.wave)
  if rest.isEmpty || (lanes = 0 && unis = 0) then endQuad s q chosen.isSome
  else { s with moves := .issue q rest lanes unis chosen :: s.moves }

/-- What is left of a candidate's lanes: those still awake at its PC that have not issued in this cycle. -/
def candNow (s : State) (x : Issue) : Issue :=
  let v := wv s x.wave
  let now := cycAt s v.core
  { x with lanes := lanesWhere fun l =>
      inLanes x.lanes l && awake (ln v l) && decide ((ln v l).pc = x.pc) && decide ((ln v l).lastIssue ≠ now + 1) }

/-- The first candidate of an `issue` move made current and fetched: the instruction to attempt, or none where there is
nothing to attempt (or a trap was raised) and the move is done with. What holds it back before its word is known counts in no STALL
register (R198, log 163). -/
def attempt (s : State) (q : Nat) (cands : List (Issue × Bool)) (lanes unis : Nat) (chosen : Option Nat) : State × Option Instr :=
  match cands with
  | [] => (endQuad s q chosen.isSome, none)
  | (x, _) :: rest =>
    let x := candNow s x
    if x.lanes = 0 || !(mayIssue s (wv s x.wave)) then (pushRest s q rest lanes unis chosen, none) else
    let s := { s with cur := x }
    let t := fetchCur s
    if t.1.blocked.isSome then
      let v := wv s x.wave
      (pushRest (stall (beginFetch (orWait s t.1) v.core v.ctx x.pc) 8) q rest lanes unis chosen, none)
    else match t with
    | (s, none) => (pushRest (stall s 8) q rest lanes unis chosen, none)
    | (s, some i) =>
      if (if (specOf i).uni then unis else lanes) = 0 then (pushRest s q rest lanes unis chosen, none)
      else (s, some i)

/-- After an attempt of instruction `i` by core `c`, whose count of issued instructions was `before`. -/
def afterIssue (i : Instr) (q : Nat) (cands : List (Issue × Bool)) (lanes unis : Nat) (chosen : Option Nat) (w before : Nat) (s : State) :
    State :=
  let rest := cands.drop 1
  if (cr s (q / 4)).issued = before then
    pushRest (stall s 8) q rest lanes unis chosen
  else
    let u := (specOf i).uni
    pushRest s q rest (if u then lanes else lanes - 1) (if u then unis - 1 else unis) (some (chosen.getD w))

/-! ### The passing of a cycle -/

/-- R325: the guard slots of a wave whose values come due. -/
def settleGuards (v : Wave) (now : Nat) : Wave :=
  { v with guards := v.guards.map fun g => match g with
    | .known b => .known b
    | .pendQ b due => if due ≤ now then .known b else .pendQ b due
    | .pendS r due => .pendS r due }

/-- R177: a write of `CLAIMS.DLK` takes effect with the other writes of `ssetr`. -/
def claimsWrites (v : Wave) (now : Nat) : Bool :=
  v.pend.any fun p => decide (p.due ≤ now) && p.writes.sys.any fun x => decide (x.1 = 0x50) && x.2.getLsbD 24

/-- R168: what falls due in a wave when `CYC` becomes `now`; the wait of each lane's next instruction (R169). -/
def tickWave (s : State) (now w : Nat) : State :=
  let v := wv s w
  let s := if claimsWrites v now then
      modGp s v.group fun g => setPool g { poolOf g (quadKey v) with dlk := false }
    else s
  let due := v.pend.filter fun p => decide (p.due ≤ now)
  let v := due.foldl (fun v p => land false v p.writes) { v with pend := v.pend.filter fun p => !decide (p.due ≤ now) }
  let v := settlePrio (settleGuards v now)
  setWv s w { v with lanes := v.lanes.map fun x => if awake x then x else { x with since := now } }

/-- R424, R44: the periodic actions of stack `k` at a cycle. -/
def periodic (s : State) (k now : Nat) : List (Instr × List Nat) :=
  let at_ := fun p : Nat => decide (now % p = 0)
  let regions := (List.range 8).map fun g => 8 * k + g
  (if at_ 1024 then [(Instr.ebudFill, [k])] else []) ++
  (if at_ 8192 then regions.map (fun r => (Instr.regionSample, [r])) ++
    (List.range 64).map (fun c => (Instr.dieSensorSample, [64 * k + c])) else []) ++
  (if at_ 65536 then (List.range 32).map (fun p => (Instr.carveOut, [32 * k + p])) ++
    (if k = 0 then [(Instr.powerAverage, [])] else []) else []) ++
  (if k = 0 ∧ now % 2 ^ 20 = 0 then [(Instr.hsemLeaseTick, [])] else []) ++
  (regions.filter fun r => at_ (if (rgn s r).mode = .normal then 5070 else 2535)).map (fun r => (Instr.refreshStart, [r]))

/-- R196: whether the first candidate of wave `w` would issue now, as `run` performs instructions. -/
def issuable (run : Instr → State → Host.Outcome State Fault Refusal) (s : State) (w : Nat) : Bool :=
  let v := wv s w
  mayIssue s v && (match waveCands w v with
    | [] => false
    | (x, _) :: _ => match fetchCur { s with cur := x } with
      | (_, none) => false
      | (s, some i) => s.blocked.isNone && (match run i s with
        | .next t => decide ((cr t v.core).issued ≠ (cr s v.core).issued)
        | _ => false))

/-- R196: since when each wave that has not issued in this cycle has had an issuable first candidate; 0 for none. -/
def noteReady (run : Instr → State → Host.Outcome State Fault Refusal) (s : State) (w : Nat) : State :=
  let v := wv s w
  let now := cycAt s v.core
  if v.lastIssue = now then modWv s w fun v => { v with readySince := 0 }
  else if issuable run s w then modWv s w fun v => { v with readySince := if v.readySince = 0 then now + 1 else v.readySince }
  else modWv s w fun v => { v with readySince := 0 }

/-- R198: quadrant-cycles in which some wave is not asleep; `IDLE` reads 4 * CYC less these, plus what a write of it set. -/
def busyQuads (s : State) (ws : List Nat) : State :=
  let qs := ws.foldl (fun l w =>
    let v := wv s w
    if (groupPcs v).isEmpty || l.contains (quadKey v) then l else quadKey v :: l) []
  qs.foldl (fun s q => modCr s (q / 4) fun c => { c with idle := (c.idle + 2 ^ 64 - 1) % 2 ^ 64 }) s

/-- R404: the commands that have reached the controller in this cycle of stack 0, those of port A first. -/
def hsemCommands (s : State) : List (Instr × List Nat) :=
  ((s.mgmt.hsemArr.filter fun x => decide (x.1 = 0)) ++ s.mgmt.hsemArr.filter fun x => decide (x.1 ≠ 0)).filterMap fun x =>
    match bits x.2 1 0 with
    | 1 => some (.hsemTake, [x.1, bits x.2 31 16])
    | 2 => some (.hsemRelease, [x.1])
    | _ => none

/-- One cycle of stack `k` passes; what falls at it comes next (R424). -/
def tick (run : Instr → State → Host.Outcome State Fault Refusal) (k : Nat) (s : State) : State :=
  let here := fun v : Wave => decide (coreStack v.core = k)
  let ws := tkeys s.waves fun v => v.live && !v.saved && here v
  -- a wave that has ended may have a write to `CLAIMS` on its way (R323)
  let ended := tkeys s.waves fun v => !v.live && !v.pend.isEmpty && here v
  let s := busyQuads (ws.foldl (noteReady run) s) ws
  let now := cycOf s k + 1
  let cmds := if k = 0 then hsemCommands s else []
  let s := { s with cyc := tset 0 s.cyc k now, mgmt := if k = 0 then { s.mgmt with hsemArr := [] } else s.mgmt }
  let s := (ws ++ ended).foldl (fun s w => tickWave s now w) s
  let acts := periodic s k now
  { s with due := s.due ++ acts, moves := ((cmds ++ acts).map fun x => .perform x.1 x.2) ++ s.moves }

end Sys2Proof.Machine
end

