-- ==== Sys2Proof/Machine/WaveEvents.lean ====
section
/-! DEFINITION. Events of waves: results written, priority and starvation, claim deadlock, the baton's handover, the energy
fill, imprecise faults and the delivery of traps (spec/07, R169 to R178; spec/08, R196, R197; spec/16, R382 to R387). -/

namespace Sys2Proof.Machine

open Sys2Proof.Machine.State

/-- R169: the next instruction of lane `l` has waited 256 cycles. -/
def waited (v : Wave) (now l : Nat) : Bool := awake (ln v l) && decide ((ln v l).since + 256 ≤ now)
/-- R169: the PC of the group that becomes the priority group: the lowest among the lanes that qualify. -/
def priorityPc (s : State) (w : Nat) : Option Nat :=
  let v := wv s w
  if (settlePrio v).priority.isSome || !v.live then none
  else lowest (((List.range 32).filter (waited v (cycAt s v.core))).map fun l => (ln v l).pc)

/-- R169: PRIORITY_GROUP. -/
def execPriorityGroup (s : State) : Host.Outcome State Fault Refusal :=
  let w := arg s 0
  .next (match priorityPc s w with
    | some pc =>
      if (ln (wv s w) (arg s 1)).pc = pc then modWv s w fun v => { v with priority := some (lanesAt v pc, 0) } else s
    | none => s)

/-- R196: a wave with an issuable first candidate for 4,096 cc. -/
def starving (s : State) (w : Nat) : Bool :=
  let v := wv s w
  v.live && !v.starved && decide (v.readySince ≠ 0) && decide (v.readySince - 1 + 4096 ≤ cycAt s v.core)

/-- R196: ISSUE_STARVATION. -/
def execIssueStarvation (s : State) : Host.Outcome State Fault Refusal :=
  let w := arg s 0
  .next (if starving s w then modWv s w fun v => { v with starved := true } else s)

/-! ### Claim deadlock (R176) -/

/-- The lanes of a wave asleep in `rclaim`. -/
def claimLanes (v : Wave) : Lanes := lanesThat v fun x => match x.sleep with | .rclaim _ => !x.exited | _ => false
/-- R176: the wave has issued and not ended. -/
def hasIssued (v : Wave) : Bool := v.live && v.lanes.any fun x => decide (x.lastIssue ≠ 0)
/-- Every lane of the wave that has not exited sleeps in `rclaim`, or in a `wsync` that waits for such a lane. -/
def allClaim (v : Wave) : Bool :=
  decide (claimLanes v ≠ 0) && v.lanes.all fun x =>
    x.exited || (match x.sleep with | .rclaim _ | .wsync => true | _ => false)
/-- R176: the condition on a group. -/
def claimDead (s : State) (g : Nat) : Bool :=
  let ws := (gp s g).waves.filter fun w => hasIssued (wv s w)
  !ws.isEmpty && ws.all fun w => allClaim (wv s w)

/-- R176: the trap of one wave: its claiming lanes stand at their `rclaim` again. -/
def claimTrap (s : State) (w : Nat) : State :=
  let v := wv s w
  let m := claimLanes v
  if m = 0 then s else
  let s := modWv s w fun v => modLanes v m fun x => { x with sleep := .awake, pc := (x.pc + 2 ^ 64 - 8) % 2 ^ 64 }
  let pc := (ln (wv s w) (firstLane m)).pc
  let word := fun (s : State) a => match fetchWord s v.core v.ctx a true with | (s, .ok x) => (s, x) | (s, .error _) => (s, 0)
  let (s, h) := word s pc
  let (s, e) := word s ((pc + 4) % 2 ^ 64)
  raiseTrap s w { cls := 6, code := 0, lmask := m, head := BitVec.ofNat 32 h, ext := BitVec.ofNat 32 e, data := 0, status := 0
                  causes := [] }

/-- R176: CLAIM_DEADLOCK: every waiting claim of the group ends with a precise trap, and `DLK` is set. -/
def execClaimDeadlock (s0 : State) : Host.Outcome State Fault Refusal :=
  let g := arg s0 0
  let s := s0
  .next (if claimDead s g then
      let qs := (((gp s g).waves.filter fun w => (wv s w).live && !(wv s w).saved).map fun w => quadKey (wv s w)) ++ (gp s g).pools.map fun p => p.quad
      let s := modGp s g fun x => qs.foldl (fun x q => setPool x { poolOf x q with queue := [], dlk := true }) x
      orWait s0 ((gp s g).waves.foldl claimTrap s)
    else s0)

/-! ### The baton (R178) -/

/-- The pair's holder has matrix instructions that it had issued before it passed the baton and that have not retired, those to be
replayed among them (R341). -/
def holderBusy (s : State) (p : Pair) : Bool :=
  let waits := fun m : MatOp => p.passMats.contains m.op
  match p.baton with
  | some w => (p.mats.any fun m => decide (m.wave = w) && waits m && !(matRetired m)) || (wv s w).heldMats.any waits
  | none => false

/-- R178: wave `u` holds the baton of pair `p`, leaves its queue, and wakes. -/
def takeBaton (s : State) (p u : Nat) : State :=
  let m := ((pr s p).batonQueue.filter fun x => x.1 = u).foldl (fun m x => m ||| x.2) 0
  let s := modPr s p fun x => { x with baton := some u, batonPass := none, passMats := [], batonQueue := x.batonQueue.filter fun y => y.1 ≠ u }
  modWv s u fun v => { wake v (m &&& lanesThat v fun x => decide (x.sleep = .baton)) with awaitBaton := false }

/-- R178: BATON_HANDOVER. -/
def execBatonHandover (s : State) : Host.Outcome State Fault Refusal :=
  let p := arg s 0
  let x := pr s p
  let next := fun s : State => match x.batonQueue with
    | (u, _) :: _ => takeBaton s p u
    | [] => modPr s p fun y => { y with baton := none, batonPass := none, passMats := [] }
  .next (match x.batonPass, holderBusy s x with
    | some (some u), false => if (wv s u).live && !(wv s u).saved then takeBaton s p u else next s
    | some none, false => next s
    | _, _ => s)

/-! ### The energy fill (R197) -/

/-- R197: every core of the stack gains energy for every bound context that has an energy budget. -/
def energyFill (s : State) : State :=
  let k := arg s 0
  let cs := (s.ctxs.filter fun (e : Nat × Ctx) => e.2.bound && decide (e.2.held.efill ≠ 0)).map fun e => (e.1, e.2.held.efill)
  (List.range 64).foldl
    (fun s i => cs.foldl
      (fun s (c, f) => modCr s (64 * k + i) fun x =>
        { x with ebud := tmod 0 x.ebud c fun n => min (n + (f.extractLsb' 0 16).toNat) (256 * (f.extractLsb' 16 16).toNat) }) s) s

/-- R197: EBUD_FILL. -/
def execEbudFill (s : State) : Host.Outcome State Fault Refusal := .next (whenDue .ebudFill s energyFill)

/-! ### Faults and traps (R382, R383, R386) -/

/-- R383: an instruction of the wave has faulted and the core does not know yet. -/
def faultNews (v : Wave) : Bool := v.live && !v.faulting && v.ops.any fun o => decide (o.flanes ≠ 0)

/-- R383: IMPRECISE_FAULT. -/
def execImpreciseFault (s : State) : Host.Outcome State Fault Refusal :=
  let w := arg s 0
  .next (if faultNews (wv s w) then modWv s w fun v => { v with faulting := true } else s)

/-- The wave's accesses that cannot go on: those that faulted, those held, directly or not, behind one, and those that wait at a FIFO or a
tile, as at issue. -/
def stuckAccs (s : State) (w : Nat) : List Acc :=
  (s.accs.filter fun a => a.wave = w).foldl
    (fun l a =>
      if a.stage = .failed || bankWait a || (decide (a.stage = .ready) && l.any fun x => holds x a) then l ++ [a] else l) []

/-- An operation `x` of a wave stands before `y` in program order. -/
def opBefore (v : Wave) (x y : Nat) : Bool :=
  match v.ops.findIdx? (fun o => o.id = x), v.ops.findIdx? (fun o => o.id = y) with
  | some a, some b => decide (a < b)
  | _, _ => decide (x < y)

/-- The lanes of operation `op` of a wave; all of them once it has left the wave. -/
def opLanes (v : Wave) (op : Nat) : Lanes := ((findOp v op).map fun o => o.lanes).getD allLanes

/-- R90, R102: an access of a thread of operation `op` that precedes it in program order has not been performed. -/
def threadBefore (s : State) (w op : Nat) : Bool :=
  let v := wv s w
  s.accs.any fun a => decide (a.wave = w) && decide (a.lanes &&& opLanes v op ≠ 0) && opBefore v a.op op

/-- An instruction whose engine makes accesses for the wave. -/
def engineInstr (i : Instr) : Bool :=
  match i with
  | .kick .. | .rast .. | .hitbin .. | .attr .. | .travs .. | .travr .. | .hvpost .. | .pgload .. | .nfmt .. | .coll ..
  | .launchDev .. => true
  | i => (specOf i).mat

/-- An instruction whose engine reads memory for its threads, and that stands in the window until it has. -/
def readerInstr (i : Instr) : Bool := match i with | .attr .. | .travs .. | .travr .. | .pgload .. | .nfmt .. => true | _ => false

/-- R342, R365, R369, R374, R416: the earlier instructions of the threads of operation `op` whose engines have still to read for them; one
in a trap frame takes its place at `rfe`. -/
def readersBefore (s : State) (w op : Nat) : List Opr :=
  let v := wv s w
  v.ops.filter fun x => readerInstr x.instr && decide (x.todo &&& opLanes v op ≠ 0) && decide (x.id ≠ op) &&
    !(v.frameOps.contains x.id) && opBefore v x.id op

/-- R102, R115, R333, R350: an engine instruction that cannot begin because an earlier access of its wave cannot go on, a
cancelled matrix instruction, a `rast` behind a read of its threads that has faulted or is held (R416), or an `rflush` behind a `rast` that has faulted or is held. -/
def engineHeld (s : State) (w : Nat) (o : Opr) : Bool :=
  let v := wv s w
  let mats := fun o : Opr => (match o.instr with | .pgload .. => false | _ => true) &&
    v.heldMats.any fun m => decide (opLanes v m.op &&& o.lanes ≠ 0) && opBefore v m.op o.id
  let behind := fun o : Opr => ((stuckAccs s w).any fun a => opBefore v a.op o.id) || mats o
  v.heldMats.any (fun m => m.op = o.id) || (engineInstr o.instr && behind o) ||
    (match o.instr with
      | .rast .. => (readersBefore s w o.id).any fun x => decide (x.flanes ≠ 0) || behind x
      | .rflush .. => v.ops.any fun x => (match x.instr with | .rast .. => true | _ => false) && opBefore v x.id o.id &&
          (decide (x.flanes ≠ 0) || behind x)
      | _ => false)

/-- R141: an earlier record of the same `kick` has failed its checks, in the queue or parked in the fault log. -/
def kickStopped (s : State) (c : Copy) : Bool :=
  let bad := fun y : Copy => decide (y.op = c.op) && decide (y.hold = 1) && decide (y.recOff < c.recOff)
  (cr s c.core).scarab.any bad || (cx s c.ctx).log.any fun (e : Nat × LogSlot) => e.2.copy.any bad

/-- R141, R374, R383: part of the engine's work of operation `o` can still go on, and may still fault. -/
def engineMoves (s : State) (w : Nat) (o : Opr) : Bool :=
  let v := wv s w
  let c := cr s v.core
  let free := decide (o.slot ≠ 1) && !((stuckAccs s w).any fun a => opBefore v a.op o.id) &&
    !(v.heldMats.any fun m => opBefore v m.op o.id)
  (free && c.walkers.any fun x => decide (x.wave = w) && decide (x.op = o.id) && !x.held) ||
    c.scarab.any fun x => decide (x.wave = w) && decide (x.op = o.id) && decide (x.hold = 0 ∨ x.hold = 5) &&
      (x.fetched || (free && !(kickStopped s x)))

/-- R383: every instruction in the window has faulted, completed, or been held under R115. -/
def windowSettled (s : State) (w : Nat) : Bool :=
  let stuck := (stuckAccs s w).map fun a => a.id
  let moving := fun a : Acc => openAcc a && !(stuck.contains a.id)
  (wv s w).ops.all fun o =>
    !o.window || (!(s.accs.any fun a => a.op = o.id && moving a) && !(engineMoves s w o) &&
      (decide (o.flanes ≠ 0) || engineHeld s w o || s.accs.any fun a => a.op = o.id && openAcc a))

/-- R388: the record of an imprecise trap, from the wave's earliest faulting instruction. -/
def impreciseTrap (v : Wave) : Option Trap :=
  (v.ops.find? fun o => decide (o.flanes ≠ 0)).map fun o =>
    { cls := o.cls, code := o.status % 256, lmask := 0, head := 0, ext := 0, data := o.faddr, status := o.status, causes := [] }

/-- A trap of the wave is due and its window has settled. -/
def trapDue (s : State) (w : Nat) : Bool :=
  let v := wv s w
  v.live && (v.trap.isSome || v.faulting) && windowSettled s w && !(frameRegsOwed s w)

/-- R382, R386: TRAP_DELIVERY. -/
def execTrapDelivery (s : State) : Host.Outcome State Fault Refusal :=
  let w := arg s 0
  let v := wv s w
  .next (if trapDue s w then
      (match v.trap with
      | some t => takeTrap s w (trapImp t) t
      | none => match impreciseTrap v with
        | some t => takeTrap s w true t
        | none => modWv s w fun v => { v with faulting := false })
    else s)

/-! ### Which of these have an occasion -/

def readyWave (s : State) : List (Instr × List Nat) :=
  s.waves.flatMap fun (w, v) =>
    (if faultNews v then [(Instr.impreciseFault, [w])] else []) ++
    (if trapDue s w then [(Instr.trapDelivery, [w])] else []) ++
    (match priorityPc s w with
      | some pc => [(Instr.priorityGroup, [w, firstLane (lanesAt v pc)])]
      | none => []) ++
    (if starving s w then [(Instr.issueStarvation, [w])] else [])

def readyGroup (s : State) : List (Instr × List Nat) :=
  (s.groups.filter fun e => claimDead s e.1).map fun e => (Instr.claimDeadlock, [e.1])

def readyPair (s : State) : List (Instr × List Nat) :=
  (s.pairs.filter fun (e : Nat × Pair) => e.2.batonPass.isSome && !holderBusy s e.2).map fun e => (Instr.batonHandover, [e.1])

def readyWaiter (s : State) : List (Instr × List Nat) :=
  s.waiters.filterMap fun x =>
    let fire := x.woken || waiterReady s x
    if x.wave = 0 then none else
    if x.dst = 0 then (if wakeDue s x then some (.barrierWake, [x.id]) else none)
    else if fire || (wv s x.wave).request then some (.waddrWake, [x.id])
    else if x.deadline ≤ cycAt s (wv s x.wave).core then some (.waddrTimeout, [x.id]) else none

end Sys2Proof.Machine
end

