-- ==== Sys2Proof/Machine/Copies.lean ====
section
/-! DEFINITION. The Scarab: `kick` and its copies (spec/05, R135 to R142; R303), `pub` (R143, R144, R304), `sbank` (R62, R63, R305)
and `msflush` (R47, R306). -/

namespace Sys2Proof.Machine

open Sys2Proof.Machine.State

/-! ### Records (R135 to R137) -/

def recSrc (b : List Byte) : Nat := fieldAt b 0 8
def recDst (b : List Byte) : Nat := fieldAt b 8 8
def recBpr (b : List Byte) : Nat := fieldAt b 16 4
def recRows (b : List Byte) : Nat := fieldAt b 20 2
def recFlags (b : List Byte) : Nat := fieldAt b 22 2
def recTarget (b : List Byte) : Nat := fieldAt b 24 4
def recValue (b : List Byte) : Nat := fieldAt b 28 4
def recSpitch (b : List Byte) : Nat := fieldAt b 32 4
def recDpitch (b : List Byte) : Nat := fieldAt b 36 4
def recSsp (b : List Byte) : Nat := bits (recFlags b) 1 0
def recDsp (b : List Byte) : Nat := bits (recFlags b) 3 2
def recShd (b : List Byte) : Bool := bit (recFlags b) 4
def recCvt (b : List Byte) : Nat := bits (recFlags b) 8 5
def recCk (b : List Byte) : Nat := bits (recFlags b) 10 9

/-- R137: source and destination element sizes of a conversion. -/
def cvtSizes (cvt : Nat) : Nat × Nat :=
  match cvt with | 1 | 2 => (4, 2) | 3 | 4 => (4, 1) | 5 | 6 => (2, 4) | 7 | 8 => (1, 4) | _ => (1, 1)

/-- R137: destination bytes per row. -/
def recDbpr (b : List Byte) : Nat := recBpr b * (cvtSizes (recCvt b)).2 / (cvtSizes (recCvt b)).1
/-- The destination bytes of a record. -/
def recTotal (b : List Byte) : Nat := recRows b * recDbpr b

/-- R137: one element converted, round to nearest even with saturation. -/
def cvtElem (cvt x : Nat) : Nat :=
  let c := { rne with sat := true }
  match cvt with
  | 1 => (cvtF F32 BF16 false c x).bits
  | 2 => (cvtF F32 F16 false c x).bits
  | 3 => (cvtF F32 E4M3 false c x).bits
  | 4 => (cvtF F32 E5M2 false c x).bits
  | 5 => (cvtF BF16 F32 true c x).bits
  | 6 => (cvtF F16 F32 true c x).bits
  | 7 => (cvtF E4M3 F32 true c x).bits
  | 8 => (cvtF E5M2 F32 true c x).bits
  | _ => x

/-- `k` elements of source bytes converted. -/
def cvtRun (cvt : Nat) : Nat → Nat → Nat
  | 0, _ => 0
  | k + 1, x =>
    let (se, de) := cvtSizes cvt
    cvtElem cvt (x % 2 ^ (8 * se)) + 2 ^ (8 * de) * cvtRun cvt k (x / 2 ^ (8 * se))

/-- R136: the first cause that a record of group `g` raises. -/
def recCause (s : State) (g : Group) (b : List Byte) : Option Nat :=
  let lim := g.nBanks * bankBytes
  let (se, _) := cvtSizes (recCvt b)
  let rows := recRows b
  let form := decide (recSsp b = 2 ∨ recSsp b = 3) || decide (recDsp b = 3) || decide (9 ≤ recCvt b) || decide (recCk b = 3) ||
    decide (bits (recFlags b) 15 11 ≠ 0) || decide (fieldAt b 40 8 ≠ 0) || (decide (recSsp b = 1) && decide (2 ^ 32 ≤ recSrc b)) ||
    (decide (recDsp b = 1) && decide (2 ^ 32 ≤ recDst b)) || (decide (recDsp b = 2) && decide (128 ≤ recDst b)) ||
    (recShd b && decide (recDsp b ≠ 0))
  let target := match recCk b with
    | 1 => decide (recTarget b % 16 ≠ 0) || !(scrIn g (recTarget b) 16)
    | 2 => decide (recTarget b % 4 ≠ 0) || !(scrIn g (recTarget b) 4)
    | _ => false
  let scratch :=
    (decide (recSsp b = 1) && decide (lim < recSrc b + (rows - 1) * recSpitch b + recBpr b)) ||
    (decide (recDsp b = 1) && decide (lim < recDst b + (rows - 1) * recDpitch b + recDbpr b))
  if form then some 0x10
  else if recBpr b = 0 ∨ rows = 0 ∨ 2 ^ 31 - 1 < recTotal b then some 0x11
  else if 1 < rows ∧ recDpitch b < recDbpr b ∧ recDsp b ≠ 2 then some 0x12
  else if recCvt b ≠ 0 ∧ (recSrc b % se ≠ 0 ∨ recBpr b % se ≠ 0) then some 0x13
  else if target then some 0x14
  else if scratch then some 0x15
  else if recDsp b = 2 then
    if recBpr b % 32 ≠ 0 then some 0x16 else
    match fifoBank s g (recDst b) true with
    | .error 0x22 => some 0x16
    | .error c => some c
    | .ok _ => none
  else none

/-! ### The queue of a core (R138) -/

/-- The copy named `id`. -/
def findCopy (s : State) (id : Nat) : Option Copy :=
  s.cores.findSome? fun (e : Nat × Core) => e.2.scarab.find? fun c => c.id = id
/-- A copy replaced by its newer state. -/
def putCopy (s : State) (c : Copy) : State :=
  modCr s c.core fun x => { x with scarab := x.scarab.map fun y => if y.id = c.id then c else y }
/-- A copy that leaves its queue. -/
def dropCopy (s : State) (c : Copy) : State :=
  modCr s c.core fun x => { x with scarab := x.scarab.filter fun y => y.id ≠ c.id }

/-- R102, R333: a matrix instruction of the wave before operation `op` has not retired. -/
def engineBefore (s : State) (w op : Nat) : Bool :=
  let v := wv s w
  ((pr s (corePair v.core)).mats ++ v.heldMats).any fun m => decide (m.wave = w) && decide (opLanes v m.op &&& opLanes v op ≠ 0) && opBefore v m.op op

/-- R102: an earlier access of the kicking wave has not been performed, or waits in a trap frame. -/
def copyHeldBack (s : State) (c : Copy) : Bool :=
  let v := wv s c.wave
  threadBefore s c.wave c.op || engineBefore s c.wave c.op ||
    ((findOp v c.op).any fun o => decide (o.slot = 1))

/-- The next record that the Scarab of a core fetches: records go in the order of their `kick`s, so that one which must wait for its
thread's earlier accesses holds those behind it, but one that waits in a trap frame, or behind a record that failed its checks, does
not (R138, R141). -/
def nextFetch (s : State) (core : Nat) : Option Copy :=
  let waits := fun c : Copy => !c.fetched && decide (c.hold = 0) && !(kickStopped s c) && !(gp s c.group).savedAll &&
    !((findOp (wv s c.wave) c.op).any fun o => decide (o.slot = 1))
  ((cr s core).scarab.find? waits).filter fun c => !(copyHeldBack s c)

/-- R69: the first read of a copy comes no earlier than 12 cycles after its `kick`. -/
def kickDue (s : State) (c : Copy) : Bool :=
  decide (c.next ≠ 0 ∨ c.done ≠ []) || (match findOp (wv s c.wave) c.op with | some o => decide (o.issuedAt + 12 ≤ cycAt s c.core) | none => true)

/-- The ERR of FLSTAT. -/
def setFlerr (s : State) (c e : Nat) : State := modCx s c fun x => { x with flerr := BitVec.ofNat 4 e }
def setLogSlot (s : State) (c k : Nat) (e : LogSlot) : State := modCx s c fun x => { x with log := tset freeLog x.log k e }

/-- The slot of the fault log that holds the parked copy `c`. -/
def copySlot (c : Copy) (hold cls code addr : Nat) : LogSlot :=
  { freeLog with
    state := 1, code := code % 256, cls := cls, opk := 2, core := c.core, addr := addr, status := if hold = 2 then code else 0,
    data := c.recOff, group := c.group, copy := some { c with retry := 0 } }

/-- R141, R384, R392: copy `c` stops with a fault: its `kick` faults; with the wave ended the copy is parked, one that RETRY began again in
the slot that it had, with ERR = 3. -/
def copyFault (s : State) (c : Copy) (hold cls code addr : Nat) : State :=
  let c := { c with hold := hold, status := code, faddr := addr }
  let e := copySlot c hold cls code addr
  if c.retry ≠ 0 then setFlerr (setLogSlot (dropCopy s c) c.ctx (c.retry - 1) e) c.ctx 3
  else if (wv s c.wave).live then failAll (putCopy s c) c.wave c.op cls code addr
  else logEntry (dropCopy s c) c.ctx e

/-- A record ends: one part of its `kick` is complete, or the RETRY that began it again. -/
def copyEnd (s : State) (c : Copy) : State :=
  if c.retry ≠ 0 then setFlerr (setLogSlot (dropCopy s c) c.ctx (c.retry - 1) freeLog) c.ctx 0
  else completeOp (dropCopy s c) c.wave c.op 0 1

/-- R138: the record of a copy is read and checked. -/
def fetchCopy (s : State) (c : Copy) : State :=
  let g := gp s c.group
  if !c.once && !(scrMode s g c.recOff 48) then copyFault s c 1 10 0x22 c.recOff else
  let b := if c.once then c.bytes else scrBytes s g c.recOff 48
  match recCause s g b with
  | some k => copyFault s c 1 10 k c.recOff
  | none => putCopy s { c with bytes := b, fetched := true }

/-- R138: SCARAB_FETCH. -/
def execScarabFetch (s : State) : Host.Outcome State Fault Refusal :=
  .next (match nextFetch s (arg s 0) with
    | none => s
    | some c => fetchCopy s c)

/-! ### Pieces (R137, R139) -/

/-- R139: a credit of `n` bytes to the record's barrier object, or its fault (class, code). -/
def creditApply (s : State) (c : Copy) (n : Nat) : State × Option (Nat × Nat) :=
  let g := gp s c.group
  let t := recTarget c.bytes
  if !(scrMode s g t 16) then (s, some (10, 0x22))
  else match barCountOp (scrRead s g t 16) (-(n : Int)) with
    | .ok b => (scrWrite s g t 16 b, none)
    | .error k => (s, some (11, k))

/-- The credit that falls due once `c.next` has reached its new value, `n` bytes having been performed. -/
def creditDue (c : Copy) (n : Nat) : Nat :=
  if recCk c.bytes ≠ 1 then 0
  else if !c.once then n
  else if c.next = recTotal c.bytes then recTotal c.bytes - c.credited else 0

/-- R139, R141: what follows a piece of copy `c`, which owes `c.owed`: its credit, and with the last piece the flag word and
the end of the record. -/
def copyCredit (s : State) (c : Copy) : State :=
  let (s, f) := if c.owed = 0 then (s, none) else creditApply s c c.owed
  match f with
  | some (cls, k) => copyFault s c 3 cls k (recTarget c.bytes)
  | none =>
    let c := { c with credited := c.credited + c.owed, owed := 0 }
    if c.next < recTotal c.bytes then putCopy s c
    else if recCk c.bytes = 2 then
      let g := gp s c.group
      if !(scrMode s g (recTarget c.bytes) 4) then copyFault s c 2 10 0x22 (recTarget c.bytes)
      else copyEnd (scrWrite s g (recTarget c.bytes) 4 (recValue c.bytes)) c
    else copyEnd s c

/-- The destination bytes `off` to `off + n - 1` of row `r`, converted from the source. -/
def pieceData (s : State) (c : Copy) (r off n : Nat) : State × Except EngFault Nat :=
  let b := c.bytes
  let (se, de) := cvtSizes (recCvt b)
  let e0 := off / de
  let e1 := (off + n - 1) / de
  let len := (e1 + 1 - e0) * se
  let a := recSrc b + r * recSpitch b + e0 * se
  let get := fun x : Nat => cvtRun (recCvt b) (e1 + 1 - e0) x / 2 ^ (8 * (off - e0 * de)) % 2 ^ (8 * n)
  if recSsp b = 1 then
    let g := gp s c.group
    if !(scrMode s g a len) then (s, .error (10, 0x22, a)) else (s, .ok (get (scrRead s g a len)))
  else match engRead s (.core c.core) c.ctx .cs (a % 2 ^ 64) len with
    | (s, .ok x) => (s, .ok (get x))
    | (s, .error e) => (s, .error e)

/-- R96, R137: the piece of a copy that holds its destination byte `x`: its row, the offset in the row, its length, and its destination
address. -/
def pieceAt (c : Copy) (x : Nat) : Nat × Nat × Nat × Nat :=
  let b := c.bytes
  let w := recDbpr b
  let r := x / w
  if recDsp b = 2 then (r, x % w - x % w % 32, min 32 (w - (x % w - x % w % 32)), recDst b)
  else
    let row := recDst b + r * recDpitch b
    let off := x % w - (row + x % w) % 32
    (r, off, min (32 - (row + off) % 32) (w - off), row + off)

/-- R96, R138: the piece that a copy performs next. They are in no stated order, so that any one not yet performed may be the next (a free
value, log 136); the entries of a FIFO go in ascending order (R137). -/
def nextPiece (s : State) (c : Copy) : State × Nat :=
  let (_, _, n, _) := pieceAt c c.next
  if recDsp c.bytes = 2 ∨ recTotal c.bytes ≤ c.next + n then (s, c.next) else
  let (x, s) := draw s
  let (r, off, _, _) := pieceAt c (x % recTotal c.bytes)
  let k := r * recDbpr c.bytes + off
  (s, if k < c.next ∨ c.done.contains k then c.next else k)

/-- The copy with `next` past the pieces that have been performed; `n` bounds them. -/
def pastDone : Nat → Copy → Copy
  | 0, c => c
  | n + 1, c =>
    if !(c.done.contains c.next) then c else
    let (_, _, len, _) := pieceAt c c.next
    pastDone n { c with next := c.next + len, done := c.done.filter fun x => x ≠ c.next }

/-- One piece written at its destination; the answer is what the copy then waits for: nothing (0), a free entry of the FIFO (4), or the
acknowledgement of its write, which passes through the core's dirty-address FIFO (5; R76, R83). -/
def pieceWrite (s : State) (c : Copy) (a n v : Nat) : State × Except EngFault Nat :=
  let b := c.bytes
  let g := gp s c.group
  match recDsp b with
  | 0 => match engQueue s c.core c.ctx (if recShd b then .sd else .cd) (a % 2 ^ 64) n v c.id false with
    | (s, .ok _) => (s, .ok 5)
    | (s, .error e) => (s, .error e)
  | 1 => if !(scrMode s g a n) then (s, .error (10, 0x22, a)) else (scrWrite s g a n v, .ok 0)
  | _ => match fifoBank s g a true with
    | .error k => (s, .error (10, k, a))
    | .ok (p, k) =>
      if 511 ≤ (bank s p k).fifo.length + fifoPromised s p k then (s, .ok 4)
      else (setFifo s p k ((bank s p k).fifo ++ [BitVec.ofNat 256 v]), .ok 0)

/-- R139: a piece of `n` bytes has been performed: its credit falls due. -/
def pieceDone (s : State) (c : Copy) (n : Nat) : State :=
  let c := { c with done := c.pos :: c.done, hold := 0 }
  let c := pastDone c.done.length c
  copyCredit s { c with owed := creditDue c n }

/-- R139: one piece of a fetched copy, or the credit it still owes. A copy that finds a bank of the piece's source or destination in
the wrong mode stops at the piece, as for a translation fault (R141 names no class for it; log 92). -/
def copyPiece (s : State) (c : Copy) : State :=
  if c.owed ≠ 0 ∨ recTotal c.bytes ≤ c.next then copyCredit s c else
  let (s, k) := nextPiece s c
  let c := { c with pos := k }
  let (r, off, n, a) := pieceAt c k
  match pieceData s c r off n with
  | (s, .error (cls, k, x)) => copyFault s c 2 cls k x
  | (s, .ok v) =>
    match pieceWrite s c a n v with
    | (s, .error (cls, k, x)) => copyFault s c 2 cls k x
    | (s, .ok 0) => pieceDone s c n
    | (s, .ok h) => putCopy s { c with hold := h }

/-- R139, R141: the write of the copy's piece has been acknowledged, or a fault was found at a peer, at which the copy stops. -/
def pieceAcked (s : State) (c : Copy) : State :=
  let (_, _, n, a) := pieceAt c c.pos
  if c.status ≠ 0 then copyFault s c 2 10 c.status a else pieceDone s c n

/-- The copy stopped with a fault although its wave has ended since. -/
def copyOrphan (s : State) (c : Copy) : Bool := decide (1 ≤ c.hold) && decide (c.hold ≤ 3) && !(wv s c.wave).live

/-- The class of the fault at which a copy stands. -/
def copyCls (c : Copy) : Nat := if c.hold = 3 ∧ c.status ≠ 0x22 then 11 else if c.hold = 2 ∧ c.status = 1 then 12 else 10

/-- R69, R139: a fetched copy may go on: with its next piece, or with the credit of one whose write has been acknowledged. A record of an
ended wave stands still while its group is saved (log 146). -/
def pieceGoes (s : State) (c : Copy) : Bool :=
  c.fetched && !(gp s c.group).savedAll && ((decide (c.hold = 0) && kickDue s c) || (decide (c.hold = 5) && !(engLeft s c.core c.id)))

/-- R138, R139: COPY_PIECE; a copy that stands at a fault of an ended wave is parked (R141). -/
def execCopyPiece (s : State) : Host.Outcome State Fault Refusal :=
  .next (match findCopy s (arg s 0) with
    | none => s
    | some c =>
      if copyOrphan s c then copyFault s c c.hold (copyCls c) c.status c.faddr
      else if pieceGoes s c then orWait s (if c.hold = 5 then pieceAcked s c else copyPiece s c) else s)

/-- R137: a copy that waits on a full FIFO may go on. -/
def fifoFree (s : State) (c : Copy) : Bool :=
  decide (c.hold = 4) && !(gp s c.group).savedAll && (match fifoBank s (gp s c.group) (recDst c.bytes) true with
    | .ok (p, k) => decide ((bank s p k).fifo.length + fifoPromised s p k < 511)
    | .error _ => true)

/-- R137: SCARAB_FIFO_RESUME: a free entry has appeared. -/
def execScarabFifoResume (s : State) : Host.Outcome State Fault Refusal :=
  .next (match findCopy s (arg s 0) with
    | none => s
    | some c => if fifoFree s c then orWait s (copyPiece s { c with hold := 0 }) else s)

/-- R141: a copy resumes after `rfe` or RETRY: fetched again, or at the piece where it stopped. -/
def copyResume (c : Copy) : Copy := if c.hold = 1 then { c with hold := 0, fetched := false } else if c.hold ≤ 3 then { c with hold := 0, status := 0 } else c

/-! ### `kick` (R303) -/

/-- R138: free entries of the core's Scarab queue. -/
def scarabRoom (s : State) (core n : Nat) : Bool := decide ((cr s core).scarab.length + n ≤ 256)

/-- The operands of a `kick`: the first record's offset and the count. -/
def kickArgs (o : Opr) : Int × Nat :=
  ((opVal (specOf o.instr) o.words 0 0 : Nat) + offOf o.instr, opVal (specOf o.instr) o.words 1 0)

/-- R303: the fault of a `kick` before any record is queued: class and code. -/
def kickFault (g : Group) (a : Int) (n : Nat) : Option (Nat × Nat) :=
  if a % 16 ≠ 0 then some (11, 1)
  else if n = 0 ∨ 64 < n then some (11, 3)
  else if a < 0 ∨ !(scrIn g a.toNat (48 * n)) then some (10, 0x21)
  else none

/-- Operation `id`, a `kick`, hands its records over; its lanes are complete and each record is one part of it. -/
def startKick (s : State) (w id : Nat) : State :=
  match findOp (wv s w) id with
  | none => s
  | some o =>
    let v := wv s w
    let (a, n) := kickArgs o
    match kickFault (gp s v.group) a n with
    | some (c, k) => failAll s w id c k (wrap 64 a)
    | none =>
      let one := fun (s : State) (k : Nat) =>
        let (cid, s) := fresh s
        modCr s v.core fun x => { x with scarab := x.scarab ++
          [{ id := cid, wave := w, group := v.group, op := id, core := v.core, ctx := v.ctx, pair := corePair v.core,
             recOff := a.toNat + 48 * k, bytes := [], fetched := false, next := 0, done := [], pos := 0, credited := 0, owed := 0, hold := 0,
             status := 0, faddr := 0, once := false, retry := 0 }] }
      let s := modWv s w fun v => modOp v id fun o => { o with left := n }
      completeOp ((List.range n).foldl one s) w id o.todo 0

/-- R303: `kick`. -/
def execKick (h : Head) (m : MExt) (s : State) : Host.Outcome State Fault Refusal :=
  let i := Instr.kick h m
  let sp := specOf i
  let v := wv s s.cur.wave
  let n := srcVal v 0 (usrc .c m.c.toNat 1 1 false)
  runOp i sp false false (acquireOut v || (decide (n ≤ 64) && !(scarabRoom s v.core n))) (fun a s =>
    let w := s.cur.wave
    let words := capture (wv s w) sp
    let s := advance sp s
    if a = 0 then s else
    let (id, s) := openOp i sp a 0 words s
    startKick s w id) s

/-- R141, R390: the held records of the `kick` `id` resume; one that queued no record is performed again. -/
def resumeKick (s : State) (w id : Nat) : State :=
  if (findOp (wv s w) id).any fun o => decide (o.todo ≠ 0) then startKick s w id
  else modCr s (wv s w).core fun x => { x with scarab := x.scarab.map fun c => if c.wave = w ∧ c.op = id then copyResume c else c }

/-! ### `pub` (R144, R304) -/

/-- R144: the pages from the address `va` on for `n` bytes, each TWIN and writable, or the first fault: class, status and address. Where
leaves of another size lie in the range, all of them are named; `k` bounds their number. -/
def pubPages (core ctx : Nat) : Nat → Nat → Nat → State → State × Except EngFault (List (Nat × Nat))
  | 0, _, _, s => (s, .ok [])
  | k + 1, va, n, s =>
    match translate s (.core core) ctx .sd false va 1 with
    | (s, .error st) => (s, .error (10, st, va))
    | (s, .ok e) =>
      let m := 2 ^ e.log2 - va % 2 ^ e.log2
      if n ≤ m then (s, .ok [(e.frame, e.log2)]) else
      match pubPages core ctx k ((va + m) % 2 ^ 64) (n - m) s with
      | (s, .error x) => (s, .error x)
      | (s, .ok ps) => (s, .ok ((e.frame, e.log2) :: ps))

/-- R144: the `c` consecutive pages of the size of the leaf that maps `va`, from the page that holds it. -/
def pubNamed (s : State) (core ctx c va : Nat) : State × Except EngFault (List (Nat × Nat)) :=
  match translate s (.core core) ctx .sd false va 1 with
  | (s, .error st) => (s, .error (10, st, va))
  | (s, .ok e) =>
    match pubPages core ctx (c * 2 ^ e.log2 / 4096) e.base (c * 2 ^ e.log2) s with
    | (s, .error (k, st, a)) => (s, .error (k, st, if a = e.base then va else a))
    | r => r

/-- Operation `id`, a `pub`: its checks, and a release behind the wave's accesses. -/
def startPub (s : State) (replay : Bool) (w id : Nat) : State :=
  match findOp (wv s w) id with
  | none => s
  | some o =>
    let v := wv s w
    let sp := specOf o.instr
    let va := wrap 64 ((opVal sp o.words 0 0 : Nat) + offOf o.instr)
    let n := opVal sp o.words 1 0
    if n = 0 ∨ 64 < n then failAll s w id 11 3 va else
    match pubNamed s v.core v.ctx n va with
    | (s, .error (c, k, a)) => failAll s w id c k a
    | (s, .ok ps) =>
      let (pid, s) := fresh s
      let s := { s with pubs := s.pubs ++ [{ id := pid, wave := w, op := id, core := v.core, pages := ps }] }
      let s := modWv s w fun v => modOp v id fun o => { o with left := 1 }
      let (s, x) := newAcc s w o o.lanes [] 0 0 0 .st .fence
      let x := { x with priv := true, stage := .ready }
      let s := { s with accs := if replay then x :: s.accs else s.accs ++ [x] }
      if heldUp s x then s
      else putAcc (dafPush s x.core { kind := .rel x.id, accs := [x.id] }) { x with stage := .queued }

/-- R304: `pub`. -/
def execPub (h : Head) (m : MExt) (s : State) : Host.Outcome State Fault Refusal :=
  let i := Instr.pub h m
  let sp := specOf i
  runOp i sp false false (memWaits i s) (fun a s0 =>
    let w := s0.cur.wave
    let words := capture (wv s0 w) sp
    let s := advance sp s0
    if a = 0 then s else
    let (id, s) := openOp i sp a 0 words s
    orStall s0 (startPub s false w id)) s

/-- R144: the release of a `pub` has been performed. -/
def pubReady (s : State) (p : PubOp) : Bool := !(s.accs.any fun a => decide (a.op = p.op))

/-- The line lies in a page of the pair of frames at `f`. -/
def inTwin (f lg line : Nat) : Bool := decide (f ≤ 128 * line) && decide (128 * line < f + 2 * 2 ^ lg)

/-- R144: one page: every L1 copy of its lines is dropped, fills on their way are not installed, and VS is inverted, once for each
naming where a `pub` names a pair through two mappings (log 162). -/
def pubSwapPage (s : State) (p : Nat × Nat) : State :=
  let s := { s with
    cores := tall resetCore s.cores fun c => { c with l1 := c.l1.filter fun x => !(inTwin p.1 p.2 x.line) }
    accs := s.accs.map fun (a : Acc) => if decide (a.kind = PageKind.twin) && inTwin p.1 p.2 (lineOf a.pa) then { a with fill := false } else a }
  { s with twins := tmod false s.twins p.1 not }

/-- R145: a load of a named page whose value, of the side that was visible, is on its way back is made again where an earlier load of
its wave, not yet performed, may now return the new side. -/
def pubAgain (s : State) (p : PubOp) : State :=
  let named := fun a : Acc => decide (a.kind = PageKind.twin) && p.pages.any fun x => inTwin x.1 x.2 (lineOf a.pa)
  let isLoad := fun a : Acc => match a.act with | .load => true | _ => false
  let unserved := fun a : Acc => isLoad a && (untranslated a || (named a && (match a.stage with | .ret | .failed => false | _ => true)))
  let again := (s.accs.filter fun y =>
    named y && isLoad y && decide (y.stage = .ret) && (earlierAccs s y).any unserved).map fun y => y.id
  let cores := ((s.accs.filter fun a => again.contains a.id).map fun a => a.core).eraseDups
  let s := again.foldl dataCome s
  cores.foldl reroute { s with
    accs := s.accs.map fun (a : Acc) => if again.contains a.id then { a with stage := .ready, val := 0, got := 0, fill := false } else a }

/-- R144: PUB_SWAP. -/
def execPubSwap (s : State) : Host.Outcome State Fault Refusal :=
  .next (match s.pubs.find? fun p => p.id = arg s 0 with
    | some p =>
      if pubReady s p then
        let s := pubAgain (p.pages.foldl pubSwapPage { s with pubs := s.pubs.filter fun x => x.id ≠ p.id }) p
        completeOp s p.wave p.op 0 1
      else s
    | none => s)

/-! ### `sbank` (R62, R63, R305) -/

/-- The mode that a number names (R305). -/
def modeOf (k : Nat) : Option BankMode :=
  match k with | 0 => some .scratch | 1 => some .fifo | 2 => some .cacheL | 3 => some .cacheF | _ => none
/-- A bank mode that belongs to an L1. -/
def isCacheMode (m : BankMode) : Bool := match m with | .cacheL | .cacheF => true | _ => false

/-- R62: a copy fetched and not ended reads or writes the bank. -/
def copyInFlight (s : State) (g : Group) (gid k : Nat) : Bool :=
  let lo := k * bankBytes
  let hit := fun rows a pitch n : Nat =>
    (List.range rows).any fun r => decide (a + r * pitch < lo + bankBytes) && decide (lo < a + r * pitch + n)
  s.cores.any fun (e : Nat × Core) => e.2.scarab.any fun c =>
    decide (c.group = gid) && c.fetched &&
      ((decide (recSsp c.bytes = 1) && hit (recRows c.bytes) (recSrc c.bytes) (recSpitch c.bytes) (recBpr c.bytes)) ||
        (decide (recDsp c.bytes = 1) && hit (recRows c.bytes) (recDst c.bytes) (recDpitch c.bytes) (recDbpr c.bytes)) ||
        (decide (recDsp c.bytes = 2) && decide (recDst c.bytes = k) && decide (k < g.nBanks)))

/-- R62: the status of a change of group bank `k` to mode number `m`, 0 where it takes effect (log 34 for the order of the
refusals). -/
def sbankStatus (s : State) (gid : Nat) (g : Group) (k m : Nat) : Nat :=
  if g.nBanks ≤ k then 2 else
  match modeOf m with
  | none => 5
  | some new =>
    let b := g.bank0 + k
    let old := (bank s g.pair b).mode
    let c := 2 * g.pair
    let n := fun x => (l1Banks s x).length
    let (_, hi) := cacheLimits s g.pair []
    let core := fun x : BankMode => if x = .cacheL then c else c + 1
    if old = new then 0
    else if old = .fifo ∧ ((bank s g.pair b).fifo.length ≠ 0 ∨ fifoPromised s g.pair b ≠ 0) then 1
    else if copyInFlight s g gid k then 4
    else if isCacheMode new && !(isCacheMode old) && decide (hi < n c + n (c + 1) + 1) then 3
    else if isCacheMode old && decide (n (core old) < 3) then 3
    else 0

/-- R62: the change itself; the bank stays in the group's allocation. Where in a bank its FIFO entries lie is not stated: the model keeps
them apart, so that a bank that was an empty FIFO reads the bytes it had before it was one (log 140). -/
def sbankApply (s : State) (gid : Nat) (g : Group) (k : Nat) (new : BankMode) : State :=
  let b := g.bank0 + k
  let old := (bank s g.pair b).mode
  if old = new then s else
  let s := removeBank s g.pair b
  let s := setBank s g.pair b new gid
  if isCacheMode old || isCacheMode new then clearBank s g.pair b else s

/-- R305: `sbank`. -/
def execSbank (h : Head) (m : MExt) (s : State) : Host.Outcome State Fault Refusal :=
  let i := Instr.sbank h m
  let sp := specOf i
  let v := wv s s.cur.wave
  runOp i sp false false (acquireOut v || ownScrWaits s s.cur.wave || matPending s s.cur.wave) (fun a s =>
    let w := s.cur.wave
    let v := wv s w
    let words := capture v sp
    let s := advance sp s
    if a = 0 then s else
    let (id, s) := openOp i sp a 0 words s
    match findOp (wv s w) id with
    | none => s
    | some o =>
      let g := gp s v.group
      let k := opVal sp words 0 0
      let x := opVal sp words 1 0
      let st := sbankStatus s v.group g k x
      let s := match decide (st = 0), modeOf x with
        | true, some new => sbankApply s v.group g k new
        | _, _ => s
      refreshWindow (addResult s w id a (loadWrites o 4 .untyped [(0, st)])) w id) s

/-! ### `msflush` (R47, R306) -/

/-- R306: what the pages of a range give: for each page its translation or its fault; `n` bytes from `va`. A lookup changes
nothing. -/
def flushPages (s : State) (core ctx : Nat) : Nat → Nat → Nat → List (Nat × Nat × Except Nat TlbEntry)
  | 0, _, _ => []
  | k + 1, va, n =>
    if n = 0 then [] else
    let m := min n (4096 - va % 4096)
    let x := cx s ctx
    let cxl := fun e : TlbEntry => (prt s (hostPort e.frame)).cxlCache
    let check := fun e : TlbEntry => match permFault e .ld false (cxl e) va 1 with
      | some c => if e.kind = .mmio then Except.ok e else .error (statusWord c ((e.log2 - 12) / 9) 0 (kindNum e.kind) false)
      | none => .ok e
    let r : Except Nat TlbEntry :=
      if !(canonical va) then .error (statusWord 6 7 0 7 false)
      else match (tlbFind (cr s core).tlb x.held.asid.toNat va).filter fun e => (permFault e .ld false (cxl e) va 1).isNone with
        | some e => .ok e
        | none => match (walkFrom none none x.held.asid.toNat va 4 x.held.root.toNat s).2 with
          | .ok e _ => check e
          | .fault c lv kn => .error (statusWord c lv 0 kn false)
    (va, m, r) :: flushPages s core ctx k ((va + m) % 2 ^ 64) (n - m)

/-- The lines of `m` bytes at `va` of a page that a range flush on stack `k` covers: both sides of a TWIN page. -/
def pageLines (k va m : Nat) (e : TlbEntry) : List Nat :=
  let o := e.frame + va % 2 ^ e.log2
  let run := fun a : Nat => (List.range (m / 128)).map fun i => lineOf a + i
  let ls := match e.kind with
    | .normal | .imago => run o
    | .twin => run o ++ run (o + 2 ^ e.log2)
    | _ => []
  ls.filter fun l => decide (homeStack (128 * l) = k)

/-- R47: a line of the memory-side cache written to GDDR7 if it is dirty, and then clean. -/
def flushLine (id : Nat) (s : State) (l : Nat) : State :=
  let t := tget noMsLine s.msLines l
  if t.present && t.dirty then
    msWriteBack { s with msLines := tset noMsLine s.msLines l { t with dirty := false } } l id
  else s

/-- Operation `id`, a range flush. -/
def startFlushRange (s : State) (w id : Nat) : State :=
  match findOp (wv s w) id with
  | none => s
  | some o =>
    let v := wv s w
    let sp := specOf o.instr
    let va := opVal sp o.words 0 0
    let n := opVal sp o.words 1 0
    if va % 128 ≠ 0 ∨ n = 0 ∨ n % 128 ≠ 0 then failAll s w id 10 0x20 va else
    let k := coreStack v.core
    let ps := flushPages s v.core v.ctx (n / 4096 + 2) va n
    let good := ps.flatMap fun p => match p.2.2 with | .ok e => pageLines k p.1 p.2.1 e | .error _ => []
    match ps.find? fun p => match p.2.2 with | .ok _ => false | .error _ => true with
    | some (a, _, .error st) => failAll (good.foldl (flushLine 0) s) w id 10 st a
    | _ =>
      let (fid, s) := fresh s
      let s := modWv s w fun v => modOp v id fun o => { o with left := 1 }
      refreshWindow (modStk (good.foldl (flushLine fid) s) k fun m => { m with flushes := m.flushes ++ [(fid, w, id)] }) w id

/-- R306: `msflush.range`. -/
def execMsflushRange (h : Head) (m : MExt) (s : State) : Host.Outcome State Fault Refusal :=
  let i := Instr.msflushRange h m
  let sp := specOf i
  runOp i sp false false (acquireOut (wv s s.cur.wave)) (fun a s =>
    let w := s.cur.wave
    let words := capture (wv s w) sp
    let s := advance sp s
    if a = 0 then s else
    let (id, s) := openOp i sp a 0 words s
    startFlushRange s w id) s

/-- R47: every line of stack `k`'s memory-side cache flushed and invalidated. -/
def flushStack (s : State) (k id : Nat) : State :=
  let mine := (s.msLines.filter fun e => decide (homeStack (128 * e.1) = k)).map (·.1)
  let s := mine.foldl (flushLine id) s
  { s with msLines := s.msLines.filter fun e => decide (homeStack (128 * e.1) ≠ k) }

/-- R306: `msflush.stack`; without the stack-flush right it is illegal. -/
def execMsflushStack (h : Head) (m : MExt) (s : State) : Host.Outcome State Fault Refusal :=
  let i := Instr.msflushStack h m
  let sp := specOf i
  let v := wv s s.cur.wave
  runOp i sp (!(cx s v.ctx).held.sflush) false (acquireOut v) (fun a s =>
    let w := s.cur.wave
    let s := advance sp s
    if a = 0 then s else
    let (id, s) := openOp i sp a 1 [] s
    let (fid, s) := fresh s
    let k := coreStack v.core
    refreshWindow (modStk (flushStack s k fid) k fun m => { m with flushes := m.flushes ++ [(fid, w, id)] }) w id) s

/-! ### Which of these have an occasion -/

def readyCopies (s : State) : List (Instr × List Nat) :=
  (s.cores.flatMap fun (e : Nat × Core) =>
    if e.2.scarab.isEmpty then [] else
    (match nextFetch s e.1 with | some _ => [(Instr.scarabFetch, [e.1])] | none => []) ++
    ((e.2.scarab.filter fun c => pieceGoes s c || copyOrphan s c).map fun c => (Instr.copyPiece, [c.id])) ++
    ((e.2.scarab.filter (fifoFree s)).map fun c => (Instr.scarabFifoResume, [c.id]))) ++
  ((s.pubs.filter (pubReady s)).map fun p => (Instr.pubSwap, [p.id]))

end Sys2Proof.Machine
end

