-- ==== Sys2Proof/Machine/Exact.lean ====
section
/-! DEFINITION. Exact rational arithmetic for the engines that round once (R356, R366): FP32 values as rationals, and a rational
rounded to FP32. -/

namespace Sys2Proof.Machine

/-- A power of two. -/
def pow2 (e : Int) : Rat := if 0 ≤ e then ((2 ^ e.toNat : Nat) : Rat) else 1 / ((2 ^ (-e).toNat : Nat) : Rat)

/-- The rational that an FP32 bit pattern names; none for a NaN or an infinity. -/
def ratOf (x : Nat) : Option Rat :=
  match valOf F32 x with
  | .num b m e => some ((if b then -1 else 1) * (m : Rat) * pow2 e)
  | _ => none

/-- R210: a rational rounded once to FP32 with RNE, subnormals kept; zero is delivered as +0 (R419). -/
def roundRat (q : Rat) : Nat :=
  if q = 0 then 0 else
  let (m, e) := quot q.num.natAbs q.den
  (roundNum F32 rne (decide (q < 0)) m e).bits

/-- The nearest integer, ties to even. -/
def nearestEven (q : Rat) : Int :=
  let f := q.floor
  let r := q - f
  if r < 1 / 2 then f else if 1 / 2 < r then f + 1 else if f % 2 = 0 then f else f + 1

/-- The rationals of a list of patterns; none where one of them names no number. -/
def ratsOf : List Nat → Option (List Rat)
  | [] => some []
  | x :: r => match ratOf x, ratsOf r with
    | some a, some l => some (a :: l)
    | _, _ => none

end Sys2Proof.Machine
end

