-- ==== Sys2Proof/Machine/Pattern.lean ====
section
/-! DEFINITION. The Weevil: pattern programs, the blocks they name, and the instructions on pattern slots (spec/14, R342 to R348). -/

namespace Sys2Proof.Machine

open Sys2Proof.Machine.State

/-! ### Words (R233, R343) -/

def popOf (w : Word) : Nat := bits w.toNat 31 27
/-- The signed 13-bit operands in [26:14] and [13:1]. -/
def opHi (w : Word) : Int := sext 13 (bits w.toNat 26 14)
def opLo (w : Word) : Int := sext 13 (bits w.toNat 13 1)
/-- The same bits unsigned. -/
def opHiU (w : Word) : Nat := bits w.toNat 26 14
def opLoU (w : Word) : Nat := bits w.toNat 13 1

/-- R343: a `pkron` word's r, c and mask. -/
def kronR (w : Word) : Nat := bits w.toNat 26 25 + 1
def kronC (w : Word) : Nat := bits w.toNat 24 23 + 1
def kronMask (w : Word) : Nat := bits w.toNat 22 7

/-- R343: the operands of a word lie in their limits. -/
def operandOk (w : Word) : Bool :=
  let x := w.toNat
  let even := !bit x 0
  match popOf w with
  | 0x00 | 0x08 => decide (bits x 26 0 = 0)
  | 0x01 => even
  | 0x02 => even && decide (opHi w ≤ opLo w)
  | 0x03 => decide (1 ≤ bits x 13 8) && decide (1 ≤ bits x 7 0)
  | 0x04 => even && decide (1 ≤ opHiU w) && decide (1 ≤ opLoU w)
  | 0x05 =>
    decide (bits x 6 0 = 0) && decide (kronMask w ≠ 0) &&
      (List.range 16).all fun k => !(bit (kronMask w) k) || (decide (k / 4 < kronR w) && decide (k % 4 < kronC w))
  | 0x06 => decide (bits x 5 0 = 0) && decide (1 ≤ bits x 13 6)
  | 0x07 => even
  | 0x09 => even && decide (1 ≤ bits x 26 19)
  | 0x0A => decide (bits x 26 1 = 0)
  | _ => true

/-- R344: a term. -/
def isTerm (w : Word) : Bool := match popOf w with | 2 | 3 | 4 | 6 => true | _ => false

/-- R344: the structure at word `w`, after the words `pre`. -/
def structOk (pre : List Word) (w : Word) : Bool :=
  let last := pre.getLast?
  let has := fun k : Nat => pre.any fun x => popOf x = k
  let afterKron := (last.map fun x => decide (popOf x = 5)).getD false
  (if pre.isEmpty then decide (popOf w = 1) else decide (popOf w ≠ 1)) &&
  (!afterKron || isTerm w) &&
  (match popOf w with
    | 9 => (last.map fun x => isTerm x || decide (popOf x = 9)).getD false
    | 8 => !(has 8)
    | 10 => !(has 10)
    | 0 => pre.any isTerm
    | _ => true)

/-- R344: a program of words, checked from its first word on: its length, or the cause and the index of the offending word. -/
def checkFrom (pre : List Word) : List Word → Except (Nat × Nat) Nat
  | [] => .error (3, 31)
  | w :: r =>
    let k := pre.length
    if 0x0B ≤ popOf w then .error (1, k)
    else if !(operandOk w) then .error (2, k)
    else if !(structOk pre w) then .error (4, k)
    else if popOf w = 0 then .ok (k + 1)
    else checkFrom (pre ++ [w]) r

/-! ### The predicate (R345) -/

/-- R345: a term with the row range, `pkron` and `ploop` words that it takes. -/
structure PatTerm where
  word : Word
  win : Option Word
  kron : Option Word
  loops : List Word
  deriving DecidableEq, Repr

/-- The terms of a program in order, `win` and `kron` being the latest before. -/
def termsFrom (win kron : Option Word) : List Word → List PatTerm
  | [] => []
  | w :: r =>
    if isTerm w then
      { word := w, win := win, kron := kron, loops := r.takeWhile fun x => popOf x = 9 } :: termsFrom win none r
    else if popOf w = 5 then termsFrom win (some w) r
    else if popOf w = 7 then termsFrom (some w) kron r
    else termsFrom win kron r

/-- The terms of a loaded program. -/
def termsOf (ws : List Word) : List PatTerm := termsFrom none none ws
/-- R343: block rows and block columns of P. -/
def patRows (ws : List Word) : Nat := opHiU (ws.headD 0) + 1
def patCols (ws : List Word) : Nat := opLoU (ws.headD 0) + 1
/-- The words with POP `k` occur. -/
def hasPop (ws : List Word) (k : Nat) : Bool := ws.any fun w => popOf w = k
/-- R346: PACK. -/
def patPack (ws : List Word) : Bool := ((ws.find? fun w => popOf w = 10).map fun w => bit w.toNat 0).getD false
/-- R345: the program can be enumerated transposed. -/
def invertible (ws : List Word) : Bool := !(hasPop ws 6) || hasPop ws 8

/-- R345: `phash`. -/
def hashNz (seed dens ii jj : Nat) : Bool :=
  let h := (seed * 0x9E3779B1 + ii * 0x85EBCA77 + jj * 0xC2B2AE3D) % 2 ^ 32
  let h := (h ^^^ (h >>> 16)) * 0x7FEB352D % 2 ^ 32
  let h := h ^^^ (h >>> 15)
  decide (bits h 31 24 < dens)

/-- R345: base_nz for block indices that are not negative. -/
def baseNz (w : Word) (ii jj : Nat) : Bool :=
  let x := w.toNat
  let d : Int := (jj : Int) - ii
  match popOf w with
  | 2 => decide (opHi w ≤ d) && decide (d ≤ opLo w)
  | 3 =>
    let e := d - opHi w
    let step := bits x 13 8
    decide (0 ≤ e) && decide (e.toNat % step = 0) && decide (e.toNat / step < bits x 7 0)
  | 4 => decide (ii / opHiU w = jj / opLoU w)
  | 6 => hashNz (opHiU w) (bits x 13 6) ii jj
  | _ => false

/-- R345: some sum of the loops' shifts, taken from what is left of (i, j), makes the base predicate true. -/
def shiftNz (w : Word) : List Word → Int → Int → Bool
  | [], ii, jj => decide (0 ≤ ii) && decide (0 ≤ jj) && baseNz w ii.toNat jj.toNat
  | p :: r, ii, jj =>
    (List.range (bits p.toNat 26 19 + 1)).any fun u =>
      shiftNz w r (ii - u * sext 9 (bits p.toNat 18 10)) (jj - u * sext 9 (bits p.toNat 9 1))

/-- R345: term_nz with the term's row range. -/
def termNz (t : PatTerm) (i j : Nat) : Bool :=
  let inRows := match t.win with
    | none => true
    | some w => decide (opHiU w ≤ i) && (decide (opLoU w = 0) || decide (i < opHiU w + opLoU w))
  inRows && (match t.kron with
    | none => shiftNz t.word t.loops i j
    | some k =>
      bit (kronMask k) (4 * (i % kronR k) + j % kronC k) && shiftNz t.word t.loops ((i / kronR k : Nat) : Int) ((j / kronC k : Nat) : Int))

/-- R345: nz(i, j). -/
def patNz (ws : List Word) (i j : Nat) : Bool := (termsOf ws).any fun t => termNz t i j

/-- R346: the number of blocks of row i before column j. -/
def patRank (ws : List Word) (i j : Nat) : Nat := ((List.range j).filter fun k => patNz ws i k).length

/-! ### Enumeration (R345, R348) -/

/-- The first block of line `a` (a row forward, a column transposed) at place `b` or after. -/
def nextIn (ws : List Word) (t : Bool) (a b : Nat) : Option Nat :=
  (List.range (if t then patRows ws else patCols ws)).find? fun k => decide (b ≤ k) && (if t then patNz ws k a else patNz ws a k)

/-- The first block in order from line `a`, place `b`; `n` bounds the number of lines looked at. -/
def nextBlock (ws : List Word) (t : Bool) : Nat → Nat → Nat → Option (Nat × Nat)
  | 0, _, _ => none
  | n + 1, a, b =>
    match nextIn ws t a b with
    | some k => some (a, k)
    | none => nextBlock ws t n (a + 1) 0

/-- R348: the slot with its cursor at the first block in its order from line `a`, place `b`; past the end DONE is set, and the cursor
stays as it was (log 143). -/
def seekBlock (x : PatSlot) (a b : Nat) : PatSlot :=
  let lines := if x.order then patCols x.words else patRows x.words
  match nextBlock x.words x.order (lines - a) a b with
  | none => { x with done := true }
  | some (a, b) => if x.order then { x with curI := b, curJ := a, done := false } else { x with curI := a, curJ := b, done := false }

/-- R348: the cursor at the start. -/
def startCursor (x : PatSlot) : PatSlot := seekBlock { x with curI := 0, curJ := 0 } 0 0

/-- R348: what `pgemit` returns from a slot, the block that its cursor names, and the slot with its cursor advanced. -/
def emitBlock (x : PatSlot) : Nat × PatSlot :=
  if x.done then (0xFFFFFFFF, x)
  else (x.curI + 65536 * x.curJ, if x.order then seekBlock x x.curJ (x.curI + 1) else seekBlock x x.curI (x.curJ + 1))

/-! ### Slots -/

/-- Slot `k` of a wave. -/
def slotOf (v : Wave) (k : Nat) : PatSlot := v.pats.getD k emptySlot
def setSlot (v : Wave) (k : Nat) (x : PatSlot) : Wave := { v with pats := v.pats.set k x }

/-- R348: the 64 bytes in which a slot is saved. -/
def slotRecord (x : PatSlot) : List Byte :=
  let st := match x.state with | .empty => 0 | .loaded => 1 | .invalid => 2
  let flags := b2n x.order + 2 * b2n (patPack x.words) + 4 * b2n (hasPop x.words 8) + 8 * b2n (hasPop x.words 6)
  leBytes 64 (x.addr + 2 ^ 64 * st + 2 ^ 72 * flags + 2 ^ 80 * x.words.length + 2 ^ 96 * x.row0 + 2 ^ 112 * x.curI +
    2 ^ 128 * x.curJ + 2 ^ 144 * b2n x.done)

/-- R342: an `mmap` that names slot `k` of the wave has not retired, one that is held for replay among them (R350). -/
def slotBusy (s : State) (w k : Nat) : Bool :=
  ((pr s (corePair (wv s w).core)).mats ++ (wv s w).heldMats).any fun m =>
    decide (m.wave = w) && (match m.instr with | .mmap _ n => decide (n.e.toNat = k) | _ => false)

/-- R342: a `pgload` of slot `k`, operation `id`, is under way, behind those of the slot that are. -/
def startPgload (s : State) (w k id : Nat) : State :=
  modWv s w fun v => setSlot v k { slotOf v k with loading := (slotOf v k).loading ++ [id] }

/-- R342: `pgload`. -/
def execPgload (h : Head) (n : NExt) (s : State) : Host.Outcome State Fault Refusal :=
  let i := Instr.pgload h n
  let sp := specOf i
  runOp i sp false false (slotBusy s s.cur.wave h.a.toNat || acquireOut (wv s s.cur.wave)) (fun a s =>
    let w := s.cur.wave
    let words := capture (wv s w) sp
    let s := advance sp s
    if a = 0 then s else
    let (id, s) := openOp i sp a 0 words s
    startPgload s w h.a.toNat id) s

/-- R348: `pgctx`, which no flag counts (log 148). -/
def execPgctx (h : Head) (n : NExt) (s : State) : Host.Outcome State Fault Refusal :=
  let i := Instr.pgctx h n
  let sp := specOf i
  let k := h.a.toNat
  runOp i sp false false (slotBusy s s.cur.wave k) (fun a s =>
    let w := s.cur.wave
    let v := wv s w
    let x := slotOf v k
    let t := n.shape.getLsbD 0
    if a = 0 then advance sp s
    else if x.state ≠ .loaded then raisePrecise s (trapOf i 9 0x36 s.cur.lanes)
    else if t && !(invertible x.words) then raisePrecise s (trapOf i 9 0x35 s.cur.lanes)
    else
      let r := srcVal v 0 (usrc .b h.b.toNat 1 1 false) % 8192
      modWv (advance sp s) w fun v => setSlot v k (startCursor { x with order := t, row0 := r })) s

/-- R348: `pgemit`. -/
def execPgemit (h : Head) (n : NExt) (s : State) : Host.Outcome State Fault Refusal :=
  let i := Instr.pgemit h n
  let sp := specOf i
  let k := h.a.toNat
  runOp i sp false false (slotBusy s s.cur.wave k) (fun a s =>
    let w := s.cur.wave
    let x := slotOf (wv s w) k
    if a = 0 then advance sp s
    else if x.state ≠ .loaded then raisePrecise s (trapOf i 9 0x36 s.cur.lanes)
    else
      let s := advance sp s
      let (id, s) := openOp i sp a 0 [] s
      match findOp (wv s w) id with
      | none => s
      | some o =>
        let (b, y) := emitBlock x
        addResult (modWv s w fun v => setSlot v k y) w id a (loadWrites o 4 .untyped [(0, b)])) s

/-! ### Loading (R342, R344) -/

/-- R333, R342: an engine's read for operation `op` waits for the wave's earlier accesses. -/
def readHeld (s : State) (w op : Nat) : Bool :=
  let v := wv s w
  threadBefore s w op || ((findOp v op).any fun o => decide (o.slot = 1))

/-- The words from `va` through the first `pend`, at most `n`; the first read that faults ends them. -/
def readProgram (core ctx : Nat) : Nat → Nat → State → State × Except EngFault (List Word)
  | 0, _, s => (s, .ok [])
  | n + 1, va, s =>
    match engRead s (.core core) ctx .ld va 4 with
    | (s, .error e) => (s, .error e)
    | (s, .ok x) =>
      let w := BitVec.ofNat 32 x
      if popOf w = 0 then (s, .ok [w]) else
      match readProgram core ctx n ((va + 4) % 2 ^ 64) s with
      | (s, .error e) => (s, .error e)
      | (s, .ok r) => (s, .ok (w :: r))

/-- R342: the slot after a program has been read from `va`: its words, or the STATUS word of a pattern-program fault. -/
def loadedSlot (va : Nat) (ws : List Word) : Except Nat PatSlot :=
  match checkFrom [] ws with
  | .ok n => .ok (startCursor { emptySlot with state := .loaded, addr := va, words := ws.take n })
  | .error (c, k) => .error (0x34 + 256 * c + 65536 * k)

/-- R342: PGLOAD_COMPLETE of a slot of a wave. -/
def execPgloadComplete (s : State) : Host.Outcome State Fault Refusal :=
  let w := arg s 0
  let k := arg s 1
  let v := wv s w
  let id := (slotOf v k).loading.headD 0
  let rest := (slotOf v k).loading.drop 1
  .next (orWait s (match findOp v id with
    | none => s
    | some o =>
      if readHeld s w id then s else
      let va := opVal (specOf o.instr) o.words 0 0
      let quiet := fun s : State => modWv s w fun v => setSlot v k { slotOf v k with loading := rest }
      if va % 4 ≠ 0 then failAll (quiet s) w id 10 0x20 va else
      match readProgram v.core v.ctx 32 va s with
      | (s, .error (c, st, a)) => failAll (quiet s) w id c st a
      | (s, .ok ws) =>
        match loadedSlot va ws with
        | .ok x => completeOp (modWv s w fun v => setSlot v k { x with loading := rest }) w id o.todo 0
        | .error st => failAll (modWv s w fun v => setSlot v k { emptySlot with state := .invalid, addr := va, loading := rest }) w id 10 st va))

/-- Which of these have an occasion. -/
def readyPattern (s : State) : List (Instr × List Nat) :=
  s.waves.flatMap fun (e : Nat × Wave) =>
    [0, 1].filterMap fun k =>
      match (slotOf e.2 k).loading with
      | [] => none
      | id :: _ => if (findOp e.2 id).isSome && !(readHeld s e.1 id) then some (Instr.pgloadComplete, [e.1, k]) else none

end Sys2Proof.Machine
end

