-- ==== Sys2Proof/Machine/Raster.lean ====
section
/-! DEFINITION. Views, the raster units and visibility tiles: `rast` and its fragments (spec/15, R354, R356, R357), the tile's life
up to FREE (spec/02, R54 to R57), and `tvrel` (R364). -/

namespace Sys2Proof.Machine

open Sys2Proof.Machine.State

/-! ### View descriptors (R354) -/

def vwSurf (b : List Byte) : Nat := fieldAt b 0 8
def vwTw (b : List Byte) : Nat := fieldAt b 8 2
def vwTh (b : List Byte) : Nat := fieldAt b 10 2
def vwClear (b : List Byte) : Word := BitVec.ofNat 32 (fieldAt b 12 4)
def vwTest (b : List Byte) : Nat := fieldAt b 16 1
def vwCull (b : List Byte) : Nat := fieldAt b 17 1
def vwMmap (b : List Byte) : Nat := fieldAt b 24 8
def vwMats (b : List Byte) : Nat := fieldAt b 32 8
def vwCtab (b : List Byte) : Nat := fieldAt b 40 8
def vwNmat (b : List Byte) : Nat := fieldAt b 48 2

/-- R354: every field of a view descriptor lies in its range. -/
def viewOk (b : List Byte) : Bool :=
  let dim := fun n : Nat => decide (1 ≤ n) && decide (n ≤ 4096)
  canonical (vwSurf b) && decide (vwSurf b % 128 = 0) && dim (vwTw b) && dim (vwTh b) && decide (vwTest b ≤ 4) &&
    decide (vwCull b < 4) && decide (fieldAt b 18 6 = 0) && decide (vwMats b % 16 = 0) && decide (vwCtab b % 32 = 0) &&
    decide (vwNmat b ≠ 0) && decide (fieldAt b 50 14 = 0)

/-- R354: the descriptor of view `v` of context `c`, read at the first event for the view, by the agent that meets it, and kept until its
`rflush` completes. -/
def viewOf (s : State) (ag : Agent) (c v : Nat) : State × Except EngFault (List Byte) :=
  match tget [] (cx s c).views v with
  | [] =>
    let a := ((cx s c).held.view.toNat + 64 * v) % 2 ^ 64
    match engBytes s ag c .er a 64 with
    | (s, .error e) => (s, .error e)
    | (s, .ok b) =>
      if viewOk b then (modCx s c fun x => { x with views := tset [] x.views v b }, .ok b) else (s, .error (10, 0x40, a))
  | b => (s, .ok b)

/-- R354: the identifier's fields. -/
def idView (x : Nat) : Nat := bits x 8 0
def idTri (x : Nat) : Nat := bits x 15 9
def idCluster (x : Nat) : Nat := bits x 39 16
/-- The identifier that means empty. -/
def idEmpty : Nat := 2 ^ 64 - 1

/-! ### A triangle's coverage and depth (R356) -/

/-- A triangle that is not dropped: its vertices in units of 1/256 pixel, turned so that their order is clockwise on the screen,
and their depths. -/
structure Tri where
  x : List Int
  y : List Int
  z : List Rat
  deriving DecidableEq, Repr

/-- Twice the signed area of three points; above 0 for clockwise order in pixel space. -/
def area2 (ax ay bx by' cx' cy : Int) : Int := (bx - ax) * (cy - ay) - (by' - ay) * (cx' - ax)

/-- R356: the set-up of a triangle from its 12 clip components, none where it is dropped. -/
def setupTri (b : List Byte) (ws : List Nat) : Option Tri :=
  match ratsOf ws with
  | none => none
  | some q =>
    let at_ := fun k : Nat => q.getD k 0
    let vs := [0, 1, 2]
    if vs.any fun i => decide (at_ (4 * i + 3) ≤ 0) then none else
    let n := fun i k : Nat => at_ (4 * i + k) / at_ (4 * i + 3)
    let sx := vs.map fun i => nearestEven ((n i 0 + 1) * 4 * (vwTw b : Rat) * 256)
    let sy := vs.map fun i => nearestEven ((1 - n i 1) * 4 * (vwTh b : Rat) * 256)
    match ratsOf (vs.map fun i => roundRat (n i 2)) with
    | none => none
    | some dz =>
      let p := fun k : Nat => (sx.getD k 0, sy.getD k 0)
      let a := area2 (p 0).1 (p 0).2 (p 1).1 (p 1).2 (p 2).1 (p 2).2
      if a = 0 ∨ (0 < a ∧ bit (vwCull b) 0 = true) ∨ (a < 0 ∧ bit (vwCull b) 1 = true) then none
      else
        let turn := fun {α : Type} (l : List α) => if 0 < a then l else l.reverse
        some { x := turn sx, y := turn sy, z := turn dz }

/-- The edge function of vertices `i` and `j` at a point, above 0 inside. -/
def edgeAt (t : Tri) (i j : Nat) (px py : Int) : Int :=
  area2 (t.x.getD i 0) (t.y.getD i 0) (t.x.getD j 0) (t.y.getD j 0) px py

/-- R356: a top edge, horizontal with the third vertex below it, or a left edge, with the interior to its right. -/
def topLeft (t : Tri) (i j : Nat) : Bool :=
  let dy := t.y.getD j 0 - t.y.getD i 0
  decide (dy < 0) || (decide (dy = 0) && decide (t.x.getD i 0 < t.x.getD j 0))

/-- R356: the pixel's centre, in units of 1/256. -/
def centre (p : Nat) : Int := 256 * (p : Int) + 128

/-- R356: the pixel is covered. -/
def covered (t : Tri) (px py : Nat) : Bool :=
  [(0, 1), (1, 2), (2, 0)].all fun e =>
    let f := edgeAt t e.1 e.2 (centre px) (centre py)
    decide (0 < f) || (decide (f = 0) && topLeft t e.1 e.2)

/-- R356: the depth of a pixel: the plane through the three vertices at its centre. -/
def depthAt (t : Tri) (px py : Nat) : Nat :=
  let w := fun i j : Nat => ((edgeAt t i j (centre px) (centre py) : Int) : Rat)
  let z := fun k : Nat => t.z.getD k 0
  let a := ((area2 (t.x.getD 0 0) (t.y.getD 0 0) (t.x.getD 1 0) (t.y.getD 1 0) (t.x.getD 2 0) (t.y.getD 2 0) : Int) : Rat)
  roundRat ((w 1 2 * z 0 + w 2 0 * z 1 + w 0 1 * z 2) / a)

/-- The whole pixels, below `n`, that values in units of 1/256 span. -/
def span (xs : List Int) (n : Nat) : Nat × Nat :=
  let lo := xs.foldl min (xs.headD 0)
  let hi := xs.foldl max (xs.headD 0)
  ((max 0 (lo / 256)).toNat, if hi < 0 then 0 else min n ((hi / 256).toNat + 1))

/-- The numbers from `a` below `b`. -/
def fromTo (a b : Nat) : List Nat := (List.range (b - a)).map fun k => a + k

/-- R356: the tiles that a triangle touches, by number, each with its covered pixels (place in the tile, depth). -/
def coverage (b : List Byte) (t : Tri) : List (Nat × List (Nat × Nat)) :=
  let (x0, x1) := span t.x (8 * vwTw b)
  let (y0, y1) := span t.y (8 * vwTh b)
  let ts := (fromTo (y0 / 8) ((y1 + 7) / 8)).flatMap fun ty => (fromTo (x0 / 8) ((x1 + 7) / 8)).map fun tx => (tx, ty)
  ts.filterMap fun (tx, ty) =>
    let ps := (List.range 64).filterMap fun k =>
      let px := 8 * tx + k % 8
      let py := 8 * ty + k / 8
      if covered t px py then some (k, depthAt t px py) else none
    if ps.isEmpty then none else some (vwTw b * ty + tx, ps)

/-! ### The tile's lines (R54) -/

/-- R54: the raster unit's check of a tile's page: kind NORMAL first (0x05), then W = 1 (0x03). -/
def tilePage (e : TlbEntry) : Option Nat := if e.kind ≠ .normal then some 5 else if !e.w then some 3 else none

/-- R54: the translation of one line of a tile by the raster unit of stack `k`, as class CD; the frame becomes SHARED and its owners'
bytes come home. -/
def tileLine (s : State) (k c va : Nat) : State × Except EngFault Nat :=
  match translateBy s (.unit k) c (clsNum .cd) true va fun _ e => tilePage e with
  | (s, .error st) => (s, .error (10, st, va))
  | (s, .ok e) =>
    let pa := physOf s e .cd va
    let s := classify s (frameOf pa) none
    (if lineBusy s pa 128 then mustWait s else reach s pa 128 true 0xFFFF, .ok (lineOf pa))

/-- The lines from `va` on, `n` of them. -/
def tileLines (k c : Nat) : Nat → Nat → State → State × Except EngFault (List Nat)
  | 0, _, s => (s, .ok [])
  | n + 1, va, s =>
    match tileLine s k c va with
    | (s, .error e) => (s, .error e)
    | (s, .ok l) =>
      match tileLines k c n ((va + 128) % 2 ^ 64) s with
      | (s, .error e) => (s, .error e)
      | (s, .ok r) => (s, .ok (l :: r))

/-! ### `rast` -/

/-- R356: `rast`: one triangle for each lane, to be set up in lane order (R357). -/
def execRast (h : Head) (n : NExt) (s : State) : Host.Outcome State Fault Refusal :=
  let i := Instr.rast h n
  let sp := specOf i
  runOp i sp false false (acquireOut (wv s s.cur.wave)) (fun m s =>
    let w := s.cur.wave
    let words := capture (wv s w) sp
    let s := advance sp s
    if m = 0 then s else
    let (id, s) := openOp i sp m 0 words s
    startRast s w id m) s
where
  /-- The triangles of lanes `m` of operation `id`; helper lanes make none (R362). -/
  startRast (s : State) (w id : Nat) (m : Lanes) : State :=
    let v := wv s w
    let one := fun (s : State) (l : Nat) =>
      let (fid, s) := fresh s
      { s with frags := s.frags ++ [{ id := fid, wave := w, op := id, lane := l, ctx := v.ctx, view := 0, tile := 0, lines := [],
                                      pixel := 0, ident := 0, depth := 0, held := 3, arrived := 0 }] }
    completeOp ((lanesOf (m &&& ~~~v.helpers)).foldl one s) w id (m &&& v.helpers) 0

/-- R54, R390: a `rast` performed again for lanes `m`: a lane some of whose fragments faulted applies only those. -/
def resumeRast (s : State) (w id : Nat) (m : Lanes) : State :=
  match findOp (wv s w) id with
  | none => s
  | some o =>
    let s := execRast.startRast s w id m
    (lanesOf m).foldl
      (fun s l =>
        let mine := fun x : Instr × Nat × List Nat => decide (x.1 = o.instr) && decide (x.2.1 = l)
        match (wv s w).rastHeld.find? mine with
        | none => s
        | some (_, _, ts) =>
          let s := modWv s w fun v => { v with rastHeld := ((pullFirst mine v.rastHeld).map Prod.snd).getD v.rastHeld }
          -- the head of the list names the operation whose other fragments are still on their way
          { s with frags := s.frags.map fun f =>
              if f.wave = w ∧ f.lane = l ∧ f.op = id ∧ f.held = 3 then { f with lines := ts.drop 1 }
              else if f.wave = w ∧ f.lane = l ∧ f.op = ts.headD 0 then { f with op := id } else f }) s

/-- R353: a lane of a `rast` is complete once none of its fragments is left. -/
def rastLaneDone (s : State) (w op l : Nat) : State :=
  let faulted := (findOp (wv s w) op).any fun o => inLanes o.flanes l
  if faulted || s.frags.any fun f => decide (f.wave = w) && decide (f.op = op) && decide (f.lane = l) then s
  else completeOp s w op (lane1 l) 0

/-- The fragments of one tile of a set-up triangle, or the tile's fault. -/
def tileFrags (f : Fragment) (view : Nat) (b : List Byte) (ident : Nat) (s : State) (t : Nat × List (Nat × Nat)) :
    State × Except EngFault (List Fragment) :=
  match tileLines (coreStack (wv s f.wave).core) f.ctx 6 ((vwSurf b + 768 * t.1) % 2 ^ 64) s with
  | (s, .error e) => (s, .error e)
  | (s, .ok ls) =>
    let one := fun (x : State × List Fragment) (p : Nat × Nat) =>
      let (fid, s) := fresh x.1
      (s, x.2 ++ [{ f with id := fid, view := view, tile := t.1, lines := ls, pixel := p.1, ident := ident,
                           depth := BitVec.ofNat 32 p.2, held := 0, arrived := 0 }])
    let (s, fs) := t.2.foldl one (s, [])
    (s, .ok fs)

/-- All tiles of a triangle: the fragments, the tiles that faulted, and the first fault. -/
def allFrags (f : Fragment) (view : Nat) (b : List Byte) (ident : Nat) (ts : List (Nat × List (Nat × Nat))) (s : State) :
    State × List Fragment × List Nat × Option EngFault :=
  ts.foldl
    (fun x t =>
      let (s, fs, bad, e) := x
      match tileFrags f view b ident s t with
      | (s, .ok r) => (s, fs ++ r, bad, e)
      | (s, .error y) => (s, fs, bad ++ [t.1], if e.isNone then some y else e)) (s, [], [], none)

/-- R356: the set-up of a lane's triangle `f`: its fragments take its place, or the lane faults. -/
def setupFrag (s : State) (f : Fragment) : State :=
  let w := f.wave
  let v := wv s w
  let drop := fun s : State => { s with frags := s.frags.filter fun x => x.id ≠ f.id }
  let fail := fun (s : State) (held : List Nat) (e : EngFault) =>
    let s := modWv (drop s) w fun v =>
      if held.isEmpty then v else match findOp v f.op with
        | some o => { v with rastHeld := v.rastHeld ++ [(o.instr, f.lane, f.op :: held)] }
        | none => v
    failLanes s w f.op e.1 [(f.lane, e.2.1, e.2.2)]
  match findOp v f.op with
  | none => drop s
  | some o =>
    let sp := specOf o.instr
    let ident := opVal sp o.words 1 f.lane
    if ident = idEmpty then fail s f.lines (10, 0x41, 0) else
    match viewOf s (.unit (coreStack v.core)) f.ctx (idView ident) with
    | (s, .error e) => fail s f.lines e
    | (s, .ok b) =>
      let ws := (natWords 12 (opVal sp o.words 0 f.lane)).map (·.toNat)
      match setupTri b ws with
      | none => rastLaneDone (drop s) w f.op f.lane
      | some t =>
        let ts := (coverage b t).filter fun x => f.lines.isEmpty || f.lines.contains x.1
        let (s, fs, bad, e) := allFrags f (idView ident) b ident ts s
        let s := { s with frags := s.frags.flatMap fun x => if x.id = f.id then f :: fs else [x] }
        match e with
        | some e => fail s bad e
        | none => rastLaneDone (drop s) w f.op f.lane

/-! ### A fragment at its tile's home (R55 to R57) -/

/-- R356: a depth wins against the one in the tile; a NaN never does. -/
def depthWins (mode new old : Nat) : Bool :=
  let x := valOf F32 new
  let y := valOf F32 old
  let ok := !(isNan x) && !(isNan y)
  match mode with
  | 0 => ok && ltV y x && !(eqV x y)
  | 1 => ok && (ltV y x || eqV x y)
  | 2 => ok && ltV x y && !(eqV x y)
  | 3 => ok && (ltV x y || eqV x y)
  | _ => true

/-- Bytes of a tile with the low `n` bytes of a number placed at `o`. -/
def putTile (bs : List Byte) (o n x : Nat) : List Byte := bs.take o ++ leBytes n x ++ bs.drop (o + n)

/-- The fragment tested against tile `t` under the view descriptor `b`, and written where it wins. -/
def testFrag (b : List Byte) (f : Fragment) (t : Tile) : Tile :=
  let z := 512 + 4 * f.pixel
  if depthWins (vwTest b) f.depth.toNat (fieldAt t.bytes z 4) then
    { t with bytes := putTile (putTile t.bytes (8 * f.pixel) 8 f.ident) z 4 f.depth.toNat }
  else t

/-- The physical address by which a fragment's tile is known. -/
def fragPa (f : Fragment) : Nat := 128 * f.lines.headD 0

/-- R55: the fragment's tile is OPEN. -/
def fragOpen (s : State) (f : Fragment) : Bool :=
  let t := tget freeTile s.tiles (fragPa f)
  decide (t.state = .opened) && decide (t.ctx = f.ctx) && decide (t.view = f.view) && decide (t.index = f.tile)

/-- R54: a line of the fragment's tile belongs to a tile that is not FREE. -/
def linesTaken (s : State) (f : Fragment) : Bool := s.tiles.any fun (e : Nat × Tile) => e.2.lines.any fun l => f.lines.contains l

/-- R57: one more tile on the fragment's stack would exceed the context's pin limit. -/
def pinLimited (s : State) (f : Fragment) : Bool :=
  let k := homeStack (fragPa f)
  decide ((cx s f.ctx).held.pin.toNat ≤
    (s.tiles.filter fun (e : Nat × Tile) => decide (e.2.ctx = f.ctx) && decide (homeStack e.1 = k)).length)

/-- R55: the first fragment opens its tile: words registered since are brought home, to memory; six lines are pinned, the identifiers
all ones, the depths clear. -/
def openTile (s : State) (f : Fragment) (b : List Byte) : State :=
  let pa := fragPa f
  let t : Tile :=
    { freeTile with
      ctx := f.ctx, view := f.view, index := f.tile, state := .opened, lines := f.lines,
      bytes := List.replicate 512 0xFF ++ (List.replicate 64 (leBytes 4 (vwClear b).toNat)).flatten }
  let s := f.lines.foldl (fun s l => settleLine s l (BitVec.allOnes 128) true) s
  f.lines.foldl (fun s l => pinLine s l (pa + 1)) { s with tiles := tset freeTile s.tiles pa t }

/-- R52: the tile's pins have all been placed. -/
def pinned (s : State) (pa : Nat) : Bool := !(s.pinWait.any fun p => p.2 = pa + 1)

/-- R55: the fragment waits at its tile's home for `held`, in the place of its arrival there. -/
def waitFrag (s : State) (f : Fragment) (held : Nat) : State :=
  let (k, s) := if f.arrived = 0 then fresh s else (f.arrived, s)
  { s with frags := s.frags.map fun x => if x.id = f.id then { f with held := held, arrived := k } else x }

/-- R356: the fragment applied to its open tile. -/
def applyOpen (s : State) (f : Fragment) (b : List Byte) : State :=
  let pa := fragPa f
  if !(pinned s pa) then waitFrag s f 0 else
  let s := { s with tiles := tmod freeTile s.tiles pa (testFrag b f), frags := s.frags.filter fun x => x.id ≠ f.id }
  rastLaneDone s f.wave f.op f.lane

/-- R356, R55: a fragment at its tile's home: applied, or held until the tile is FREE or the pin limit allows. -/
def arriveFrag (s : State) (f : Fragment) : State :=
  match viewOf s (.unit (coreStack (wv s f.wave).core)) f.ctx f.view with
  | (s, .error e) =>
    failLanes { s with frags := s.frags.filter fun x => x.id ≠ f.id } f.wave f.op e.1 [(f.lane, e.2.1, e.2.2)]
  | (s, .ok b) =>
    if fragOpen s f then applyOpen s f b
    else if linesTaken s f then waitFrag s f 1
    else if pinLimited s f then waitFrag s f 2
    else applyOpen (openTile s f b) f b

/-- R55, R357: an earlier fragment of the wave for the same tile, or an earlier triangle of the wave, comes first, and so does a fragment
of any wave that waits at the tile's home and arrived there before. -/
def fragBehind (s : State) (f : Fragment) : Bool :=
  (decide (f.held ≠ 3) && s.frags.any fun x => decide (x.lines = f.lines) && decide (x.held ≠ 3) && decide (x.arrived ≠ 0) &&
    decide (f.arrived = 0 ∨ x.arrived < f.arrived)) ||
  (s.frags.takeWhile fun x => x.id ≠ f.id).any fun x =>
    decide (x.wave = f.wave) && (decide (x.held = 3) || (decide (f.held ≠ 3) && decide (x.lines = f.lines)))

/-- A triangle or fragment that may go on by RAST_FRAGMENT. -/
def fragReady (s : State) (f : Fragment) : Bool :=
  !(fragBehind s f) &&
    (if f.held = 3 then !(readHeld s f.wave f.op) && !(engineBefore s f.wave f.op) && (readersBefore s f.wave f.op).isEmpty
     else decide (f.held = 0) && pinned s (fragPa f))

/-- R55: a held fragment whose tile's lines are free, or whose tile has opened again. -/
def fragResumes (s : State) (f : Fragment) : Bool :=
  decide (f.held = 1) && !(fragBehind s f) && (fragOpen s f || !(linesTaken s f))
/-- R57: a fragment held at the pin limit that may go on. -/
def fragUnpinned (s : State) (f : Fragment) : Bool :=
  decide (f.held = 2) && !(fragBehind s f) && (linesTaken s f || !(pinLimited s f))

/-- The fragment the event names, where `p` holds of it. -/
def fragEvent (p : State → Fragment → Bool) (f : State → Fragment → State) (s : State) : Host.Outcome State Fault Refusal :=
  .next (match s.frags.find? fun x => x.id = arg s 0 with
    | some x => if p s x then orWait s (f s x) else s
    | none => s)

/-- R356: RAST_FRAGMENT: a triangle's set-up, or a fragment's arrival. -/
def execRastFragment (s : State) : Host.Outcome State Fault Refusal :=
  fragEvent fragReady (fun s f => if f.held = 3 then setupFrag s f else arriveFrag s f) s

/-- R55: TILE_FRAGMENT_RESUME. -/
def execTileFragmentResume (s : State) : Host.Outcome State Fault Refusal := fragEvent fragResumes arriveFrag s

/-- R57: PIN_LIMIT_RESUME. -/
def execPinLimitResume (s : State) : Host.Outcome State Fault Refusal := fragEvent fragUnpinned arriveFrag s

/-! ### References (R55, R56) -/

/-- R55: wave `w`'s reference on the tile at `pa` is released. -/
def releaseRef (s : State) (pa w : Nat) : State :=
  let t := tget freeTile s.tiles pa
  let rs := t.refs.filter fun x => x ≠ w
  let s := { s with tiles := tset freeTile s.tiles pa { t with refs := rs } }
  if t.state = .shading ∧ rs.isEmpty then tileToFree s pa else s

/-- R56: the wave has a reference on the tile at `pa` and has ended. -/
def refOver (s : State) (pa w : Nat) : Bool :=
  (tget freeTile s.tiles pa).refs.contains w && !(wv s w).live &&
    !(s.ctxs.any fun (e : Nat × Ctx) => e.2.launches.any fun l => decide (l.id = w) && l.placed.isEmpty)

/-- R55: TILE_REFERENCE_RELEASE of a tile by an ended wave. -/
def execTileReferenceRelease (s : State) : Host.Outcome State Fault Refusal :=
  .next (if refOver s (arg s 0) (arg s 1) then releaseRef s (arg s 0) (arg s 1) else s)

/-- R364: `tvrel`. -/
def execTvrel (h : Head) (n : NExt) (s : State) : Host.Outcome State Fault Refusal :=
  let i := Instr.tvrel h n
  let sp := specOf i
  runOp i sp false false false (fun m s =>
    let w := s.cur.wave
    let s := advance sp s
    if m = 0 then s
    else (tkeys s.tiles fun t => t.refs.contains w).foldl (fun s pa => releaseRef s pa w) s) s

/-! ### Which of these have an occasion -/

def readyRaster (s : State) : List (Instr × List Nat) :=
  ((s.frags.filter (fragReady s)).map fun f => (Instr.rastFragment, [f.id])) ++
  ((s.frags.filter (fragResumes s)).map fun f => (Instr.tileFragmentResume, [f.id])) ++
  ((s.frags.filter (fragUnpinned s)).map fun f => (Instr.pinLimitResume, [f.id])) ++
  s.tiles.flatMap fun (e : Nat × Tile) => (e.2.refs.filter (refOver s e.1)).map fun w => (Instr.tileReferenceRelease, [e.1, w])

end Sys2Proof.Machine
end

