-- ==== Sys2Proof/Machine/Attr.lean ====
section
/-! DEFINITION. The attribute engines: `attr` (spec/15, R365 to R367; R419), and results written to registers (R172), among them
those an attribute engine has still to compute. -/

namespace Sys2Proof.Machine

open Sys2Proof.Machine.State

/-! ### Cluster records (R365) -/

def clVbase (b : List Byte) : Nat := fieldAt b 0 8
def clIbase (b : List Byte) : Nat := fieldAt b 8 8
def clStride (b : List Byte) : Nat := fieldAt b 16 2
def clNattr (b : List Byte) : Nat := fieldAt b 18 1
def clNtri (b : List Byte) : Nat := fieldAt b 19 1

/-- Consecutive reads of an attribute engine: address and length of each. -/
def readEach (ag : Agent) (c : Nat) : List (Nat × Nat) → State → State × Except EngFault (List Nat)
  | [], s => (s, .ok [])
  | (a, n) :: r, s =>
    match engRead s ag c .er (a % 2 ^ 64) n with
    | (s, .error e) => (s, .error e)
    | (s, .ok x) =>
      match readEach ag c r s with
      | (s, .error e) => (s, .error e)
      | (s, .ok xs) => (s, .ok (x :: xs))

/-! ### Barycentrics (R366) -/

/-- Values at the three vertices, or the three weights of them. -/
abbrev Three := Rat × Rat × Rat

def dot3 (a b : Three) : Rat := a.1 * b.1 + a.2.1 * b.2.1 + a.2.2 * b.2.2
def sum3 (a : Three) : Rat := a.1 + a.2.1 + a.2.2
/-- The cross terms of R366: p[j] q[k] - p[k] q[j] for each i. -/
def cross3 (p q : Three) : Three :=
  (p.2.1 * q.2.2 - p.2.2 * q.2.1, p.2.2 * q.1 - p.1 * q.2.2, p.1 * q.2.1 - p.2.1 * q.1)
def map3 (f : Rat → Rat → Rat) (a b : Three) : Three := (f a.1 b.1, f a.2.1 b.2.1, f a.2.2 b.2.2)

/-- R366: the weights of a pixel and their derivatives in x and y, from the clip x, y and w of the vertices; none where S = 0. -/
def baryOf (tw th px py : Nat) (x y w : Three) : Option (Three × Three × Three) :=
  let wp : Rat := ((8 * tw : Nat) : Rat)
  let hp : Rat := ((8 * th : Nat) : Rat)
  let cx' : Rat := ((2 * px + 1 : Nat) : Rat) / wp - 1
  let cy : Rat := 1 - ((2 * py + 1 : Nat) : Rat) / hp
  let a := cross3 y w
  let b := cross3 w x
  let c := cross3 x y
  let f := map3 (· + ·) (map3 (fun a b => a * cx' + b * cy) a b) c
  let s := sum3 f
  if s = 0 then none else
  let der := fun (g : Three) (q : Rat) => map3 (fun gi fi => q * (gi * s - fi * sum3 g) / (s * s)) g f
  some (map3 (fun fi _ => fi / s) f f, der a (2 / wp), der b (-2 / hp))

/-- The three rationals of three patterns. -/
def three (a b c : Nat) : Option Three :=
  match ratOf a, ratOf b, ratOf c with | some x, some y, some z => some (x, y, z) | _, _, _ => none

/-- What a lane of `attr` asks for: mode, first attribute, how many, and its shading record. -/
structure AttrReq where
  mode : Nat
  first : Nat
  n : Nat
  rec_ : List Word
  deriving DecidableEq, Repr

def AttrReq.word (q : AttrReq) (k : Nat) : Nat := (q.rec_.getD k 0).toNat
def AttrReq.ident (q : AttrReq) : Nat := q.word 1 + 2 ^ 32 * q.word 2
/-- R361: bit 1 of the flags marks a ray lane. -/
def AttrReq.ray (q : AttrReq) : Bool := bit (q.word 4) 1
/-- How many registers the request fills. -/
def AttrReq.outs (q : AttrReq) : Nat := match q.mode with | 0 => 6 | 1 => q.n | _ => 3 * q.n

/-- R366: the weights of a lane, from the vertices' clip words; none where they are no numbers or S = 0. -/
def weightsOf (b : List Byte) (q : AttrReq) (vs : List Nat) : Option (Three × Three × Three) :=
  if q.ray then
    match ratOf (q.word 5), ratOf (q.word 6) with
    | some u, some v => some ((1 - u - v, u, v), (0, 0, 0), (0, 0, 0))
    | _, _ => none
  else
    let comp := fun o : Nat => three (bits (vs.getD 0 0) (o + 31) o) (bits (vs.getD 1 0) (o + 31) o) (bits (vs.getD 2 0) (o + 31) o)
    match comp 0, comp 32, comp 96 with
    | some x, some y, some w => baryOf (vwTw b) (vwTh b) (bits (q.word 0) 15 0) (bits (q.word 0) 31 16) x y w
    | _, _, _ => none

/-- R366: the exact results of a lane; none where they are the canonical NaN. -/
def attrVals (b : List Byte) (q : AttrReq) (vs : List Nat) : Option (List Rat) :=
  match weightsOf b q vs with
  | none => none
  | some (l, dx, dy) =>
    if q.mode = 0 then some [l.2.1, l.2.2, dx.2.1, dy.2.1, dx.2.2, dy.2.2] else
    let at_ := fun k : Nat =>
      let o := 8 * (16 + 4 * (q.first + k))
      three (bits (vs.getD 0 0) (o + 31) o) (bits (vs.getD 1 0) (o + 31) o) (bits (vs.getD 2 0) (o + 31) o)
    (List.range q.n).foldl
      (fun r k => match r, at_ k with
        | some r, some x => some (r ++ if q.mode = 1 then [dot3 l x] else [dot3 l x, dot3 dx x, dot3 dy x])
        | _, _ => none) (some [])

/-- R366: the registers that one lane gets, or its fault, by the attribute engine `ag`. -/
def attrLane (s : State) (ag : Agent) (c : Nat) (q : AttrReq) : State × Except EngFault (List Nat) :=
  match viewOf s ag c (idView q.ident) with
  | (s, .error e) => (s, .error e)
  | (s, .ok b) =>
    let ca := (vwCtab b + 32 * idCluster q.ident) % 2 ^ 64
    match engBytes s ag c .er ca 32 with
    | (s, .error e) => (s, .error e)
    | (s, .ok cl) =>
      let t := idTri q.ident
      let done := fun vs => .ok ((match attrVals b q vs with
        | some r => r.map roundRat
        | none => List.replicate q.outs F32.nanBits))
      if clNtri cl ≤ t ∨ (q.mode ≠ 0 ∧ clNattr cl < q.first + q.n) then (s, .error (10, 0x42, ca))
      else if q.mode = 0 ∧ q.ray = true then (s, done [])
      else
        match readEach ag c ((List.range 3).map fun k => (clIbase cl + 3 * t + k, 1)) s with
        | (s, .error e) => (s, .error e)
        | (s, .ok is) =>
          match readEach ag c (is.map fun i => (clVbase cl + clStride cl * i, if q.mode = 0 then 16 else 16 + 4 * (q.first + q.n))) s with
          | (s, .error e) => (s, .error e)
          | (s, .ok vs) => (s, done vs)

/-! ### `attr` -/

/-- R366: `attr`: its engine's results are computed when they are written (RESULT_WRITEBACK), behind the thread's earlier
accesses. -/
def execAttr (h : Head) (n : NExt) (s : State) : Host.Outcome State Fault Refusal :=
  let i := Instr.attr h n
  let sp := specOf i
  runOp i sp false false (acquireOut (wv s s.cur.wave)) (fun m s =>
    let w := s.cur.wave
    let words := capture (wv s w) sp
    let s := advance sp s
    if m = 0 then s else
    let (id, s) := openOp i sp m 0 words s
    addResultIn 22 s w id m noWrites) s

/-- The request of a lane of an `attr`. -/
def attrReq (n : NExt) (o : Opr) (l : Nat) : AttrReq :=
  { mode := (n.shape.extractLsb' 0 2).toNat, first := n.e.toNat, n := (n.shape.extractLsb' 2 3).toNat + 1,
    rec_ := natWords 8 (opVal (specOf o.instr) o.words 0 l) }

/-- R366, R367: the lanes `ls` of an `attr`, in order: results written, or the lane's fault. -/
def attrLanes (w : Nat) (n : NExt) (o : Opr) : List Nat → State → State
  | [], s => s
  | l :: r, s =>
    match attrLane s (.unit (coreStack (wv s w).core)) (wv s w).ctx (attrReq n o l) with
    | (s, .error e) => attrLanes w n o r (failLanes s w o.id e.1 [(l, e.2.1, e.2.2)])
    | (s, .ok xs) =>
      let ws := { noWrites with regs := ((dstRegs (specOf o.instr)).zip xs).map fun x => (l, x.1, BitVec.ofNat 32 x.2, Tag.f32) }
      attrLanes w n o r (modWv s w fun v => complete (land true v ws) o.id (lane1 l) 0)

/-- The `attr` that a result belongs to. -/
def attrOf (v : Wave) (r : Result) : Option (Opr × NExt) :=
  match findOp v r.op with
  | some o => (match o.instr with | .attr _ n => some (o, n) | _ => none)
  | none => none

/-- A result that may be written now (R69): of an `attr`, once the engine's reads may be made. -/
def resultReady (s : State) (w : Nat) (r : Result) : Bool :=
  decide (r.due ≤ cycAt s (wv s w).core) && match attrOf (wv s w) r with
  | some (o, _) => !(readHeld s w o.id) && !(engineBefore s w o.id)
  | none => true

/-- R172: RESULT_WRITEBACK: the registers of a result are written and become full, and its operation is complete for its
lanes. -/
def execResultWriteback (s : State) : Host.Outcome State Fault Refusal :=
  let w := arg s 0
  .next (match (wv s w).results.find? fun r => r.id = arg s 1 with
    | none => s
    | some r =>
      if !(resultReady s w r) then s else
      let s0 := s
      let s := modWv s w fun v => { v with results := v.results.filter fun x => x.id ≠ r.id }
      match attrOf (wv s w) r with
      | some (o, n) => orWait s0 (attrLanes w n o (lanesOf r.lanes) s)
      | none => modWv s w fun v => complete (land true v r.writes) r.op r.lanes 0)

/-- Which results may be written. -/
def readyResults (s : State) : List (Instr × List Nat) :=
  s.waves.flatMap fun (e : Nat × Wave) => (e.2.results.filter (resultReady s e.1)).map fun r => (Instr.resultWriteback, [e.1, r.id])

end Sys2Proof.Machine
end

