-- ==== Sys2Proof/Machine/Kernels.lean ====
section
/-! DEFINITION. Kernel descriptors (spec/10, R241). -/

namespace Sys2Proof.Machine

open Sys2Proof.Machine.State

/-- R241, R238: the fields of a descriptor lie in their ranges. -/
def kernelOk (b : List Byte) : Bool :=
  let f := fieldAt b
  let gx := f 12 2
  let gy := f 14 2
  let gz := f 16 2
  canonical (f 0 8) && decide (f 0 8 % 4 = 0) && decide (1 ≤ f 8 2) && decide (f 8 2 ≤ 256) && decide (2 ≤ f 10 1) &&
    decide (f 10 1 ≤ 128) && decide (f 11 1 ≤ 64) && decide (1 ≤ gx * gy * gz) && decide (gx * gy * gz ≤ 1024) &&
    decide (f 18 1 ≤ 7) && decide (f 19 1 = 0) && decide (f 20 1 + f 21 1 ≤ 60) && decide (4 ≤ f 22 1) &&
    decide (f 22 1 ≤ f 23 1) && decide (f 23 1 ≤ 62) && decide (f 20 1 + f 21 1 + f 22 1 ≤ 64) && decide (f 24 4 ≤ 20000) &&
    decide (f 30 2 = 0) && canonical (f 32 8) && decide (f 32 8 % 64 = 0) && (decide (f 28 2 ≠ 0) || decide (f 32 8 = 0)) &&
    decide (bits (f 40 24) 191 180 = 0)

/-- R241: the kernel that a well-formed descriptor at `a` describes. -/
def kernelOf (a : Nat) (b : List Byte) : Option Kernel :=
  let f := fieldAt b
  if !(kernelOk b) then none else
  some { desc := a, entry := f 0 8, regs := f 8 2, uregs := f 10 1, accum := f 11 1, gx := f 12 2, gy := f 14 2, gz := f 16 2,
         stage := f 18 1, scratch := f 20 1, fifo := f 21 1, cacheMin := f 22 1, cacheMax := f 23 1, yieldMax := f 24 4,
         nLive := f 28 2, liveTab := f 32 8,
         waits := 0 :: (List.range 15).map fun k => BitVec.ofNat 12 (f 40 24 >>> (12 * k)) }

/-- The kernel whose descriptor stands at `a`, read by the agent `ag`: a fault of its read, or none where it is malformed. -/
def kernelAt (s : State) (ag : Agent) (c a : Nat) : State × Except EngFault (Option Kernel) :=
  if a % 64 ≠ 0 then (s, .ok none) else
  match engBytes s ag c .er a 64 with
  | (s, .error e) => (s, .error e)
  | (s, .ok b) => (s, .ok (kernelOf a b))

/-- R179, R360: a kernel of one-wave groups that begin with eight lane registers. -/
def laneKernel (k : Kernel) : Bool :=
  decide (k.gx = 32 ∧ k.gy = 1 ∧ k.gz = 1 ∧ k.stage = 0) && decide (8 ≤ k.regs)

end Sys2Proof.Machine
end

