-- ==== Sys2Proof/Machine/Formica.lean ====
section
/-! DEFINITION. Formica: `rflush`, the scan of closed tiles, `hitbin`, bins and the shading waves they form (spec/15, R355, R358 to
R363, R417; spec/02, R55). -/

namespace Sys2Proof.Machine

open Sys2Proof.Machine.State

/-! ### `rflush` (R358) -/

/-- R358: `rflush`. -/
def execRflush (h : Head) (n : NExt) (s : State) : Host.Outcome State Fault Refusal :=
  let i := Instr.rflush h n
  let sp := specOf i
  runOp i sp false false (acquireOut (wv s s.cur.wave)) (fun m s =>
    let w := s.cur.wave
    let words := capture (wv s w) sp
    let s := advance sp s
    if m = 0 then s else
    let (id, s) := openOp i sp m 0 words s
    startRflush s w id) s
where
  /-- Operation `id` begins; a view of 512 or more faults. -/
  startRflush (s : State) (w id : Nat) : State :=
    match findOp (wv s w) id with
    | none => s
    | some o =>
      let v := opVal (specOf o.instr) o.words 0 0
      if 512 ≤ v then failAll s w id 10 0x41 0 else
      let (fid, s) := fresh s
      { s with flushes := s.flushes ++ [{ id := fid, wave := w, op := id, ctx := (wv s w).ctx, view := v, started := false,
                                          toClose := [], closed := [], drained := false }] }

/-- R358: a `rast` that the wave issued before operation `op` has not been applied. -/
def rastBefore (s : State) (w op : Nat) : Bool :=
  let v := wv s w
  v.ops.any fun o => (match o.instr with | .rast .. => true | _ => false) && opBefore v o.id op

/-- R358: the flush may send its closes. -/
def flushMayStart (s : State) (f : Flush) : Bool := !f.started && !(rastBefore s f.wave f.op)

/-- R358: the flush with its closes sent to the view's open tiles. -/
def startFlush (s : State) (f : Flush) : Flush :=
  { f with
    started := true
    toClose := tkeys s.tiles fun t => decide (t.state = .opened) && decide (t.ctx = f.ctx) && decide (t.view = f.view) }

def findFlushOf (s : State) (id : Nat) : Option Flush := s.flushes.find? fun f => f.id = id
def putFlush (s : State) (f : Flush) : State := { s with flushes := s.flushes.map fun x => if x.id = f.id then f else x }

/-- R55: TILE_CLOSE: the close of a flush reaches a tile; a tile that is OPEN becomes CLOSED. The first close of a flush finds
which tiles there are. -/
def execTileClose (s : State) : Host.Outcome State Fault Refusal :=
  .next (match findFlushOf s (arg s 0) with
    | none => s
    | some f =>
      let f := if flushMayStart s f then startFlush s f else f
      let pa := arg s 1
      if !(f.toClose.contains pa) then putFlush s f else
      let t := tget freeTile s.tiles pa
      let s := putFlush s { f with toClose := f.toClose.filter fun x => x ≠ pa, closed := f.closed ++ [pa] }
      if t.state ≠ .opened then s else
      let (k, s) := fresh s
      { s with tiles := tset freeTile s.tiles pa { t with state := .closed, closedBy := f.id, order := k } })

/-! ### The scan (R359) -/

/-- R359: a fault of a scan, or a bad material: an entry of the context's fault log that traps no wave. -/
def formicaReport (s : State) (c opk : Nat) (e : EngFault) : State :=
  logEntry s c (report (e.2.1 % 256) e.1 opk 0 e.2.2 e.2.1)

/-- R355: FM_MATERIAL, with the address of the material map's entry or of the material record. -/
def badMaterial (s : State) (c a : Nat) : State := formicaReport s c 0 (10, 0x49, a)

/-- R355: where the material of a cluster stands. -/
def mmapAt (b : List Byte) (cluster : Nat) : Nat := (vwMmap b + 2 * cluster) % 2 ^ 64
/-- R355: the material of a cluster. -/
def materialOf (s : State) (ag : Agent) (c : Nat) (b : List Byte) (cluster : Nat) : State × Except EngFault Nat :=
  engRead s ag c .er (mmapAt b cluster) 2
/-- R355: where a material record stands. -/
def matAt (b : List Byte) (m : Nat) : Nat := (vwMats b + 32 * m) % 2 ^ 64
/-- R355: a material record. -/
def matRecord (s : State) (ag : Agent) (c : Nat) (b : List Byte) (m : Nat) : State × Except EngFault (List Byte) :=
  engBytes s ag c .er (matAt b m) 32

/-- A pixel of a scanned tile: its place, identifier, depth and, where it is shaded, its material with that material's QUAD flag;
`lost` where a read for it faulted. -/
structure Pixel where
  place : Nat
  ident : Nat
  depth : Nat
  mat : Option (Nat × Bool)
  lost : Bool
  deriving DecidableEq, Repr

/-- The distinct values of a list, in the order of their first occurrence. -/
def distinct (l : List Nat) : List Nat := l.foldl (fun r x => if r.contains x then r else r ++ [x]) []

/-- R355, R359: the material of an identifier's cluster and its QUAD flag, none where the pixel is not shaded; or the fault of a
read. -/
def pixelMat (s : State) (ag : Agent) (c : Nat) (b : List Byte) (ident : Nat) : State × Except EngFault (Option (Nat × Bool)) :=
  if ident = idEmpty then (s, .ok none) else
  match materialOf s ag c b (idCluster ident) with
  | (s, .error e) => (s, .error e)
  | (s, .ok m) =>
    if m = 0xFFFF then (s, .ok none)
    else if vwNmat b ≤ m then (badMaterial s c (mmapAt b (idCluster ident)), .ok none)
    else match matRecord s ag c b m with
      | (s, .error e) => (s, .error e)
      | (s, .ok r) => (s, .ok (some (m, bit (fieldAt r 16 1) 0)))

/-- R359: pixel `k` of a tile, its identifier read as class ER; a fault of its identifier's read, or of a read for its material, is entered in the fault log. -/
def scanPixel (s : State) (ag : Agent) (t : Tile) (b : List Byte) (k : Nat) : State × Pixel :=
  let p : Pixel := { place := k, ident := idEmpty, depth := fieldAt t.bytes (512 + 4 * k) 4, mat := none, lost := true }
  match engRead s ag t.ctx .er ((vwSurf b + 768 * t.index + 8 * k) % 2 ^ 64) 8 with
  | (s, .error e) => (formicaReport s t.ctx 7 e, p)
  | (s, .ok x) =>
    match pixelMat s ag t.ctx b x with
    | (s, .error e) => (formicaReport s t.ctx 7 e, { p with ident := x })
    | (s, .ok m) => (s, { p with ident := x, mat := m, lost := false })

/-- R359: the pixels of a tile in row-major order. -/
def scanPixels (s : State) (ag : Agent) (t : Tile) (b : List Byte) : State × List Pixel :=
  (List.range 64).foldl (fun (x : State × List Pixel) k =>
    let (s, p) := scanPixel x.1 ag t b k
    (s, x.2 ++ [p])) (s, [])

/-- R361: the first registers of a raster lane, or of a helper lane whose quad shows identifier `h`. -/
def pixelWords (b : List Byte) (t : Tile) (p : Pixel) (helper : Option Nat) (quad : Option Nat) : List Word :=
  let w := fun x : Nat => BitVec.ofNat 32 x
  let x := 8 * (t.index % vwTw b) + p.place % 8
  let y := 8 * (t.index / vwTw b) + p.place / 8
  let id := helper.getD p.ident
  let flags := b2n helper.isSome + (match quad with | some q => 4 + 8 * q | none => 0)
  [w (x + 65536 * y), w id, w (id / 2 ^ 32), w (if helper.isSome then 0 else p.depth), w flags, 0, 0, w t.index]

/-- A record on its way to its bin. -/
def scanRec (t : Tile) (pa m : Nat) (quad : Bool) (lanes : List (List Word)) : BinRec :=
  { id := 0, ctx := t.ctx, view := t.view, material := m, quad := quad, lanes := lanes, tiles := [pa], op := 0, wave := 0, lane := 0, at_ := 0 }

/-- R359: the quad records of the quad at (2qx, 2qy), q = 4qy + qx: one for each QUAD material among its pixels. A lane whose pixel's
material could not be read is dropped (log 44). -/
def quadRecs (b : List Byte) (t : Tile) (pa : Nat) (ps : List Pixel) (q : Nat) : List BinRec :=
  let place := fun k : Nat => 16 * (q / 4) + 2 * (q % 4) + k % 2 + 8 * (k / 2)
  let four := (List.range 4).filterMap fun k => (ps[place k]?).map fun p => (k, p)
  let ms := distinct (four.filterMap fun x => match x.2.mat with | some (m, true) => some m | _ => none)
  ms.map fun m =>
    let h := ((four.find? fun x => decide (x.2.mat = some (m, true))).map fun x => x.2.ident).getD 0
    scanRec t pa m true (four.map fun x =>
      if x.2.lost then [] else pixelWords b t x.2 (if x.2.mat = some (m, true) then none else some h) (some x.1))

/-- R359: every record that the scan of a tile makes: singles in row-major order, quads in row-major order. -/
def scanRecs (b : List Byte) (t : Tile) (pa : Nat) (ps : List Pixel) : List BinRec :=
  let singles := ps.filterMap fun p => match p.mat with
    | some (m, false) => some (scanRec t pa m false [pixelWords b t p none none])
    | _ => none
  singles ++ (List.range 16).flatMap (quadRecs b t pa ps)

/-- Records named and put on their way. -/
def sendRecs (s : State) (rs : List BinRec) : State :=
  rs.foldl (fun s r =>
    let (id, s) := fresh s
    { s with binRecs := s.binRecs ++ [{ r with id := id }] }) s

/-- R359: the closed tile that the Formica of stack `k` takes next. -/
def nextClosed (s : State) (k : Nat) : Option Nat :=
  let ts := s.tiles.filter fun (e : Nat × Tile) => decide (e.2.state = .closed) && decide (homeStack e.1 = k)
  match ts with
  | [] => none
  | e :: r => some (r.foldl (fun (m : Nat × Tile) (x : Nat × Tile) => if x.2.order < m.2.order then x else m) e).1

/-- R359: TILE_SCAN: the tile's identifiers are read and its records made. -/
def execTileScan (s : State) : Host.Outcome State Fault Refusal :=
  let pa := arg s 0
  let ag : Agent := .unit (homeStack pa)
  .next (if nextClosed s (homeStack pa) ≠ some pa then s else orWait s (
    let t := tget freeTile s.tiles pa
    let s := { s with tiles := tset freeTile s.tiles pa { t with state := .classifying, formica := true } }
    match viewOf s ag t.ctx t.view with
    | (s, .error e) => formicaReport s t.ctx 7 e
    | (s, .ok b) =>
      let (s, ps) := scanPixels s ag t b
      if (cx s t.ctx).fenced then s else sendRecs s (scanRecs b t pa ps)))

/-- The end of a flush all of whose tiles have reached SHADING or FREE: its operation completes and the engines drop the view's
descriptor (R354). -/
def flushOver (s : State) (id : Nat) : State :=
  let waits := s.tiles.any fun (e : Nat × Tile) =>
    decide (e.2.closedBy = id) && (match e.2.state with | .closed | .classifying => true | _ => false)
  match findFlushOf s id with
  | none => s
  | some f =>
    if !f.drained || waits then s else
    let s := { s with flushes := s.flushes.filter fun x => x.id ≠ id }
    let s := modCx s f.ctx fun x => { x with views := tset [] x.views f.view [] }
    match findOp (wv s f.wave) f.op with
    | some o => completeOp s f.wave f.op o.todo 0
    | none => s

/-- R360: a record that names the tile is on its way or waits in its bin. -/
def tileInBins (s : State) (pa : Nat) : Bool :=
  let names := fun r : BinRec => r.tiles.contains pa
  s.binRecs.any names || s.bins.any fun b => b.quads.any names || b.singles.any names

/-- R55: every wave for the tile has been formed. -/
def classified_ (s : State) (pa : Nat) : Bool :=
  decide ((tget freeTile s.tiles pa).state = .classifying) && !(tileInBins s pa)

/-- R55: TILE_CLASSIFY_END: Formica drops its reference. -/
def execTileClassifyEnd (s : State) : Host.Outcome State Fault Refusal :=
  let pa := arg s 0
  .next (if !(classified_ s pa) then s else
    let t := tget freeTile s.tiles pa
    let s := { s with tiles := tset freeTile s.tiles pa { t with state := .shading, formica := false } }
    flushOver (if t.refs.isEmpty then tileToFree s pa else s) t.closedBy)

/-! ### Bins and waves (R360, R361) -/

/-- The stack whose Formica keeps a material's bins (R359). -/
def binStack (m : Nat) : Nat := m % 6

def binLanes (b : Bin) : Nat := 4 * b.quads.length + b.singles.length

/-- The bin of (context, view, material). -/
def isBin (c v m : Nat) (b : Bin) : Bool := decide (b.ctx = c) && decide (b.view = v) && decide (b.material = m)

/-- R360: a bin replaced; one with nothing in it goes. -/
def putBin (s : State) (b : Bin) : State :=
  { s with bins := if binLanes b = 0 then s.bins.filter fun x => x.id ≠ b.id else s.bins.map fun x => if x.id = b.id then b else x }

/-- R360: the material record and kernel of a bin, or the entry that says why no wave is formed. -/
def binKernel (s : State) (b : Bin) : State × Except EngFault (List Byte × Kernel) :=
  let ag : Agent := .unit (binStack b.material)
  match viewOf s ag b.ctx b.view with
  | (s, .error e) => (s, .error e)
  | (s, .ok vw) =>
    match matRecord s ag b.ctx vw b.material with
    | (s, .error e) => (s, .error e)
    | (s, .ok r) =>
      match kernelAt s ag b.ctx (fieldAt r 0 8) with
      | (s, .error e) => (s, .error e)
      | (s, .ok none) => (s, .error (10, 0x49, matAt vw b.material))
      | (s, .ok (some k)) => if laneKernel k then (s, .ok (r, k)) else (s, .error (10, 0x49, matAt vw b.material))

/-- A group of one wave that the engines form: a launch that no dependence unit has accepted. -/
def engineLaunch (id c : Nat) (k : Kernel) (prio args : Nat) (inits : List (List Word)) : Launch :=
  { id := id, ctx := c, queue := 0, seq := 0, kernels := [k], gx := 1, gy := 1, gz := 1, links := 0, prio := prio, serial := false,
    irq := false, onStacks := 0, args := args, evaddr := 0, regions := [], placed := [], doneGroups := [], eligibleAt := [],
    contract := false, released := none, overrun := false, yieldFault := false, lastStack := 6, material := none, task := false,
    parent := 0, posters := [], inits := inits, refs := [] }

/-- R360: form_wave: a wave's records taken from a bin, quads first. -/
def takeWave (b : Bin) : List BinRec × Bin :=
  let q := min 8 b.quads.length
  let k := min (32 - 4 * q) b.singles.length
  (b.quads.take q ++ b.singles.take k, { b with quads := b.quads.drop q, singles := b.singles.drop k })

/-- R360: one wave formed from bin `b`: eligible at once, with references on its lanes' tiles (R56); or dropped. -/
def formWave (s : State) (b : Bin) : State :=
  let (rs, b') := takeWave b
  let s := putBin s b'
  match binKernel s b with
  | (s, .error (c, k, a)) => if k = 0x49 then badMaterial s b.ctx a else formicaReport s b.ctx 7 (c, k, a)
  | (s, .ok (r, k)) =>
    let (id, s) := fresh s
    let lanes := rs.flatMap fun x => x.lanes
    let refs := distinct (rs.flatMap fun x => x.tiles)
    let k' := binStack b.material
    let l := engineLaunch id b.ctx k (fieldAt r 17 1 % 8) (fieldAt r 8 8) lanes
    let s := modCx s b.ctx fun x => { x with launches := x.launches ++
      [{ l with material := some (b.view, b.material, k'), onStacks := 2 ^ k', eligibleAt := [(k', cycOf s k' + 1)], refs := refs }] }
    refs.foldl (fun s pa => { s with tiles := tmod freeTile s.tiles pa fun t => { t with refs := t.refs ++ [id] } }) s

/-- R360: waves formed from the bin named `id` while it holds `least` lane records; `n` bounds their number. -/
def formWaves (id least : Nat) : Nat → State → State
  | 0, s => s
  | n + 1, s =>
    match s.bins.find? fun b => b.id = id with
    | none => s
    | some b => if binLanes b < max 1 least then s else formWaves id least n (formWave s b)

/-- R360: a bin drained. -/
def drainBin (s : State) (b : Bin) : State := formWaves b.id 1 (binLanes b) s

/-- R360: a record stands in its bin; a bin with 32 lane records forms a wave. -/
def enterBin (s : State) (r : BinRec) : State :=
  let (s, b) := match s.bins.find? (isBin r.ctx r.view r.material) with
    | some b => (s, b)
    | none =>
      let (id, s) := fresh s
      let b : Bin := { id := id, ctx := r.ctx, view := r.view, material := r.material, quads := [], singles := [] }
      ({ s with bins := s.bins ++ [b] }, b)
  let r := { r with at_ := cycOf s (binStack r.material) }
  let b := if r.quad then { b with quads := b.quads ++ [r] } else { b with singles := b.singles ++ [r] }
  let s := { s with bins := s.bins.map fun x => if x.id = b.id then b else x }
  formWaves b.id 32 2 s

/-! ### `hitbin` (R363) -/

/-- R363: `hitbin`: one record for each lane, on its way in lane order (R417); helper lanes post none (R362). -/
def execHitbin (h : Head) (n : NExt) (s : State) : Host.Outcome State Fault Refusal :=
  let i := Instr.hitbin h n
  let sp := specOf i
  runOp i sp false false (acquireOut (wv s s.cur.wave)) (fun m s =>
    let w := s.cur.wave
    let words := capture (wv s w) sp
    let s := advance sp s
    if m = 0 then s else
    let (id, s) := openOp i sp m 0 words s
    startHits s w id m) s
where
  /-- The records of lanes `m` of operation `id`. -/
  startHits (s : State) (w id : Nat) (m : Lanes) : State :=
    let v := wv s w
    let one := fun l : Nat => ({ id := 0, ctx := v.ctx, view := 0, material := 0, quad := false, lanes := [], tiles := [], op := id,
                                 wave := w, lane := l, at_ := 0 } : BinRec)
    completeOp (sendRecs s ((lanesOf (m &&& ~~~v.helpers)).map one)) w id (m &&& v.helpers) 0

/-- R361, R363: the first registers of a ray lane, from its hit record. -/
def hitWords (o : Opr) (l : Nat) : List Word :=
  let sp := specOf o.instr
  let a := natWords 3 (opVal sp o.words 0 l)
  let t := natWords 3 (opVal sp o.words 1 l)
  let u := natWords 1 (opVal sp o.words 2 l)
  a ++ [t.getD 0 0, 2, t.getD 1 0, t.getD 2 0] ++ u

/-- R363: a lane's hit goes to its bin, or the lane faults. -/
def arriveHit (s : State) (r : BinRec) : State :=
  match findOp (wv s r.wave) r.op with
  | none => s
  | some o =>
    let id := opVal (specOf o.instr) o.words 0 r.lane / 2 ^ 32
    let fail := fun (s : State) (e : EngFault) => failLanes s r.wave r.op e.1 [(r.lane, e.2.1, e.2.2)]
    let done := fun s : State => completeOp s r.wave r.op (lane1 r.lane) 0
    if id = idEmpty then fail s (10, 0x41, 0) else
    let ag : Agent := .unit (coreStack (wv s r.wave).core)
    match viewOf s ag r.ctx (idView id) with
    | (s, .error e) => fail s e
    | (s, .ok b) =>
      match materialOf s ag r.ctx b (idCluster id) with
      | (s, .error e) => fail s e
      | (s, .ok m) =>
        if m = 0xFFFF then done s
        else if vwNmat b ≤ m then done (badMaterial s r.ctx (mmapAt b (idCluster id)))
        else done (enterBin s { r with view := idView id, material := m, lanes := [hitWords o r.lane], op := 0, wave := 0, lane := 0 })

/-- R359, R417: a record may arrive: none before it goes to the same bin from a scan, or from the same `hitbin`; a hit waits for
its thread's earlier accesses (R102). -/
def recReady (s : State) (r : BinRec) : Bool :=
  let before := s.binRecs.takeWhile fun x => x.id ≠ r.id
  if r.op = 0 then !(before.any fun x => decide (x.op = 0) && decide (x.ctx = r.ctx) && decide (x.view = r.view) && decide (x.material = r.material))
  else !(before.any fun x => x.op = r.op) && !(readHeld s r.wave r.op) && !(engineBefore s r.wave r.op)

/-- R360, R363: BIN_RECORD_ARRIVE. -/
def execBinRecordArrive (s : State) : Host.Outcome State Fault Refusal :=
  .next (match s.binRecs.find? fun r => r.id = arg s 0 with
    | none => s
    | some r =>
      if !(recReady s r) then s else
      let t := { s with binRecs := s.binRecs.filter fun x => x.id ≠ r.id }
      orWait s (if r.op = 0 then enterBin t r else arriveHit t r))

/-! ### Draining (R358, R360) -/

/-- R360: the bin's oldest record has waited 4,096 cc. -/
def binOld (s : State) (b : Bin) : Bool :=
  (b.quads ++ b.singles).any fun r => decide (r.at_ + 4096 ≤ cycOf s (binStack b.material))

/-- R360: BIN_AGE_DRAIN. -/
def execBinAgeDrain (s : State) : Host.Outcome State Fault Refusal :=
  .next (match s.bins.find? fun b => b.id = arg s 0 with
    | none => s
    | some b => if binOld s b then orWait s (drainBin s b) else s)

/-- R358: every tile that the flush closed has been classified, and its records stand in their bins. -/
def flushMayDrain (s : State) (f : Flush) : Bool :=
  let f := if flushMayStart s f then startFlush s f else f
  f.started && !f.drained && f.toClose.isEmpty &&
    !(s.tiles.any fun (e : Nat × Tile) =>
      decide (e.2.closedBy = f.id) && (decide (e.2.state = .closed) || s.binRecs.any fun r => r.tiles.contains e.1))

/-- R358: RFLUSH_DRAIN: the bins of the view are drained on every stack. -/
def execRflushDrain (s : State) : Host.Outcome State Fault Refusal :=
  .next (match findFlushOf s (arg s 0) with
    | none => s
    | some f =>
      if !(flushMayDrain s f) then s else
      let t := putFlush s { f with started := true, drained := true }
      let t := (t.bins.filter fun b => decide (b.ctx = f.ctx) && decide (b.view = f.view)).foldl drainBin t
      orWait s (flushOver t f.id))

/-! ### Which of these have an occasion -/

def readyFormica (s : State) : List (Instr × List Nat) :=
  (s.flushes.flatMap fun f =>
    let f := if flushMayStart s f then startFlush s f else f
    f.toClose.map fun pa => (Instr.tileClose, [f.id, pa])) ++
  ((List.range 6).filterMap fun k => (nextClosed s k).map fun pa => (Instr.tileScan, [pa])) ++
  ((s.binRecs.filter (recReady s)).map fun r => (Instr.binRecordArrive, [r.id])) ++
  ((s.bins.filter (binOld s)).map fun b => (Instr.binAgeDrain, [b.id])) ++
  ((s.flushes.filter (flushMayDrain s)).map fun f => (Instr.rflushDrain, [f.id])) ++
  ((tkeys s.tiles fun t => decide (t.state = .classifying)).filter (classified_ s)).map fun pa => (Instr.tileClassifyEnd, [pa])

end Sys2Proof.Machine
end

