-- ==== Sys2Proof/Machine/Hive.lean ====
section
/-! DEFINITION. The Hive: tasks posted by lanes and the waves made of them (spec/07, R179; spec/08, R192; spec/15, R375). -/

namespace Sys2Proof.Machine

open Sys2Proof.Machine.State

/-- R102, R333: an access of a thread of lanes `m` of wave `w` has not been performed: its own, one that waits to be replayed among them,
or one of an engine for it. What stands in a trap frame takes its place at `rfe`. -/
def threadBusy (s : State) (w : Nat) (m : Lanes) : Bool :=
  let v := wv s w
  let mine := fun op : Nat => decide (opLanes v op &&& m ≠ 0) && !(v.frameOps.contains op)
  (s.accs.any fun a => decide (a.wave = w) && decide (a.lanes &&& m ≠ 0)) ||
    (((pr s (corePair v.core)).mats ++ v.heldMats).any fun x => decide (x.wave = w) && mine x.op) ||
    v.ops.any fun o => readerInstr o.instr && decide (o.todo &&& m ≠ 0) && !(v.frameOps.contains o.id)

/-- R192: the launch whose group a wave of launch `l` counts as. -/
def rootLaunch (l : Launch) : Nat := if l.task then l.parent else l.id

/-- The pending tasks of a stack's Hive. -/
def hive (s : State) (k : Nat) : List Task := tget [] s.hives k

/-- R192: a task of the context and entry address. -/
def taskOf (c e : Nat) (t : Task) : Bool := decide (t.ctx = c) && decide (t.kernel.entry = e)

/-- R192: at most `n` of the oldest tasks that satisfy `p`, and the rest. -/
def takeTasks (p : Task → Bool) : Nat → List Task → List Task × List Task
  | _, [] => ([], [])
  | n, t :: r =>
    if p t && decide (0 < n) then
      let (a, b) := takeTasks p (n - 1) r
      (t :: a, b)
    else
      let (a, b) := takeTasks p n r
      (a, t :: b)

/-- R192: a task wave of the oldest tasks, 32 at most, of context `c` and entry `e`; it ranks as group 0 of stage 0 of the launch that posted
it (log 165). -/
def formTask (s : State) (k c e : Nat) : State :=
  let (ts, rest) := takeTasks (taskOf c e) 32 (hive s k)
  match ts with
  | [] => s
  | t :: _ =>
    let (id, s) := fresh { s with hives := tset [] s.hives k rest }
    let args := (((cx s c).launches.find? fun l => l.id = t.launch).map (·.args)).getD 0
    let l := engineLaunch id c t.kernel t.prio args (ts.map (·.words))
    modCx s c fun x => { x with launches := x.launches ++
      [{ l with task := true, parent := t.launch, posters := ts.map (·.group), onStacks := 2 ^ k, eligibleAt := [(k, cycOf s k + 1)] }] }

/-- R192: a task enters the Hive of stack `k`; 32 of one context and entry address form a wave. -/
def enterHive (s : State) (k : Nat) (t : Task) : State :=
  let s := { s with hives := tset [] s.hives k (hive s k ++ [t]) }
  let s := modGp s t.group fun g => { g with tasks := g.tasks + 1 }
  if 32 ≤ ((hive s k).filter (taskOf t.ctx t.kernel.entry)).length then formTask s k t.ctx t.kernel.entry else s

/-- R375: lane `l` of operation `id` posts its task, or faults. -/
def postLane (w id : Nat) (s : State) (l : Nat) : State :=
  let v := wv s w
  match findOp v id with
  | none => s
  | some o =>
    let a := opVal (specOf o.instr) o.words 1 l
    let fail := fun s : State => failLanes s w id 10 [(l, 0x46, a)]
    match kernelAt s (.unit (coreStack v.core)) v.ctx a with
    | (s, .error _) => fail s
    | (s, .ok none) => fail s
    | (s, .ok (some k)) =>
      if !laneKernel k then fail s else
      let g := gp s v.group
      let (root, prio) := match launchOf s g with | some x => (rootLaunch x, x.prio) | none => (g.launch, 0)
      let st := coreStack v.core
      let t : Task := { ctx := v.ctx, launch := root, group := v.group, kernel := k, prio := prio, at_ := cycOf s st,
                        words := natWords 8 (opVal (specOf o.instr) o.words 0 l) }
      completeOp (enterHive s st t) w id (lane1 l) 0

/-- R375: the lanes `m` of operation `id` post in lane order; helper lanes post nothing (R362). -/
def startPost (s : State) (w id : Nat) (m : Lanes) : State :=
  let v := wv s w
  completeOp ((lanesOf (m &&& ~~~v.helpers)).foldl (postLane w id) s) w id (m &&& v.helpers) 0

/-- R375, R192: the Hive has no room for a task of every lane of the PC group. -/
def hiveFull (s : State) (w : Nat) (m : Lanes) : Bool :=
  decide (65536 < (hive s (coreStack (wv s w).core)).length + laneCount (m &&& ~~~(wv s w).helpers))

/-- R375: `hvpost`. It waits at issue until the posting threads' earlier accesses have been performed (R102). -/
def execHvpost (h : Head) (n : NExt) (s : State) : Host.Outcome State Fault Refusal :=
  let i := Instr.hvpost h n
  let sp := specOf i
  let w := s.cur.wave
  runOp i sp false false (acquireOut (wv s w) || threadBusy s w (active sp s) || hiveFull s w (active sp s)) (fun m s0 =>
    let words := capture (wv s0 w) sp
    let s := advance sp s0
    if m = 0 then s else
    let (id, s) := openOp i sp m 0 words s
    orStall s0 (startPost s w id m)) s

/-- R192: the oldest task of its context and entry address that has waited 256 cc. -/
def oldTask (s : State) (k : Nat) : Option Task := (hive s k).find? fun t => decide (t.at_ + 256 ≤ cycOf s k)

/-- R192: HIVE_TASK_TIMEOUT. -/
def execHiveTaskTimeout (s : State) : Host.Outcome State Fault Refusal :=
  .next (match oldTask s (arg s 0) with
    | some t => formTask s (arg s 0) t.ctx t.kernel.entry
    | none => s)

def readyHive (s : State) : List (Instr × List Nat) :=
  (s.hives.filter fun (e : Nat × List Task) => (oldTask s e.1).isSome).map fun e => (Instr.hiveTaskTimeout, [e.1])

end Sys2Proof.Machine
end

