-- ==== Sys2Proof/Machine/Coll.lean ====
section
/-! DEFINITION. Collectives (spec/09, R217, R218; spec/15, R376 to R378). -/

namespace Sys2Proof.Machine

open Sys2Proof.Machine.State

/-! ### The descriptor (R376) -/

def clOp (b : List Byte) : Nat := fieldAt b 0 1
def clType (b : List Byte) : Nat := fieldAt b 1 1
def clWire (b : List Byte) : Nat := fieldAt b 2 1
def clRed (b : List Byte) : Nat := fieldAt b 3 1
def clNrank (b : List Byte) : Nat := fieldAt b 4 2
def clRank (b : List Byte) : Nat := fieldAt b 6 2
def clSrc (b : List Byte) : Nat := fieldAt b 8 8
def clDst (b : List Byte) : Nat := fieldAt b 16 8
def clCount (b : List Byte) : Nat := fieldAt b 24 8
def clRanks (b : List Byte) : Nat := fieldAt b 32 8
def clResid (b : List Byte) : Nat := fieldAt b 40 8
def clDone (b : List Byte) : Nat := fieldAt b 48 4
def clValue (b : List Byte) : Nat := fieldAt b 52 4
def clTag (b : List Byte) : Nat := fieldAt b 56 4
def clRows (b : List Byte) : Nat := fieldAt b 60 4

/-- R376, R377: a well-formed descriptor. -/
def collOk (b : List Byte) : Bool :=
  decide (clOp b ≤ 5) && decide (clType b ≤ 3) && decide (clWire b ≤ 3) && decide (clRed b ≤ 2) && decide (2 ≤ clNrank b) &&
    decide (clNrank b ≤ 4096) && decide (clRank b < clNrank b) && decide (1 ≤ clCount b) && decide (clDone b % 4 = 0) &&
    (decide (clWire b = 0) || (decide (clType b = 0) && decide (clRed b = 0) && decide (clOp b ≤ 1) && decide (clCount b % 256 = 0))) &&
    (if clOp b = 4 then decide (clRows b ≠ 0) && decide (clCount b % clRows b = 0) else decide (clRows b = 0))

/-- The bytes of an element. -/
def clSize (b : List Byte) : Nat := match clType b with | 1 | 2 => 2 | _ => 4
/-- The format of a floating-point DTYPE. -/
def clFmt (b : List Byte) : Fmt := match clType b with | 1 => BF16 | 2 => F16 | _ => F32
/-- R376: the chunks of SRC that this rank sends, and of DST that it receives. -/
def srcChunks (b : List Byte) : Nat :=
  match clOp b with
  | 2 => 1
  | 5 => if clRank b = 0 then 1 else 0
  | _ => clNrank b
def dstChunks (b : List Byte) : Nat := match clOp b with | 1 | 5 => 1 | _ => clNrank b
/-- The bytes of DST written. -/
def dstBytes (b : List Byte) : Nat := dstChunks b * clCount b * clSize b
/-- The bytes of RESID written: none without a carry. -/
def residBytes (b : List Byte) : Nat := if clWire b = 0 ∨ clResid b = 0 then 0 else 4 * srcChunks b * clCount b

/-- R378: the fields in which the calls of all ranks agree. -/
def collKey (b : List Byte) : List Nat := [clOp b, clType b, clWire b, clRed b, clNrank b, clCount b]

/-! ### What a rank contributes (R218, R377) -/

/-- An element as sent: its bits, and its value. -/
abbrev Sent := Nat × Val

/-- R218: a block's exponent: the least of 0 to 254 for which amax / 2^(e-127) is at most fmax. -/
def blockExp (fmax : Nat) (amax : Val) : Nat :=
  match amax with
  | .num _ 0 _ => 127
  | a => ((List.range 255).find? fun e =>
      let top := scaleV e (.num false fmax 0)
      ltV a top || eqV a top).getD 254

/-- R218: the greatest magnitude among values that are no NaN. -/
def maxAbs (xs : List Val) : Val :=
  xs.foldl (fun a x => if isNan x then a else
    let y := if isNeg x then negV x else x
    if ltV a y then y else a) (.num false 0 0)

/-- The value divided by 2^(e-127). -/
def unscale (e : Nat) (x : Val) : Val := match x with | .num b m k => .num b m (k + 127 - e) | x => x

/-- The bits of an element of a wire format. -/
def wireBits (wire : Nat) : Nat := if wire = 3 then 4 else 8
/-- The value of such an element; an I4E element is an integer, with no escapes. -/
def wireVal (wire q : Nat) : Val :=
  match wire with
  | 1 => valOf E4M3 q
  | 2 => valOf E5M2 q
  | _ => ofInt (sext 4 q)

/-- R218: q of a scaled element, as it is sent; an I4E element of a NaN is free (log 3). -/
def quantise (wire free : Nat) (x : Val) : Nat :=
  let c := { rne with sat := true }
  match wire with
  | 1 => (roundCvt E4M3 c x).bits
  | 2 => (roundCvt E5M2 c x).bits
  | _ => match x with
    | .nan _ => wrap 4 ((free % 15 : Nat) - 7)
    | .inf n => wrap 4 (if n then -7 else 7)
    | .num n m k => let y : Int := (min 7 (roundInt c n m k) : Nat); wrap 4 (if n then -y else y)

/-- R218: one block of `(x, res)`: its exponent, and for each element q and the new residual. -/
def sendBlock (wire : Nat) (free : Nat → Nat) (xs : List (Nat × Nat)) : Nat × List (Nat × Nat) :=
  let ys := xs.map fun x => (addV false (valOf F32 x.1) (valOf F32 x.2)).1
  let fmax := match wire with | 1 => 448 | 2 => 57344 | _ => 7
  let e := blockExp fmax (maxAbs ys)
  (e, ys.mapIdx fun i y =>
    let q := quantise wire (free i) (unscale e y)
    (q, if isNan y then 0 else (roundTo F32 rne (addV false y (negV (scaleV e (wireVal wire q)))).1).bits))

/-- R218: all blocks of 256, `k` of them. -/
def sendBlocks (wire : Nat) (free : Nat → Nat) : Nat → List (Nat × Nat) → List (Nat × List (Nat × Nat))
  | 0, _ => []
  | k + 1, xs => sendBlock wire free (xs.take 256) :: sendBlocks wire (fun i => free (i + 256)) k (xs.drop 256)

/-- Elements of `n` bytes, `k` of them, from a number. -/
def elemsOf (n : Nat) : Nat → Nat → List Nat
  | 0, _ => []
  | k + 1, x => x % 2 ^ (8 * n) :: elemsOf n k (x / 2 ^ (8 * n))
/-- The number that holds elements of `n` bytes. -/
def ofElems (n : Nat) : List Nat → Nat
  | [] => 0
  | x :: r => x % 2 ^ (8 * n) + 2 ^ (8 * n) * ofElems n r

/-- R218: an element as a receiver dequantises it. -/
def dequantise (wire e q : Nat) : Sent :=
  let v := scaleV e (wireVal wire q)
  ((roundTo F32 rne v).bits, v)

/-- R218: what is sent of blocks: every q, and after them the scales (log 144), with the number of bytes. -/
def wireData (wire : Nat) (bs : List (Nat × List (Nat × Nat))) : Nat × Nat :=
  let w := wireBits wire
  let qs := bs.flatMap fun b => b.2.map Prod.fst
  (qs.length * w / 8 + bs.length,
   qs.foldr (fun q x => q + 2 ^ w * x) 0 + 2 ^ (w * qs.length) * ofElems 1 (bs.map Prod.fst))

/-- What a rank contributes: its elements, what goes to other devices as bytes and their number, and its new residuals. -/
structure Contribution where
  sent : List Sent
  bytes : Nat
  data : Nat
  resid : Nat

/-- What a rank with descriptor `b` sends, from the bytes of SRC and RESID. -/
def contribution (b : List Byte) (free : Nat → Nat) (src res : Nat) : Contribution :=
  let n := srcChunks b * clCount b
  let xs := elemsOf (clSize b) n src
  if clWire b = 0 then
    { sent := xs.map fun x => (x, valOf (clFmt b) x), bytes := n * clSize b, data := ofElems (clSize b) xs, resid := 0 }
  else
    let bs := sendBlocks (clWire b) free (n / 256) (xs.zip (elemsOf 4 n res))
    let (k, d) := wireData (clWire b) bs
    { sent := bs.flatMap fun e => e.2.map fun q => dequantise (clWire b) e.1 q.1, bytes := k, data := d,
      resid := ofElems 4 (bs.flatMap fun e => e.2.map Prod.snd) }

/-- What element `i` of another device's rank is: free, in the format in which it is sent (log 20). -/
def farSent (b : List Byte) (free : Nat → Nat) (i : Nat) : Sent :=
  if clWire b = 0 then
    let y := free (2 * i) % 2 ^ (8 * clSize b)
    (y, valOf (clFmt b) y)
  else
    let x := free (2 * i)
    dequantise (clWire b) (free (2 * (i / 256) + 1) % 255) (if clWire b = 3 then wrap 4 ((x % 15 : Nat) - 7) else x % 256)

/-! ### What a rank receives -/

/-- R217: the order in which contributions arrive, picked by a free value. -/
def arrival {α : Type} : Nat → Nat → List α → List α
  | 0, _, l => l
  | k + 1, x, l =>
    match l[x % l.length]? with
    | none => l
    | some a => a :: arrival k (x / l.length) (l.eraseIdx (x % l.length))

/-- R376: the reduction of one element over the ranks, in arrival order. -/
def reduceElem (b : List Byte) (free : Nat) (xs : List Sent) : Nat :=
  let ints := decide (clType b = 3)
  let two := fun (hi : Bool) (x y : Nat) =>
    if ints then (if decide (sext 32 x < sext 32 y) != hi then x else y) else (minmax (clFmt b) hi 0 x y).bits
  match arrival xs.length free xs with
  | [] => 0
  | a :: r =>
    match clRed b with
    | 1 => r.foldl (fun x y => two false x y.1) a.1
    | 2 => r.foldl (fun x y => two true x y.1) a.1
    | _ =>
      if ints then r.foldl (fun x y => (x + y.1) % 2 ^ 32) a.1
      else
        let f32 := fun v : Val => valOf F32 (roundTo F32 rne v).bits
        (roundTo (clFmt b) rne (r.foldl (fun x y => f32 (addV false x y.2).1) (f32 a.2))).bits

/-- R376: the elements written at DST of the rank with descriptor `b`, from what every rank sent. -/
def received (b : List Byte) (free : Nat → Nat) (sent : List (List Sent)) : List Nat :=
  let n := clCount b
  let at_ := fun (s k : Nat) => ((sent.getD s []).getD k (0, .num false 0 0))
  let all := fun k : Nat => reduceElem b (free k) ((List.range (clNrank b)).map fun s => at_ s k)
  let each := fun f : Nat → Nat → Nat => (List.range (clNrank b)).flatMap fun s => (List.range n).map fun k => (at_ s (f s k)).1
  match clOp b with
  | 0 => (List.range (clNrank b * n)).map all
  | 1 => (List.range n).map fun k => all (clRank b * n + k)
  | 2 => each fun _ k => k
  | 3 => each fun _ k => clRank b * n + k
  | 4 =>
    let r := clRows b
    each fun _ k => clRank b * n + (k % r) * (n / r) + k / r
  | _ => (List.range n).map fun k => (at_ 0 k).1

/-! ### Faults of a collective (R378, R384) -/

def findColl (s : State) (id : Nat) : Option Coll := s.colls.find? fun c => c.id = id
def putColl (s : State) (c : Coll) : State := { s with colls := s.colls.map fun x => if x.id = c.id then c else x }
def dropColl (s : State) (c : Coll) : State := { s with colls := s.colls.filter fun x => x.id ≠ c.id }

/-- R378: a fault of a rank's own accesses: of its wave's instruction, or parked once the wave has ended. -/
def collFault (s : State) (c : Coll) (e : EngFault) : State :=
  let c := { c with cls := e.1, code := e.2.1, addr := e.2.2 }
  if (wv s c.wave).live then failAll (putColl s { c with hold := 1 }) c.wave c.op e.1 e.2.1 e.2.2
  else
    logEntry (putColl s { c with hold := 2 }) c.ctx
      { freeLog with
        state := 1, code := e.2.1 % 256, cls := e.1, opk := 3, core := c.core, addr := e.2.2, status := if e.1 = 10 then e.2.1 else 0,
        group := c.group, words := [(c.id, 0)] }

/-- R378: after CL_DESC and CL_PEER the DST and RESID that a rank's descriptor `b` names hold undefined data: free values (log 3, log 103). -/
def spoil (s : State) (core ctx : Nat) (b : List Byte) : State :=
  let put := fun (s : State) (a n : Nat) =>
    if n = 0 then s else
    let (x, s) := draw s
    (engWrite s (.unit (coreStack core)) ctx .cd a n (x % 2 ^ (8 * n))).1
  put (put s (clDst b) (dstBytes b)) (clResid b) (residBytes b)

/-- R378: CL_PEER for one rank of the call. -/
def collPeer (s : State) (c : Coll) : State :=
  let s := dropColl (spoil s c.core c.ctx c.desc) c
  if (wv s c.wave).live then failAll s c.wave c.op 10 0x48 0
  else logEntry s c.ctx (report 0x48 10 3 c.core 0 0x48)

/-! ### `coll` -/

/-- The scratch fault of a descriptor of `n` bytes, 16-byte aligned, at `o` (R286). -/
def scrDescFault (s : State) (g : Group) (o n : Nat) : Option Nat :=
  if o % 16 ≠ 0 then some 0x20 else if !(scrIn g o n) then some 0x21 else if !(scrMode s g o n) then some 0x22 else none

/-- R376: operation `id` hands the engine its call. A call of the wave that stands at a fault goes on instead (R390). -/
def startColl (s : State) (w id : Nat) : State :=
  match findOp (wv s w) id with
  | none => s
  | some o =>
    let v := wv s w
    let g := gp s v.group
    let off := opVal (specOf o.instr) o.words 0 0
    match s.colls.find? fun c => decide (c.wave = w) && decide (c.hold = 1) with
    | some c => putColl s { c with op := id, hold := 0 }
    | none =>
      match scrDescFault s g off 64 with
      | some k => failAll s w id 10 k off
      | none =>
        let b := scrBytes s g off 64
        if !(collOk b) then failAll (spoil s v.core v.ctx b) w id 10 0x47 off else
        let (cid, s) := fresh s
        { s with colls := s.colls ++ [{ id := cid, wave := w, op := id, ctx := v.ctx, core := v.core, group := v.group, desc := b,
                                        started := false, hold := 0, cls := 0, code := 0, addr := 0, result := 0, resid := 0 }] }

/-- R376: `coll`; a malformed descriptor is a precise fault, at the descriptor's offset (R388). It waits at issue until its thread's earlier accesses have been
performed (R378). -/
def execColl (h : Head) (n : NExt) (s : State) : Host.Outcome State Fault Refusal :=
  let i := Instr.coll h n
  let sp := specOf i
  let w := s.cur.wave
  runOp i sp false false (acquireOut (wv s w) || threadBusy s w s.cur.lanes) (fun m s =>
    let v := wv s w
    let g := groupOf s w
    let words := capture v sp
    let off := opVal sp words 0 0
    let b := scrBytes s g off 64
    if (scrDescFault s g off 64).isNone && !(collOk b) then
      orStall s (raisePrecise (spoil s v.core v.ctx b) { trapOf i 10 0x47 s.cur.lanes with data := off })
    else
      let s := advance sp s
      if m = 0 then s else
      let (id, s) := openOp i sp m 0 words s
      startColl s w id) s

/-! ### The call starts (COLL_START) -/

/-- R376: the ranks named by call `c`. -/
def collRanks (s : State) (c : Coll) : State × Except EngFault (List Nat) :=
  match engRead s (.unit (coreStack c.core)) c.ctx .cs (clRanks c.desc) (2 * clNrank c.desc) with
  | (s, .error e) => (s, .error e)
  | (s, .ok x) => (s, .ok (elemsOf 2 (clNrank c.desc) x))

/-- The ranks of a call as this device sees them: its own calls, those of other devices, whether some call is missing, whether
some rank disagrees, and whether one cannot be reached. -/
structure Parties where
  own : List (Nat × Coll)
  far : List (Nat × Nat)
  wait : Bool
  bad : Bool
  lost : Bool
  deriving DecidableEq, Repr

/-- R376: a rank's calls of one tag match in issue order: the first that has not started. -/
def nextCall (s : State) (c : Coll) (stack j : Nat) : Option Coll :=
  s.colls.find? fun x => decide (x.ctx = c.ctx) && !x.started && decide (coreStack x.core = stack) &&
    decide (clTag x.desc = clTag c.desc) && decide (clRank x.desc = j)

/-- R410: no port leads toward the device. -/
def noRoute (s : State) (dev : Nat) : Bool := decide (tget 0 s.mgmt.routes dev &&& s.mgmt.fabricUp = 0)

/-- The parties of call `c`, whose ranks are `rs`. -/
def partiesOf (s : State) (c : Coll) (rs : List Nat) : Parties :=
  (rs.zipIdx).foldl
    (fun p (e, j) =>
      let dev := e % 4096
      let stack := bits e 14 12
      if j ≠ clRank c.desc ∧ dev ≠ s.mgmt.devid.toNat then
        { p with far := p.far ++ [(j, dev)], lost := p.lost || noRoute s dev || decide (5 < stack) }
      else if j ≠ clRank c.desc ∧ 5 < stack then { p with lost := true }
      else match nextCall s c (if j = clRank c.desc then coreStack c.core else stack) j with
        | none => { p with wait := true }
        | some x => { p with own := p.own ++ [(j, x)], wait := p.wait || decide (x.hold ≠ 0),
                             bad := p.bad || decide (collKey x.desc ≠ collKey c.desc) })
    { own := [], far := [], wait := false, bad := false, lost := false }

/-- R378: the bytes that rank `c` reads: SRC and RESID. -/
def collReads (s : State) (c : Coll) : State × Except EngFault (Nat × Nat) :=
  match engRead s (.unit (coreStack c.core)) c.ctx .cs (clSrc c.desc) (srcChunks c.desc * clCount c.desc * clSize c.desc) with
  | (s, .error e) => (s, .error e)
  | (s, .ok x) =>
    match engRead s (.unit (coreStack c.core)) c.ctx .cs (clResid c.desc) (residBytes c.desc) with
    | (s, .error e) => (s, .error e)
    | (s, .ok y) => (s, .ok (x, y))

/-- The reads of every call of this device, or the first call that faults. -/
def readAll : List (Nat × Coll) → State → State × Except (Coll × EngFault) (List (Nat × Coll × Nat × Nat))
  | [], s => (s, .ok [])
  | (j, c) :: r, s =>
    match collReads s c with
    | (s, .error e) => (s, .error (c, e))
    | (s, .ok (x, y)) =>
      match readAll r s with
      | (s, .error e) => (s, .error e)
      | (s, .ok l) => (s, .ok ((j, c, x, y) :: l))

/-- Free values from the counter on. -/
def freeFrom (s : State) (k : Nat) : Nat := Config.freeNat (s.draws + k)
/-- The counter past `n` free values. -/
def skipDraws (s : State) (n : Nat) : State := { s with draws := s.draws + n }

/-- R378: the chunks are moved and reduced: every call of this device has what it is to write. What another device's rank
sends is free (log 20). -/
def moveChunks (s : State) (n : Nat) (own : List (Nat × Coll × Nat × Nat)) (far : List (Nat × Nat)) : State :=
  let size := fun c : Coll => srcChunks c.desc * clCount c.desc
  let (s, sent) := own.foldl
    (fun (x : State × List (Nat × Coll × Contribution)) (j, c, a, b) =>
      (skipDraws x.1 (size c), x.2 ++ [(j, c, contribution c.desc (freeFrom x.1) a b)])) (s, [])
  let (s, others) := far.foldl
    (fun (x : State × List (Nat × List Sent)) (j, _) =>
      match own.head? with
      | none => x
      | some (_, c, _, _) =>
        let k := clNrank c.desc * clCount c.desc
        (skipDraws x.1 (2 * k), x.2 ++ [(j, (List.range k).map (farSent c.desc (freeFrom x.1)))])) (s, [])
  let all := (List.range n).map fun j =>
    match sent.find? fun x => x.1 = j with
    | some (_, _, x) => x.sent
    | none => ((others.find? fun x => x.1 = j).map Prod.snd).getD []
  let s := sent.foldl
    (fun s (_, c, x) => far.foldl (fun s (_, dev) => out s (.peer 0 dev 0x50 (clTag c.desc) x.bytes x.data 0)) s) s
  sent.foldl
    (fun s (_, c, y) =>
      let k := dstChunks c.desc * clCount c.desc
      let x := ofElems (clSize c.desc) (received c.desc (freeFrom s) all)
      putColl (skipDraws s k) { c with started := true, result := x, resid := y.resid }) s

/-- A call that stands at a fault although its wave has ended. -/
def collOrphan (s : State) (c : Coll) : Bool := decide (c.hold = 1) && !(wv s c.wave).live

/-- R378: CL_PEER is due: every rank of this device has issued, and one cannot be reached, or all ranks have issued and one disagrees. `far`
is as for COLL_START. -/
def peerDue (p : Parties) (far : Nat) : Bool :=
  !p.wait && (p.lost || (p.bad && (p.far.isEmpty || decide (far ≠ 0))) || (!p.far.isEmpty && decide (2 ≤ far)))

/-- COLL_START for call `c`; `far` says what the ranks of other devices do: 0 not all have issued, 1 all have and agree, 2 one
disagrees or cannot be reached. -/
def collBegin (s : State) (c : Coll) (far : Nat) : State :=
  match collRanks s c with
  | (s, .error e) => collFault s c e
  | (s, .ok rs) =>
    let p := partiesOf s c rs
    if peerDue p far then p.own.foldl (fun s x => collPeer s x.2) s
    else if p.wait || (!p.far.isEmpty && decide (far = 0)) then s
    else match readAll p.own s with
      | (s, .error (x, e)) => collFault s x e
      | (s, .ok l) => moveChunks s (clNrank c.desc) l p.far

/-- R378: COLL_START. -/
def execCollStart (s : State) : Host.Outcome State Fault Refusal :=
  .next (match findColl s (arg s 0) with
    | none => s
    | some c =>
      if c.started then s
      else if collOrphan s c then collFault s c (c.cls, c.code, c.addr)
      else if c.hold ≠ 0 then s
      else orWait s (collBegin s c (arg s 1)))

/-! ### The call completes (COLL_COMPLETE) -/

/-- R378: the writes of DST and RESID, then the completion word; or the fault. -/
def collWrites (s : State) (c : Coll) : State × Option EngFault :=
  let d := c.desc
  match engWrite s (.unit (coreStack c.core)) c.ctx .cd (clDst d) (dstBytes d) c.result with
  | (s, .error e) => (s, some e)
  | (s, .ok _) =>
    match engWrite s (.unit (coreStack c.core)) c.ctx .cd (clResid d) (residBytes d) c.resid with
    | (s, .error e) => (s, some e)
    | (s, .ok _) =>
      let g := gp s c.group
      if !g.live then (s, none)
      else if !(scrIn g (clDone d) 4) then (s, some (10, 0x21, clDone d))
      else if !(scrMode s g (clDone d) 4) then (s, some (10, 0x22, clDone d))
      else (scrWrite s g (clDone d) 4 (clValue d), none)

/-- A started call performs its writes and ends, or stands at a fault. -/
def collFinish (s : State) (c : Coll) : State × Option EngFault :=
  match collWrites s c with
  | (s, some e) => (s, some e)
  | (s, none) => (completeOp (dropColl s c) c.wave c.op allLanes 0, none)

/-- R378: COLL_COMPLETE. -/
def execCollComplete (s : State) : Host.Outcome State Fault Refusal :=
  .next (match findColl s (arg s 0) with
    | none => s
    | some c =>
      if !c.started then s
      else if collOrphan s c then collFault s c (c.cls, c.code, c.addr)
      else if c.hold ≠ 0 then s
      else orWait s (match collFinish s c with
        | (s, some e) => collFault s c e
        | (s, none) => s))

/-- R392: a parked call tried once more: it goes on, or its fault. -/
def collRetry (s : State) (c : Coll) : State × Option EngFault :=
  let c := { c with hold := 0 }
  if c.started then collFinish s c
  else match collRanks s c with
    | (s, .error e) => (s, some e)
    | (s, .ok _) => match collReads s c with
      | (s, .error e) => (s, some e)
      | (s, .ok _) => (putColl s c, none)

/-- The call may go on by COLL_START without a word from another device. -/
def collReady (s : State) (c : Coll) : Bool :=
  !c.started && (collOrphan s c || (decide (c.hold = 0) &&
    match collRanks s c with
    | (_, .error _) => true
    | (s, .ok rs) =>
      let p := partiesOf s c rs
      s.blocked.isSome || peerDue p 0 || (!p.wait && p.far.isEmpty)))

def readyColl (s : State) : List (Instr × List Nat) :=
  ((s.colls.filter (collReady s)).map fun c => (Instr.collStart, [c.id])) ++
  ((s.colls.filter fun c => c.started && (collOrphan s c || decide (c.hold = 0))).map fun c => (Instr.collComplete, [c.id]))

end Sys2Proof.Machine
end

