-- ==== Sys2Proof/Machine/Exchange.lean ====
section
/-! DEFINITION. Exchange between the lanes of a wave, compaction and expansion (spec/11, R274 to R284). -/

namespace Sys2Proof.Machine

open Sys2Proof.Machine.State

/-- One register copied with its tag from lane `l` (R245). -/
def copyReg (v : Wave) (l r : Nat) : LaneOut := copyRun v l r 1

/-- An exchange instruction: `f` gets the wave, the active lanes and the lane that reads. -/
def exchange (i : Instr) (f : Wave → Lanes → Nat → LaneOut) (s : State) : Host.Outcome State Fault Refusal :=
  let sp := specOf i
  alu i sp (fun v m => laneWrites sp ((lanesOf m).map fun l => (l, f v m l))) s

/-- R275: the source lane of `vshfl` in lane `l`, or none where it is not valid. -/
def shflSource (t l d : Nat) : Option Nat :=
  let sz := 32 >>> (t / 4)
  let s0 := l - l % sz
  match t % 4 with
  | 0 => some (s0 + d % sz)
  | 1 => if s0 + d ≤ l then some (l - d) else none
  | 2 => if l + d < s0 + sz then some (l + d) else none
  | _ => let x := l ^^^ d; if s0 ≤ x ∧ x < s0 + sz then some x else none

/-- R275: `vshfl`. -/
def execVshfl (h : Head) (g : GExt) (s : State) : Host.Outcome State Fault Refusal :=
  exchange (.vshfl h g) (fun v m l =>
    match shflSource (gT g) l ((vread v l g.c.toNat).toNat % 32) with
    | some k => if inLanes m k then copyReg v k h.b.toNat else copyReg v l g.e.toNat
    | none => copyReg v l g.e.toNat) s

/-- R276: `vbcst`. -/
def execVbcst (h : Head) (g : GExt) (s : State) : Host.Outcome State Fault Refusal :=
  exchange (.vbcst h g) (fun v m l =>
    let k := match gT g with
      | 0 => firstLane m
      | 1 => (lanesOf m).getLastD 0
      | _ => (vread v (firstLane m) g.c.toNat).toNat % 32
    if inLanes m k then copyReg v k h.b.toNat else copyReg v l g.e.toNat) s

/-- R277: `vvote`. -/
def execVvote (h : Head) (g : GExt) (s : State) : Host.Outcome State Fault Refusal :=
  exchange (.vvote h g) (fun v m _ =>
    let x := fun k => (vread v k h.b.toNat).toNat
    let ls := lanesOf m
    outReg (match gT g with
      | 0 => b2n (ls.all fun k => decide (x k ≠ 0))
      | 1 => b2n (ls.any fun k => decide (x k ≠ 0))
      | 2 => (lanesWhere fun k => inLanes m k && decide (x k ≠ 0)).toNat
      | 3 => b2n (ls.all fun k => decide (x k = x (firstLane m)))
      | _ => m.toNat) .untyped) s

/-- R277: `vmatch`. -/
def execVmatch (h : Head) (g : GExt) (s : State) : Host.Outcome State Fault Refusal :=
  exchange (.vmatch h g) (fun v m l =>
    let x := fun k => vrun v k h.b.toNat (wide (gT g))
    outReg (lanesWhere fun k => inLanes m k && decide (x k = x l)).toNat .untyped) s

/-- R278: an integer operation of `vredu` and `vscan`. -/
def reduInt (op b c : Nat) : Nat :=
  match op with
  | 0 => (b + c) % 2 ^ 32
  | 1 => if sext 32 b ≤ sext 32 c then b else c
  | 2 => if sext 32 b ≤ sext 32 c then c else b
  | 3 => min b c
  | 4 => max b c
  | 5 => b &&& c
  | 6 => b ||| c
  | _ => b ^^^ c

/-- R278: the exclusive identity of each operation. -/
def reduId (op : Nat) : Nat :=
  match op with
  | 0 => 0 | 1 => 0x7FFFFFFF | 2 => 0x80000000 | 3 => 0xFFFFFFFF | 4 => 0 | 5 => 0xFFFFFFFF | 6 => 0 | 7 => 0
  | 8 => 0x80000000 | 9 => 0x7F800000 | _ => 0xFF800000

/-- R278: one step of a combination, rounded at a lane and element for `.fadd`. -/
def reduStep (v : Wave) (rm : BitVec 3) (free op lane elem b c : Nat) : FRes :=
  match op with
  | 8 => fAdd F32 (rndOf v rm false free lane elem) [b, c]
  | 9 => minmax F32 false (den v) b c
  | 10 => minmax F32 true (den v) b c
  | _ => { bits := reduInt op b c, raised := 0 }

/-- R278: one level of the reduction tree; an absent node leaves the other as it is. -/
def reduLevel (f : Nat → Nat → Nat → FRes) : Nat → List (Option Nat) → List (Option Nat) × Word
  | j, a :: b :: r =>
    let (ns, w) := reduLevel f (j + 1) r
    match a, b with
    | some x, some y => let y := f j x y; (some y.bits :: ns, y.raised ||| w)
    | some x, none => (some x :: ns, w)
    | none, y => (y :: ns, w)
  | _, r => (r, 0)

/-- R201, R213, R278: an operand as a combination reads it: of a float operation under DEN, a NaN in its canonical form and a signalling one
noted. What a combination of one value delivers is that. -/
def reduIn (v : Wave) (op x : Nat) : FRes :=
  if op < 8 then { bits := x, raised := 0 }
  else let y := readVal F32 (den v) x; { bits := (roundTo F32 rne y).bits, raised := sigFlag [y] }

/-- R278: the five levels of `redu_fadd`. -/
def reduTree (f : Nat → Nat → Nat → Nat → FRes) : Nat → Nat → List (Option Nat) → List (Option Nat) × Word
  | 0, _, xs => (xs, 0)
  | n + 1, level, xs =>
    let (ys, w) := reduLevel (f level) 0 xs
    let (zs, u) := reduTree f n (level + 1) ys
    (zs, w ||| u)

/-- R278: `vredu`. -/
def execVredu (h : Head) (g : GExt) (s : State) : Host.Outcome State Fault Refusal :=
  let op := gT g % 16
  let t := if 8 ≤ op then Tag.f32 else Tag.untyped
  bumpDraws g.rm s (exchange (.vredu h g) (fun v m _ =>
    let xs := (List.range 32).map fun l => if inLanes m l then some (reduIn v op (vread v l h.b.toNat).toNat) else none
    let sig := (xs.filterMap fun x => x).foldl (fun w x => w ||| x.raised) 0
    let (r, w) := reduTree (fun level j b c => reduStep v g.rm s.draws op (2 ^ level * j) level b c) 5 1 (xs.map fun x => x.map (·.bits))
    { outReg ((r.headD none).getD 0) t with raised := sig ||| w }) s)

/-- R278: the combinations of an inclusive scan over ascending lanes, with the flags that lane's own step raised. -/
def scanFrom (f : Nat → Nat → Nat → FRes) (x : Nat → Nat) : Nat → List Nat → List (Nat × Nat × Word)
  | _, [] => []
  | acc, l :: r => let y := f l acc (x l); (l, y.bits, y.raised) :: scanFrom f x y.bits r

/-- R278: `vscan`. -/
def execVscan (h : Head) (g : GExt) (s : State) : Host.Outcome State Fault Refusal :=
  let op := gT g % 16
  let t := if 8 ≤ op then Tag.f32 else Tag.untyped
  let excl := bit (gT g) 4
  let i := Instr.vscan h g
  let sp := specOf i
  bumpDraws g.rm s (alu i sp (fun v m =>
    let x := fun k => (vread v k h.b.toNat).toNat
    let ls := lanesOf m
    let f0 := firstLane m
    let y0 := reduIn v op (x f0)
    let inc := (f0, y0.bits, y0.raised) :: scanFrom (fun l b c => reduStep v g.rm s.draws op l 0 b c) x y0.bits (ls.drop 1)
    let outs := ls.map fun l =>
      -- the combination over the active lanes below a lane, or up to it
      let upto := inc.filter fun e => decide (e.1 < l) || (!excl && decide (e.1 = l))
      let r := match upto.getLast? with | some e => e.2.1 | none => reduId op
      (l, { outReg r t with raised := upto.foldl (fun w e => w ||| e.2.2) 0 })
    let a := laneWrites sp outs
    { a with writes := { a.writes with sticky := if m = 0 then 0 else inc.foldl (fun w e => w ||| e.2.2) 0 } }) s)

/-- R279: `vrdln`; the read waits while the register is empty in the lane it names, or raises EMPTY_SOURCE where its trap bit is 1 (R172,
R223). -/
def execVrdln (h : Head) (g : GExt) (s : State) : Host.Outcome State Fault Refusal :=
  let i := Instr.vrdln h g
  let sp := specOf i
  let v := wv s s.cur.wave
  let src := fun (v : Wave) l => (vread v l g.c.toNat).toNat % 32
  let busy := (lanesOf (active sp s)).any fun l =>
    let k := src v l
    !(ln v k).exited && vEmpty v k h.b.toNat
  let bad := decide (8 * v.h ≤ h.b.toNat)
  if g.tb && busy && decide (gateSrc sp bad s = .go) then
    .next (raisePrecise (stall s (trapCondition 2)) (trapOf i 2 0 s.cur.lanes)) else
  runOp i sp bad busy false (fun m s =>
    aluEff i sp (laneWrites sp ((lanesOf m).map fun l =>
      let k := src (wv s s.cur.wave) l
      (l, if (ln v k).exited then outReg 0 .untyped else copyReg (wv s s.cur.wave) k h.b.toNat))) m s) s

/-- R279: `vwrln`; the register of the named lane is made empty at issue and full when it is written. -/
def execVwrln (h : Head) (g : GExt) (s : State) : Host.Outcome State Fault Refusal :=
  let i := Instr.vwrln h g
  let sp := specOf i
  let v := wv s s.cur.wave
  let n := gT g
  let d := h.a.toNat
  let live := !(ln v n).exited
  runOp i sp (decide (8 * v.h ≤ d)) (live && decide (active sp s ≠ 0) && vEmpty v n d) false (fun m s =>
    let v := wv s s.cur.wave
    let x := vreg v (firstLane m) h.b.toNat
    let b := vread v (firstLane m) h.b.toNat
    if m = 0 || !live then advance sp s
    else
      let s := aluEff i sp { writes := { noWrites with regs := [(n, d, b, x.tag)] }, raised := [] } m s
      modWv s s.cur.wave fun v => setVreg v n d { vreg v n d with full := false }) s

/-! ### Compaction (R281 to R284) -/

/-- R281: an element of the 48, as its byte. -/
def elem48 (words : List Word) (k : Nat) : Nat := bits (words.getD (k / 4) 0).toNat (8 * (k % 4) + 7) (8 * (k % 4))

/-- R281: the rank of an element's magnitude, 0 for a zero; NaNs rank above infinities, infinities above finite
values. -/
def magRank (fmt b : Nat) : Nat :=
  match fmt with
  | 0 => b % 128
  | 1 => min (b % 128) 0x7D
  | _ => (sext 8 b).natAbs

/-- Indices in descending order of magnitude, ties keeping the lower index first. -/
def insertMag (f : Nat → Nat) (i : Nat) : List Nat → List Nat
  | [] => [i]
  | j :: r => if f j < f i then i :: j :: r else j :: insertMag f i r

/-- R281: the indices kept of 48 elements, ascending, and whether more than `n` were nonzero. -/
def keepOf (rank : Nat → Nat) (n : Nat) : List Nat × Bool :=
  let all := List.range 48
  let nz := all.filter fun i => decide (rank i ≠ 0)
  if n < nz.length then
    let best := (nz.foldl (fun acc i => insertMag rank i acc) []).take n
    (all.filter fun i => best.contains i, true)
  else
    let zs := (all.filter fun i => decide (rank i = 0)).take (n - nz.length)
    (all.filter fun i => decide (rank i ≠ 0) || zs.contains i, false)

/-- The tag of an element format (R281). -/
def compactTag (t : Nat) : Tag := match t / 4 % 4 with | 0 => .e4m3x4 | 1 => .e5m2x4 | _ => .i8x4

/-- R281: what one lane of `vcompact` writes: values, indices and pe. -/
def compactLane (t : Nat) (words : List Word) : List (Word × Tag) × Bool :=
  let n := compactN t
  let (keep, lost) := keepOf (fun i => magRank (t / 4 % 4) (elem48 words i)) n
  let vals := pack 8 n fun j => elem48 words (keep.getD j 0)
  let idx := pack 6 n fun j => keep.getD j 0
  ((natWords (n / 4) vals).map (fun w => (w, compactTag t)) ++ (natWords (compactQ t) idx).map (fun w => (w, Tag.untyped)),
    lost)

/-- R281: `vcompact`. -/
def execVcompact (h : Head) (g : GExt) (s : State) : Host.Outcome State Fault Refusal :=
  exchange (.vcompact h g) (fun v _ l =>
    let (rs, pe) := compactLane (gT g) (vrun v l h.b.toNat 12)
    { regs := rs, preds := [(g.e.toNat, pe)], raised := 0 }) s

/-- Saturation at 16 bits. -/
def sat16 (x : Nat) : Nat := min x 0xFFFF

/-- R282: the row form of `vcompact`. A saturated count sets `FMODE.CSAT`, or traps where `FMODE.CTRAP` is 1. -/
def execVcompactRow (h : Head) (g : GExt) (s : State) : Host.Outcome State Fault Refusal :=
  let i := Instr.vcompactRow h g
  let sp := specOf i
  runOp i sp false false false (fun m s =>
    let v := wv s s.cur.wave
    let x := fun l => (vread v l h.b.toNat).toNat
    -- under DEN = 2 a subnormal operand is read as zero (R213)
    let nz := fun l => if bit (gT g) 2 then !(isZero (readVal F32 (den v) (x l))) else decide (x l ≠ 0)
    let cs := (lanesOf m).filter nz
    let d := (vread v (firstLane m) g.c.toNat).toNat
    let off := d % 65536
    let rows := d / 65536
    let nd := sat16 (off + cs.length) + 65536 * sat16 (rows + 1)
    -- the true values that a sat16 is given
    let tooMany := decide (0xFFFF < off + cs.length) || decide (0xFFFF < rows + 1)
      || (List.range cs.length).any fun r => decide (0xFFFF < off + r)
    let outs := (lanesOf m).mapIdx fun r l =>
      let first := match cs[r]? with
        | some c => [((vread v c h.b.toNat), (vreg v c h.b.toNat).tag),
            (BitVec.ofNat 32 (sat16 (off + r) + 65536 * c), Tag.untyped)]
        | none => [(0, Tag.untyped), (0xFFFFFFFF, Tag.untyped)]
      (l, LaneOut.mk (first ++ [(BitVec.ofNat 32 nd, Tag.untyped)]) [(g.e.toNat, tooMany)] 0)
    if m ≠ 0 ∧ tooMany ∧ v.fmode.getLsbD 5 then
      raisePrecise (modWv s s.cur.wave fun v => { v with fmode := v.fmode ||| fCsat }) (trapOf i 4 8 m)
    else
      let a := laneWrites sp outs
      aluEff i sp { a with writes := { a.writes with sticky := if tooMany ∧ m ≠ 0 then fCsat else 0 } } m s) s

/-- R284: the 48 elements that values and indices give. -/
def expandLane (t : Nat) (vals idx : Nat) : Nat :=
  let n := compactN t
  let put := (List.range n).foldl
    (fun (e : Nat → Nat) j =>
      let k := bits idx (6 * j + 5) (6 * j)
      fun i => if i = k then bits vals (8 * j + 7) (8 * j) else e i) (fun _ => 0)
  pack 8 48 put

/-- R284: `vexpand`. -/
def execVexpand (h : Head) (g : GExt) (s : State) : Host.Outcome State Fault Refusal :=
  let t := gT g
  exchange (.vexpand h g) (fun v _ l =>
    outRun 12 (expandLane t (wordsNat (vrun v l h.b.toNat (compactN t / 4)))
      (wordsNat (vrun v l g.c.toNat (compactQ t)))) (compactTag t)) s

end Sys2Proof.Machine
end

