-- ==== Sys2Proof/Machine/Firefly.lean ====
section
/-! DEFINITION. The Firefly: node formats (`nfmt`), tree walks (`travs`, `travr`) and their state records (spec/15, R368 to R374;
R420, R421). -/

namespace Sys2Proof.Machine

open Sys2Proof.Machine.State

/-! ### Node formats (R368, R369) -/

/-- R368: the bytes of one child's bound. -/
def boundSize (test : Nat) : Nat := if test = 0 then 24 else 16

/-- R368: the format that a record at `a` gives, none where it breaks a rule. -/
def formatOf (a : Nat) (b : List Byte) : Option NodeFormat :=
  let f : NodeFormat :=
    { addr := a, nodeSz := fieldAt b 0 2, nChild := fieldAt b 2 1, test := fieldAt b 3 1, chOff := fieldAt b 4 2,
      bvOff := fieldAt b 6 2, parOff := fieldAt b 8 2, order := fieldAt b 10 1, theta := BitVec.ofNat 32 (fieldAt b 12 4) }
  let inside := fun o n : Nat => decide (o % 4 = 0) && decide (o + n ≤ f.nodeSz)
  let theta := if f.test = 2 then
      (match valOf F32 f.theta.toNat with | .num false m _ => decide (m ≠ 0) | .inf false => true | _ => false)
    else decide (f.theta = 0)
  if decide (a % 64 = 0) && decide (32 ≤ f.nodeSz) && decide (f.nodeSz ≤ 4096) && decide (f.nodeSz % 32 = 0) &&
      decide (1 ≤ f.nChild) && decide (f.nChild ≤ 8) && decide (f.test ≤ 2) && decide (f.order ≤ 1) &&
      (decide (f.test ≠ 2) || decide (f.order = 1)) && inside f.chOff (4 * f.nChild) &&
      inside f.bvOff (boundSize f.test * f.nChild) && inside f.parOff 4 && decide (fieldAt b 11 1 = 0) && theta &&
      decide (fieldAt b 16 48 = 0)
  then some f else none

/-- The wave's `nfmt` in flight (R369). -/
def nfmtOut (v : Wave) : Option Opr :=
  v.ops.find? fun o => (match o.instr with | .nfmt .. => true | _ => false) && decide (o.flanes = 0)

/-- R369: a `travs` of the wave waits for an `nfmt` that has not completed, be it one that has faulted; one in a trap frame takes its place
at `rfe`. -/
def nfmtWaits (v : Wave) : Bool :=
  v.ops.any fun o => (match o.instr with | .nfmt .. => true | _ => false) && !(v.frameOps.contains o.id)

/-- R369: `nfmt`. -/
def execNfmt (h : Head) (n : NExt) (s : State) : Host.Outcome State Fault Refusal :=
  let i := Instr.nfmt h n
  let sp := specOf i
  runOp i sp false false (acquireOut (wv s s.cur.wave)) (fun m s =>
    let w := s.cur.wave
    let words := capture (wv s w) sp
    let s := advance sp s
    if m = 0 then s else (openOp i sp m 0 words s).2) s

/-- An engine's read for operation `op` may be made (R102, R333). -/
def readsMayGo (s : State) (w op : Nat) : Bool := !(readHeld s w op) && !(engineBefore s w op)

/-- R369: NFMT_LOADED. -/
def execNfmtLoaded (s : State) : Host.Outcome State Fault Refusal :=
  let w := arg s 0
  let v := wv s w
  .next (match nfmtOut v with
    | none => s
    | some o =>
      if !(readsMayGo s w o.id) then s else
      let a := opVal (specOf o.instr) o.words 0 0
      orWait s (match engBytes s (.core v.core) v.ctx .ld a 64 with
      | (s, .error e) => failAll s w o.id e.1 e.2.1 e.2.2
      | (s, .ok b) =>
        match formatOf a b with
        | some f => completeOp (modWv s w fun v => { v with nfmt := some f }) w o.id o.todo 0
        | none => failAll s w o.id 10 0x43 a))

/-! ### Nodes -/

/-- The child entries of a node. -/
def childrenOf (f : NodeFormat) (nb : List Byte) : List Word :=
  (List.range f.nChild).map fun k => BitVec.ofNat 32 (fieldAt nb (f.chOff + 4 * k) 4)
/-- R368: an empty slot. -/
def emptyEntry : Word := 0xFFFFFFFF
/-- The parent of a node, none at the root. -/
def parentOf (f : NodeFormat) (nb : List Byte) : Option Nat :=
  let p := fieldAt nb f.parOff 4
  if p = 2 ^ 32 - 1 then none else some p
/-- The slot in which a node holds an entry. -/
def slotHolding (f : NodeFormat) (nb : List Byte) (e : Word) : Option Nat := (childrenOf f nb).findIdx? fun x => x = e
/-- The entry of a child node. -/
def nodeEntry (n : Nat) : Word := BitVec.ofNat 32 n

/-! ### The tests, in FP64 (R370; log 45 for the order of operations) -/

/-- A result rounded to FP64. -/
def d64 (x : Val × Word) : Val := valOf F64 (roundTo F64 rne x.1).bits
def dAdd (a b : Val) : Val := d64 (addV false a b)
def dSub (a b : Val) : Val := d64 (addV false a (negV b))
def dMul (a b : Val) : Val := d64 (mulV a b)
def dDiv (a b : Val) : Val := d64 (divV a b)
def dSqrt (a : Val) : Val := d64 (sqrtV a)
def dAbs (a : Val) : Val := if isNeg a then negV a else a
/-- a ≤ b; false where either is a NaN. -/
def dLe (a b : Val) : Bool := !(isNan a) && !(isNan b) && (ltV a b || eqV a b)
def dLt (a b : Val) : Bool := !(isNan a) && !(isNan b) && ltV a b && !(eqV a b)
def dMax (a b : Val) : Val := if isNan a || isNan b then .nan false else if ltV a b then b else a
def dMin (a b : Val) : Val := if isNan a || isNan b then .nan false else if ltV b a then b else a
/-- +0 and 1. -/
def dZero : Val := .num false 0 0
def dOne : Val := .num false 1 0

/-- R370: ε of an inequality between `a` and `b`: 2^-20 × max(1, |a|, |b|). -/
def epsOf (a b : Val) : Val := dMul (.num false 1 (-20)) (dMax dOne (dMax (dAbs a) (dAbs b)))
/-- a ≤ b + ε. -/
def leEps (a b : Val) : Bool := dLe a (dAdd b (epsOf a b))

/-- What a child's test gives: its entry key, whether it is opened (R370, OPEN), and the value its report shows, none where the
manual names none (a ray under OPEN). -/
structure Entered where
  key : Val
  opened : Bool
  rep : Option Val
  deriving DecidableEq, Repr

/-- The FP32 at an offset of a node. -/
def nodeF (nb : List Byte) (o : Nat) : Val := valOf F32 (fieldAt nb o 4)

/-- |p - c|^2. -/
def dist2 (p c : Nat → Val) : Val :=
  let d := fun k => dSub (p k) (c k)
  dAdd (dAdd (dMul (d 0) (d 0)) (dMul (d 1) (d 1))) (dMul (d 2) (d 2))

/-- R370: a ray's interval under the conditions on tmin and tmax; `free` leaves those out (R372). -/
def rayOk (free : Bool) (tin tout tmin tmax : Val) : Bool :=
  leEps tin tout && (free || (leEps tmin tout && leEps tin tmax))

/-- R370: the slab interval of a ray. An axis with a zero direction component is infinite or empty. -/
def slab (lo hi : Nat → Val) (q : Nat → Val) : Val × Val :=
  [0, 1, 2].foldl
    (fun x k =>
      let (a, b) := x
      let d := q (3 + k)
      if eqV d dZero then
        (if dLe (lo k) (q k) && dLe (q k) (hi k) then (a, b) else (.inf false, .inf true))
      else
        let t := dDiv (dSub (lo k) (q k)) d
        let u := dDiv (dSub (hi k) (q k)) d
        (dMax a (dMin t u), dMin b (dMax t u))) (.inf true, .inf false)

/-- R370: the interval of a ray's line in a sphere, none where it passes outside. The test must miss no line that comes within r: it is made
on the exact discriminant, and the roots are rounded (log 45). No line comes within a negative r. -/
def sphereHit (c : Nat → Val) (r : Val) (q : Nat → Val) : Option (Val × Val) :=
  let add := fun a b : Val => (addV false a b).1
  let sub := fun a b : Val => add a (negV b)
  let mul := fun a b : Val => (mulV a b).1
  let o := fun k => sub (q k) (c k)
  let dot := fun f g : Nat → Val => add (add (mul (f 0) (g 0)) (mul (f 1) (g 1))) (mul (f 2) (g 2))
  let d := fun k => q (3 + k)
  let a := dot d d
  let b := dot o d
  let disc := sub (mul b b) (mul a (sub (dot o o) (mul r r)))
  if dLe dZero r && dLe dZero disc then
    let g := dSqrt disc
    some (dDiv (sub (negV b) g) a, dDiv (add (negV b) g) a)
  else none

/-- R370: the test of the child in slot `k` of a node, none where it is not entered; `free` leaves out tmin and tmax. -/
def testChild (f : NodeFormat) (x : FfWalk) (nb : List Byte) (k : Nat) (free : Bool) : Option Entered :=
  let o := f.bvOff + boundSize f.test * k
  let bv := fun j : Nat => nodeF nb (o + 4 * j)
  let q := fun j : Nat => valOf F32 (x.query.getD j 0).toNat
  let mid := fun j : Nat => if f.test = 0 then dDiv (dAdd (bv j) (bv (3 + j))) (.num false 2 0) else bv j
  let d2 := dist2 q mid
  match f.test, x.point with
  | 2, p =>
    let th := valOf F32 f.theta.toNat
    some { key := ofInt k, opened := dLt (dMul (dMul th th) d2) (dMul (bv 3) (bv 3)), rep := if p then some d2 else none }
  | 0, true =>
    let inAxis := fun j : Nat =>
      let e := epsOf (dMax (dAbs (q j)) (dAbs (bv j))) (bv (3 + j))
      dLe (dSub (bv j) e) (q j) && dLe (q j) (dAdd (bv (3 + j)) e)
    if [0, 1, 2].all inAxis then some { key := dZero, opened := false, rep := some d2 } else none
  | _, true =>
    if leEps (dSqrt d2) (bv 3) then some { key := dZero, opened := false, rep := some d2 } else none
  | 0, false =>
    let (tin, tout) := slab bv (fun j => bv (3 + j)) q
    if rayOk free tin tout (q 6) (q 7) then some { key := tin, opened := false, rep := some tin } else none
  | _, false =>
    match sphereHit bv (bv 3) q with
    | some (tin, tout) => if rayOk free tin tout (q 6) (q 7) then some { key := tin, opened := false, rep := some tin } else none
    | none => none

/-- A child in visiting order: key, slot, entry. -/
abbrev Ranked := Val × Nat × Word

def insertRank (a : Ranked) : List Ranked → List Ranked
  | [] => [a]
  | b :: r => if dLt b.1 a.1 then b :: insertRank a r else a :: b :: r

/-- R372: the children of a node that are entered, in visiting order; ties by slot. -/
def ranked (x : FfWalk) (nb : List Byte) (free : Bool) : List Ranked :=
  let l := ((childrenOf x.fmt nb).zipIdx.filter fun c => c.1 ≠ emptyEntry).filterMap fun c =>
    (testChild x.fmt x nb c.2 free).map fun e => (e.key, c.2, c.1)
  if x.fmt.order = 0 then l.foldr insertRank [] else l

/-! ### The walk (R372, R420) -/

/-- The bytes of a node the walk has read. -/
def nodeRead (x : FfWalk) (n : Nat) : Option (List Byte) := (x.nodes.find? fun e => e.1 = n).map Prod.snd

/-- What a search along the path from NODE to the root finds. -/
inductive Look where
  | need (n : Nat)
  | bad (n : Nat)
  | found (n depth : Nat) (nb : List Byte) (slot : Nat)
  deriving DecidableEq, Repr

/-- One step from node `n` to its parent, which must hold it. -/
def stepUp (x : FfWalk) (n : Nat) (nb : List Byte) : Except Look (Nat × List Byte × Nat) :=
  match parentOf x.fmt nb with
  | none => .error (.bad n)
  | some p =>
    match nodeRead x p with
    | none => .error (.need p)
    | some pb =>
      match slotHolding x.fmt pb (nodeEntry n) with
      | none => .error (.bad n)
      | some k => .ok (p, pb, k)

/-- R420: the first node on the path from `n`, `i` levels above NODE, to the root that holds entry `e`, with the slot. Its depth follows from
NODE's, in a byte as R373 has it. `k` bounds the path: more steps than the walk has read nodes go in a circle. -/
def holderFrom (x : FfWalk) (e : Word) : Nat → Nat → Nat → Look
  | 0, _, n => .bad n
  | k + 1, i, n =>
    match nodeRead x n with
    | none => .need n
    | some nb =>
      match slotHolding x.fmt nb e with
      | some j => .found n (if i ≤ x.depth then x.depth - i else (x.depth + 255 * i) % 256) nb j
      | none =>
        match stepUp x n nb with
        | .error l => l
        | .ok (p, _, _) => holderFrom x e k (i + 1) p
/-- R420: the node from NODE toward the root that holds entry `e`. -/
def holderOf (x : FfWalk) (e : Word) : Look := holderFrom x e (x.nodes.length + 1) 0 x.node

/-- R372: the ancestor `j` levels above `n`, which lies at depth `d`, with the slot of the child climbed through. -/
def ancestor (x : FfWalk) (d : Nat) : Nat → Nat → Nat → Look
  | 0, n, slot => match nodeRead x n with | none => .need n | some nb => .found n d nb slot
  | j + 1, n, _ =>
    match nodeRead x n with
    | none => .need n
    | some nb =>
      match stepUp x n nb with
      | .error l => l
      | .ok (p, _, k) => ancestor x (d - 1) j p k

/-- What the walk does next: it needs a node, reports, raises FF_NODE, or goes on. -/
inductive FfNext where
  | need (n : Nat)
  | report (x : FfWalk) (status idx : Nat) (e : Option Entered)
  | bad (n : Nat)
  | go (x : FfWalk)
  deriving DecidableEq, Repr

/-- R372: entries pushed, the last of the list first; a push beyond 11 drops the oldest entry and notes the depth of its
parent. An error is a node still to be read, or FF_NODE for a dropped entry that no node of the path holds, which no climb could bring back
(log 46). -/
def pushAll (x : FfWalk) : List Word → Except FfNext FfWalk
  | [] => .ok x
  | e :: r =>
    match pushAll x r with
    | .error n => .error n
    | .ok y =>
      if y.stack.length < 11 then .ok { y with stack := y.stack ++ [e] }
      else
        let z := { y with stack := y.stack.drop 1 ++ [e] }
        match holderOf y (y.stack.headD 0) with
        | .need n => .error (.need n)
        | .bad n => .error (.bad n)
        | .found _ d _ _ => .ok { z with ovfd := max z.ovfd d }

/-- Node `n`, at depth `d`, expanded: its entered children pushed so that they are visited in order. -/
def expand (x : FfWalk) (n d : Nat) : FfNext :=
  match nodeRead x n with
  | none => .need n
  | some nb =>
    match pushAll { x with node := n, depth := d, started := true } ((ranked x nb false).map fun e => e.2.2) with
    | .error r => r
    | .ok y => .go y

/-- R420: the newest entry popped and tested again. -/
def popEntry (x : FfWalk) (e : Word) : FfNext :=
  let y := { x with stack := x.stack.dropLast }
  let idx := e.toNat % 2 ^ 31
  match holderOf x e with
  | .need n => .need n
  | .bad n => .bad n
  | .found _ d nb k =>
    match testChild x.fmt x nb k false with
    | none => .go y
    | some t =>
      if x.fmt.test = 2 ∧ !t.opened then .report y 2 idx (some t)
      else if e.getLsbD 31 then .report y 1 idx (some t)
      else expand y idx (d + 1)

/-- R372: of the children to be pushed at a climb, those after the last that the walk reported, if that is one of them: the walk takes them
in rank order, and no leaf or FAR node is reported twice (log 46). -/
def unreported (x : FfWalk) (l : List Ranked) : List Ranked :=
  let isLast := fun e : Ranked => decide (e.2.2.toNat % 2 ^ 31 = x.last) && (e.2.2.getLsbD 31 || (decide (x.fmt.test = 2) && decide (x.lastSt ≠ 1)))
  match l.findIdx? isLast with
  | some k => l.drop (k + 1)
  | none => l

/-- R372: the climb to the ancestor at depth OVFD, whose later children are pushed. -/
def climbWalk (x : FfWalk) : FfNext :=
  let d : Int := if x.ovfd < x.depth then x.ovfd else (x.depth : Int) - 1
  if d < 0 then .report x 0 0xFFFFFFFF none else
  match ancestor x x.depth (x.depth - d.toNat) x.node 0 with
  | .need n => .need n
  | .bad n => .bad n
  | .found n _ nb slot =>
    let l := ranked x nb true
    -- a path child that takes no rank stands at its slot (log 46)
    let later := match l.findIdx? fun e => e.2.1 = slot with
      | some k => l.drop (k + 1)
      | none => l.filter fun e => decide (slot < e.2.1)
    match pushAll { x with node := n, depth := d.toNat } ((unreported x later).map fun e => e.2.2) with
    | .error r => r
    | .ok y => .go { y with ovfd := d - 1 }

/-- The walk's next action. -/
def ffNext (x : FfWalk) : FfNext :=
  if !x.started then expand x 0 0
  else match x.stack.getLast? with
    | some e => popEntry x e
    | none => if 0 ≤ x.ovfd then climbWalk x else .report x 0 0xFFFFFFFF none

/-! ### Records and reports (R371, R373) -/

/-- R373: the words of a walk's record up to OVFD, with a status. -/
def recHead (x : FfWalk) (status : Nat) : List Byte :=
  (x.query.flatMap fun q => leBytes 4 q.toNat) ++ leBytes 8 x.base ++ leBytes 8 x.fmt.addr ++ leBytes 4 x.node ++
    leBytes 1 status ++ leBytes 1 (b2n x.point) ++ leBytes 1 x.depth ++ leBytes 1 x.stack.length ++ leBytes 2 (wrap 16 x.ovfd) ++
    leBytes 2 0

/-- R373, R286: the fault of a record's place: alignment, bound, mode. -/
def recFault (s : State) (g : Group) (a : Nat) : Option Nat :=
  match scrFault s g a 16, scrFault s g (a + 112 : Nat) 16 with
  | some c, _ => some c
  | none, c => c

/-- R373: a record written; entries not in use, USER and, without a report, LAST and LASTT stay as they are, but that LAST of a walk that
has made no report is written all ones with STATUS RUNNING (log 47). -/
def writeRecord (s : State) (g : Group) (x : FfWalk) (status : Nat) (last : Option (Nat × Nat)) : State :=
  let s := scrPut s g x.recOff (recHead x status)
  let s := scrPut s g (x.recOff + 64) (x.stack.flatMap fun e => leBytes 4 e.toNat)
  match last with
  | some (i, k) => scrPut (scrPut s g (x.recOff + 60) (leBytes 4 i)) g (x.recOff + 108) (leBytes 4 k)
  | none => if status = 3 ∧ x.last = 0xFFFFFFFF then scrPut s g (x.recOff + 60) (leBytes 4 x.last) else s

/-- FP32 of an FP64 value. -/
def f32Of (v : Val) : Nat := (roundTo F32 rne v).bits

/-- The walker gone from its core. -/
def dropWalk (s : State) (core : Nat) (x : FfWalk) : State :=
  modCr s core fun c => { c with walkers := c.walkers.filter fun y => y.id ≠ x.id }
/-- The walker replaced. -/
def putWalk (s : State) (core : Nat) (x : FfWalk) : State :=
  modCr s core fun c => { c with walkers := c.walkers.map fun y => if y.id = x.id then x else y }

/-- R371: a report: the record first, then the lane's four registers. -/
def reportWalk (s : State) (x : FfWalk) (status idx : Nat) (e : Option Entered) : State :=
  let w := x.wave
  let v := wv s w
  let g := gp s v.group
  match findOp v x.op with
  | none => s
  | some o =>
    match recFault s g x.recOff with
    | some c => failLanes s w x.op 10 [(x.lane, c, x.recOff)]
    | none =>
      let s := writeRecord s g x status (e.map fun t => (idx, f32Of t.key))
      let (rep, s) := match e with
        | none => (0, s)
        | some t => (match t.rep with
          | some r => (f32Of r, s)
          | none => let (n, s) := draw s; (n % 2 ^ 32, s))
      let tmax := if x.point then 0 else (x.query.getD 7 0).toNat
      let rs := dstRegs (specOf o.instr)
      let xs := [(status, Tag.untyped), (idx, Tag.untyped), (rep, Tag.f32), (tmax, Tag.f32)]
      addResult s w x.op (lane1 x.lane)
        { noWrites with regs := (rs.zip xs).map fun y => (x.lane, y.1, BitVec.ofNat 32 y.2.1, y.2.2) }

/-- R374: FF_NODE: the record is left RUNNING. -/
def nodeFault (s : State) (core : Nat) (x : FfWalk) (a : Nat) : State :=
  let g := gp s (wv s x.wave).group
  let s := dropWalk s core x
  let s := match recFault s g x.recOff with | some _ => s | none => writeRecord s g x 3 none
  failLanes s x.wave x.op 10 [(x.lane, 0x45, a)]

/-- R368: where node `n` stands. -/
def nodeAddr (x : FfWalk) (n : Nat) : Nat := x.base + x.fmt.nodeSz * n
/-- R374: the node lies in the canonical range; the root is read wherever BASE says. -/
def nodeInRange (x : FfWalk) (n : Nat) : Bool :=
  decide (n = 0) || (decide (nodeAddr x n + x.fmt.nodeSz ≤ 2 ^ 64) && canonical (nodeAddr x n) && canonical (nodeAddr x n + x.fmt.nodeSz - 1))

/-- The walk goes on from `x`, reading at most one node (`budget` is then spent); `k` bounds the number of actions. -/
def runWalk (core : Nat) : Nat → Bool → FfWalk → State → State
  | 0, _, x, s => putWalk s core x
  | k + 1, budget, x, s =>
    match ffNext x with
    | .go y => runWalk core k budget y s
    | .report y st i e => reportWalk (dropWalk s core y) y st i e
    | .bad n => nodeFault s core x (nodeAddr x n % 2 ^ 64)
    | .need n =>
      if !budget then putWalk s core x
      else if !(nodeInRange x n) then nodeFault s core x (nodeAddr x n % 2 ^ 64)
      else match engBytes s (.core core) (wv s x.wave).ctx .er (nodeAddr x n % 2 ^ 64) x.fmt.nodeSz with
        | (s, .ok b) =>
          let s := runAhead s core (wv s x.wave).ctx ((nodeAddr x n + x.fmt.nodeSz - 1) % 2 ^ 64) false
          runWalk core k false { x with nodes := (n, b) :: x.nodes } s
        | (s, .error e) => failLanes (putWalk s core { x with held := true }) x.wave x.op e.1 [(x.lane, e.2.1, e.2.2)]

/-- The walker named `id`, with its core. -/
def findWalk (s : State) (id : Nat) : Option (Nat × FfWalk) :=
  s.cores.findSome? fun (e : Nat × Core) => (e.2.walkers.find? fun x => x.id = id).map fun x => (e.1, x)

/-- R374: the walk may read its next node. -/
def walkGoes (s : State) (x : FfWalk) : Bool := !x.held && readsMayGo s x.wave x.op

/-- R372: FIREFLY_NODE_READ. -/
def execFireflyNodeRead (s : State) : Host.Outcome State Fault Refusal :=
  .next (match findWalk s (arg s 0) with
    | some (c, x) => if walkGoes s x then orWait s (runWalk c 64 true x s) else s
    | none => s)

/-! ### `travs` and `travr` -/

/-- R370: a ray query that is walked at all: tmin ≤ tmax and d ≠ 0. -/
def rayValid (q : List Word) : Bool :=
  let f := fun k : Nat => valOf F32 (q.getD k 0).toNat
  dLe (f 6) (f 7) && [3, 4, 5].any fun k => !(eqV (f k) dZero)

/-- R371: the walk that a lane of `travs` starts, or the code of its fault; the flag says that it is DONE at once. -/
def startOf (v : Wave) (o : Opr) (l : Nat) (point : Bool) : Except Nat (FfWalk × Bool) :=
  let sp := specOf o.instr
  match v.nfmt with
  | none => .error 0x43
  | some f =>
    let q := natWords 8 (opVal sp o.words 0 l % 2 ^ (if point then 96 else 256))
    .ok ({ id := 0, wave := 0, op := o.id, lane := l, recOff := opVal sp o.words 2 l, fmt := f, held := false, started := false,
           base := opVal sp o.words 1 l, query := q, point := point, node := 0, depth := 0, stack := [], ovfd := -1, last := 0xFFFFFFFF, lastSt := 0,
           nodes := [] },
         !point && !(rayValid q))

/-- R373: the walk that a record gives; FF_RECORD where it breaks a rule. The flag says that it is DONE. -/
def recordWalk (s : State) (v : Wave) (o : Opr) (l off : Nat) : Except Nat (FfWalk × Bool) :=
  let b := scrBytes s (gp s v.group) off 128
  let st := fieldAt b 52 1
  let fl := fieldAt b 53 1
  let sp := fieldAt b 55 1
  match v.nfmt with
  | none => .error 0x44
  | some f =>
    if 3 < st ∨ 1 < fl ∨ 11 < sp ∨ fieldAt b 58 2 ≠ 0 ∨ fieldAt b 40 8 ≠ f.addr ∨ (fl = 1 ∧ fieldAt b 12 20 ≠ 0) then .error 0x44
    else
      .ok ({ id := 0, wave := 0, op := o.id, lane := l, recOff := off, fmt := f, held := false, started := true,
             base := fieldAt b 32 8, query := natWords 8 (fieldAt b 0 32), point := decide (fl = 1), node := fieldAt b 48 4,
             depth := fieldAt b 54 1, stack := natWords sp (fieldAt b 64 44), ovfd := sext 16 (fieldAt b 56 2), last := fieldAt b 60 4, lastSt := st, nodes := [] },
           decide (st = 0))

/-- R371: a record's tmax lowered to the operand of `travr`; a NaN leaves it (R420). -/
def lowerTmax (x : FfWalk) (t : Word) : FfWalk :=
  if !x.point && dLt (valOf F32 t.toNat) (valOf F32 (x.query.getD 7 0).toNat) then { x with query := x.query.set 7 t } else x

/-- The walk of a lane of operation `o`. -/
def laneWalk (s : State) (v : Wave) (o : Opr) (l : Nat) : Except Nat (FfWalk × Bool) :=
  match o.instr with
  | .travs _ n => startOf v o l (n.shape.getLsbD 0)
  | _ =>
    match recordWalk s v o l (opVal (specOf o.instr) o.words 0 l) with
    | .ok (x, d) => .ok (lowerTmax x (BitVec.ofNat 32 (opVal (specOf o.instr) o.words 1 l)), d)
    | .error c => .error c

/-- The scratch offset of a lane's record. -/
def laneRec (o : Opr) (l : Nat) : Nat :=
  opVal (specOf o.instr) o.words (match o.instr with | .travs .. => 2 | _ => 0) l

/-- A walker put into the Firefly of a wave's core, or its DONE report. -/
def beginWalk (s : State) (w : Nat) (x : FfWalk) (done : Bool) : State :=
  let (id, s) := fresh s
  let x := { x with id := id, wave := w }
  if done then reportWalk s x 0 0xFFFFFFFF none
  else modCr s (wv s w).core fun c => { c with walkers := c.walkers ++ [x] }

/-- R371, R373: lane `l` of operation `id` begins its walk, or faults. -/
def startLane (w id : Nat) (s : State) (l : Nat) : State :=
  let v := wv s w
  match findOp v id with
  | none => s
  | some o =>
    let a := laneRec o l
    let fail := fun c : Nat => failLanes s w id 10 [(l, c, a)]
    match recFault s (gp s v.group) a with
    | some c => fail c
    | none =>
      match laneWalk s v o l with
      | .error c => fail c
      | .ok (x, d) => beginWalk s w x d

/-- R374: the Firefly of a core has places for `n` more lanes. -/
def ffRoom (s : State) (core n : Nat) : Bool := decide ((cr s core).walkers.length + n ≤ 1024)

/-- A walking instruction. -/
def travOp (i : Instr) (wait : Wave → Bool) (s : State) : Host.Outcome State Fault Refusal :=
  let sp := specOf i
  let v := wv s s.cur.wave
  runOp i sp false false (acquireOut v || wait v || !(ffRoom s v.core (laneCount s.cur.lanes))) (fun m s =>
    let w := s.cur.wave
    let words := capture (wv s w) sp
    let s := advance sp s
    if m = 0 then s else
    let (id, s) := openOp i sp m 0 words s
    (lanesOf m).foldl (startLane w id) s) s

/-- R371: `travs`; it waits while an `nfmt` of the wave is in flight (R369). -/
def execTravs (h : Head) (n : NExt) (s : State) : Host.Outcome State Fault Refusal :=
  travOp (.travs h n) nfmtWaits s

/-- R371: `travr`. -/
def execTravr (h : Head) (n : NExt) (s : State) : Host.Outcome State Fault Refusal := travOp (.travr h n) (fun _ => false) s

/-- R374, R390: a walking operation resumes for lanes `m` of its replay entry, whose captured words the handler may have
edited: a held walk from its read, and another lane that faulted from its beginning. A lane taken out of the entry is over. -/
def resumeWalks (s : State) (w id : Nat) (m : Lanes) (words : List (List Word)) : State :=
  match findOp (wv s w) id with
  | none => s
  | some o =>
    let core := (wv s w).core
    let mine := fun x : FfWalk => decide (x.wave = w) && decide (x.op = id)
    let walking := fun l : Nat => (cr s core).walkers.any fun x => mine x && decide (x.lane = l) && !x.held
    let owed := fun l : Nat => inLanes o.todo l && !(walking l) && !((wv s w).results.any fun r => decide (r.op = id) && inLanes r.lanes l)
    let ls := (List.range 32).filter owed
    let out := lanesWhere fun l => ls.contains l && !(inLanes m l)
    let keep := fun x : FfWalk => if mine x then (if inLanes out x.lane then none else some { x with held := false }) else some x
    let s := modCr s core fun c => { c with walkers := c.walkers.filterMap keep }
    let s := modWv s w fun v => modOp v id fun o => { o with words := words }
    let s := completeOp s w id out 0
    let has := fun (s : State) (l : Nat) => (cr s core).walkers.any fun x => mine x && decide (x.lane = l)
    (ls.filter fun l => inLanes m l).foldl (fun s l => if has s l then s else startLane w id s l) s

/-- Which of these have an occasion. -/
def readyFirefly (s : State) : List (Instr × List Nat) :=
  (s.cores.flatMap fun (e : Nat × Core) => (e.2.walkers.filter (walkGoes s)).map fun x => (Instr.fireflyNodeRead, [x.id])) ++
  s.waves.filterMap fun (e : Nat × Wave) =>
    match nfmtOut e.2 with
    | some o => if readsMayGo s e.1 o.id then some (Instr.nfmtLoaded, [e.1]) else none
    | none => none

end Sys2Proof.Machine
end

