-- ==== Sys2Proof/Machine/Groups.lean ====
section
/-! DEFINITION. Groups on pairs: which pair a group fits, its allocation, its waves at first issue, and the restoring of a saved
group (spec/02, R60, R67, R68; spec/07, R160 to R165; spec/08, R184, R190; spec/16, R395 to R397). -/

namespace Sys2Proof.Machine

open Sys2Proof.Machine.State

/-! ### What a pair has room for (R190) -/

/-- A place for a group: first bank, first accumulator tile, and the quadrant of each wave (4 * core + quadrant). -/
structure Fit where
  bank0 : Nat
  tile0 : Nat
  quads : List Nat
  deriving DecidableEq, Repr

/-- R60: of a run of `n` banks from `b`: the RESERVE banks, and those of each L1; none where a group holds one. -/
def runBanks (s : State) (p b n : Nat) : Option (Nat × Nat × Nat) :=
  let bs := (List.range n).map fun k => bank s p (b + k)
  if bs.any fun x => decide (x.owner ≠ 0) then none
  else
    let count := fun m : BankMode => (bs.filter fun x => decide (x.mode = m)).length
    some (count .reserve, count .cacheL, count .cacheF)

/-- R60: the run of `n` banks that takes the most RESERVE banks, the highest-numbered among equals, leaves each L1 two banks outside
every allocation (R58, log 159) and the L1s with RESERVE at least `lo`. -/
def bankRun (s : State) (p n lo : Nat) : Option Nat :=
  let l := (l1Banks s (2 * p)).length
  let f := (l1Banks s (2 * p + 1)).length
  let res := (reserveBanks s p).length
  if n = 0 then (if lo ≤ l + f + res then some 0 else none) else
  let own := fun c => (freeL1Banks s c).length
  let good := fun b => match runBanks s p b n with
    | some (r, a, c) => if a + 2 ≤ own (2 * p) ∧ c + 2 ≤ own (2 * p + 1) ∧ lo + a + c + r ≤ l + f + res then some (r, b) else none
    | none => none
  ((List.range (65 - n)).filterMap good).foldl
    (fun best x => match best with
      | none => some x
      | some y => if y.1 ≤ x.1 then some x else best) none |>.map Prod.snd

/-- The live groups on a pair. -/
def groupsOn (s : State) (p : Nat) : List Group :=
  (s.groups.filter fun (e : Nat × Group) => e.2.live && !e.2.savedAll && decide (e.2.pair = p)).map Prod.snd

/-- R68: the lowest run of `n` accumulator tiles that no group of the pair holds. -/
def tileRun (s : State) (p n : Nat) : Option Nat :=
  (List.range (65 - n)).find? fun t =>
    (groupsOn s p).all fun g => decide (t + n ≤ g.tile0) || decide (g.tile0 + g.kernel.accum ≤ t)

/-- A quadrant's waves and the granules it has left (R67, R174). -/
structure Quad where
  key : Nat
  waves : Nat
  free : Nat
  deriving DecidableEq, Repr

/-- The eight quadrants of a pair, the leader's first. -/
def quadsOf (s : State) (p : Nat) : List Quad :=
  let vs := (s.waves.map Prod.snd).filter fun v => v.live && !v.saved && decide (corePair v.core = p)
  let pools := (groupsOn s p).flatMap fun g => g.pools
  (List.range 8).map fun q =>
    let key := 8 * p + q
    let mine := vs.filter fun v => decide (quadKey v = key)
    { key := key, waves := mine.length,
      free := 128 - (mine.map (·.h)).foldl (· + ·) 0 - ((pools.filter fun x => x.quad = key).map (·.free)).foldl (· + ·) 0 }

/-- R190: the quadrant for a wave of `h` granules: a free slot and the most free granules, the lowest of equals. -/
def bestQuad (qs : List Quad) (h : Nat) : Option Quad :=
  (qs.filter fun q => decide (q.waves < 8) && decide (h ≤ q.free)).foldl
    (fun b q => match b with
      | none => some q
      | some x => if x.free < q.free then some q else b) none

/-- R190: quadrants for waves that need these granules, one by one. -/
def assignQuads : List Quad → List Nat → Option (List Nat)
  | _, [] => some []
  | qs, h :: r =>
    match bestQuad qs h with
    | none => none
    | some q =>
      (assignQuads (qs.map fun x => if x.key = q.key then { x with waves := x.waves + 1, free := x.free - h } else x) r).map
        fun l => q.key :: l

/-- R190: whether a group of kernel `k`, with waves that need `hs` granules, fits pair `p`. -/
def fitPair (s : State) (p : Nat) (k : Kernel) (hs : List Nat) : Option Fit :=
  let (lo, hi) := cacheLimits s p [(k.cacheMin, k.cacheMax)]
  if !(pr s p).paired || decide (hi < lo) then none else
  match bankRun s p (k.scratch + k.fifo) lo, tileRun s p k.accum, assignQuads (quadsOf s p) hs with
  | some b, some t, some qs => some { bank0 := b, tile0 := t, quads := qs }
  | _, _, _ => none

/-! ### Taking an allocation (R60, R68) -/

/-- R60: banks move from RESERVE to the L1s, one at a time, until the L1s have `lo`. -/
def topUp (p lo : Nat) : Nat → State → State
  | 0, s => s
  | n + 1, s =>
    let l := (l1Banks s (2 * p)).length
    let f := (l1Banks s (2 * p + 1)).length
    if lo ≤ l + f then s else topUp p lo n (bankFromReserve s (if l ≤ f then 2 * p else 2 * p + 1))

/-- R60: the run of banks taken for group `g`, cleared, and the L1s filled to lo. -/
def takeBanks (s : State) (p g : Nat) (k : Kernel) (b0 : Nat) : State :=
  let s := (List.range (k.scratch + k.fifo)).foldl
    (fun s i =>
      let s := removeBank s p (b0 + i)
      clearBank (setBank s p (b0 + i) (if i < k.scratch then .scratch else .fifo) g) p (b0 + i)) s
  topUp p (cacheLimits s p [(k.cacheMin, k.cacheMax)]).1 64 s

/-! ### A new group (R160, R184) -/

/-- The granules of a wave of the kernel (R67). -/
def granules (k : Kernel) : Nat := (k.regs + 7) / 8
/-- The waves of a group of the kernel (R160). -/
def waveCount (k : Kernel) : Nat := (k.gx * k.gy * k.gz + 31) / 32

/-- The coordinate of linear index `lin`. -/
def coordOf (l : Launch) (lin : Nat) : Nat × Nat × Nat := (lin % l.gx, lin / l.gx % l.gy, lin / (l.gx * l.gy))

/-- R184, R179, R361: the uniform registers of a wave at first issue. -/
def firstSregs (l : Launch) : Tab SReg :=
  let put := fun (t : Tab SReg) (r x : Nat) => tset zeroSReg t r { bits := BitVec.ofNat 32 x, full := true }
  let t := put (put [] 0 l.args) 1 (l.args / 2 ^ 32)
  match l.material with
  | some (view, mat, _) => put (put t 2 view) 3 mat
  | none => t

/-- R179, R361: the first registers of the lanes of a wave that an engine formed. -/
def firstVregs (l : Launch) : Tab VReg :=
  (l.inits.zipIdx).foldl
    (fun t (ws, lane) => (ws.zipIdx).foldl (fun t (w, k) => tset zeroReg t (vkey lane k) { bits := w, full := true, tag := .untyped }) t) []

/-- R160, R179: lane `i` of wave `j` begins with a thread. -/
def laneBegins (l : Launch) (k : Kernel) (j i : Nat) : Bool :=
  if l.task || l.material.isSome then !((l.inits.getD i []).isEmpty) else decide (32 * j + i < k.gx * k.gy * k.gz)

/-- R184: wave `j` of a group at its first issue, on the quadrant `q`. -/
def firstWave (s : State) (l : Launch) (k : Kernel) (g j q : Nat) : Wave :=
  let now := cycOf s (coreStack (q / 4))
  { idleWave with
    live := true, ctx := l.ctx, group := g, index := j, core := q / 4, quad := q % 4, h := granules k, uregs := k.uregs, entry := k.entry,
    lanes := (List.range 32).map fun i =>
      if laneBegins l k j i then { idleLane with pc := k.entry, exited := false, since := now } else idleLane,
    vregs := firstVregs l, sregs := firstSregs l, masks := k.waits,
    helpers := if l.material.isSome then lanesWhere fun i => ((l.inits.getD i []).getD 4 0).getLsbD 0 else 0 }

/-- The waves of a group placed on quadrants; the one wave of a material group carries the name of its launch, by which tiles are
referenced (R56). -/
def placeWaves (l : Launch) (k : Kernel) (g : Nat) : List Nat → Nat → State → State × List Nat
  | [], _, s => (s, [])
  | q :: r, j, s =>
    let (w, s) := if l.material.isSome then (l.id, s) else fresh s
    let s := setWv s w (firstWave s l k g j q)
    let (s, ws) := placeWaves l k g r (j + 1) s
    (s, w :: ws)

/-- R184, R190: group (`st`, `lin`) of launch `l` starts on pair `p`, with upstream group `up` (0 for none), and an acquire on each core
that it takes (R102). -/
def startGroup (s : State) (p : Nat) (l : Launch) (k : Kernel) (st lin up prio : Nat) (f : Fit) : State :=
  let (g, s) := fresh s
  let s := takeBanks s p g k f.bank0
  let s := ((f.quads.map fun q => q / 4).eraseDups).foldl selfInvalidate s
  let (s, ws) := placeWaves l k g f.quads 0 s
  let s := setGp s g
    { noGroup with
      live := true, ctx := l.ctx, launch := l.id, stage := st, lin := lin, coord := coordOf l lin, extent := (l.gx, l.gy, l.gz),
      kernel := k, pair := p, bank0 := f.bank0, nBanks := k.scratch + k.fifo, tile0 := f.tile0, waves := ws, upstream := up,
      posters := l.posters, prio := prio }
  let s := if up = 0 then s else modGp s up fun x => { x with downstream := g }
  let s := if l.task then (f.quads.map fun q => q / 4).foldl fillPrefetch s else s
  -- R179: a wave none of whose lanes has begun ends at once
  ws.foldl (fun s w => if liveLanes (wv s w) = 0 then endWave s w else s) s

/-! ### Restoring a saved group (R397) -/

/-- What the save area of a context holds of group `g`. -/
def savedOf (s : State) (g : Nat) : Option Saved := (cx s (gp s g).ctx).saves.find? fun x => x.group = g
def putSaved (s : State) (c : Nat) (x : Saved) : State :=
  modCx s c fun y => { y with saves := x :: y.saves.filter fun z => z.group ≠ x.group }

/-- The saved waves of a group that have not ended, by ascending index. -/
def savedWaves (s : State) (x : Saved) : List SavedWave :=
  (sortBy (fun w => [(wv s w).index]) ((x.waves.map (·.id)).filter fun w => (wv s w).live)).filterMap fun w => x.waves.find? fun y => y.id = w

/-- R174: the pool of a saved group that goes with a wave: that of its old quadrant, with the first wave that stood there. -/
def poolWith (ws : List SavedWave) (pools : List Pool) (w : SavedWave) : Option Pool :=
  match ws.find? fun y => quadKey y.wave = quadKey w.wave with
  | some y => if y.id = w.id then pools.find? fun x => x.quad = quadKey w.wave else none
  | none => none

/-- The granules that a saved wave needs on its new quadrant, its pool's among them. -/
def savedNeeds (ws : List SavedWave) (pools : List Pool) : List Nat :=
  ws.map fun w => w.wave.h + ((poolWith ws pools w).map (·.free)).getD 0

/-- R348: a slot from its 64 bytes: its program read again and checked again, its cursor restored; a program that cannot be read leaves it
INVALID. -/
def reloadSlot (core ctx : Nat) (s : State) (b : List Byte) : State × PatSlot :=
  let a := fieldAt b 0 8
  let bad := { emptySlot with state := SlotState.invalid, addr := a }
  match fieldAt b 8 1 with
  | 0 => (s, emptySlot)
  | 1 =>
    (match readProgram core ctx 32 a s with
    | (s, .error _) => (s, bad)
    | (s, .ok ws) => match loadedSlot a ws with
      | .ok y => (s, { y with
          order := bit (fieldAt b 9 1) 0, row0 := fieldAt b 12 2, curI := fieldAt b 14 2, curJ := fieldAt b 16 2
          done := decide (fieldAt b 18 1 = 1) })
      | .error _ => (s, bad))
  | _ => (s, bad)

/-- R369: the node format read again; one that cannot be read or no longer passes its check leaves none. -/
def reloadFormat (core ctx : Nat) (s : State) (f : Option NodeFormat) : State × Option NodeFormat :=
  match f with
  | none => (s, none)
  | some f => match engBytes s (.core core) ctx .ld f.addr 64 with
    | (s, .error _) => (s, none)
    | (s, .ok b) => (s, formatOf f.addr b)

/-- R374: a walk of a restored wave goes on from its record, or begins. -/
def reloadWalk (w : Nat) (s : State) (x : Nat × Nat × Bool × Bool) : State :=
  let (id, l, started, held) := x
  if !started then startLane w id s l else
  let v := wv s w
  match findOp v id with
  | none => s
  | some o =>
    match recordWalk s v o l (laneRec o l) with
    | .error c => failLanes s w id 10 [(l, c, laneRec o l)]
    | .ok (y, d) => beginWalk s w { y with held := held } (d && !held)

/-- R397: one wave restored on quadrant `q` of group `g`, whose allocation stands, with an acquire on its core (R116). -/
def restoreWave (g : Nat) (s : State) (x : SavedWave) (q : Nat) : State :=
  let core := q / 4
  let now := cycOf s (coreStack core)
  let grp := gp s g
  let v := x.wave
  let s := selfInvalidate s core
  let (s, ps) := x.slots.foldl (fun (a : State × List PatSlot) y => let (s, z) := reloadSlot core v.ctx a.1 y; (s, a.2 ++ [z])) (s, [])
  let (s, nf) := reloadFormat core v.ctx s v.nfmt
  let s := setWv s x.id
    { v with
      core := core, quad := q % 4, saved := false, request := false, holding := none, pats := ps, nfmt := nf, lastIssue := now,
      readySince := 0, awaitBaton := x.holder,
      -- R350: what is held for replay names the tile where the group now has it
      heldMats := v.heldMats.map fun m => { m with tile := grp.tile0 + (matHead m.instr).a.toNat },
      lanes := v.lanes.map fun y =>
        { y with lastIssue := if y.lastIssue = 0 then 0 else max 1 (now + 2 - y.lastIssue), since := now, loopBuf := [] } }
  let move := fun c : Copy =>
    { c with core := core, pair := grp.pair, fetched := false, next := 0, done := [], pos := 0, owed := 0, once := true, hold := if c.hold ≤ 3 then c.hold else 0 }
  let s := modCr s core fun c => { c with scarab := c.scarab ++ x.copies.map move }
  let place := fun y : Waiter =>
    let d := if y.dst = 0 then 0 else y.deadline - x.cyc + now
    if y.space = 0 then { y with home := grp.pair, addr := y.addr - x.base + scrAddr grp 0, deadline := d } else { y with deadline := d }
  let s := { s with waiters := s.waiters ++ x.waiters.map place }
  -- R318: a `barwait` on an object of another device waits there again
  let s := x.waits.foldl (fun s a => let b := { a with core := core, stage := .ready }; route { s with accs := s.accs ++ [b] } b) s
  let s := x.walks.foldl (reloadWalk x.id) s
  let asleep := lanesThat (wv s x.id) fun y => !y.exited && decide (y.sleep = .baton)
  let s := modPr s grp.pair fun p =>
    if x.holder then { p with batonQueue := (x.id, allLanes) :: p.batonQueue }
    else if asleep = 0 then p else { p with batonQueue := p.batonQueue ++ [(x.id, asleep)] }
  -- R178: a baton that is FREE goes to the head of the queue
  modPr s grp.pair fun p =>
    if p.baton = none ∧ p.batonPass = none ∧ p.batonQueue.isEmpty = false then { p with batonPass := some none } else p

/-- R397: the bytes, modes and FIFOs of a saved group's banks, its tiles and pools, back on pair `p`. -/
def restoreAlloc (s : State) (p g : Nat) (x : Saved) (f : Fit) : State :=
  let k := (gp s g).kernel
  let s := takeBanks s p g k f.bank0
  let s := (x.banks.zipIdx).foldl
    (fun s (b, i) => modPr s p fun y => { y with banks := lmod y.banks (f.bank0 + i) fun _ => { b with owner := g } }) s
  let s := modPr s p fun y => { y with scratch := x.scratch.foldl (fun t e => memSet t (f.bank0 * bankBytes + e.1) e.2) y.scratch }
  let put := fun (ts : Tab AccTile) (c : Core) => { c with tiles := ts.foldl (fun t e => tset emptyTile t (f.tile0 + e.1) e.2) c.tiles }
  modCr (modCr s (2 * p) (put x.tilesL)) (2 * p + 1) (put x.tilesF)

/-- Records that a group's ended waves kicked go on where the group stands now (log 146). -/
def moveCopies (s : State) (p g : Nat) : State :=
  let cs := s.cores.flatMap fun (e : Nat × Core) => e.2.scarab.filter fun c => decide (c.group = g)
  let s := { s with cores := tall resetCore s.cores fun c => { c with scarab := c.scarab.filter fun c => decide (c.group ≠ g) } }
  cs.foldl (fun s c =>
    let d := 2 * p + c.core % 2
    modCr s d fun x => { x with scarab := x.scarab ++ [{ c with core := d, pair := p }] }) s

/-- R397: saved group `g` restored on pair `p` where it fits. The claims of its waves stand in the queues of their new quadrants by
ascending index (log 145). -/
def restoreGroup (s : State) (p g prio : Nat) : Option State :=
  match savedOf s g with
  | none => none
  | some x =>
    let ws := savedWaves s x
    match fitPair s p (gp s g).kernel (savedNeeds ws x.pools) with
    | none => none
    | some f =>
      let s := restoreAlloc s p g x f
      let qs := ws.zip f.quads
      let quadOfWave := fun w : Nat => ((qs.find? fun y => y.1.id = w).map Prod.snd).getD 0
      let claims := ws.flatMap fun y => y.claims.map fun c => (y.id, c)
      let pools := (f.quads.eraseDups).map fun q =>
        let from_ := (qs.filter fun y => y.2 = q).filterMap fun y => poolWith ws x.pools y.1
        { quad := q, free := (from_.map (·.free)).foldl (· + ·) 0, dlk := from_.any (·.dlk),
          queue := claims.filter fun y => decide (quadOfWave y.1 = q) : Pool }
      let s := modGp s g fun y =>
        { y with pair := p, bank0 := f.bank0, tile0 := f.tile0, savedAll := false, request := false, pools := pools, prio := prio }
      let s := qs.foldl (fun s y => restoreWave g s y.1 y.2) (moveCopies s p g)
      some (f.quads.eraseDups.foldl (fun s q => toPool s g q 0) s)

end Sys2Proof.Machine
end

