-- ==== Sys2Proof/Machine/Save.lean ====
section
/-! DEFINITION. Pre-emption: requests, `yield` and the save engine (spec/13, R318; spec/16, R394 to R396). -/

namespace Sys2Proof.Machine

open Sys2Proof.Machine.State

/-! ### Requests (R394) -/

/-- The groups upstream of `g` on its FIFO links, nearest first; `n` bounds the stages. -/
def upChain (s : State) : Nat → Nat → List Nat
  | 0, _ => []
  | n + 1, g => let u := (gp s g).upstream; if u = 0 ∨ (gp s u).live = false then [] else u :: upChain s n u
/-- The groups downstream of `g` on its FIFO links. -/
def downChain (s : State) : Nat → Nat → List Nat
  | 0, _ => []
  | n + 1, g => let d := (gp s g).downstream; if d = 0 ∨ (gp s d).live = false then [] else d :: downChain s n d
/-- R394: the groups saved and restored together with `g`, upstream first. -/
def linkedGroups (s : State) (g : Nat) : List Nat := (upChain s 8 g).reverse ++ [g] ++ downChain s 8 g

/-- R394: a pre-emption request for one group. -/
def requestOne (s : State) (g : Nat) : State :=
  let x := gp s g
  if !x.live || x.savedAll || x.request then s else
  let (r, s) := fresh s
  let s := modGp s g fun y => { y with request := true, reqId := r }
  x.waves.foldl
    (fun s w =>
      let v := wv s w
      if v.live && !v.saved then setWv s w { v with request := true, requestAt := cycAt s v.core } else s) s

/-- R394: a pre-emption request for group `g` and those saved with it. -/
def requestGroup (s : State) (g : Nat) : State := (linkedGroups s g).foldl requestOne s

/-! ### What is saved (R395) -/

/-- R318: a `barwait` of the wave on an object of another device, whose lanes sleep. -/
def farWait (s : State) (w : Nat) (a : Acc) : Bool :=
  decide (a.wave = w) && decide (a.stage = .home) && remoteDest (destOf s (accPa s a)) && (match a.act with | .barWait _ => true | _ => false)

/-- R394: the operations that a save does not wait for: a `kick`, a walk, and one whose lanes sleep in a wait. -/
def savedOp (s : State) (w : Nat) (o : Opr) : Bool :=
  match o.instr with
  | .kick .. | .travs .. | .travr .. => true
  | _ => (s.waiters.any fun x => decide (x.wave = w) && decide (x.op = o.id)) || s.accs.any fun a => farWait s w a && decide (a.op = o.id)

/-- R288, R297: a reduction of operation `o` whose lanes not complete all stand parked in the log of context `c`, which RETRY completes. -/
def parkedOp (s : State) (c : Nat) (o : Opr) : Bool :=
  let m := (cx s c).log.foldl
    (fun m e => match e.2.acc with | some a => if a.op = o.id ∧ e.2.state ≠ 0 then m ||| a.lanes else m | none => m) (0 : Lanes)
  decide (m ≠ 0) && decide (o.todo &&& ~~~m = 0)

/-- R394, R116: every issued instruction of the wave has written its destinations or completed, or stands in the frame of a trap that it
handles, and every access of its lanes has been performed, as their release at the save asks. -/
def quietWave (s : State) (w : Nat) : Bool :=
  let v := wv s w
  v.pend.isEmpty && v.results.isEmpty && !faultNews v && v.trap.isNone && !v.faulting &&
    (v.ops.all fun o => savedOp s w o || v.frameOps.contains o.id || parkedOp s v.ctx o) && !(s.accs.any fun a => decide (a.wave = w) && !(farWait s w a)) &&
    !((pr s (corePair v.core)).mats.any fun m => m.wave = w)

/-- R242: the liveness record of a `yield` at offset `off`, none where the kernel has none or it cannot be read. -/
def liveRecord (s : State) (ag : Agent) (c : Nat) (k : Kernel) (off : Nat) : State × Option (List Byte) :=
  if k.nLive = 0 then (s, none) else
  match engBytes s ag c .er k.liveTab (64 * k.nLive) with
  | (s, .error _) => (s, none)
  | (s, .ok b) => (s, ((List.range k.nLive).map fun i => (b.drop (64 * i)).take 64).find? fun r => decide (fieldAt r 0 4 = off))

/-- R242, R395: the wave's registers without those that the record does not name; `s0` and `s1` are always kept. -/
def keepLive (v : Wave) (r : Option (List Byte)) : Wave :=
  match r with
  | none => v
  | some r =>
    { v with
      vregs := v.vregs.filter fun e => bit (fieldAt r 8 32) (e.1 % 256),
      sregs := v.sregs.filter fun e => decide (e.1 < 2) || bit (fieldAt r 40 16) e.1 }

/-- R142: the 48 bytes of a record of the Scarab. -/
def recordBytes (s : State) (c : Copy) : List Byte := if c.fetched || c.once then c.bytes else scrBytes s (gp s c.group) c.recOff 48

/-- R374: a walking lane writes its record. -/
def parkWalk (s : State) (g : Group) (x : FfWalk) : State := if x.started && !x.held then writeRecord s g x 3 none else s

/-! ### Saving (R394) -/

/-- R391, R196: the group's places in the rank begin to age again on every stack, from now on. -/
def markEligible (s : State) (g : Group) : State :=
  modCx s g.ctx fun c => { c with launches := c.launches.map fun l =>
    if l.id = g.launch then
      { l with eligibleAt := (List.range 6).foldl (fun t k => tset 0 t (8 * (8 * g.lin + g.stage) + k) (cycOf s k + 1)) l.eligibleAt }
    else l }

/-- R394: the last resident wave of group `g` is saved: its banks, tiles and pools are written, and its allocation is free. Records that
waves which have ended kicked are not cancelled, of which the manual says nothing: they go on when the group is restored (log 146). -/
def saveGroup (s : State) (g : Nat) : State :=
  let x := gp s g
  let sv := (savedOf s g).getD { group := g, waves := [], whole := false, banks := [], scratch := [], tilesL := [], tilesF := [], pools := [] }
  let p := pr s x.pair
  let base := x.bank0 * bankBytes
  let tiles := fun c : Core =>
    (c.tiles.filter fun (e : Nat × AccTile) => decide (x.tile0 ≤ e.1) && decide (e.1 < x.tile0 + x.kernel.accum)).map
      fun (e : Nat × AccTile) => (e.1 - x.tile0, e.2)
  let req := ((savedWaves s sv).map (·.req)).eraseDups
  let s := putSaved s x.ctx
    { sv with
      whole := decide (req.length ≤ 1),
      banks := (List.range x.nBanks).map fun i => { bank s x.pair (x.bank0 + i) with owner := 0 },
      scratch := (p.scratch.filter fun (e : Nat × Byte) => decide (base ≤ e.1) && decide (e.1 < base + x.nBanks * bankBytes)).map
        fun (e : Nat × Byte) => (e.1 - base, e.2),
      tilesL := tiles (cr s (2 * x.pair)), tilesF := tiles (cr s (2 * x.pair + 1)), pools := x.pools }
  let s := releaseAlloc s g
  markEligible (modGp s g fun y => { y with savedAll := true, request := false, pools := [] }) x

/-- R394: some wave of the group is saved and none that has not ended is resident. -/
def saveDue (s : State) (g : Nat) : Bool :=
  let x := gp s g
  let ws := x.waves.filter fun w => (wv s w).live
  x.live && !x.savedAll && !ws.isEmpty && (ws.all fun w => (wv s w).saved) &&
    !(s.cores.any fun (e : Nat × Core) => e.2.scarab.any fun c => decide (c.group = g) && decide (c.hold = 5))

/-- R394: wave `w`, which has issued its `yield` at `pc` with the PC group `grp`, is saved; a pass of the baton that names it finds no wave (log 111). -/
def saveWave (s : State) (w pc : Nat) (grp : Lanes) : State :=
  let v := wv s w
  let g := gp s v.group
  let p := corePair v.core
  let now := cycAt s v.core
  let (s, r) := if liveLanes v = grp then liveRecord s (.unit (coreStack v.core)) v.ctx g.kernel ((pc + 2 ^ 64 - v.entry) % 2 ^ 64) else (s, none)
  let mine := fun x : FfWalk => decide (x.wave = w)
  let walks := (cr s v.core).walkers.filter mine
  let s := walks.foldl (fun s x => parkWalk s g x) s
  let copies := ((cr s v.core).scarab.filter fun c => decide (c.wave = w)).map fun c => { c with bytes := recordBytes s c }
  let s := modCr s v.core fun c =>
    { c with walkers := c.walkers.filter fun x => !(mine x), scarab := c.scarab.filter fun c => decide (c.wave ≠ w) }
  let waits := s.waiters.filter fun x => decide (x.wave = w)
  let far := s.accs.filter (farWait s w)
  let s := far.foldl (fun s a => forgetFar s a.id) { s with
    waiters := s.waiters.filter fun x => decide (x.wave ≠ w), accs := s.accs.filter fun a => !(far.any fun b => b.id = a.id) }
  let pool := poolOf (gp s v.group) (quadKey v)
  let claims := (pool.queue.filter fun y => y.1 = w).map fun y => y.2
  let s := modGp s v.group fun g => { g with pools := g.pools.map fun x => { x with queue := x.queue.filter fun y => y.1 ≠ w } }
  let slots := v.pats.map slotRecord
  let b := pr s p
  -- what is held for replay has faulted, and the baton waits for it no longer (R351)
  let faulted := v.heldMats.map fun m => m.op
  let holder := decide (b.baton = some w ∧ b.batonPass = none) || decide (b.batonPass = some (some w)) || v.awaitBaton
  let s := if b.baton = some w ∧ b.batonPass = none ∨ b.batonPass = some (some w) then passBaton s p none else s
  let s := modPr s p fun x => { x with
    batonQueue := x.batonQueue.filter fun y => y.1 ≠ w
    passMats := if x.baton = some w then x.passMats.filter fun m => !faulted.contains m else x.passMats }
  let v := keepLive v r
  let v := { v with
    saved := true, request := false, holding := none, awaitBaton := false, cycHigh := none, pats := v.pats.map fun _ => emptySlot,
    ops := v.ops.map fun o => match o.instr with | .kick .. => { o with window := false } | _ => o,
    lanes := v.lanes.map fun x => { x with lastIssue := if x.lastIssue = 0 then 0 else now + 2 - x.lastIssue, loopBuf := [] } }
  let rec_ : SavedWave :=
    { id := w, req := g.reqId, wave := v, walks := walks.map fun x => (x.op, x.lane, x.started, x.held), copies := copies,
      waiters := waits, waits := far, claims := claims, slots := slots, holder := holder, base := scrAddr g 0, cyc := now }
  let sv := (savedOf s v.group).getD
    { group := v.group, waves := [], whole := false, banks := [], scratch := [], tilesL := [], tilesF := [], pools := [] }
  let s := putSaved s v.ctx { sv with waves := rec_ :: sv.waves.filter fun x => x.id ≠ w }
  let s := setWv s w v
  if saveDue s v.group then saveGroup s v.group else s

/-! ### `yield` (R318) -/

/-- R318, R394: `yield`. With a request pending the wave issues nothing else until it is quiet, and is then saved. -/
def yieldOp (i : Instr) (s : State) : Host.Outcome State Fault Refusal :=
  let sp := specOf i
  let w := s.cur.wave
  let want := (wv s w).request && decide (active sp s ≠ 0)
  let busy := want && !(quietWave s w)
  let s := if busy && decide (gate sp false false false s = .go) then modWv s w fun v => { v with holding := some s.cur.pc } else s
  runOp i sp false false busy (fun m s0 =>
    let pc := s0.cur.pc
    let s := advance sp s0
    if m = 0 || !(wv s w).request then s else orStall s0 (saveWave s w pc s.cur.lanes)) s

/-- R318: `(qN) yield`. -/
def execYieldW (h : Head) (e : IExt) (s : State) : Host.Outcome State Fault Refusal := yieldOp (.yieldW h e) s
/-- R318: `yield`. -/
def execYieldShort (h : Head) (s : State) : Host.Outcome State Fault Refusal := yieldOp (.yieldShort h) s

end Sys2Proof.Machine
end

