-- ==== Sys2Proof/Machine/Launch.lean ====
section
/-! DEFINITION. Launches: launch queues and records, the dependence unit, placement, completion and timing contracts (spec/08,
R180 to R195, R199; spec/15, R379). -/

namespace Sys2Proof.Machine

open Sys2Proof.Machine.State

/-! ### Completion events (R199) -/

/-- The key of a context's device queue among launch queues. -/
def deviceQueue : Nat := 128

/-- R199, R405: the interrupt of a queue: its own vector at its port; vector 64 of port A for a device queue. -/
def signalQueue (s : State) (q : Nat) : State := if q = deviceQueue then out s (.irq 0 64) else out s (.irq (q / 64) (q % 64))

/-- The home stack of a context (R187, R406). -/
def homeOf (s : State) (c : Nat) : Nat := (cx s c).held.home.toNat

/-- The 32 bytes of a completion event. -/
def eventWord (s : State) (seq status detail groups stack : Nat) : Nat :=
  status + 2 ^ 32 * detail + 2 ^ 64 * seq + 2 ^ 128 * groups + 2 ^ 160 * stack + 2 ^ 192 * (cycOf s stack % 2 ^ 32)

/-- R199: an event written at `a` for context `c`, then the interrupt of queue `q` where `irq` asks; a write that faults is parked. -/
def writeEvent (s : State) (c a x q : Nat) (irq : Bool) : State :=
  match engWrite s (ctxUnit s c) c .st a 32 x with
  | (s, .ok _) => if irq then signalQueue s q else s
  | (s, .error e) =>
    logEntry s c
      { freeLog with
        state := 1, code := e.2.1 % 256, cls := e.1, opk := 4, addr := e.2.2, status := if e.1 = 10 then e.2.1 else 0,
        words := [(a, x), (b2n irq, q)] }

/-- R199: the event of a launch, where it asks for one. -/
def launchEvent (s : State) (l : Launch) (status detail stack : Nat) : State :=
  if l.evaddr = 0 then s
  else writeEvent s l.ctx l.evaddr (eventWord s l.seq status detail l.doneGroups.length stack) l.queue l.irq

/-- R199: STACK: that of the last completing group, or the home stack. -/
def eventStack (s : State) (l : Launch) : Nat := if l.lastStack < 6 then l.lastStack else homeOf s l.ctx

/-- The DETAIL of an event that reports a fenced context: the first code of its log. -/
def firstCodeOf (s : State) (c : Nat) : Nat := (cx s c).firstCode - 1

/-! ### Regions and dependence (R185, R188) -/

/-- A launch that the dependence unit has accepted. -/
def accepted (l : Launch) : Bool := l.material.isNone && !l.task

def stageCount (l : Launch) : Nat := l.kernels.length
def groupCount (l : Launch) : Nat := l.gx * l.gy * l.gz
/-- R164: the boundary after stage `st` is a FIFO link. -/
def linkAfter (l : Launch) (st : Nat) : Bool := bit l.links st && decide (st + 1 < stageCount l)

/-- The bytes [lo, hi) of each row of a group's footprint in a region. -/
def footprint (r : LRegion) (x y : Nat) : List (Nat × Nat) :=
  let rows := if r.part then (List.range (min r.rows ((y + 1) * 2 ^ r.tr))).drop (y * 2 ^ r.tr) else List.range r.rows
  let lo := if r.part then x * 2 ^ r.tc else 0
  let hi := if r.part then min r.bpr ((x + 1) * 2 ^ r.tc) else r.bpr
  if hi ≤ lo then [] else rows.map fun k => (r.base + k * r.pitch + lo, r.base + k * r.pitch + hi)

/-- The rows of a region that meet [lo, hi), each with the columns it shares. -/
def rowsMet (r : LRegion) (lo hi : Nat) : List (Nat × Nat × Nat) :=
  let p := max 1 r.pitch
  if hi ≤ r.base then [] else
  let first := if lo < r.base + r.bpr then 0 else (lo - r.base - r.bpr) / p + 1
  let last := min (r.rows - 1) ((hi - 1 - r.base) / p)
  ((List.range (last + 1)).drop first).filterMap fun k =>
    let b := r.base + k * p
    let a := max lo b - b
    let c := min hi (b + r.bpr) - b
    if a < c then some (k, a, c) else none

/-- R185: block (i, j) of a region of launch `l` is complete. -/
def blockDone (l : Launch) (i j : Nat) : Bool :=
  decide (i < l.gy) && decide (j < l.gx) && (List.range l.gz).all fun z =>
    (List.range (stageCount l)).all fun st => l.doneGroups.contains (st, j + l.gx * (i + l.gy * z))

/-- The bytes of columns [a, c) of row `k` of region `r` are complete in launch `l`, which is not. -/
def spanDone (l : Launch) (r : LRegion) (k a c : Nat) : Bool :=
  r.part && ((List.range ((c - 1) / 2 ^ r.tc + 1)).drop (a / 2 ^ r.tc)).all fun j => blockDone l (k / 2 ^ r.tr) j

/-- R188: group at (x, y) of launch `l2` waits for the earlier launch `l1`. -/
def waitsFor (l1 l2 : Launch) (x y : Nat) : Bool :=
  (l2.serial && decide (l1.queue = l2.queue)) || l2.regions.any fun r2 => l1.regions.any fun r1 =>
    (decide (2 ≤ r1.use) || decide (2 ≤ r2.use)) &&
      (footprint r2 x y).any fun (lo, hi) => (rowsMet r1 lo hi).any fun (k, a, c) => !(spanDone l1 r1 k a c)

/-- R188: the group is eligible. The stages of one launch that a memory link joins are not ordered (log 147). -/
def eligible (ls : List Launch) (l : Launch) (lin : Nat) : Bool :=
  let (x, y, _) := coordOf l lin
  !((ls.takeWhile fun y => y.id ≠ l.id).any fun e => accepted e && waitsFor e l x y)

/-- R191: groups that become eligible begin to wait, on every stack. -/
def noteEligible (s : State) (c : Nat) : State :=
  let ls := (cx s c).launches
  let note := fun (l : Launch) (t : Tab Nat) (lin st : Nat) =>
    if l.placed.contains (st, lin) || decide (tget 0 t (8 * (8 * lin + st)) ≠ 0) then t
    else (List.range 6).foldl (fun t k => tset 0 t (8 * (8 * lin + st) + k) (cycOf s k + 1)) t
  let table := fun l : Launch =>
    (List.range (groupCount l)).foldl
      (fun t lin => if eligible ls l lin then (List.range (stageCount l)).foldl (fun t st => note l t lin st) t else t) l.eligibleAt
  let upd := fun l : Launch => if accepted l then { l with eligibleAt := table l } else l
  modCx s c fun y => { y with launches := ls.map upd }

/-! ### Records (R184 to R186) -/

def rcRegion (b : List Byte) (i : Nat) : List Byte := (b.drop (48 + 20 * i)).take 20
def rcEvaddr (b : List Byte) : Nat := fieldAt b 40 8

/-- R185: a region's fields. -/
def tileRegion (b : List Byte) : LRegion :=
  let m := fieldAt b 14 2
  { base := fieldAt b 0 8, pitch := fieldAt b 8 4, rows := fieldAt b 12 2, bpr := fieldAt b 16 4, use := bits m 1 0, part := bit m 2,
    tr := bits m 6 3, tc := bits m 11 7 }

/-- R186, cause 1: a reserved field or bit is nonzero. -/
def rcReserved (b : List Byte) : Bool :=
  decide (8 ≤ fieldAt b 26 1) || decide (4 ≤ fieldAt b 27 1) || decide (64 ≤ fieldAt b 28 1) || decide (fieldAt b 29 3 ≠ 0) ||
    (List.range 4).any fun i =>
      let r := rcRegion b i
      decide (bits (fieldAt r 14 2) 15 12 ≠ 0) || (decide ((tileRegion r).use = 0) && r.any fun x => decide (x ≠ 0))

/-- R185, R186: a used region breaks cause 4. -/
def regionBad (r : LRegion) : Bool :=
  decide (r.use ≠ 0) && (decide (r.rows = 0) || decide (r.bpr = 0) || (decide (r.pitch < r.bpr) && decide (1 < r.rows)) || !(canonical r.base))

/-- An address that is no multiple of `n` or not canonical. -/
def addrBad (a n : Nat) : Bool := decide (a % n ≠ 0) || !(canonical a)

/-- R186: the causes 1 to 4 that the record itself decides. -/
def rcCause (b : List Byte) : Option Nat :=
  let ns := fieldAt b 24 1
  if rcReserved b then some 1
  else if ns = 0 ∨ 8 < ns ∨ fieldAt b 25 1 / 2 ^ (ns - 1) ≠ 0 then some 2
  else if fieldAt b 16 4 = 0 ∨ fieldAt b 20 2 = 0 ∨ fieldAt b 22 2 = 0 then some 3
  else if addrBad (fieldAt b 0 8) 64 || addrBad (rcEvaddr b) 32 || (decide (1 < ns) && addrBad (fieldAt b 8 8) 8) ||
      (List.range 4).any fun i => regionBad (tileRegion (rcRegion b i)) then some 4
  else none

/-- R186: cause 8 with its code. -/
def readCause (e : EngFault) : Nat := 8 + 256 * (e.2.1 % 256)

/-- R186: the descriptor addresses of the stages, or cause 4; the 56 bytes of STAGETAB are read whole (log 166). Where STAGETAB cannot be read: that of stage 0, with cause 8, which the causes 5 to 7
on what can be read come before. -/
def stageDescs (s : State) (c : Nat) (b : List Byte) : State × Except Nat (List Nat × Option Nat) :=
  let ns := fieldAt b 24 1
  if ns = 1 then (s, .ok ([fieldAt b 0 8], none)) else
  match engRead s (ctxUnit s c) c .er (fieldAt b 8 8) 56 with
  | (s, .error e) => (s, .ok ([fieldAt b 0 8], some (readCause e)))
  | (s, .ok x) =>
    let ds := elemsOf 8 (ns - 1) x
    if ds.any fun a => addrBad a 64 then (s, .error 4) else (s, .ok (fieldAt b 0 8 :: ds, none))

/-- The kernels read: those that can be, and the first read that faults. A malformed one, or one of another stage, is cause 5. -/
def readKernels (c : Nat) : Nat → List Nat → State → State × Except Nat (List Kernel × Option Nat)
  | _, [], s => (s, .ok ([], none))
  | st, a :: r, s =>
    match kernelAt s (ctxUnit s c) c a with
    | (s, .ok none) => (s, .error 5)
    | (s, .ok (some k)) =>
      if k.stage ≠ st then (s, .error 5) else
      match readKernels c (st + 1) r s with
      | (s, .error e) => (s, .error e)
      | (s, .ok (ks, e)) => (s, .ok (k :: ks, e))
    | (s, .error e) =>
      match readKernels c (st + 1) r s with
      | (s, .error e) => (s, .error e)
      | (s, .ok (ks, _)) => (s, .ok (ks, some (readCause e)))

/-- R190: an empty pair's quadrants. -/
def emptyQuads : List Quad := (List.range 8).map fun q => { key := q, waves := 0, free := 128 }
/-- R190: the waves' needs of a new group. -/
def newNeeds (k : Kernel) : List Nat := List.replicate (waveCount k) (granules k)
/-- R186, cause 6: a group of the kernel fits an empty pair. -/
def fitsEmpty (k : Kernel) : Bool := decide (k.scratch + k.fifo + k.cacheMin ≤ 64) && (assignQuads emptyQuads (newNeeds k)).isSome

/-! ### Whether a contract's grid fits at once (R186, cause 7) -/

/-- What is left of one of the contract's pairs. -/
structure Room where
  quads : List Quad
  banks : Nat
  tiles : Nat
  lo : Nat
  hi : Nat
  deriving DecidableEq, Repr

/-- One more group in a room. -/
def roomTake (r : Room) (k : Kernel) : Option Room :=
  let lo := max r.lo k.cacheMin
  let hi := min r.hi k.cacheMax
  let banks := r.banks + k.scratch + k.fifo
  let tiles := r.tiles + k.accum
  if hi < lo ∨ 64 < banks + lo ∨ 64 < tiles then none else
  (newNeeds k).foldl
    (fun (x : Option Room) h => match x with
      | none => none
      | some y => (bestQuad y.quads h).map fun q =>
          { y with quads := y.quads.map fun z => if z.key = q.key then { z with waves := z.waves + 1, free := z.free - h } else z })
    (some { r with banks := banks, tiles := tiles, lo := lo, hi := hi })

/-- The first room of `rs` that takes a group, at index `i` or above, or exactly at `only`. -/
def takeRoom (k : Kernel) (only : Option Nat) : Nat → List Room → Option (Nat × List Room)
  | _, [] => none
  | i, r :: rs =>
    match (if only.isSome && decide (only ≠ some i) then none else roomTake r k) with
    | some r' => some (i, r' :: rs)
    | none => (takeRoom k only (i + 1) rs).map fun x => (x.1, r :: x.2)

/-- The groups (stage, linear index, kernel, FIFO-linked upstream) put into rooms one by one. -/
def fillRooms : List (Nat × Nat × Kernel × Bool) → List ((Nat × Nat) × Nat) → List Room → Bool
  | [], _, _ => true
  | (st, lin, k, up) :: gs, at_, rs =>
    let only := if up then (at_.find? fun x => x.1 = (st - 1, lin)).map Prod.snd else none
    match takeRoom k only 0 rs with
    | none => false
    | some (i, rs) => fillRooms gs (((st, lin), i) :: at_) rs

/-- R186, cause 7: the grid's groups fit at once on `n` pairs. -/
def gridFits (n : Nat) (l : Launch) : Bool :=
  let room : Room := { quads := emptyQuads, banks := 0, tiles := 0, lo := 0, hi := 62 }
  if 64 * n < groupCount l * stageCount l then false
  else
    let gs := (l.kernels.zipIdx).flatMap fun (k, st) =>
      (List.range (groupCount l)).map fun lin => (st, lin, k, decide (st ≠ 0) && linkAfter l (st - 1))
    fillRooms gs [] (List.replicate n room)

/-! ### The dependence unit (R187) -/

/-- The launch that a checked record describes. -/
def launchOfRecord (id c q seq prio : Nat) (b : List Byte) (ks : List Kernel) (contract : Bool) : Launch :=
  let p := fieldAt b 26 1 % 8
  let fl := fieldAt b 27 1
  { id := id, ctx := c, queue := q, seq := seq, kernels := ks, gx := fieldAt b 16 4, gy := fieldAt b 20 2, gz := fieldAt b 22 2,
    links := fieldAt b 25 1, prio := if p = 0 then prio else p, serial := bit fl 0, irq := bit fl 1, onStacks := fieldAt b 28 1,
    args := fieldAt b 32 8, evaddr := rcEvaddr b,
    regions := ((List.range 4).map fun i => tileRegion (rcRegion b i)).filter fun r => decide (r.use ≠ 0),
    placed := [], doneGroups := [], eligibleAt := [], contract := contract, released := none, overrun := false, yieldFault := false,
    lastStack := 6, material := none, task := false, parent := 0, posters := [], inits := [], refs := [] }

/-- R193: the queue's records run under a contract. -/
def contracted (s : State) (q : Nat) : Bool := decide (q ≠ deviceQueue) && (qu s q).contract && (qu s q).cen

/-- R186: the launch of an offered record, or the cause of its refusal. -/
def checkRecord (s : State) (c q id seq : Nat) (b : List Byte) : State × Except Nat Launch :=
  match rcCause b with
  | some k => (s, .error k)
  | none =>
    match stageDescs s c b with
    | (s, .error k) => (s, .error k)
    | (s, .ok (ds, late)) =>
      match readKernels c 0 ds s with
      | (s, .error k) => (s, .error k)
      | (s, .ok (ks, e)) =>
        let e := late.or e
        let prio := if q = deviceQueue then 0 else (qu s q).prio.toNat
        let l := launchOfRecord id c q seq prio b ks (contracted s q)
        if ks.any fun k => !(fitsEmpty k) then (s, .error 6)
        else if l.contract && (ks.any (fun k => decide (k.yieldMax = 0)) || (e.isNone && !(gridFits (qu s q).pairs.toNat l))) then
          (s, .error 7)
        else match e with
          | some k => (s, .error k)
          | none => (s, .ok l)

/-- R199: SEQ of a record at its acceptance. -/
def seqOf (s : State) (c q : Nat) : Nat :=
  if q = deviceQueue then (cx s c).devHead.toNat + 2 ^ 39
  else (qu s q).head.toNat + 2 ^ 32 * (q % 64) + 2 ^ 38 * (q / 64)

/-- R183: the offered record is accepted or refused: HEAD increments, and the device queue offers its next. -/
def takeOffer (s : State) (c q : Nat) : State :=
  let s := modCx s c fun x => { x with offers := x.offers.drop 1 }
  if q ≠ deviceQueue then modQu s q fun x => { x with head := x.head + 1, offered := false } else
  match (cx s c).devQueue with
  | [] => s
  | (w, op, _) :: r =>
    let s := completeOp s w op allLanes 0
    modCx s c fun x =>
      { x with devHead := x.devHead + 1, devQueue := r,
               offers := match r with | [] => x.offers | (_, _, b) :: _ => x.offers ++ [(deviceQueue, b)] }

/-- R187: launches accepted and not completed. -/
def unitFull (s : State) (c : Nat) : Bool := decide (1024 ≤ ((cx s c).launches.filter accepted).length)

/-- R187: LAUNCH_ACCEPT. -/
def acceptOffer (s : State) (c : Nat) : State :=
  match (cx s c).offers with
  | [] => s
  | (q, b) :: _ =>
    let seq := seqOf s c q
    let home := homeOf s c
    let event := fun (s : State) (status detail : Nat) =>
      writeEvent s c (rcEvaddr b) (eventWord s seq status detail 0 home) q (bit (fieldAt b 27 1) 1)
    if (cx s c).fenced then
      let s := takeOffer s c q
      if rcEvaddr b = 0 ∨ addrBad (rcEvaddr b) 32 = true then s else event s 1 (firstCodeOf s c)
    else if unitFull s c then s
    else
      let (id, s) := fresh s
      match checkRecord s c q id seq b with
      | (s, .ok l) =>
        noteEligible (modCx (takeOffer s c q) c fun x => { x with launches := x.launches ++ [l] }) c
      | (s, .error d) =>
        let s := takeOffer s c q
        if rcEvaddr b = 0 ∨ (d = 4 ∧ addrBad (rcEvaddr b) 32 = true) then s else event s 5 d

/-- R187: LAUNCH_ACCEPT. -/
def execLaunchAccept (s : State) : Host.Outcome State Fault Refusal := .next (orWait s (acceptOffer s (arg s 0)))

/-! ### `launch` (R379) -/

/-- R379: operation `id` places its record in the device queue, or faults. -/
def startLaunch (s : State) (w id : Nat) : State :=
  match findOp (wv s w) id with
  | none => s
  | some o =>
    let v := wv s w
    let g := gp s v.group
    let off := opVal (specOf o.instr) o.words 0 0
    match scrDescFault s g off 128 with
    | some k => failAll s w id 10 k off
    | none =>
      let b := scrBytes s g off 128
      modCx s v.ctx fun x =>
        { x with devQueue := x.devQueue ++ [(w, id, b)],
                 offers := if x.devQueue.isEmpty then x.offers ++ [(deviceQueue, b)] else x.offers }

/-- R379: `launch`. It waits at issue for a place in the device queue, and until its thread's earlier accesses have been
performed (R102). -/
def execLaunchDev (h : Head) (n : NExt) (s : State) : Host.Outcome State Fault Refusal :=
  let i := Instr.launchDev h n
  let sp := specOf i
  let w := s.cur.wave
  let v := wv s w
  runOp i sp false false (acquireOut v || threadBusy s w s.cur.lanes || decide (64 ≤ (cx s v.ctx).devQueue.length)) (fun m s =>
    let words := capture (wv s w) sp
    let s := advance sp s
    if m = 0 then s else
    let (id, s) := openOp i sp m 0 words s
    startLaunch s w id) s

/-! ### Queue registers (R180 to R183, R193) -/

/-- R404: the writer holds HSEM: 0 port A, 1 port B; a program never does. -/
def holdsHsem (s : State) (src : Nat) : Bool := decide (src < 2) && decide (s.mgmt.owner.toNat = src + 1)

/-- R180: a guarded write from a port without HSEM. -/
def guardRefused (s : State) (src q : Nat) : State := if src < 2 then modQu s q fun x => { x with err := 5 } else s

/-- The fields of a word written to QCTL, but EN. -/
def putQctl (x : Queue) (v : Nat) : Queue :=
  { x with size := BitVec.ofNat 4 (bits v 4 1), prio := BitVec.ofNat 3 (bits v 7 5), ctx := BitVec.ofNat 6 (bits v 13 8),
           cen := bit v 16, cstack := BitVec.ofNat 3 (bits v 19 17) }

/-- R165: the group has a FIFO-linked downstream group, placed or to be placed. -/
def hasDownstream (s : State) (x : Group) : Bool :=
  decide (x.downstream ≠ 0) || (launchOf s x).any fun l => accepted l && linkAfter l x.stage

/-- R193: a FIFO-linked group stands on the pair. -/
def holdsLinked (s : State) (p : Nat) : Bool := (groupsOn s p).any fun g => decide (g.upstream ≠ 0) || hasDownstream s g

/-- R193: the pairs that a contract of queue `q` with fields `x` would reserve; none where it is not admitted. -/
def admission (s : State) (q : Nat) (x : Queue) : Option (List Nat) :=
  let n := x.pairs.toNat
  let ps := (List.range 32).map fun p => 32 * x.cstack.toNat + p
  let other := fun p : Nat => decide ((pr s p).reservedBy ≠ 0) && decide ((pr s p).reservedBy ≠ q + 1)
  let free := ps.filter fun p => !(other p) && !(holdsLinked s p)
  if x.budget.toNat + 24096 ≤ x.period.toNat ∧ 32768 ≤ x.period.toNat ∧ 1 ≤ x.budget.toNat ∧ 1 ≤ n ∧ n ≤ free.length ∧
      (ps.filter other).length + n ≤ 24 then some (free.take n)
  else none

/-- R193: launches accepted from the queue and not completed. -/
def queueBusy (s : State) (q : Nat) : Bool := s.ctxs.any fun (e : Nat × Ctx) => e.2.launches.any fun l => accepted l && decide (l.queue = q)

/-- R193: a contract's reservation ends. -/
def endContract (s : State) (q : Nat) : State :=
  let s := modQu s q fun x => { x with contract := false }
  { s with pairs := tall resetPair s.pairs fun p => if p.reservedBy = q + 1 then { p with reservedBy := 0 } else p }

/-- R193: the reservation ends once EN is 0 and no launch of the queue is outstanding. -/
def settleContract (s : State) (q : Nat) : State :=
  if q < 128 ∧ (qu s q).contract = true ∧ (qu s q).en = false ∧ queueBusy s q = false then endContract s q else s

/-- R182: the cause for which a write of EN = 1 is refused. -/
def enableCause (s : State) (q : Nat) (x : Queue) : Option Nat :=
  if x.size.toNat < 1 ∨ 12 < x.size.toNat ∨ 5 < x.cstack.toNat ∨ addrBad x.base.toNat 128 = true then some 1
  else if !((cx s x.ctx.toNat).bound) then some 2
  else if x.cen && (admission s q x).isNone then some 3
  else none

/-- R182: a write of EN = 1 to queue `q` by `src`. -/
def enableQueue (s : State) (src q v : Nat) : State :=
  let x := qu s q
  if !(holdsHsem s src) then guardRefused s src q
  else if x.en then setQu s q { x with err := 6 }
  else
    let y := putQctl x v
    match enableCause s q y with
    | some e => setQu s q { x with err := BitVec.ofNat 4 e }
    | none =>
      let s := if x.contract && y.cen then endContract s q else s
      let ps := if y.cen then (admission s q y).getD [] else []
      let s := setQu s q
        { y with en := true, run := true, stop := false, contract := y.cen || x.contract,
                 admitted := if y.cen then cycOf s y.cstack.toNat else x.admitted }
      ps.foldl (fun s p => modPr s p fun z => { z with reservedBy := q + 1 }) s

/-- R182: QCTL_ENABLE. -/
def execQctlEnable (s : State) : Host.Outcome State Fault Refusal := .next (whenUp s fun s => enableQueue s (arg s 0) (arg s 1) (arg s 2))

/-- R182: a write of EN = 0: with EN = 1 it clears EN only, and otherwise it writes the fields. -/
def disableQueue (s : State) (src q v : Nat) : State :=
  let x := qu s q
  if !(holdsHsem s src) then guardRefused s src q
  else if x.en then settleContract (setQu s q { x with en := false, run := false }) q
  else setQu s q (putQctl x v)

/-- R182: QCTL_DISABLE. -/
def execQctlDisable (s : State) : Host.Outcome State Fault Refusal := .next (whenUp s fun s => disableQueue s (arg s 0) (arg s 1) (arg s 2))

/-- R183: a queue stops on an error. -/
def stopQueue (s : State) (q err fcode : Nat) : State :=
  modQu s q fun x => { x with run := false, stop := true, err := BitVec.ofNat 4 err, fcode := BitVec.ofNat 8 fcode }

/-- R183: the queue reads its next record. -/
def queueReads (x : Queue) : Bool := x.en && x.run && !x.offered && decide (x.head ≠ x.tail)

/-- R183: QUEUE_RECORD_READ. -/
def execQueueRecordRead (s : State) : Host.Outcome State Fault Refusal :=
  let q := arg s 0
  let x := qu s q
  let c := x.ctx.toNat
  .next <| orWait s (if !(queueReads x) then s
    else if 2 ^ x.size.toNat < (x.tail - x.head).toNat then stopQueue s q 1 0
    else match engBytes s (ctxUnit s c) c .ld (x.base.toNat + 128 * (x.head.toNat % 2 ^ x.size.toNat)) 128 with
      | (s, .error e) => stopQueue s q 4 (e.2.1 % 256)
      | (s, .ok b) => modCx (modQu s q fun x => { x with offered := true }) c fun y => { y with offers := y.offers ++ [(q, b)] })

/-! ### Placement (R191) -/

/-- A group to place or restore. -/
structure Cand where
  launch : Launch
  rule : Launch
  stage : Nat
  lin : Nat
  saved : Option Nat
  up : Nat
  deriving DecidableEq, Repr

/-- R194: a contract's launch has not been released, or the stack is not the contract's. -/
def contractBars (s : State) (k : Nat) (r : Launch) : Bool :=
  r.contract && (r.released.isNone || decide ((qu s r.queue).cstack.toNat ≠ k))

/-- R191: the launch's groups may be placed on stack `k`. -/
def stackAllows (s : State) (k : Nat) (l r : Launch) : Bool := (decide (l.onStacks = 0) || bit l.onStacks k) && !(contractBars s k r)

/-- The place of a group in its launch's table of eligibility on stack `k`; 0 where it is not eligible. -/
def eligibleSince (l : Launch) (st lin k : Nat) : Nat := tget 0 l.eligibleAt (8 * (8 * lin + st) + k)

/-- R191: the effective priority of a candidate on stack `k`. -/
def effectivePrio (s : State) (k : Nat) (x : Cand) : Nat :=
  min 7 (x.rule.prio + (cycOf s k + 1 - eligibleSince x.launch x.stage x.lin k) / 262144)

/-- The live group of a launch by stage and index. -/
def groupAt (s : State) (l : Launch) (st lin : Nat) : Option Nat :=
  (tkeys s.groups fun g => g.live && decide (g.launch = l.id) && decide (g.stage = st) && decide (g.lin = lin)).head?

/-- R191: the new groups of launch `l` for stack `k`. -/
def newCands (s : State) (k : Nat) (l : Launch) : List Cand :=
  let r := ruleLaunch s l
  if !(stackAllows s k l r) then [] else
  (List.range (stageCount l)).flatMap fun st => (List.range (groupCount l)).filterMap fun lin =>
    if l.placed.contains (st, lin) || decide (eligibleSince l st lin k = 0) then none
    else if st ≠ 0 ∧ linkAfter l (st - 1) = true then
      match groupAt s l (st - 1) lin with
      | some u => if (gp s u).savedAll || decide ((gp s u).pair / 32 ≠ k) then none
          else some { launch := l, rule := r, stage := st, lin := lin, saved := none, up := u }
      | none => none
    else some { launch := l, rule := r, stage := st, lin := lin, saved := none, up := 0 }

/-- R394: a saved group leads those saved with it once all of them are saved. -/
def leadsSaved (s : State) (g : Nat) : Bool :=
  decide ((linkedGroups s g).head? = some g) && (linkedGroups s g).all fun x => (gp s x).savedAll

/-- R397: the saved groups of launch `l` for stack `k`. -/
def savedCands (s : State) (k : Nat) (l : Launch) : List Cand :=
  let r := ruleLaunch s l
  if !(stackAllows s k l r) then [] else
  ((tkeys s.groups fun g => g.live && g.savedAll && decide (g.launch = l.id)).filter (leadsSaved s)).map fun g =>
    { launch := l, rule := r, stage := (gp s g).stage, lin := (gp s g).lin, saved := some g, up := 0 }

/-- R191: the order in which a stack takes groups; of launches of two contexts, which no launch order joins, the one accepted first on
the device (log 164). -/
def candKey (s : State) (k : Nat) (x : Cand) : List Nat :=
  [b2n (!x.rule.contract), 7 - effectivePrio s k x, x.rule.id, x.stage, x.lin, x.launch.id]

/-- The groups that stack `k` may take. -/
def stackCands (s : State) (k : Nat) : List Cand :=
  (s.ctxs.filter fun (e : Nat × Ctx) => e.2.bound && !e.2.fenced).flatMap fun (e : Nat × Ctx) =>
    e.2.launches.flatMap fun l => newCands s k l ++ savedCands s k l

/-- R191: the one it takes. -/
def topCand (s : State) (k : Nat) : Option Cand :=
  (stackCands s k).foldl
    (fun b x => match b with
      | none => some x
      | some y => if lexLt (candKey s k x) (candKey s k y) then some x else b) none

/-- R194: a launch released under the contract of queue `q` runs on its pairs. -/
def releaseRuns (s : State) (q : Nat) : Bool :=
  s.ctxs.any fun (e : Nat × Ctx) => e.2.launches.any fun l => l.contract && decide (l.queue = q) && l.released.isSome

/-- R191, R194: the candidate may stand on pair `p`. -/
def pairAllowed (s : State) (x : Cand) (p : Nat) : Bool :=
  let b := (pr s p).reservedBy
  if x.rule.contract then decide (b = x.rule.queue + 1)
  else decide (b = 0) || (x.launch.kernels.all (fun k => decide (k.yieldMax ≠ 0)) && !(releaseRuns s (b - 1)))

/-- The lower THALW of a pair's cores. -/
def pairThalw (s : State) (p : Nat) : Nat := min (thalw s (cr s (2 * p))) (thalw s (cr s (2 * p + 1)))

/-- R191: the order in which a stack prefers pairs. -/
def pairKey (s : State) (p : Nat) : List Nat :=
  [b2n (decide ((pr s p).reservedBy ≠ 0)), b2n (decide (pairThalw s p < 32)), 1024 - pairThalw s p, p]

/-- The pairs of stack `k` in order of preference. -/
def pairOrder (s : State) (k : Nat) : List Nat := sortBy (pairKey s) ((List.range 32).map fun p => 32 * k + p)

/-- The candidate placed or restored on pair `p` of stack `k`, where it fits. -/
def placeAt (s : State) (k : Nat) (x : Cand) (p : Nat) : Option State :=
  let prio := effectivePrio s k x
  match x.saved with
  | some g => (linkedGroups s g).foldl (fun o y => o.bind fun s => restoreGroup s p y prio) (some s)
  | none =>
    if x.up ≠ 0 ∧ (gp s x.up).pair ≠ p then none else
    match x.launch.kernels[x.stage]? with
    | none => none
    | some kn =>
      match fitPair s p kn (newNeeds kn) with
      | none => none
      | some f =>
        let s := modCx s x.launch.ctx fun c => { c with launches := c.launches.map fun l =>
          if l.id = x.launch.id then { l with placed := l.placed ++ [(x.stage, x.lin)] } else l }
        some (startGroup s p x.launch kn x.stage x.lin x.up prio f)

/-- R191: what stack `k` places next. -/
def placement (s : State) (k : Nat) : Option State :=
  match topCand s k with
  | none => none
  | some x => ((pairOrder s k).filter (pairAllowed s x)).findSome? (placeAt s k x)

/-- R191: GROUP_PLACE. -/
def execGroupPlace (s : State) : Host.Outcome State Fault Refusal := .next (orWait s ((placement s (arg s 0)).getD s))

/-! ### Completion (R189, R165) -/

/-- R189: parked operations of the group in its context's fault log (R393). -/
def parkedOf (s : State) (c g : Nat) : Bool :=
  (cx s c).log.any fun e => decide (e.2.state = 1) && decide (e.2.group = g) && [1, 2, 5].contains e.2.opk

/-- R189: the group's own work is done. None of its accesses is left, each of which stays until it is performed and acknowledged: that is the
release of its waves (R102, R116). Its triangles have been set up and its hits have reached their bins (log 158). -/
def workDone (s : State) (g : Nat) : Bool :=
  let x := gp s g
  let mine := fun w : Nat => x.waves.contains w
  x.live && !x.published && x.waves.all (fun w => !(wv s w).live) && decide (x.tasks = 0) &&
    !(s.accs.any fun a => mine a.wave) && !(s.frags.any fun f => decide (f.held = 3) && mine f.wave) &&
    !(s.binRecs.any fun r => decide (r.op ≠ 0) && mine r.wave) && !(s.pairs.any fun (e : Nat × Pair) => e.2.mats.any fun m => mine m.wave) &&
    !(s.cores.any fun (e : Nat × Core) => e.2.scarab.any fun y => decide (y.group = g)) && !(parkedOf s x.ctx g)

/-- R165: a published group ends once its downstream group has ended; its upstream group may then end too. `n` bounds the stages. -/
def endIfOver : Nat → State → Nat → State
  | 0, s, _ => s
  | n + 1, s, g =>
    let x := gp s g
    if !x.live || !x.published then s
    else if hasDownstream s x && (decide (x.downstream = 0) || (gp s x.downstream).live) then s
    else
      let s := modCx (endGroup s g) x.ctx fun c => { c with saves := c.saves.filter fun y => y.group ≠ g }
      if x.upstream = 0 then s else endIfOver n s x.upstream

/-- The launch removed from its context, complete. -/
def dropLaunch (s : State) (c id : Nat) : State :=
  modCx s c fun x => { x with launches := x.launches.filter fun l => l.id ≠ id }

/-- R189, R199: a grid completes once every group of every stage has. -/
def gridOver (s : State) (c id : Nat) : State :=
  match (cx s c).launches.find? fun l => l.id = id with
  | none => s
  | some l =>
    if l.doneGroups.length < groupCount l * stageCount l then s
    else settleContract (dropLaunch (launchEvent s l (if l.yieldFault then 3 else 0) 0 (eventStack s l)) c id) l.queue

/-- R189: group (`st`, `lin`) of launch `id` of context `c` completes, having run on stack `k`. -/
def publishGroup (s : State) (c id st lin k : Nat) : State :=
  match (cx s c).launches.find? fun l => l.id = id with
  | none => s
  | some l =>
    if !(accepted l) then
      let s := dropLaunch s c id
      l.posters.foldl (fun s g => modGp s g fun x => { x with tasks := x.tasks - 1 }) s
    else if l.doneGroups.contains (st, lin) then s
    else
      let s := modCx s c fun x => { x with launches := x.launches.map fun y =>
        if y.id = id then { y with doneGroups := y.doneGroups ++ [(st, lin)], lastStack := k } else y }
      noteEligible (gridOver s c id) c

/-- R189: GROUP_COMPLETE; the group whose resident waves have all been saved or have ended is saved instead (R394). -/
def execGroupComplete (s : State) : Host.Outcome State Fault Refusal :=
  let g := arg s 0
  let x := gp s g
  .next <| orWait s (if workDone s g then
      let s := modGp s g fun y => { y with published := true }
      -- whether a downstream group exists is asked while the launch still stands
      let s := endIfOver 8 s g
      publishGroup s x.ctx x.launch x.stage x.lin (x.pair / 32)
    else if saveDue s g then saveGroup s g
    else s)

/-! ### Timing contracts (R194, R195) -/

/-- A launch by its identity, in any context. -/
def findLaunch (s : State) (id : Nat) : Option Launch :=
  (s.ctxs.flatMap fun (e : Nat × Ctx) => e.2.launches).find? fun l => l.id = id
/-- `f` applied to launch `id`. -/
def modLaunch (s : State) (c id : Nat) (f : Launch → Launch) : State :=
  modCx s c fun x => { x with launches := x.launches.map fun l => if l.id = id then f l else l }

/-- R194: the launch that queue `q` releases at this instant: its earliest that waits, at a period boundary at which none has been
released. -/
def releaseDue (s : State) (q : Nat) : Option Launch :=
  let x := qu s q
  let now := cycOf s x.cstack.toNat
  let ls := ((s.ctxs.flatMap fun (e : Nat × Ctx) => e.2.launches).filter fun l => l.contract && decide (l.queue = q))
  if !x.contract || decide ((now - x.admitted) % x.period.toNat ≠ 0) || ls.any (fun l => decide (l.released = some now)) then none
  else ls.find? fun l => l.released.isNone

/-- R194: CONTRACT_RELEASE. -/
def execContractRelease (s : State) : Host.Outcome State Fault Refusal :=
  let q := arg s 0
  .next (match releaseDue s q with
    | none => s
    | some l =>
      let s := modLaunch s l.ctx l.id fun y => { y with released := some (cycOf s (qu s q).cstack.toNat) }
      let mine := fun g : Group => (launchOf s g).any fun y => decide ((ruleLaunch s y).id = l.id)
      let gs := tkeys s.groups fun g => g.live && !g.savedAll && decide ((pr s g.pair).reservedBy = q + 1) && !(mine g)
      gs.foldl requestGroup s)

/-- R195: a released launch that has passed its bound. -/
def overrunDue (s : State) (l : Launch) : Bool :=
  let x := qu s l.queue
  l.contract && (match l.released with | some t => decide (t + 24096 + x.budget.toNat ≤ cycOf s x.cstack.toNat) | none => false)

/-- R195: CONTRACT_OVERRUN: the launch runs on at priority 7 without contract; DETAIL of its event is 0 (log 108). -/
def execContractOverrun (s : State) : Host.Outcome State Fault Refusal :=
  .next <| orWait s (match findLaunch s (arg s 0) with
    | none => s
    | some l =>
      if !(overrunDue s l) then s else
      let s := launchEvent s l 2 0 (eventStack s l)
      let mine := fun g : Group => (launchOf s g).any fun y => decide ((ruleLaunch s y).id = l.id)
      let s := (tkeys s.groups fun g => g.live && mine g).foldl (fun s g => modGp s g fun x => { x with prio := 7 }) s
      modLaunch s l.ctx l.id fun y => { y with contract := false, overrun := true, prio := 7 })

/-- R195: a wave has not reached a `yield` within its kernel's bound. -/
def yieldLate (s : State) (w : Nat) : Bool :=
  let v := wv s w
  let k := (gp s v.group).kernel
  v.live && !v.saved && v.request && decide (v.holding = none) && decide (k.yieldMax ≠ 0) &&
    decide (v.requestAt + k.yieldMax < cycAt s v.core)

/-- R195: group `g` ends at once, as though fenced, and counts as completed; its grid, for a task wave that of its poster, ends YIELDMAX. -/
def dropGroup (s : State) (g : Nat) : State :=
  let x := gp s g
  let s := dropThese s (tkeys s.waves fun v => decide (v.group = g)) [g] fun _ => false
  let s := modCx s x.ctx fun c =>
    { c with saves := c.saves.filter fun y => y.group ≠ g }
  let root := ((launchOf s x).map rootLaunch).getD x.launch
  let s := modLaunch s x.ctx root fun l => { l with yieldFault := true }
  publishGroup s x.ctx x.launch x.stage x.lin (x.pair / 32)

/-- R195: the stages that a FIFO link chains after stage `st`, whose groups can no longer be placed once the group of `st` has ended. -/
def linkedAfter (l : Launch) : Nat → Nat → List Nat
  | 0, _ => []
  | n + 1, st => if linkAfter l st then (st + 1) :: linkedAfter l n (st + 1) else []

/-- R195: YIELDMAX_EXPIRY: the wave's group ends. Those that its FIFO links feed go on where they stand; those not yet placed count as
completed (log 110). -/
def execYieldmaxExpiry (s : State) : Host.Outcome State Fault Refusal :=
  let w := arg s 0
  let g := (wv s w).group
  let x := gp s g
  .next <| orWait s (if !(yieldLate s w) then s else
    let s := dropGroup s g
    let s := match findLaunch s x.launch with
      | none => s
      | some l => if !(accepted l) then s else
          ((linkedAfter l 8 x.stage).takeWhile fun st => !(l.placed.contains (st, x.lin))).foldl
            (fun s st =>
              let s := modLaunch s l.ctx l.id fun y => { y with placed := y.placed ++ [(st, x.lin)] }
              publishGroup s l.ctx l.id st x.lin (x.pair / 32)) s
    endIfOver 8 s x.upstream)

/-! ### Which of these have an occasion -/

def readyLaunch (s : State) : List (Instr × List Nat) :=
  (s.ctxs.filterMap fun (e : Nat × Ctx) =>
    if e.2.offers.isEmpty || (!e.2.fenced && unitFull s e.1) then none else some (Instr.launchAccept, [e.1])) ++
  (s.queues.filterMap fun (e : Nat × Queue) => if queueReads e.2 then some (Instr.queueRecordRead, [e.1]) else none) ++
  (s.queues.filterMap fun (e : Nat × Queue) => if (releaseDue s e.1).isSome then some (Instr.contractRelease, [e.1]) else none) ++
  (s.ctxs.flatMap fun (e : Nat × Ctx) => (e.2.launches.filter (overrunDue s)).map fun l => (Instr.contractOverrun, [l.id])) ++
  (s.waves.filterMap fun (e : Nat × Wave) => if yieldLate s e.1 then some (Instr.yieldmaxExpiry, [e.1]) else none) ++
  (s.groups.filterMap fun (e : Nat × Group) => if workDone s e.1 || saveDue s e.1 then some (Instr.groupComplete, [e.1]) else none) ++
  (if s.ctxs.any fun (e : Nat × Ctx) => !e.2.launches.isEmpty then
    (List.range 6).filterMap fun k => if (placement s k).isSome then some (Instr.groupPlace, [k]) else none
  else [])

end Sys2Proof.Machine
end

