-- ==== Sys2Proof/Machine/Matrix.lean ====
section
/-! DEFINITION. The matrix instructions and the baton (spec/14, R327 to R341, R349 to R351; spec/07, R178). -/

namespace Sys2Proof.Machine

open Sys2Proof.Machine.State

/-! ### The baton (R178, R341) -/

/-- R178: a wave takes the baton or joins its queue with the lanes `m` asleep. -/
def batonTake (s : State) (w : Nat) (m : Lanes) : State :=
  let p := corePair (wv s w).core
  let x := pr s p
  if x.baton = some w ∧ x.batonPass = none then s
  else if x.baton = none ∧ x.batonQueue.isEmpty then modPr s p fun y => { y with baton := some w }
  else
    let q := if x.batonQueue.any fun y => y.1 = w then
        x.batonQueue.map fun y => if y.1 = w then (w, y.2 ||| m) else y
      else x.batonQueue ++ [(w, m)]
    modWv (modPr s p fun y => { y with batonQueue := q }) w fun v => modLanes v m fun l => { l with sleep := .baton }

/-- R341: `mbtake`. The manual states no completion point for it or `mbpass`; a flag that either names is never counted (log 148). -/
def execMbtake (h : Head) (n : NExt) (s : State) : Host.Outcome State Fault Refusal :=
  let i := Instr.mbtake h n
  runOp i (specOf i) false false false (fun a s =>
    let s := advance (specOf i) s
    if a = 0 then s else batonTake s s.cur.wave a) s

/-- The resident wave with index `k` of a group. -/
def waveAt (s : State) (g k : Nat) : Option Nat :=
  (gp s g).waves.find? fun w => (wv s w).live && !(wv s w).saved && decide ((wv s w).index = k) && decide (k < 64)

/-- A pass of the pair's baton is under way. -/
def passing (s : State) : Bool := (pr s (corePair (wv s s.cur.wave).core)).batonPass.isSome

/-- R341: `mbpass`: an index that names no resident wave of the group passes to none (its flag: log 148). -/
def execMbpass (h : Head) (n : NExt) (s : State) : Host.Outcome State Fault Refusal :=
  let i := Instr.mbpass h n
  let sp := specOf i
  runOp i sp false false (passing s) (fun a s =>
    let v := wv s s.cur.wave
    let k := srcVal v 0 (usrc .b h.b.toNat 1 1 false)
    let s := advance sp s
    if a = 0 then s else passBaton s (corePair v.core) (waveAt s v.group k)) s

/-- R341: `mbpass.none`. -/
def execMbpassNone (h : Head) (n : NExt) (s : State) : Host.Outcome State Fault Refusal :=
  let i := Instr.mbpassNone h n
  let sp := specOf i
  runOp i sp false false (passing s) (fun a s =>
    let v := wv s s.cur.wave
    let s := advance sp s
    if a = 0 then s else passBaton s (corePair v.core) none) s

/-! ### Descriptors (R331, R336) -/

def dBase (d : Nat) : Nat := bits d 63 0
def dPitch (d : Nat) : Nat := bits d 95 64
def dFmt (d : Nat) : Nat := bits d 103 96
def dScaled (d : Nat) : Bool := bit d 104
def dSbase (d : Nat) : Nat := bits d 191 128
def dSpitch (d : Nat) : Nat := bits d 223 192

/-- R331: an operand descriptor whose own fields are in order. -/
def descOk (d : Nat) : Bool :=
  decide (dBase d % 32 = 0) && canonical (dBase d) && decide (dPitch d % 32 = 0) && decide (dFmt d ≤ 4) &&
    decide (bits d 111 105 = 0) && decide (bits d 127 112 = 0) && decide (bits d 255 224 = 0)

/-- R331: the type class of a format pair: 0 FP8, 1 I4E, 2 16-bit. -/
def classOfPair (a b : Nat) : Option Nat :=
  if a ≤ 1 ∧ b ≤ 1 then some 0
  else if a = 2 ∧ b = 2 then some 1
  else if (a = 3 ∧ b = 3) ∨ (a = 4 ∧ b = 4) then some 2
  else none

def sBase (d : Nat) : Nat := bits d 63 0
def sPitch (d : Nat) : Nat := bits d 95 64
/-- R336: the selected count n. -/
def sCount (d : Nat) : Nat := match bits d 103 96 with | 0 => 8 | 1 => 12 | 2 => 16 | _ => 24
/-- R336: a sparse descriptor in order. -/
def sparseOk (d : Nat) : Bool :=
  decide (sBase d % 4 = 0) && canonical (sBase d) && decide (sPitch d % 4 = 0) && decide (bits d 103 96 ≤ 3) && decide (bits d 127 104 = 0)

/-! ### Shapes (R334) -/

/-- R334: M is 64; N by the shape index. -/
def shapeN (x : Nat) : Nat := if x < 3 then 64 else 128
/-- R334: K of a dense shape for a type class. -/
def shapeK (x c : Nat) : Nat := (if c = 2 then 32 else 64) * 2 ^ (x % 3)
/-- R334: K of a sparse shape. -/
def sparseK (x : Nat) : Nat := 96 * 2 ^ (x % 3)
/-- R334: the minimum energy class of a dense shape. -/
def minEc (x c : Nat) : Nat := (if c = 1 then [0, 0, 1, 0, 1, 2] else [0, 1, 2, 1, 2, 3]).getD x 0
/-- R334: the minimum energy class of a sparse shape. -/
def minEcSparse (x : Nat) : Nat := [0, 0, 1, 0, 1, 2].getD x 0

/-! ### Reading operands (R332, R333, R336, R337) -/

/-- Reads of class ER in order, each (address, bytes); the first that faults ends them. -/
def readRuns (core ctx : Nat) : List (Nat × Nat) → State → State × Except EngFault (List Nat)
  | [], s => (s, .ok [])
  | (a, n) :: r, s =>
    match engRead s (.core core) ctx .er (a % 2 ^ 64) n with
    | (s, .error e) => (s, .error e)
    | (s, .ok x) =>
      match readRuns core ctx r s with
      | (s, .error e) => (s, .error e)
      | (s, .ok xs) => (s, .ok (x :: xs))

/-- R332: bytes that `k` elements of a format take. -/
def fmtBytes (f k : Nat) : Nat := match f with | 0 | 1 => k | 2 => k / 2 | _ => 2 * k

/-- R203, R332: the values of `k` elements held in a number, and whether an I4E escape had no room. -/
def fmtVals (f k x : Nat) : List Val × Bool :=
  let each := fun (g : Fmt) (w : Nat) => ((List.range k).map fun i => valOf g (bits x (w * i + w - 1) (w * i)), false)
  match f with
  | 0 => each E4M3 8
  | 1 => each E5M2 8
  | 2 =>
    let rs := (List.range (k / 16)).map fun r => i4eRun (bits x (64 * r + 63) (64 * r))
    (rs.flatMap (·.1), rs.any (·.2))
  | 3 => each BF16 16
  | _ => each F16 16

/-- R332: the scale bytes of the elements of a row along K, one for each 16. -/
def scaleRuns (d rows k0 k : Nat) : List (Nat × Nat) :=
  if dScaled d then (List.range (rows / 16)).map fun r => (dSbase d + r * dSpitch d + k0 / 16, (k + 15) / 16) else []

/-- R332: a row's values with their scales; `sc` holds the scale bytes of its block row, none where it is unscaled. -/
def scaleRow (sc : Option Nat) (k0 : Nat) (xs : List Val) : List Val :=
  match sc with
  | none => xs
  | some b => xs.mapIdx fun k x => let j := (k0 + k) / 16 - k0 / 16; scaleV (bits b (8 * j + 7) (8 * j)) x

/-- R332: a dense operand of `rows` rows along K: its reads. -/
def denseRuns (d rows k0 k : Nat) : List (Nat × Nat) :=
  ((List.range rows).map fun m => (dBase d + m * dPitch d + fmtBytes (dFmt d) k0, fmtBytes (dFmt d) k)) ++ scaleRuns d rows k0 k

/-- The rows that the reads of a dense operand give, and whether an I4E escape had no room. -/
def denseRows (d rows k0 k : Nat) (xs : List Nat) : List (List Val) × Bool :=
  let raw := (xs.take rows).map (fmtVals (dFmt d) k)
  let sc := xs.drop rows
  (raw.mapIdx fun m r => scaleRow (if dScaled d then sc[m / 16]? else none) k0 r.1, raw.any (·.2))

/-- R336: the reads of a sparse A: values, indices and scales. -/
def sparseRuns (d sd k0 k : Nat) : List (Nat × Nat) :=
  let n := sCount sd
  let q := 4 * ((6 * n + 31) / 32)
  ((List.range 64).map fun m => (dBase d + m * dPitch d + k0 / 48 * n, k / 48 * n)) ++
    ((List.range 64).map fun m => (sBase sd + m * sPitch sd + k0 / 48 * q, k / 48 * q)) ++ scaleRuns d 64 k0 k

/-- R336: the rows of a sparse A: at each dense position the values stored for it. -/
def sparseRows (d sd k0 k : Nat) (xs : List Nat) : List (List (List Val)) :=
  let n := sCount sd
  let q := 4 * ((6 * n + 31) / 32)
  let sc := xs.drop 128
  (List.range 64).map fun m =>
    let (vals, _) := fmtVals (dFmt d) (k / 48 * n) (xs.getD m 0)
    let idx := xs.getD (64 + m) 0
    let at_ := fun g j => bits idx (8 * q * g + 6 * j + 5) (8 * q * g + 6 * j)
    let dense := (List.range k).map fun p =>
      (List.range n).filterMap fun j => if at_ (p / 48) j = p % 48 then vals[p / 48 * n + j]? else none
    dense.mapIdx fun p vs => vs.map fun v => (scaleRow (if dScaled d then (sc[m / 16]?).map fun b =>
      bits b (8 * ((k0 + p) / 16 - k0 / 16) + 7) (8 * ((k0 + p) / 16 - k0 / 16)) else none) 0 [v]).headD v

/-- R337: the blocks of an `mmap` window that contribute: (rb, kb, i, j). -/
def windowBlocks (x : PatSlot) (k0 k : Nat) : List (Nat × Nat × Nat × Nat) :=
  (List.range 4).flatMap fun rb => (List.range (k / 16)).filterMap fun kb =>
    let a := x.row0 + rb
    let b := k0 / 16 + kb
    let (i, j) := if x.order then (b, a) else (a, b)
    if i < patRows x.words ∧ j < patCols x.words ∧ patNz x.words i j = true then some (rb, kb, i, j) else none

/-- R346: the reads of block (i, j) of P: 16 runs of 16 elements, and its scale. -/
def blockRuns (d : Nat) (ws : List Word) (i j : Nat) : List (Nat × Nat) :=
  let f := dFmt d
  let rows := (List.range 16).map fun a =>
    (if patPack ws then dBase d + i * dPitch d + fmtBytes f (256 * patRank ws i j + 16 * a)
      else dBase d + (16 * i + a) * dPitch d + fmtBytes f (16 * j), fmtBytes f 16)
  rows ++ (if dScaled d then [(dSbase d + i * dSpitch d + (if patPack ws then patRank ws i j else j), 1)] else [])

/-- The reads of the blocks of a window. -/
def patRuns (d : Nat) (x : PatSlot) (k0 k : Nat) : List (Nat × Nat) :=
  (windowBlocks x k0 k).flatMap fun b => blockRuns d x.words b.2.2.1 b.2.2.2

/-- R337: the rows of A that the reads of a window give. -/
def patRowsOf (d : Nat) (x : PatSlot) (k0 k : Nat) (xs : List Nat) : List (List (List Val)) × Bool :=
  let bs := windowBlocks x k0 k
  let per := if dScaled d then 17 else 16
  let one := fun c : Nat =>
    let ys := (xs.drop (per * c)).take per
    let raw := (ys.take 16).map (fmtVals (dFmt d) 16)
    (raw.map fun r => if dScaled d then r.1.map (scaleV (ys.getD 16 0)) else r.1, raw.any (·.2))
  let blocks := (List.range bs.length).map one
  ((List.range 64).map fun m => (List.range k).map fun p =>
    match bs.findIdx? fun b => decide (b.1 = m / 16) && decide (b.2.1 = p / 16) with
    | none => []
    | some c =>
      let rows := (blocks.getD c ([], false)).1
      let (r, q) := if x.order then (p % 16, m % 16) else (m % 16, p % 16)
      [(rows.getD r []).getD q (.num false 0 0)],
   blocks.any (·.2))

/-! ### Block sums (R216, R335) -/

/-- R216: the exact sum of a list of products. -/
def sumV (xs : List Val) : Val := xs.foldl (fun x y => (addV false x y).1) (.num false 0 0)

/-- R216: the products of a block. -/
def products (a : List (List Val)) (b : List Val) : List Val :=
  (a.zip b).flatMap fun (vs, y) => vs.map fun v => (mulV v y).1

/-- R216: one rounding for each block of 32 along K; a zero block sum leaves the accumulator unchanged. -/
def blockSums : Nat → Nat → List (List Val) → List Val → Nat
  | 0, acc, _, _ => acc
  | n + 1, acc, a, b =>
    let s := sumV (products (a.take 32) (b.take 32))
    let acc := match s with
      | .num _ 0 _ => acc
      | _ => (roundTo F32 rne (addV false (valOf F32 acc) s).1).bits
    blockSums n acc (a.drop 32) (b.drop 32)

/-- R327: the core and physical column of pair column `c` for width `w`. -/
def pairCol (core w c : Nat) : Nat × Nat := if c < w / 2 then (core, c) else (core + 1, c - w / 2)

/-- Element (m, c) of a pair tile of width `w`. -/
def pairElem (s : State) (core t w m c : Nat) : Nat :=
  let (k, col) := pairCol core w c
  (tget 0 (accTile s k t).elems (64 * m + col)).toNat

/-- R327: a pair tile written in the columns below `w` with `f m c`, its tags F32 on both cores. -/
def setPairTile (s : State) (core t w : Nat) (f : Nat → Nat → Nat) : State :=
  let one := fun (s : State) (side : Nat) =>
    let x := accTile s (core + side) t
    let kept := x.elems.filter fun e => decide (w / 2 ≤ e.1 % 64)
    let es := (List.range 64).foldl (fun es m => (List.range (w / 2)).foldl
      (fun es c => tset 0 es (64 * m + c) (BitVec.ofNat 32 (f m (c + side * (w / 2))))) es) kept
    setTile s (core + side) t { empty := false, elems := es }
  one (one s 0) 1

/-! ### The elements a drain writes (R339) -/

/-- R339: a stored element. -/
def drainVal (fmt x : Nat) : Nat :=
  let c := { rne with sat := true }
  match fmt with
  | 1 => (cvtF F32 BF16 false c x).bits
  | 2 => (cvtF F32 F16 false c x).bits
  | 3 => (cvtF F32 E4M3 false c x).bits
  | _ => x

/-- R339: bytes of a stored element. -/
def drainSize (fmt : Nat) : Nat := match fmt with | 0 => 4 | 3 => 1 | _ => 2

/-- R339: what a drain writes: one run for each row, (address or offset, bytes, value). -/
def drainRows (s : State) (core t w fmt dst pitch : Nat) : List (Nat × Nat × Nat) :=
  (List.range 64).map fun m =>
    (dst + m * pitch, drainSize fmt * w,
      ((List.range w).reverse.map fun c => drainVal fmt (pairElem s core t w m c)).foldl (fun y x => y * 2 ^ (8 * drainSize fmt) + x) 0)

/-- A run cut at line boundaries; `k` bounds the number of parts. -/
def cutRun : Nat → Nat × Nat × Nat → List (Nat × Nat × Nat)
  | 0, _ => []
  | k + 1, (a, n, v) =>
    if n = 0 then [] else
    let m := min n (128 - a % 128)
    (a % 2 ^ 64, m, v % 2 ^ (8 * m)) :: cutRun k (a + m, n - m, v / 2 ^ (8 * m))

/-- R64: a run of a scratch drain that spans two banks is two accesses; one that leaves the allocation stays whole, since no byte of it is
performed. -/
def bankParts (g : Group) (x : Nat × Nat × Nat) : List (Nat × Nat × Nat) :=
  let (a, n, v) := x
  let m := bankBytes - a % bankBytes
  if scrIn g a n && decide (m < n) then [(a, m, v % 2 ^ (8 * m)), (a + m, n - m, v / 2 ^ (8 * m))] else [x]

/-- R339: one run of a scratch drain. -/
def drainScr (s : State) (g : Group) (add : Bool) (x : Nat × Nat × Nat) : State × Except EngFault Unit :=
  let (a, n, v) := x
  if !(scrIn g a n) then (s, .error (10, 0x21, a))
  else if !(scrMode s g a n) then (s, .error (10, 0x22, a))
  else (scrWrite s g a n (if add then addWords (n / 4) (scrRead s g a n) v else v), .ok ())

/-- R339, R350: the runs of a scratch drain: what is left to write, with the first fault. -/
def drainBanks (s : State) (g : Group) (add : Bool) : List (Nat × Nat × Nat) → State × List (Nat × Nat × Nat) × Option EngFault
  | [] => (s, [], none)
  | x :: r =>
    match drainScr s g add x with
    | (s, .ok _) => drainBanks s g add r
    | (s, .error e) => let (s, l, _) := drainBanks s g add r; (s, x :: l, some e)

/-- R340: the parts of a drain translated, as writes of class CD or, for an add-on-store, of class RD (R339): those that may be written, and
those left over with the first fault. -/
def drainParts (s : State) (core ctx : Nat) (add : Bool) :
    List (Nat × Nat × Nat) → State × List EngPart × List (Nat × Nat × Nat) × Option EngFault
  | [] => (s, [], [], none)
  | (a, n, v) :: r =>
    match translate s (.core core) ctx (if add then .rd else .cd) false a n with
    | (s, .error st) => let (s, ps, l, _) := drainParts s core ctx add r; (s, ps, (a, n, v) :: l, some (10, st, a))
    | (s, .ok e) =>
      let twin := if e.kind = .twin then e.log2 else 0
      let pa := if twin = 0 then physOf s e .cd a else e.frame + a % 2 ^ e.log2
      let s := if e.kind = .normal then classify s (frameOf pa) (some core) else s
      let (s, ps, l, f) := drainParts s core ctx add r
      (s, { va := a, lvl := e.lvl, pa := pa, n := n, v := v, twin := twin } :: ps, l, f)

/-- R339: the parts that lie at one home make one entry. -/
def byHome (s : State) (ps : List EngPart) : List (List EngPart) :=
  let home := fun x : EngPart => destOf s (engPa s x)
  ((ps.map home).eraseDups).map fun d => ps.filter fun x => home x = d

/-- R340: a part of a drain enters core `core`'s FIFO: what its L1 holds of the bytes, and has not written itself, is no longer valid, nor
brought in by a fill in flight, but on a frame PRIVATE to it, whose copy the write keeps. -/
def drainStale (s : State) (core : Nat) (x : EngPart) : State :=
  let pa := engPa s x
  if tget .untouched s.dir (frameOf pa) = .privateTo core then s else
  let line := lineOf pa
  let m := maskIn line pa x.n
  let s := modCr s core fun c => { c with l1 := c.l1.map fun y =>
    if y.line = line then { y with valid := y.valid &&& ~~~(m &&& ~~~y.dirty) } else y }
  stopFills s core fun l => l = line

/-- R340: entries of a drain put into the FIFO while it has room; those that have none. -/
def drainSend (s : State) (core tag : Nat) (add : Bool) : List (List EngPart) → State × List EngPart
  | [] => (s, [])
  | ps :: r =>
    if dafRoom s core 1 then
      drainSend (dafPush (ps.foldl (fun s x => drainStale s core x) s) core { kind := .eng tag ps add, accs := [] }) core tag add r
    else (s, ps ++ r.flatMap id)

/-! ### Issue (R328, R330, R331, R349) -/

/-- The physical tile that an instruction names. -/
def matTile (s : State) (w : Nat) (h : Head) : Nat := tileIdx (groupOf s w) h.a.toNat

/-- R328, R330: on the follower core, or a tile beyond `.accum`. -/
def matBad (s : State) (h : Head) : Bool :=
  let v := wv s s.cur.wave
  decide (v.core % 2 = 1) || decide ((groupOf s s.cur.wave).kernel.accum ≤ h.a.toNat)

/-- The scratch fault of a descriptor of `n` bytes at offset `o`. -/
def descFault (s : State) (g : Group) (o n : Nat) : Option Nat :=
  if !(scrIn g o n) then some 0x21 else if !(scrMode s g o n) then some 0x22 else none

/-- R349: a multiply's checks on its operand values; what it reads at issue, or the code of its trap. -/
def multiplyArgs (s : State) (w : Nat) (i : Instr) (n : NExt) (off k0 sp : Nat) : Except Nat (List Nat) :=
  let g := groupOf s w
  let shape := n.shape.toNat
  let ec := n.ec.toNat
  if off % 32 ≠ 0 then .error 0x30 else
  match descFault s g off 64 with
  | some c => .error c
  | none =>
    let a := scrRead s g off 32
    let b := scrRead s g (off + 32) 32
    match classOfPair (dFmt a) (dFmt b) with
    | none => .error 0x30
    | some c =>
      let step := match i with | .mmas .. => 48 | _ => 32
      if !(descOk a) || !(descOk b) || decide (k0 % step ≠ 0) then .error 0x30
      else if 6 ≤ shape then .error 0x31
      else match i with
        | .mmas .. =>
          if ec < minEcSparse shape then .error 0x32
          else if c ≠ 0 ∨ sp % 16 ≠ 0 then .error 0x33
          else (match descFault s g sp 16 with
            | some c => .error c
            | none =>
              let d := scrRead s g sp 16
              if sparseOk d then .ok [k0, a, b, d] else .error 0x33)
        | .mmap .. =>
          if ec < minEc shape c then .error 0x32
          else if (slotOf (wv s w) sp).state ≠ .loaded then .error 0x36
          else .ok [k0, a, b, sp]
        | _ => if ec < minEc shape c then .error 0x32 else .ok [k0, a, b, 0]

/-- The operand values of a matrix instruction, by source. -/
def matVals (i : Instr) (words : List (List Word)) : List Nat :=
  let sp := specOf i
  (List.range sp.srcs.length).map fun k => opVal sp words k 0

/-- R338, R339, R349: what a matrix instruction reads at issue from its operand values, or its trap (class, code). The checks
of an EMPTY tile, on either core, are made on what its predecessors leave (R208). -/
def matArgs (s : State) (w : Nat) (i : Instr) (xs : List Nat) : Except (Nat × Nat) (List Nat) :=
  let x := fun k => xs.getD k 0
  let core := (wv s w).core
  let empty := fun h : Head =>
    let t := matTile s w h
    ((accTile s core t).empty || (accTile s (core + 1) t).empty) &&
      !((pr s (corePair core)).mats.any fun m => !(matRetired m) && decide (m.tile = t))
  let cls9 := fun r : Except Nat (List Nat) => match r with | .ok l => Except.ok l | .error c => .error (9, c)
  match i with
  | .mma _ n => cls9 (multiplyArgs s w i n (x 0) (x 1) 0)
  | .mmas _ n => cls9 (multiplyArgs s w i n (x 0) (x 1) (x 2))
  | .mmap _ n => cls9 (multiplyArgs s w i n (x 0) (x 1) n.e.toNat)
  | .mfill _ _ => if x 0 % 32 ≠ 0 ∨ x 1 % 32 ≠ 0 then .error (9, 0x30) else .ok [x 0, x 1]
  | .mdrain h _ =>
    if x 0 % 32 ≠ 0 ∨ x 1 % 32 ≠ 0 then .error (9, 0x30)
    else if empty h then .error (3, 0) else .ok [x 0, x 1]
  | .mscale h _ => if empty h then .error (3, 0) else .ok [x 0]
  | _ => .ok []

/-- R329: operation `id` joins the matrix instructions of its pair, in order of issue. -/
def queueMat (s : State) (w id : Nat) (i : Instr) (args : List Nat) : State :=
  let v := wv s w
  let m : MatOp := { wave := w, op := id, instr := i, tile := matTile s w (matHead i), args := args, drained := false, data := [], reads := none }
  modPr s (corePair v.core) fun p => { p with mats := p.mats ++ [m] }

/-- R293, R331: a matrix instruction waits for the stores to its tile, on either core, that wait for their release markers, and one that
reads for the wave's acquires and for its own such stores to scratch. -/
def matWaits (s : State) (i : Instr) : Bool :=
  let w := s.cur.wave
  let core := (wv s w).core
  let t := matTile s w (matHead i)
  let reads := match i with | .mzero .. | .mscale .. => false | _ => true
  staWaits s core t || staWaits s (core + 1) t || (reads && (acquireOut (wv s w) || ownScrWaits s w))

/-- A matrix instruction: the conditions of issue, its own precise causes, and its place in the pair's order. -/
def matOp (i : Instr) (s : State) : Host.Outcome State Fault Refusal :=
  let sp := specOf i
  runOp i sp (matBad s (matHead i)) false (matWaits s i) (fun a s =>
    let w := s.cur.wave
    let words := capture (wv s w) sp
    let xs := sp.srcs.map (srcVal (wv s w) 0)
    if a = 0 then advance sp s else
    match matArgs s w i xs with
    | .error (c, k) => raisePrecise s (trapOf i c k s.cur.lanes)
    | .ok args =>
      let s := advance sp s
      let (id, s) := openOp i sp a 0 words s
      queueMat s w id i args) s

/-- R335: `mma`. -/
def execMma (h : Head) (n : NExt) (s : State) : Host.Outcome State Fault Refusal := matOp (.mma h n) s
/-- R336: `mmas`. -/
def execMmas (h : Head) (n : NExt) (s : State) : Host.Outcome State Fault Refusal := matOp (.mmas h n) s
/-- R337: `mmap`. -/
def execMmap (h : Head) (n : NExt) (s : State) : Host.Outcome State Fault Refusal := matOp (.mmap h n) s
/-- R338: `mzero`. -/
def execMzero (h : Head) (n : NExt) (s : State) : Host.Outcome State Fault Refusal := matOp (.mzero h n) s
/-- R338: `mfill`. -/
def execMfill (h : Head) (n : NExt) (s : State) : Host.Outcome State Fault Refusal := matOp (.mfill h n) s
/-- R339: `mdrain`. -/
def execMdrain (h : Head) (n : NExt) (s : State) : Host.Outcome State Fault Refusal := matOp (.mdrain h n) s
/-- R338: `mscale`. -/
def execMscale (h : Head) (n : NExt) (s : State) : Host.Outcome State Fault Refusal := matOp (.mscale h n) s

/-! ### Retiring (R329, R335 to R340, R350) -/

/-- R329: an instruction is over: its pins, its place in the pair's order and its operation end. -/
def matDone (s : State) (p : Nat) (m : MatOp) : State :=
  let s := unpin s (matPin m.op)
  let s := modPr s p fun x => { x with mats := x.mats.filter fun y => y.op ≠ m.op }
  completeOp s m.wave m.op allLanes 0

/-- R335: the multiply of rows `a` and `b` into a pair tile. -/
def multiply (s : State) (core t n k : Nat) (a : List (List (List Val))) (b : List (List Val)) : State :=
  setPairTile s core t n fun m c =>
    blockSums (k / 32) (pairElem s core t n m c) (a.getD m []) (b.getD c [])

/-- R209, R335: `FMODE.FERR` of the issuing wave. -/
def noteFerr (s : State) (w : Nat) (e : Bool) : State :=
  if e then modWv s w fun v => { v with fmode := v.fmode ||| fFerr } else s

/-- R337: the blocks along K that some contributing block of a window names; B is read for these alone. -/
def usedK (x : PatSlot) (k0 k : Nat) : List Nat :=
  (List.range (k / 16)).filter fun kb => (windowBlocks x k0 k).any fun b => b.2.1 = kb

/-- R337: the reads of B for the blocks `kbs` along K. -/
def partRuns (d n k0 : Nat) (kbs : List Nat) : List (Nat × Nat) := kbs.flatMap fun kb => denseRuns d n (k0 + 16 * kb) 16

/-- The rows of B, zero in the blocks that were not read. -/
def partRows (d n k0 k : Nat) (kbs : List Nat) (xs : List Nat) : List (List Val) × Bool :=
  let per := (denseRuns d n k0 16).length
  let parts := kbs.mapIdx fun c kb => (kb, denseRows d n (k0 + 16 * kb) 16 ((xs.drop (per * c)).take per))
  ((List.range n).map fun r => (List.range (k / 16)).flatMap fun kb =>
    match parts.find? fun p => p.1 = kb with
    | some p => p.2.1.getD r []
    | none => List.replicate 16 (.num false 0 0),
   parts.any fun p => p.2.2)

/-- The depth K of a multiply of a shape. -/
def matK (m : MatOp) (shape : Nat) : Nat :=
  match m.instr with
  | .mmas .. => sparseK shape
  | _ => shapeK shape ((classOfPair (dFmt (m.args.getD 1 0)) (dFmt (m.args.getD 2 0))).getD 0)

/-- R332, R336, R337: what a multiply reads: for A, and for B. -/
def matRuns (s : State) (m : MatOp) (shape : Nat) : List (Nat × Nat) × List (Nat × Nat) :=
  let x := fun k => m.args.getD k 0
  let (k0, a, b) := (x 0, x 1, x 2)
  let n := shapeN shape
  let k := matK m shape
  match m.instr with
  | .mmas .. => (sparseRuns a (x 3) k0 k, denseRuns b n k0 k)
  | .mmap .. =>
    let slot := slotOf (wv s m.wave) (x 3)
    (patRuns a slot k0 k, partRuns b n k0 (usedK slot k0 k))
  | _ => (denseRuns a 64 k0 k, denseRuns b n k0 k)

/-- R52, R333: the line at `va`, which the tile fetch unit has read for operation `op`, is pinned where its home is a slice of this device; it
waits for a set that has no way to pin. -/
def pinRead (ctx core op : Nat) (s : State) (va : Nat) : State :=
  match translate s (.core core) ctx .er false va 1 with
  | (s, .error _) => s
  | (s, .ok e) =>
    let pa := physOf s e .er va
    let line := lineOf pa
    if remoteDest (destOf s pa) || sliceOut s line || (tget noL2 s.l2 line).pins.contains (matPin op) then s
    else if pinFree s line then pinLine s line (matPin op) else mustWait s

/-- The lines of a run, by address. -/
def runLines (x : Nat × Nat) : List Nat := (linesOf x.1 x.2).map fun l => 128 * l % 2 ^ 64

/-- R29, R333: tile fetch prefetch: along K, the lines of the same rows from k0 + K to k0 + 2K. -/
def tileAhead (s : State) (core ctx : Nat) (m : MatOp) (shape : Nat) : State :=
  match m.instr with
  | .mma .. =>
    let k := matK m shape
    let next := fun (d rows : Nat) => (List.range rows).map fun r => dBase d + r * dPitch d + fmtBytes (dFmt d) (m.args.getD 0 0 + k)
    (next (m.args.getD 1 0) 64 ++ next (m.args.getD 2 0) (shapeN shape)).foldl
      (fun s va => aheadOf s core ctx (va % 2 ^ 64) false fun s c line _ => reach s (128 * line) 128 false c) s
  | _ => s

/-- R333: the tile fetch unit reads the operands and scales of a multiply and pins their lines. -/
def matRead (s : State) (p : Nat) (m : MatOp) (shape : Nat) : State :=
  let core := 2 * p
  let ctx := (wv s m.wave).ctx
  let (ra, rb) := matRuns s m shape
  match readRuns core ctx (ra ++ rb) s with
  | (s, .error e) => matFault s p m e.1 e.2.1 e.2.2
  | (s, .ok xs) =>
    let s := (((ra ++ rb).flatMap runLines).eraseDups).foldl (pinRead ctx core m.op) s
    let s := modPr s p fun x => { x with mats := x.mats.map fun y => if y.op = m.op then { y with reads := some xs } else y }
    let (n, s) := draw s
    if n % 2 = 0 then s else tileAhead s core ctx m shape

/-- R335 to R337: a multiply performed on what it has read. -/
def matMultiply (s : State) (p : Nat) (m : MatOp) (shape : Nat) (xs : List Nat) : State :=
  let core := 2 * p
  let x := fun k => m.args.getD k 0
  let (k0, a, b) := (x 0, x 1, x 2)
  let n := shapeN shape
  let k := matK m shape
  let left := (matRuns s m shape).1.length
  let ya := xs.take left
  let yb := xs.drop left
  let finish := fun (ra : List (List (List Val))) (rb : List (List Val)) (err : Bool) =>
    matDone (noteFerr (multiply s core m.tile n k ra rb) m.wave err) p m
  match m.instr with
  | .mmas .. =>
    let (rb, e) := denseRows b n k0 k yb
    finish (sparseRows a (x 3) k0 k ya) rb e
  | .mmap .. =>
    let slot := slotOf (wv s m.wave) (x 3)
    let (rowsA, ea) := patRowsOf a slot k0 k ya
    let (rb, eb) := partRows b n k0 k (usedK slot k0 k) yb
    finish rowsA rb (ea || eb)
  | _ =>
    let (rowsA, ea) := denseRows a 64 k0 k ya
    let (rb, eb) := denseRows b n k0 k yb
    finish (rowsA.map fun r => r.map fun v => [v]) rb (ea || eb)

/-- R347: the blocks that a program with `phash` tests for a window: all of it, and with PACK = 1 the earlier blocks of each row that it
touches. -/
def blocksTested (x : PatSlot) (k0 k : Nat) : Nat :=
  let rows := fun (first n : Nat) => ((List.range n).filter fun r => decide (first + r < patRows x.words)).length
  4 * (k / 16) + (if !(patPack x.words) then 0 else if x.order then rows (k0 / 16) (k / 16) * x.row0 else rows x.row0 4 * (k0 / 16))

/-- R334, R337, R347: the fewest cycles that a multiply occupies the array. -/
def matCycles (s : State) (m : MatOp) (shape : Nat) : Nat :=
  let up := fun x y : Nat => (x + y - 1) / y
  let c := (classOfPair (dFmt (m.args.getD 1 0)) (dFmt (m.args.getD 2 0))).getD 0
  let rate := match c with | 1 => 49152 | 2 => 12288 | _ => 24576
  match m.instr with
  | .mmas .. => up (64 * shapeN shape * sparseK shape * max 16 (sCount (m.args.getD 3 0)) / 48) 24576
  | .mmap .. =>
    let slot := slotOf (wv s m.wave) (m.args.getD 3 0)
    let b := (windowBlocks slot (m.args.getD 0 0) (matK m shape)).length
    max 1 (max (up (b * 256 * shapeN shape) rate) (if hasPop slot.words 6 then up (blocksTested slot (m.args.getD 0 0) (matK m shape)) 4 else b))
  | _ => up (64 * shapeN shape * matK m shape) rate

/-- R334: a multiply that has read its operands has had its shortest time since its issue. -/
def matTimed (s : State) (m : MatOp) (shape : Nat) : Bool :=
  (findOp (wv s m.wave) m.op).all fun o => decide (o.issuedAt + 28 + matCycles s m shape ≤ cycAt s (wv s m.wave).core)

/-- R339, R340: a drain: the tile is read, and then its elements are written, those with one home as one entry of the leader's FIFO. One
that could not leave waits for room, and one that has left stands until its writes are acknowledged (R329). -/
def matDrain (s : State) (p : Nat) (m : MatOp) (shape : Nat) : State :=
  let core := 2 * p
  let v := wv s m.wave
  let w := if bit shape 0 then 128 else 64
  let fmt := bits shape 2 1
  let add := bit shape 3
  let scr := bit shape 4
  let data := if m.drained then m.data
    else
      let rows := drainRows s core m.tile w fmt (m.args.getD 0 0) (m.args.getD 1 0)
      if scr then rows else rows.flatMap (cutRun 8)
  if scr then
    match drainBanks s (gp s v.group) add (data.flatMap (bankParts (gp s v.group))) with
    | (s, _, none) => matDone s p m
    | (s, left, some e) => matFault s p { m with drained := true, data := left } e.1 e.2.1 e.2.2
  else
    let (s, ps, bad, e) := drainParts s core v.ctx add data
    let (s, wait) := drainSend s core m.op add (byHome s ps)
    let left := wait.map fun x => (x.va, x.n, x.v)
    match e with
    | some e => matFault s p { m with drained := true, data := bad ++ left } e.1 e.2.1 e.2.2
    | none => modPr s p fun x => { x with mats := x.mats.map fun y => if y.op = m.op then { y with drained := true, data := left } else y }

/-- R338: a fill. -/
def matFill (s : State) (p : Nat) (m : MatOp) (shape : Nat) : State :=
  let core := 2 * p
  let w := if bit shape 0 then 128 else 64
  let rows := if bit shape 1 then 1 else 64
  let runs := (List.range rows).map fun r => (m.args.getD 0 0 + r * m.args.getD 1 0, 4 * w)
  match readRuns core (wv s m.wave).ctx runs s with
  | (s, .error e) => matFault s p m e.1 e.2.1 e.2.2
  | (s, .ok xs) =>
    matDone (setPairTile s core m.tile w fun r c => bits (xs.getD (if rows = 1 then 0 else r) 0) (32 * c + 31) (32 * c)) p m

/-- The shape of a matrix instruction. -/
def matShape (i : Instr) : Nat :=
  match i with | .mma _ n | .mmas _ n | .mmap _ n | .mfill _ n | .mdrain _ n | .mscale _ n => n.shape.toNat | _ => 0

/-- R329: a matrix instruction that has retired, all of whose writes are acknowledged. -/
def matAcked (s : State) (p : Nat) (m : MatOp) : Bool := matRetired m && !(engLeft s (2 * p) m.op)

/-- A matrix instruction of a pair for which something may be done now: one whose writes are acknowledged, or the first that has not retired
(R329, R333). -/
def matReady (s : State) (p : Nat) : Option MatOp :=
  ((pr s p).mats.find? (matAcked s p)).or <|
    match (pr s p).mats.find? fun m => !(matRetired m) with
    | some m =>
      if readHeld s m.wave m.op || (m.reads.isSome && !(matTimed s m (matShape m.instr))) then none else some m
    | none => none

/-- R338: `mzero` and `mscale`, which touch nothing but their tile. -/
def matTileOp (s : State) (p : Nat) (m : MatOp) : State :=
  match m.instr with
  | .mscale _ n =>
    let w := if n.shape.getLsbD 0 then 128 else 64
    matDone (setPairTile s (2 * p) m.tile w fun r c =>
      (roundTo F32 rne (mulV (valOf F32 (pairElem s (2 * p) m.tile w r c)) (valOf F32 (m.args.getD 0 0))).1).bits) p m
  | _ =>
    let z : AccTile := { empty := false, elems := [] }
    matDone (setTile (setTile s (2 * p) m.tile z) (2 * p + 1) m.tile z) p m

/-- What is done next for matrix instruction `m` of pair `p`: a multiply reads its operands, and then is performed. -/
def matNext (s : State) (p : Nat) (m : MatOp) : State :=
  let shape := matShape m.instr
  if matRetired m then matDone s p m else
  match m.instr with
  | .mma .. | .mmas .. | .mmap .. => (match m.reads with
    | none => matRead s p m shape
    | some xs => matMultiply s p m shape xs)
  | .mfill .. => matFill s p m shape
  | .mdrain .. => matDrain s p m shape
  | _ => matTileOp s p m

/-- R329: MATRIX_RETIRE: what the matrix instructions of a pair do next. -/
def execMatrixRetire (s : State) : Host.Outcome State Fault Refusal :=
  let p := arg s 0
  .next (match matReady s p with
    | none => s
    | some m => orWait s (matNext s p m))

/-- R350, R390: a held matrix instruction takes its place in the pair's order again; with changed operand words it is begun anew. One
whose words are refused has faulted again: it stays held, and so does what follows it. -/
def resumeMat (s : State) (w id : Nat) (same : Bool) : State :=
  let v := wv s w
  match v.heldMats.find? fun m => m.op = id, findOp v id with
  | some m, some o =>
    let before := v.heldMats.takeWhile fun x => x.op ≠ id
    let go := fun y : MatOp => modPr (modWv s w fun v => { v with heldMats := v.heldMats.filter fun x => x.op ≠ id }) (corePair v.core)
      fun x => { x with mats := x.mats ++ [y] }
    let asWas := m.drained || (same && (!(m.args.isEmpty) || (match m.instr with | .mzero .. => true | _ => false)))
    if before.any fun x => (findOp v x.op).isSome then s
    else if asWas then go m
    else match matArgs s w o.instr (matVals o.instr o.words) with
      | .ok args => go { m with args := args, reads := none }
      | .error (c, k) =>
        failAll (modWv s w fun v => { v with heldMats := v.heldMats.map fun x => if x.op = id then { x with args := [], reads := none } else x })
          w id c k 0
  | _, _ => s

def readyMatrix (s : State) : List (Instr × List Nat) :=
  s.pairs.filterMap fun (e : Nat × Pair) => if (matReady s e.1).isSome then some (Instr.matrixRetire, [e.1]) else none

end Sys2Proof.Machine
end

