-- ==== Sys2Proof/Machine/Logs.lean ====
section
/-! DEFINITION. What follows a failure: the fault log's commands, the end of a fence, soft errors and the retirement of units
(spec/16, R391 to R393, R398 to R401). -/

namespace Sys2Proof.Machine

open Sys2Proof.Machine.State

/-! ### RETRY (R392) -/

/-- Slot `k` of the log of context `c`. -/
def logSlot (s : State) (c k : Nat) : LogSlot := tget freeLog (cx s c).log k

/-- The parked operation has been performed: its slot is free. -/
def retryDone (s : State) (c k : Nat) : State := setFlerr (setLogSlot s c k freeLog) c 0
/-- The parked operation faulted again: its slot stays parked, as `e`. -/
def retryFailed (s : State) (c k : Nat) (e : LogSlot) : State := setFlerr (setLogSlot s c k e) c 3
/-- A slot with a new fault. -/
def withFault (e : LogSlot) (f : EngFault) : LogSlot :=
  { e with code := f.2.1 % 256, cls := f.1, addr := f.2.2, status := logStatus f.1 f.2.1 }

/-- R288: lanes of operation `op` of wave `w` complete, also where the wave stands saved in context `c`'s save area. -/
def completeParked (s : State) (c w op : Nat) (m : Lanes) : State :=
  modCx (completeOp s w op m 0) c fun x => { x with saves := x.saves.map fun y => { y with
    waves := y.waves.map fun r => if r.id = w then { r with wave := complete r.wave op m 0 } else r } }

/-- R297, R392: the parked reduction `a` performed at its home; at a peer's it has been once it is sent (log 149). Its lanes are then
complete (R288). -/
def retryRed (s : State) (c k : Nat) (e : LogSlot) (a : Acc) : State :=
  let done := fun s => completeParked (retryDone s c k) c a.wave a.op a.lanes
  match a.act with
  | .red code d =>
    (match demand s (.core a.core) c .rd a.va a.n with
    | (s, .error st) => retryFailed s c k (withFault e (10, st, a.va))
    | (s, .ok pa) =>
      if poisonIn s pa a.n then retryFailed s c k (withFault e (12, 1, a.va))
      else if remoteDest (destOf s pa) then done (out s (.peer a.id (farDev pa) (0x10 + code) (farLocal pa) a.n d 0))
      else
        let s := lineFill s (lineOf pa) (maskIn (lineOf pa) pa a.n) a.core
        let x := atomNew code a.n (homeRead s pa a.n) d 0
        done (ownCopy (putBytes 2 pa a.n x s) a.core pa a.n x))
  | _ => retryDone s c k

/-- R141, R392: the parked copy resumed where it stopped, on the pair where its group stands. Its slot stays parked until it ends. -/
def retryCopy (s : State) (c k : Nat) (e : LogSlot) (y : Copy) : State :=
  let y := copyResume y
  let p := if (gp s y.group).live then (gp s y.group).pair else y.pair
  let d := 2 * p + y.core % 2
  modCr (setLogSlot s c k { e with copy := none }) d fun x => { x with scarab := x.scarab ++ [{ y with core := d, pair := p, retry := k + 1 }] }

/-- R378, R392: the parked call of a collective goes on. -/
def retryColl (s : State) (c k : Nat) (e : LogSlot) : State :=
  match e.words with
  | (id, _) :: _ =>
    (match findColl s id with
    | none => retryDone s c k
    | some x => match collRetry s x with
      | (s, some f) => retryFailed s c k (withFault e f)
      | (s, none) => retryDone s c k)
  | [] => retryDone s c k

/-- R199, R392: the parked event write, and its interrupt. -/
def retryEvent (s : State) (c k : Nat) (e : LogSlot) : State :=
  match e.words with
  | (a, x) :: (irq, q) :: _ =>
    (match engWrite s (ctxUnit s c) c .st a 32 x with
    | (s, .error f) => retryFailed s c k (withFault e f)
    | (s, .ok _) => retryDone (if irq = 1 then signalQueue s q else s) c k)
  | _ => retryDone s c k

/-- R384, R392: one parked word of an `mdrain` added at its home, or sent to a peer's (log 149). -/
def retryAdd (core : Nat) (s : State) (x : Nat × Nat) : State :=
  if isFar x.1 then
    let (id, s) := fresh s
    out s (.peer id (farDev x.1) 0x18 (farLocal x.1) 4 x.2 0)
  else if lineBusy s x.1 4 then mustWait s
  else performEng (lineFill (reach s x.1 4 true core) (lineOf x.1) (maskIn (lineOf x.1) x.1 4) core) core x.1 4 x.2 true

/-- R384, R392: the parked words of an `mdrain`, added where their sectors are no longer poisoned. -/
def retryAdds (s : State) (c k : Nat) (e : LogSlot) : State :=
  let bad := fun x : Nat × Nat => s.poison.contains (x.1 / 32)
  let s' := (e.words.filter fun x => !(bad x)).foldl (retryAdd e.core) s
  match e.words.filter bad with
  | [] => retryDone s' c k
  | (a, x) :: r => retryFailed s' c k { e with addr := a, words := (a, x) :: r }

/-- R392: RETRY on slot `k` of context `c`. -/
def retrySlot (s : State) (c k : Nat) : State :=
  let e := logSlot s c k
  match e.state with
  | 0 => setFlerr s c 1
  | 1 =>
    (match e.acc, e.copy, e.opk with
    | some a, _, _ => retryRed s c k e a
    | _, some y, _ => retryCopy s c k e y
    | _, _, 2 => s
    | _, _, 3 => retryColl s c k e
    | _, _, 4 => retryEvent s c k e
    | _, _, _ => retryAdds s c k e)
  | _ => setFlerr s c 4

/-- R392: RETRY. -/
def execRetry (s : State) : Host.Outcome State Fault Refusal := .next (whenUp s fun s => orWait s (retrySlot s (arg s 0) (arg s 1)))

/-- R392, R393: ABANDON fences the context, whatever state the slot is in. -/
def abandonSlot (s : State) (c : Nat) : State := if (cx s c).bound then fence (setFlerr s c 0) c else s
/-- R392: ABANDON. -/
def execAbandon (s : State) : Host.Outcome State Fault Refusal := .next (whenUp s fun s => abandonSlot s (arg s 0))

/-- R392: FREE frees a report slot. -/
def freeReport (s : State) (c k : Nat) : State :=
  match (logSlot s c k).state with
  | 0 => setFlerr s c 1
  | 1 => setFlerr s c 2
  | _ => retryDone s c k
/-- R392: FREE. -/
def execFreeSlot (s : State) : Host.Outcome State Fault Refusal := .next (whenUp s fun s => freeReport s (arg s 0) (arg s 1))

/-! ### The end of a fence (R398, R407) -/

/-- R391, R393: some slot of the log is parked. -/
def anyParked (s : State) (c : Nat) : Bool := (cx s c).log.any fun (e : Nat × LogSlot) => decide (e.2.state = 1)

/-- R393, R407: the context's work remains, or an operation of it is parked. -/
def workRemains (s : State) (c : Nat) : Bool :=
  let x := cx s c
  anyParked s c || !x.launches.isEmpty || s.waves.any (fun (e : Nat × Wave) => decide (e.2.ctx = c)) ||
    s.groups.any (fun (e : Nat × Group) => decide (e.2.ctx = c)) || s.accs.any (fun a => decide (a.ctx = c)) ||
    s.cores.any (fun (e : Nat × Core) => e.2.scarab.any fun y => decide (y.ctx = c)) || s.colls.any (fun y => decide (y.ctx = c)) ||
    s.frags.any (fun y => decide (y.ctx = c)) || s.binRecs.any (fun y => decide (y.ctx = c)) || s.bins.any (fun y => decide (y.ctx = c)) ||
    s.tiles.any (fun (e : Nat × Tile) => decide (e.2.ctx = c)) || s.hives.any fun (e : Nat × List Task) => e.2.any fun y => decide (y.ctx = c)

/-- R183, R407: every queue that names the slot stops with ERR 2, be it enabled or not; a record offered and not accepted is not
taken. -/
def stopQueuesOf (s : State) (c : Nat) : State :=
  let qs := (List.range 128).filter fun q => decide ((qu s q).ctx.toNat = c)
  let s := qs.foldl
    (fun s q => settleContract (modQu s q fun x => { x with en := false, run := false, stop := true, err := 2 }) q) s
  { s with queues := tall resetQueue s.queues fun x => if x.ctx.toNat = c then { x with offered := false } else x }

/-- R407: translations of address space `a` are dropped everywhere, as INV_ASID drops them. -/
def dropAsid (s : State) (a : Nat) : State :=
  { s with
    cores := tall resetCore s.cores fun c => { c with
      tlb := c.tlb.filter fun e => decide (e.asid ≠ a), imago := c.imago.filter fun x => decide (x.asid ≠ a) }
    l2tlb := tall [] s.l2tlb fun t => t.filter fun e => decide (e.asid ≠ a)
    pwc := tall [] s.pwc fun t => t.filter fun e => decide (e.asid ≠ a)
    walks := s.walks.filter fun k => decide (k.asid ≠ a) }

/-- R407: the slot is unbound: its fault log is free, and BOUND and FENCED read 0. The binding fields stay. -/
def endBinding (s : State) (c : Nat) : State :=
  let s := dropAsid (stopQueuesOf s c) (cx s c).held.asid.toNat
  let s := modCx s c fun x =>
    { resetCtx with fields := x.fields, err := x.err, flerr := x.flerr }
  { s with cores := tall resetCore s.cores fun x => { x with ebud := tset 0 x.ebud c 0 } }

/-- R393, R398, R407: every incomplete launch of a fenced context completes: with FAULT, or with CANCELLED where the context is
being unbound and no slot of its log is parked. -/
def completeFenced (s : State) (c : Nat) : State :=
  let x := cx s c
  let st := if x.unbinding && !(anyParked s c) then 4 else 1
  let ls := x.launches.filter accepted
  let s := ls.foldl (fun s l => launchEvent s l st (firstCodeOf s c) (eventStack s l)) s
  let s := modCx s c fun x => { x with launches := [] }
  ls.foldl (fun s l => settleContract s l.queue) s

/-- R398: fencing has completed. -/
def fenceOver (s : State) (c : Nat) : State :=
  let s := completeFenced { s with fences := s.fences.filter fun x => x ≠ c } c
  if (cx s c).unbinding then endBinding s c else modCx s c fun x => { x with busy := false }

/-- R398: FENCE_COMPLETE. -/
def execFenceComplete (s : State) : Host.Outcome State Fault Refusal :=
  .next (orWait s (if s.fences.contains (arg s 0) then fenceOver s (arg s 0) else s))

/-! ### Soft errors (R399) -/

/-- The context fenced, where it is bound. -/
def fenceBound (s : State) (c : Nat) : State := if (cx s c).bound then fence s c else s

/-- R415: an uncorrectable soft error counted on stack `k`. -/
def countUe (s : State) (k : Nat) : State := modStk s k fun m => { m with eccUe := m.eccUe + 1 }

/-- R399: an error in accumulator tile `t` of core `c`: the context of the group that holds the tile is fenced. -/
def tileError (s : State) (c t : Nat) : State :=
  (tkeys s.groups fun g => g.live && !g.savedAll && decide (g.pair = corePair c) && decide (g.tile0 ≤ t) &&
    decide (t < g.tile0 + g.kernel.accum)).foldl (fun s g => fenceBound s (gp s g).ctx) s

/-- R399: an error in the copy of sector `sec` in bank `k` of pair `p`: a clean sector is dropped, a dirty one poisoned at its home. -/
def l1Error (s : State) (p k sec : Nat) : State :=
  let c := match (bank s p k).mode with | .cacheF => 2 * p + 1 | _ => 2 * p
  match l1Find (cr s c) (sec / 4) with
  | none => s
  | some x =>
    if x.bank ≠ k then s else
    let m := byteMask (32 * (sec % 4)) 32
    let s := if x.dirty &&& m = 0 then s else poisonWords s (sec / 4) (wordsOfMask m)
    modCr s c fun y => l1Put y { x with valid := x.valid &&& ~~~m, dirty := x.dirty &&& ~~~m }

/-- R399: an error in bank `k` of pair `p`. -/
def bankError (s : State) (p k sec : Nat) : State :=
  match (bank s p k).mode with
  | .scratch | .fifo =>
    let g := (bank s p k).owner
    if g ≠ 0 ∧ (gp s g).live = true then fenceBound s (gp s g).ctx else s
  | .cacheL | .cacheF => l1Error s p k sec
  | .reserve => s

/-- R52: the context that has placed pin `p`: that of a tile, or of a multiply that has read its operands. -/
def pinContext (s : State) (p : Nat) : Nat :=
  match (s.pairs.flatMap fun (e : Nat × Pair) => e.2.mats).find? fun m => matPin m.op = p with
  | some m => (wv s m.wave).ctx
  | none => (tget freeTile s.tiles (p - 1)).ctx

/-- R52, R399: an error in memory sector `sec` at `level`: 0 the L2, 1 the memory-side cache, 2 GDDR7. A pinned line fences the
contexts that pinned it; a clean sector of the memory-side cache is fetched again. -/
def sectorError (s : State) (sec level : Nat) : State :=
  let line := sec / 4
  let poison := poisonWords s line (wordsOfMask (byteMask (32 * (sec % 4)) 32))
  match level with
  | 0 =>
    let pins := (tget noL2 s.l2 line).pins
    if pins.isEmpty then poison
    else (pins.map (pinContext s)).foldl fenceBound s
  | 1 => if (tget noMsLine s.msLines line).dirty then poison else s
  | _ => poison

/-- R399: an error in the tags, the registry, the directory or a TLB of stack `k`: every bound context is fenced. -/
def tagError (s : State) (_k : Nat) : State :=
  (tkeys s.ctxs fun c => c.bound).foldl fence s

/-- R399: SOFT_ERROR: 0 registers of wave `loc`, 1 accumulator tile `loc` mod 64 of core `loc` / 64, 2 bank `loc` mod 64 of pair
`loc` / 64, 3 memory sector `loc`, 4 tags of stack `loc`; argument 2 names the sector of a cache bank, or the level. -/
def execSoftError (s : State) : Host.Outcome State Fault Refusal :=
  let l := arg s 1
  .next (match arg s 0 with
    | 0 => if (wv s l).live then countUe (fenceBound s (wv s l).ctx) (coreStack (wv s l).core) else s
    | 1 => countUe (tileError s (l / 64) (l % 64)) (coreStack (l / 64))
    | 2 => countUe (bankError s (l / 64) (l % 64) (arg s 2)) (l / 64 / 32)
    | 3 => countUe (sectorError s l (arg s 2)) (homeStack (32 * l))
    | 4 => countUe (tagError s l) l
    | _ => s)

/-! ### Retirement (R400, R401) -/

/-- R401: the groups with something on core `c`: a wave that has not ended, an access or a copy of one that has. -/
def groupsAt (s : State) (c : Nat) : List Nat :=
  let ws := fun w : Nat => s.accs.any fun a => decide (a.wave = w) && decide (a.core = c)
  let hit := tkeys s.groups fun g => g.live && !g.savedAll && decide (g.pair = corePair c) &&
    g.waves.any fun w => decide ((wv s w).core = c) && !(wv s w).saved && ((wv s w).live || ws w)
  let cs := ((cr s c).scarab.map (·.group)).filter fun g => (gp s g).live
  (hit ++ cs).eraseDups

/-- R401: every wave of the group holds a save record from one request. -/
def restorable (s : State) (g : Nat) : Bool :=
  match savedOf s g with
  | none => false
  | some x =>
    x.whole && ((x.waves.map (·.req)).eraseDups.length = 1) &&
      (gp s g).waves.all fun w => !(wv s w).live || x.waves.any fun y => y.id = w

/-- R397, R401: group `g` is put back to its last save, from which it is placed again. -/
def backToSave (s : State) (g : Nat) : State :=
  let x := gp s g
  let sv := savedOf s g
  let old := s.waves.filter fun (e : Nat × Wave) => decide (e.2.group = g)
  let ws := old.map Prod.fst
  let t := dropThese s ws [g] fun _ => false
  -- what an engine has already taken from the waves stays with the engine
  let s := { t with
    hives := s.hives, colls := s.colls
    frags := s.frags.filter fun x => !(decide (x.held = 3) && ws.contains x.wave)
    binRecs := s.binRecs.filter fun x => !(decide (x.op ≠ 0) && ws.contains x.wave) }
  let s := setGp s g { x with savedAll := true, request := false, pools := [], published := false }
  let s := old.foldl (fun s (e : Nat × Wave) => setWv s e.1 { e.2 with live := false }) s
  match sv with
  | none => s
  | some v => markEligible (v.waves.foldl (fun s y => setWv s y.id y.wave) s) (gp s g)

/-- R401: the groups on a retired core: with every group saved with them they are restored from their saves, or their context is
fenced. -/
def retireGroups (s : State) (gs : List Nat) : State :=
  gs.foldl
    (fun s g =>
      let x := gp s g
      if !x.live || x.savedAll then s else
      let all := linkedGroups s g
      if all.all (restorable s) then all.foldl backToSave s else fenceBound s x.ctx) s

/-- R401: the report that a context with waves on a retired core takes. -/
def retireReport (s : State) (c core : Nat) : State := if (cx s c).bound then logEntry s c (report 0x50 0 6 core 0 0) else s

/-- R400: a retired slice's dirty sectors are poisoned in GDDR7, and it holds no line from then on. -/
def retireSlices (s : State) (core : Nat) : State :=
  let mine := fun line : Nat => decide (homeSlice (128 * line) / 4 = core) && decide (128 * line < hostBase)
  let s := s.l2.foldl
    (fun s (e : Nat × L2Tag) =>
      if mine e.1 then
        poisonWords s e.1 (wordsOfMask ((List.range 4).foldl (fun m k => if e.2.dirty.getLsbD k then m ||| byteMask (32 * k) 32 else m) 0))
      else s) s
  modCr { s with l2 := s.l2.filter fun (e : Nat × L2Tag) => !(mine e.1) || !e.2.pins.isEmpty } core fun c => { c with noSlices := true }

/-- R82, R400: an entry lost in the FIFO of the retired core `c`: of a write-back the words are poisoned; for a reply the home takes the
recall to be complete with no data, and the words that it asked for are poisoned. -/
def entryLost (c : Nat) (s : State) (e : DafEntry) : State :=
  match e.kind with
  | .wb line m _ _ => poisonWords s line (wordsOfMask m)
  | .reply line _ _ merge =>
    (match firstParked s line with
    | some p =>
      let ws := heldWords s line c
      answered (poisonWords s line (if merge then ws else ws &&& recalledWords s p.msg line c)) line c
    | none => s)
  | _ => s

/-- R400: core `c` retires: it issues nothing more, its FIFO and copies are lost, its partner is unpaired. -/
def retireCore (s : State) (c : Nat) : State :=
  let lost := (cr s c).daf
  let s := modCr s c fun x =>
    { x with retired := true, daf := [], unacked := [], relOut := none, scarab := [], walkers := [], prefetch := [] }
  let early := fun a : Acc => decide (a.core = c) && openAcc a
  let s := { s with accs := s.accs.filter fun a => !(early a) }
  lost.foldl (entryLost c) (modPr s (corePair c) fun p => { p with paired := false })

/-- R394, R400, R401: UNIT_RETIRE of a core, or of its whole harvest unit. It requests the pre-emption of the groups with something on the
core, and with them of their linked groups (log 155). -/
def retireUnit (s : State) (c : Nat) (whole : Bool) : State :=
  if (cr s c).retired then (if whole then retireSlices s c else s) else
  let gs := groupsAt s c
  let ctxs := (gs.map fun g => (gp s g).ctx).eraseDups
  let s := retireCore (gs.foldl requestGroup s) c
  let s := if whole then retireSlices s c else s
  retireGroups (ctxs.foldl (fun s x => retireReport s x c) s) gs

/-- R400: UNIT_RETIRE. -/
def execUnitRetire (s : State) : Host.Outcome State Fault Refusal :=
  .next (if arg s 0 < 384 then retireUnit s (arg s 0) (decide (arg s 1 = 1)) else s)

/-- R400: PACKET_REFLECTED: a packet that a retired elevator reflected is sent again with every later one of its channel, in the
original order; the messages in flight and their order are as they were. -/
def execPacketReflected (s : State) : Host.Outcome State Fault Refusal := .next s

/-- R89, R415: LINK_REPLAY: the flits are sent again in order, under the same numbers; the stack counts the replay. -/
def execLinkReplay (s : State) : Host.Outcome State Fault Refusal :=
  .next (if arg s 0 < 6 then modStk s (arg s 0) fun m => { m with linkReplays := m.linkReplays + 1 } else s)

/-! ### Pre-emption by system software (R407) -/

/-- R394, R407: a request for every group of the context. -/
def preemptCtx (s : State) (c : Nat) : State :=
  (tkeys s.groups fun g => g.live && decide (g.ctx = c)).foldl requestGroup s

def readyLogs (s : State) : List (Instr × List Nat) := s.fences.map fun c => (Instr.fenceComplete, [c])

end Sys2Proof.Machine
end

