-- ==== Sys2Proof/Machine/Keccak.lean ====
section
/-! DEFINITION. SHAKE256, by which measurement registers are extended (spec/17, R411, R412). The manual names the function; its
definition is that of FIPS 202 (log 11). -/

namespace Sys2Proof.Machine

/-- A sponge state: 25 lanes of 64 bits, lane x + 5 * y. -/
abbrev Sponge := List (BitVec 64)

def spongeLane (a : Sponge) (k : Nat) : BitVec 64 := a.getD k 0

/-- The rotation of lane x + 5 * y in step ρ. -/
def rhoOffsets : List Nat :=
  [0, 1, 62, 28, 27, 36, 44, 6, 55, 20, 3, 10, 43, 25, 39, 41, 45, 15, 21, 8, 18, 2, 61, 56, 14]

/-- The constant of each round in step ι. -/
def iotaConstants : List (BitVec 64) :=
  [0x0000000000000001, 0x0000000000008082, 0x800000000000808A, 0x8000000080008000, 0x000000000000808B, 0x0000000080000001,
   0x8000000080008081, 0x8000000000008009, 0x000000000000008A, 0x0000000000000088, 0x0000000080008009, 0x000000008000000A] ++
  [0x000000008000808B, 0x800000000000008B, 0x8000000000008089, 0x8000000000008003, 0x8000000000008002, 0x8000000000000080,
   0x000000000000800A, 0x800000008000000A, 0x8000000080008081, 0x8000000000008080, 0x0000000080000001, 0x8000000080008008]

/-- One round: steps θ, ρ, π, χ and ι. -/
def keccakRound (a : Sponge) (rc : BitVec 64) : Sponge :=
  let c := (List.range 5).map fun x => (List.range 5).foldl (fun v y => v ^^^ spongeLane a (x + 5 * y)) 0
  let d := (List.range 5).map fun x => c.getD ((x + 4) % 5) 0 ^^^ (c.getD ((x + 1) % 5) 0).rotateLeft 1
  let t := (List.range 25).map fun k => (spongeLane a k ^^^ d.getD (k % 5) 0).rotateLeft (rhoOffsets.getD k 0)
  -- π: lane (x, y) comes from lane (x + 3y, x)
  let b := (List.range 25).map fun k => let x := k % 5; let y := k / 5; spongeLane t ((x + 3 * y) % 5 + 5 * x)
  let e := (List.range 25).map fun k =>
    let x := k % 5
    let r := 5 * (k / 5)
    spongeLane b k ^^^ (~~~(spongeLane b ((x + 1) % 5 + r)) &&& spongeLane b ((x + 2) % 5 + r))
  match e with
  | [] => []
  | z :: r => (z ^^^ rc) :: r

/-- The permutation: 24 rounds. -/
def keccak (a : Sponge) : Sponge := iotaConstants.foldl keccakRound a

/-- SHAKE256 with a 64-byte output, of a 128-byte message given as a little-endian number: one block of 136 bytes, padded. -/
def shake256 (m : Nat) : BitVec 512 :=
  let block := m % 2 ^ 1024 + 0x1F * 2 ^ 1024 + 0x80 * 2 ^ (8 * 135)
  let a := keccak ((List.range 25).map fun k => if k < 17 then BitVec.ofNat 64 (block / 2 ^ (64 * k)) else 0)
  BitVec.ofNat 512 ((List.range 8).foldl (fun x k => x + (spongeLane a k).toNat * 2 ^ (64 * k)) 0)

/-- R411: a measurement register `m` extended with a digest: SHAKE256 of the register followed by the digest. -/
def extendMeasure (m d : BitVec 512) : BitVec 512 := shake256 (m.toNat + d.toNat * 2 ^ 512)

end Sys2Proof.Machine
end

