-- ==== Sys2Proof/Machine/Manage.lean ====
section
/-! DEFINITION. Management: the hardware semaphore, binding contexts, pod identity and routing, boot and attestation, power
(spec/17, R404 to R414, R425). A writer is 0 for port A, 1 for port B, and 2 for a program, which comes from neither. -/

namespace Sys2Proof.Machine

open Sys2Proof.Machine.State

def modMgmt (s : State) (f : Mgmt → Mgmt) : State := { s with mgmt := f s.mgmt }

/-! ### The hardware semaphore (R404, R425) -/

/-- The result of a command, which its own port reads. -/
def setRes (s : State) (src r : Nat) : State := modPrt s src fun p => { p with hsemRes := BitVec.ofNat 2 r }

/-- R404: TAKE by a port; a program's is ignored. -/
def hsemTake (s : State) (src lease : Nat) : State :=
  let o := s.mgmt.owner.toNat
  if 2 ≤ src then s
  else if lease % 65536 = 0 then setRes s src 3
  else if o = 0 ∨ o = src + 1 then
    setRes (modMgmt s fun m => { m with owner := BitVec.ofNat 2 (src + 1), lease := BitVec.ofNat 16 lease }) src 0
  else setRes s src 1
/-- R404: HSEM_TAKE. -/
def execHsemTake (s : State) : Host.Outcome State Fault Refusal := .next (hsemTake s (arg s 0) (arg s 1))

/-- R404: RELEASE by a port; a program's is ignored. -/
def hsemRelease (s : State) (src : Nat) : State :=
  if 2 ≤ src then s
  else if s.mgmt.owner.toNat = src + 1 then setRes (modMgmt s fun m => { m with owner := 0, lease := 0 }) src 0
  else setRes s src 2
/-- R404: HSEM_RELEASE. -/
def execHsemRelease (s : State) : Host.Outcome State Fault Refusal := .next (hsemRelease s (arg s 0))

/-- R404: LEASE falls by one; at zero OWNER becomes 0. -/
def leaseTick (s : State) : State :=
  if s.mgmt.owner = 0 then s
  else modMgmt s fun m => { m with lease := m.lease - 1, owner := if m.lease.toNat ≤ 1 then 0 else m.owner }
/-- R404: HSEM_LEASE_TICK. -/
def execHsemLeaseTick (s : State) : Host.Outcome State Fault Refusal := .next (whenDue .hsemLeaseTick s leaseTick)

/-! ### Refused writes (R405, R409) -/

/-- R409: a refusal in the writing port's MGSTAT, which keeps the first. -/
def refuse (s : State) (src err reg : Nat) : State :=
  if 2 ≤ src then s
  else modPrt s src fun p => if p.mgErr = 0 then { p with mgErr := BitVec.ofNat 4 err, mgReg := BitVec.ofNat 2 reg } else p

/-! ### Binding (R406, R407) -/

/-- The ERR of BSTAT. -/
def bindErr (s : State) (c e : Nat) : State := modCx s c fun x => { x with err := BitVec.ofNat 4 e }

/-- R197: RATE and CAP of an EFILL word. -/
def efillRate (x : BitVec 32) : Nat := bits x.toNat 15 0
def efillCap (x : BitVec 32) : Nat := bits x.toNat 31 16

/-- R14, R406, R407: the cause for which BIND refuses the fields of slot `c`; 0 for none. -/
def bindCause (s : State) (f : BindFields) : Nat :=
  if s.ctxs.any fun (e : Nat × Ctx) => e.2.bound && decide (e.2.held.asid = f.asid) then 1
  else if f.root.toNat % 4096 ≠ 0 then 2
  else if gddrUsable ≤ f.root.toNat then 3
  else if 5 < f.home.toNat ∨ f.pin.toNat < 16 ∨ 16384 < f.pin.toNat ∨ addrBad f.view.toNat 64 = true ∨ f.save.toNat % 4096 ≠ 0 ∨
      gddrUsable < f.save.toNat + max 1 f.saveSz.toNat ∨ (efillCap f.efill = 0 ∧ efillRate f.efill ≠ 0) then 4
  else 0

/-- R407: slot `c` is bound: its fields are those the context holds, and its energy budget is full on every core. -/
def bindSlot (s : State) (c : Nat) : State :=
  let x := cx s c
  let s := setCx s c { resetCtx with fields := x.fields, held := x.fields, bound := true, flerr := x.flerr }
  let full := 256 * efillCap x.fields.efill
  (List.range 384).foldl (fun s k => modCr s k fun y => { y with ebud := tset 0 y.ebud c full }) s

/-- R407: BIND written by `src`. In RECOVERY it returns ERR 7 (R411). -/
def bindCmd (s : State) (src c : Nat) : State :=
  let x := cx s c
  if s.mgmt.boot ≠ .run then bindErr s c 7
  else if !(holdsHsem s src) then (if src < 2 then bindErr s c 5 else s)
  else if x.busy ∨ x.bound then bindErr s c 6
  else match bindCause s x.fields with
    | 0 => bindSlot s c
    | e => bindErr s c e
/-- R407: BIND. -/
def execBindCtx (s : State) : Host.Outcome State Fault Refusal := .next (if arg s 1 < 64 then bindCmd s (arg s 0) (arg s 1) else s)

/-- R407: what a guarded command on slot `c` needs; `f` is its effect. -/
def guardedCmd (s : State) (src c : Nat) (f : State → State) : State :=
  let x := cx s c
  if !(holdsHsem s src) then (if src < 2 then bindErr s c 5 else s)
  else if x.busy || !x.bound then bindErr s c 6
  else f (bindErr s c 0)

/-- R407: the slot is unbound: at once where nothing of it remains, and otherwise when the fence of its work completes. -/
def unbindSlot (s : State) (c : Nat) : State :=
  let s := stopQueuesOf s c
  if s.fences.contains c || (workRemains s c && !(cx s c).fenced) then
    fence (modCx s c fun x => { x with busy := true, unbinding := true }) c
  else endBinding s c
/-- R407: UNBIND. -/
def unbindCmd (s : State) (src c : Nat) : State := guardedCmd s src c fun s => unbindSlot s c
/-- R407: UNBIND. -/
def execUnbindCtx (s : State) : Host.Outcome State Fault Refusal := .next (whenUp s fun s => if arg s 1 < 64 then unbindCmd s (arg s 0) (arg s 1) else s)

/-- R405, R407: PREEMPT, which is not guarded. -/
def preemptCmd (s : State) (c : Nat) : State :=
  let x := cx s c
  if x.busy || !x.bound then bindErr s c 6 else preemptCtx (bindErr s c 0) c
/-- R407: PREEMPT. -/
def execPreempt (s : State) : Host.Outcome State Fault Refusal := .next (whenUp s fun s => if arg s 0 < 64 then preemptCmd s (arg s 0) else s)

/-- R398, R407: FENCE; BUSY until the fence has completed. -/
def fenceCmd (s : State) (src c : Nat) : State :=
  guardedCmd s src c fun s =>
    let s := fence s c
    if s.fences.contains c then modCx s c fun x => { x with busy := true } else s
/-- R407: FENCE. -/
def execFenceCommand (s : State) : Host.Outcome State Fault Refusal := .next (whenUp s fun s => if arg s 1 < 64 then fenceCmd s (arg s 0) (arg s 1) else s)

/-! ### Pod identity, routing and power limit (R408, R409, R414) -/

/-- R408: a write of DEVID. -/
def writeDevid (s : State) (src v : Nat) : State :=
  if !(holdsHsem s src) then refuse s src 5 0
  else if s.ctxs.any fun (e : Nat × Ctx) => e.2.bound then refuse s src 6 0
  else modMgmt s fun m => { m with devid := BitVec.ofNat 12 v }
/-- R408: DEVID_WRITE. -/
def execDevidWrite (s : State) : Host.Outcome State Fault Refusal := .next (writeDevid s (arg s 0) (arg s 1))

/-- R408: a write of the pod routing table's entry of device `d`. -/
def writeRoute (s : State) (src d v : Nat) : State :=
  if 4096 ≤ d then s
  else if !(holdsHsem s src) then refuse s src 5 1
  else modMgmt s fun m => { m with routes := tset 0 m.routes d (BitVec.ofNat 16 v) }
/-- R408: ROUTING_TABLE_WRITE. -/
def execRoutingTableWrite (s : State) : Host.Outcome State Fault Refusal := .next (whenUp s fun s => writeRoute s (arg s 0) (arg s 1) (arg s 2))

/-- R414: a write of PLIMIT. -/
def writePlimit (s : State) (src v : Nat) : State :=
  let w := bits v 11 0
  if !(holdsHsem s src) then refuse s src 5 2
  else if w < 500 ∨ 3300 < w then refuse s src 4 2
  else modMgmt s fun m => { m with plimit := BitVec.ofNat 12 w }
/-- R414: PLIMIT_WRITE. -/
def execPlimitWrite (s : State) : Host.Outcome State Fault Refusal := .next (whenUp s fun s => writePlimit s (arg s 0) (arg s 1))

/-! ### Boot and measurement (R411, R412) -/

/-- Measurement register `k`. -/
def measOf (m : Mgmt) (k : Nat) : BitVec 512 := m.meas.getD k 0
/-- R411: measurement register `k` extended with digest `d`. -/
def extendReg (m : Mgmt) (k : Nat) (d : BitVec 512) : Mgmt := { m with meas := lmod m.meas k fun x => extendMeasure x d }

/-- R411: the images from `k` on, of `n`: each is verified, measured and run; one that does not verify ends the boot in
RECOVERY. -/
def bootImages : Nat → Nat → Mgmt → Mgmt
  | 0, _, m => { m with boot := .run }
  | n + 1, k, m =>
    if Config.imageVerifies k then bootImages n (k + 1) (extendReg m k (Config.imageDigest k)) else { m with boot := .recovery }

/-- R411: the security controller's work after reset: the boot ROM is measured, and the three firmware images follow. -/
def boot (s : State) : State := modMgmt s fun m => bootImages 3 1 (extendReg m 0 (Config.imageDigest 0))

/-- R411: RESET: the machine as after reset, what stands outside it apart (log 11), and then the boot. -/
def execResetDev (s : State) : Host.Outcome State Fault Refusal :=
  .next (boot (if s.mgmt.boot = .booting then s
    else { State.reset with inputs := s.inputs, outbox := s.outbox, draws := s.draws, nextId := s.nextId }))

/-- R412: an extend of measurement register `k` starts. -/
def startExtend (s : State) (src k : Nat) : State :=
  let m := s.mgmt
  if !(holdsHsem s src) then (if src < 2 then modMgmt s fun m => { m with mxErr := 5 } else s)
  else if m.mxBusy then modMgmt s fun m => { m with mxErr := 6 }
  else if k < 4 ∨ 7 < k then modMgmt s fun m => { m with mxErr := 1 }
  else modMgmt s fun m => { m with mxBusy := true, mxErr := 0, mxReg := k, mxLatch := m.mxDigest }
/-- R412: MEXTEND. -/
def execMextend (s : State) : Host.Outcome State Fault Refusal := .next (whenUp s fun s => startExtend s (arg s 0) (arg s 1))

/-- R412: MEXTEND_DONE: the register changes in one step. -/
def execMextendDone (s : State) : Host.Outcome State Fault Refusal :=
  .next (if s.mgmt.mxBusy then modMgmt s fun m => { extendReg m m.mxReg m.mxLatch with mxBusy := false } else s)

/-! ### The security mailbox (R413) -/

/-- R413: OP = 1 written to MBCMD of window `p`. -/
def startReport (s : State) (p : Nat) : State :=
  let x := prt s p
  if 2 ≤ p then s
  else if x.mbBusy then modPrt s p fun y => { y with mbErr := 6 }
  else modMgmt (modPrt s p fun y => { y with mbBusy := true }) fun m => { m with mbQueue := m.mbQueue ++ [(p, x.nonce)] }
/-- R413: REPORT. -/
def execReport (s : State) : Host.Outcome State Fault Refusal := .next (startReport s (arg s 0))

/-- R413: the signed bytes of a report. -/
def reportBody (s : State) (nonce : BitVec 256) : List Byte :=
  let m := s.mgmt
  leBytes 32 nonce.toNat ++ leBytes 2 m.devid.toNat ++ leBytes 2 (if m.boot = .recovery then 1 else 0) ++ leBytes 4 0 ++
    leBytes 16 Config.serial.toNat ++ ((List.range 4).flatMap fun k => leBytes 4 (Config.firmwareVersion k).toNat) ++
    (List.range 8).flatMap fun k => leBytes 64 (measOf m k).toNat
/-- R413: a report with its signature. -/
def reportBytes (s : State) (nonce : BitVec 256) : List Byte :=
  let b := reportBody s nonce
  b ++ (List.range 1280).map fun i => Config.signature (leNat b) i

/-- R413: REPORT_DONE: the mailbox serves the oldest request. -/
def execReportDone (s : State) : Host.Outcome State Fault Refusal :=
  .next (match s.mgmt.mbQueue with
    | (p, n) :: r =>
      if arg s 0 ≠ p then s else
      modPrt (modMgmt s fun m => { m with mbQueue := r }) p fun y =>
        { y with mbBusy := false, mbDone := true, mbLen := 1864, report := reportBytes s n }
    | [] => s)

/-! ### Sensors (R414) -/

/-- R414: the compute-die term at a junction temperature. -/
def dieTermOf (t : Nat) : Nat := if t ≤ 95 then 255 else if t ≤ 100 then 127 else if t ≤ 105 then 63 else 15

/-- R414: DIE_SENSOR_SAMPLE. -/
def execDieSensorSample (s : State) : Host.Outcome State Fault Refusal :=
  .next (whenDue .dieSensorSample s fun s =>
    let c := arg s 0
    if c < 384 then modCr s c fun x => { x with dieTerm := dieTermOf (tget 0 s.inputs.coreTemp c) } else s)

/-- R414: POWER_AVERAGE: every term is capped at 127 while the average exceeds PLIMIT, until an average falls below it. -/
def execPowerAverage (s : State) : Host.Outcome State Fault Refusal :=
  let p := s.inputs.power
  let l := s.mgmt.plimit.toNat
  .next (whenDue .powerAverage s fun s => modMgmt s fun m => { m with capped := if l < p then true else if p < l then false else m.capped })

def readyManage (s : State) : List (Instr × List Nat) :=
  (if s.mgmt.boot = .booting then [(Instr.resetDev, [])] else []) ++
  (if s.mgmt.mxBusy then [(Instr.mextendDone, [])] else []) ++
  (match s.mgmt.mbQueue with | (p, _) :: _ => [(Instr.reportDone, [p])] | [] => [])

end Sys2Proof.Machine
end

