-- ==== Sys2Proof/Machine/Walks.lean ====
section
/-! DEFINITION. Page walks, the classification directory, recalls and translation maintenance as events (spec/01, R21 to R33). -/

namespace Sys2Proof.Machine

open Sys2Proof.Machine.State

/-! ### Page walks (R22 to R24) -/

/-- The address space of an access. -/
def accAsid (s : State) (a : Acc) : Nat := (cx s a.ctx).held.asid.toNat
/-- A walk that an access joins. -/
def sameWalk (s : State) (a : Acc) (k : Walk) : Bool := decide (k.asid = accAsid s a) && decide (k.page = a.va / 4096) && !k.stale
/-- R22: a walker of the core's stack is free. -/
def walkerFree (s : State) (a : Acc) : Bool := decide ((s.walks.filter fun k => k.stack = coreStack a.core).length < 64)

/-- R22, R23: one walk for an access. -/
def walkNow (s : State) (a : Acc) : State × WalkRes :=
  walkBy s (some a.core) (coreStack a.core) (accAsid s a) (cx s a.ctx).held.root.toNat a.va fun s e => accFault s a e

/-- R36: an access through the translation would fault, so that it sets neither A nor D. -/
def pageFaults (s : State) (a : Acc) (e : TlbEntry) : Bool := (accFault s a e).isSome || barKind a e || unreachable s e

/-- R21, R22: the walk that an access starts: its reads, and the update of A and D unless the access faults, are made at this
instant. -/
def startWalk (s : State) (a : Acc) : State :=
  let wr := writeClass a.cls (imWrites a)
  let (s, r) := walkNow s a
  let (id, s) := fresh s
  let w := { id := id, stack := coreStack a.core, asid := accAsid s a, page := a.va / 4096, waiters := [a.id], stale := false,
             updated := false, entry := none, code := 0, level := 0, knum := 7, due := cycAt s a.core + 22 : Walk }
  let (s, w) := match r with
    | .fault c l k => (s, { w with code := c, level := l, knum := k })
    | .ok e ptes =>
      if pageFaults s a e then (s, { w with entry := some e })
      else (setAD s ptes wr, { w with entry := some { e with d := e.d || wr }, updated := true })
  putAcc { s with walks := s.walks ++ [w] } { a with stage := .walk }

/-- R22: PAGE_WALK: an access that missed both TLBs joins a walk or starts one. -/
def execPageWalk (s : State) : Host.Outcome State Fault Refusal :=
  .next (match findAcc s (arg s 0) with
    | none => s
    | some a =>
      if a.stage ≠ .trans then s
      else if s.walks.any (sameWalk s a) then
        putAcc { s with walks := s.walks.map fun k => if sameWalk s a k then { k with waiters := k.waiters ++ [a.id] } else k }
          { a with stage := .walk }
      else if !(walkerFree s a) then s
      else orWait s (startWalk s a))

/-- R23: a fault that a walk found for an access is confirmed by another walk from memory, which is the one that is reported; one that
finds a translation sends the access back. -/
def confirmWalk (s : State) (a : Acc) : State :=
  let k := coreStack a.core
  let asid := accAsid s a
  let fail := fun (s : State) (c l k : Nat) => failAcc s a 10 (statusWord c l (clsNum a.cls) k false)
  match walkFrom (some a.core) (some k) asid a.va 4 (cx s a.ctx).held.root.toNat (dropCached s (some a.core) k asid a.va) with
  | (s, .fault c l k) => fail s c l k
  | (s, .ok e _) => match accFault s a e with
    | some c => fail s c ((e.log2 - 12) / 9) (kindNum e.kind)
    | none => putAcc s { a with stage := .trans }

/-- R23, R24: the walk's answer reaches one of its accesses, which may have joined it. One whose A or D the walk has not set goes back
to the walker (R21). -/
def walkAnswer (w : Walk) (s : State) (id : Nat) : State :=
  match findAcc s id with
  | none => s
  | some a =>
    if a.stage ≠ .walk then s
    else if w.stale then putAcc s { a with stage := .trans }
    else
      let fail := fun (c l k : Nat) => if confirmed c then confirmWalk s a else failAcc s a 10 (statusWord c l (clsNum a.cls) k false)
      match w.entry with
      | none => fail w.code w.level w.knum
      | some e =>
        let lv := (e.log2 - 12) / 9
        match accFault s a e with
        | some c => fail c lv (kindNum e.kind)
        | none =>
          if pageFaults s a e then takePage s a e lv
          else if !w.updated || (writeClass a.cls (imWrites a) && !e.d) then putAcc s { a with stage := .trans }
          else takePage (l1TlbPut (l2TlbPut s (coreStack a.core) e) a.core e) a e lv

/-- R22, R69: a walk's last read has had the time of a read of the L2 (log 61). -/
def walkOver (s : State) (w : Walk) : Bool := decide (w.due ≤ cycOf s w.stack)

/-- R24: the walk's answer reaches its accesses; pieces that waited for another of their instruction to be translated go on. -/
def answerWalk (s : State) (w : Walk) : State :=
  let cores := ((s.accs.filter fun a => w.waiters.contains a.id).map fun a => a.core).eraseDups
  cores.foldl reroute (w.waiters.foldl (walkAnswer w) { s with walks := s.walks.filter fun k => k.id ≠ w.id })

/-- R24: WALK_COMPLETE. -/
def execWalkComplete (s : State) : Host.Outcome State Fault Refusal :=
  .next (match s.walks.find? fun k => k.id = arg s 0 with
    | none => s
    | some w => if walkOver s w then orWait s (answerWalk s w) else s)

/-! ### The directory (R27, R28) -/

/-- R27: DIRECTORY_REQUEST: an access whose frame's state the core does not hold. -/
def execDirectoryRequest (s : State) : Host.Outcome State Fault Refusal :=
  .next (match findAcc s (arg s 0) with
    | none => s
    | some a =>
      let f := frameOf a.pa
      if a.stage ≠ .dir ∨ recalling s f = true then s
      else match tget .untouched s.dir f with
        | .untouched =>
          let st : FrameState := if coreAgent a then .privateTo a.core else .shared
          classified { s with dir := tset .untouched s.dir f st } a st
        | .shared => classified s a .shared
        | .privateTo c =>
          if c = a.core ∧ coreAgent a = true then classified s a (.privateTo c)
          else
            startRecall s f [a.id])

/-- The dirty lines of a PRIVATE frame in a core's L1. -/
def frameDirty (s : State) (c f : Nat) : List L1Line :=
  (cr s c).l1.filter fun x => lineIn f x.line && decide (x.path = .priv) && decide (x.dirty ≠ 0)

/-- R28: the core's lines of the frame become shared lines and its TLB entries say so; its own accesses to the frame wait
for the directory. -/
def shareFrame (s : State) (c f : Nat) : State :=
  let s := modCr s c fun y => { y with
    l1 := y.l1.map fun x => if lineIn f x.line && decide (x.path = .priv) then { x with path := .shared, dirty := 0 } else x
    tlb := y.tlb.map fun e => { e with classes := e.classes.map fun k => if k.1 = f then (f, .shared) else k } }
  { s with accs := s.accs.map fun a =>
      if a.core = c && decide (a.stage = .ready) && a.priv && decide (a.pa ≠ 0) && decide (frameOf a.pa = f) then
        { a with stage := .dir, priv := false }
      else a }

/-- R28: the write-backs that the recall of a frame makes in a core, one for each dirty sector. -/
def frameWbs (s : State) (c f : Nat) : List DafEntry := (frameDirty s c f).flatMap wbEntries

/-- R28: the message of recall `r` reaches its core, which writes back every dirty sector of the frame behind its earlier entries. Entries
behind the 128th wait for a place in the FIFO, as an eviction's do (log 129). A retired core returns no data, and the words are poisoned as R400
has it of a REVOKE (log 155). -/
def reclassify (s : State) (r : Recall) : State :=
  let back := fun s => if (cr s r.core).retired
    then (frameDirty s r.core r.frame).foldl (fun s x => poisonWords s x.line (wordsOfMask x.dirty)) s
    else (frameWbs s r.core r.frame).foldl (fun s e => dafPush s r.core e) s
  let s := shareFrame (back s) r.core r.frame
  { s with recalls := s.recalls.map fun x => if x.id = r.id then { x with told := true } else x }

/-- R28, R88: RECLASSIFY, on the message that carries it. -/
def execReclassify (s : State) : Host.Outcome State Fault Refusal :=
  .next (match netFirst s (arg s 0) with
    | none => s
    | some m => match m.body with
      | .reclass id => (match s.recalls.find? fun r => r.id = id with
        | some r => reclassify (netDrop s m.id) r
        | none => netDrop s m.id)
      | _ => s)

/-- A write-back of a line of the frame has not been accepted at its home. -/
def wbLeft (s : State) (c f : Nat) : Bool :=
  let one := fun e : DafEntry => match e.kind with | .wb l m _ _ => lineIn f l && decide (m ≠ 0) | _ => false
  (cr s c).daf.any one || (cr s c).unacked.any fun e => one e.2

/-- R28: RECALL_ACK: the directory records SHARED and the waiting access proceeds. -/
def execRecallAck (s : State) : Host.Outcome State Fault Refusal :=
  .next (match s.recalls.find? fun r => r.id = arg s 0 with
    | none => s
    | some r =>
      if !r.told ∨ wbLeft s r.core r.frame = true then s
      else
        let s := { s with
          recalls := s.recalls.filter fun x => x.id ≠ r.id
          dir := tset .untouched s.dir r.frame .shared }
        r.waiters.foldl
          (fun s id => match findAcc s id with
            | some a => if a.stage = .dir then classified s a .shared else s
            | none => s) s)

/-! ### Translation maintenance (R30 to R33) -/

/-- The maintenance block of port `p`. -/
def tmOf (s : State) (p : Nat) : TmBlock := (prt s p).tm
def modTm (s : State) (p : Nat) (f : TmBlock → TmBlock) : State := modPrt s p fun x => { x with tm := f x.tm }

/-- R31: a command is refused with a cause. -/
def tmRefuse (s : State) (p err : Nat) : State := modTm s p fun b => { b with done := true, err := BitVec.ofNat 4 err }

/-- R31: what a command checks: cause 4 while BUSY, 2 for its operands, 3 for a range outside usable GDDR7. -/
def tmCheck (b : TmBlock) (op : Nat) : Nat :=
  let ranged := decide (op = 3 ∨ op = 4)
  if b.busy then 4
  else if op = 0 ∨ 4 < op then 1
  else if ranged && (decide (b.addr.toNat % 4096 ≠ 0) || decide (b.len.toNat % 4096 ≠ 0) || decide (b.len = 0)) then 2
  else if op = 4 ∧ gddrUsable < b.addr.toNat + b.len.toNat then 3
  else 0

/-- A command of operation `op` begins on block `p`, with the operands it holds, and waits for `waits`. -/
def tmStart (s : State) (p op : Nat) (waits : List Nat) : State :=
  modTm s p fun b => { b with
    busy := true, err := 0, op := op, job := (b.asid.toNat, b.addr.toNat, b.len.toNat), waits := waits }

/-- A maintenance command written to block `p`: refused, or its effect `f`. -/
def tmCommand (s : State) (p op : Nat) (f : State → State) : State :=
  match tmCheck (tmOf s p) op with
  | 0 => f s
  | e => tmRefuse s p e

/-! ### The invalidation commands (R24, R32) -/

/-- An access translated, and neither performed nor faulted; an atomic on a PRIVATE frame is performed when its bytes have come. -/
def accInFlight (a : Acc) : Bool :=
  match a.stage with
  | .dir | .ready | .queued | .home | .parked => true
  | .ret => a.priv && accAtomic a && decide (a.got ≠ 0)
  | _ => false

/-- R32: the command of block `b` covers a leaf entry. -/
def dropsLeaf (b : TmBlock) (e : TlbEntry) : Bool :=
  match b.op with
  | 1 => true
  | 2 => decide (e.asid = b.job.1)
  | 3 => decide (e.asid = b.job.1) && decide (e.base < b.job.2.1 + b.job.2.2) && decide (b.job.2.1 < e.base + 2 ^ e.log2)
  | _ => false
/-- R32: the same of an entry of a page-walk cache. -/
def dropsTable (b : TmBlock) (e : PwcEntry) : Bool :=
  match b.op with
  | 1 => true
  | 2 | 3 => decide (e.asid = b.job.1)
  | _ => false
/-- R24, R32: an access or a walk at `va` may be by an entry that the command covers: the size of its page is not known to it, and
1 GiB is the largest (log 138). -/
def mayUse (b : TmBlock) (asid va : Nat) : Bool :=
  match b.op with
  | 1 => true
  | 2 => decide (asid = b.job.1)
  | 3 => decide (asid = b.job.1) && decide (b.job.2.1 / 2 ^ 30 ≤ va / 2 ^ 30) &&
      decide (va / 2 ^ 30 ≤ (b.job.2.1 + b.job.2.2 - 1) / 2 ^ 30)
  | _ => false

/-- R24, R32: what the command of block `p` covers leaves every TLB and walk cache, and the walks in flight that it covers are
discarded. -/
def dropEntries (s : State) (p : Nat) : State :=
  let b := tmOf s p
  { s with
    cores := tall resetCore s.cores fun c => { c with tlb := c.tlb.filter fun e => !(dropsLeaf b e) }
    l2tlb := tall [] s.l2tlb fun t => t.filter fun e => !(dropsLeaf b e)
    pwc := tall [] s.pwc fun t => t.filter fun e => !(dropsTable b e)
    walks := s.walks.map fun k => if mayUse b k.asid (4096 * k.page) then { k with stale := true } else k }

/-- The operations of engines that have writes in a core's FIFO or unacknowledged. -/
def engTags (s : State) : List Nat :=
  let one := fun e : DafEntry => match e.kind with | .eng t .. => some t | _ => none
  s.cores.flatMap fun (e : Nat × Core) => e.2.daf.filterMap one ++ e.2.unacked.filterMap fun u => one u.2

/-- R32: the accesses in flight that may have used an entry which the command of block `p` drops: of waves, fragments on their way to
their tiles, `pub`s past their checks, and writes of engines. -/
def usedEntries (s : State) (p : Nat) : List Nat :=
  let b := tmOf s p
  ((s.accs.filter fun a => accInFlight a && mayUse b (accAsid s a) a.va).map fun a => a.id) ++
  ((s.frags.filter fun f => decide (b.op = 1) || decide ((cx s f.ctx).held.asid.toNat = b.job.1)).map fun f => f.id) ++
  (s.pubs.map fun x => x.id) ++ engTags s

/-- R32: the invalidation of block `p` drops what it covers and waits for the accesses in flight that may have used it. -/
def invalidateNow (s : State) (p : Nat) : State :=
  let s := dropEntries s p
  let used := usedEntries s p
  modTm s p fun b => { b with waits := used }

/-- R32: an invalidation command on block `p`. -/
def invalidate (s : State) (p op : Nat) : State :=
  tmCommand s p op fun s =>
    invalidateNow (tmStart s p op []) p

/-- R32: the command INV_ALL of block `p`. -/
def invAll (s : State) (p : Nat) : State := invalidate s p 1
/-- R32: INV_ALL. -/
def execInvAll (s : State) : Host.Outcome State Fault Refusal := .next (whenUp s fun s => invAll s (arg s 1))

/-- R32: the command INV_ASID of block `p`. -/
def invAsid (s : State) (p : Nat) : State := invalidate s p 2
/-- R32: INV_ASID. -/
def execInvAsid (s : State) : Host.Outcome State Fault Refusal := .next (whenUp s fun s => invAsid s (arg s 1))

/-- R32: the command INV_VA of block `p`. -/
def invVa (s : State) (p : Nat) : State := invalidate s p 3
/-- R32: INV_VA. -/
def execInvVa (s : State) : Host.Outcome State Fault Refusal := .next (whenUp s fun s => invVa s (arg s 1))

/-! ### RELEASE_FRAME (R33) -/

/-- R33: one frame that is SHARED returned to UNTOUCHED: its registered words are brought home and the copies of its state
go. -/
def releaseOne (s : State) (f : Nat) : State :=
  let lines := (s.registry.map fun e => e.line).filter (lineIn f)
  let s := lines.foldl (fun s l => settleLine s l (BitVec.allOnes 128) true) s
  { s with
    dir := tset .untouched s.dir f .untouched
    cores := tall resetCore s.cores fun c => { c with
      tlb := c.tlb.map fun e => { e with classes := e.classes.filter fun k => decide (k.1 ≠ f) } } }

/-- R33: the first frame from `lo` up to `hi` that is not UNTOUCHED. -/
def releaseNext (s : State) (lo hi : Nat) : Option Nat := (s.dir.map Prod.fst).find? fun f => decide (lo ≤ f) && decide (f < hi)

/-- R28, R33: the frames from `lo` up to `hi` in ascending order, each as it stands when it is reached, up to one whose recall has not
ended, which is given too; `n` bounds them. -/
def releaseFrom : Nat → Nat → Nat → State → State × List Nat
  | 0, _, _, s => (s, [])
  | n + 1, lo, hi, s =>
    match releaseNext s lo hi with
    | none => (s, [])
    | some f =>
      if recallRuns s f then (s, [f]) else
      match tget .untouched s.dir f with
      | .privateTo _ => (startRecall s f [], [f])
      | _ => releaseFrom n (f + 1) hi (releaseOne s f)

/-- R33: the command of block `p` goes on from the frame that it works on. -/
def releaseStep (s : State) (p : Nat) : State :=
  let b := tmOf s p
  let hi := frameOf (b.job.2.1 + b.job.2.2)
  let (s, left) := releaseFrom (s.dir.length + 1) (b.waits.headD hi) hi s
  modTm s p fun b => { b with waits := left }

/-- R33: the command RELEASE_FRAME of block `p`: the frames of its range, and the twins whose side 0 is covered. -/
def releaseFrames (s : State) (p : Nat) : State :=
  tmCommand s p 4 fun s =>
    let b := tmOf s p
    let lo := frameOf b.addr.toNat
    let hi := lo + b.len.toNat / 4096
    let s := { s with twins := s.twins.filter fun t => !(decide (lo ≤ frameOf t.1) && decide (frameOf t.1 < hi)) }
    releaseStep (tmStart s p 4 [lo]) p
/-- R33: RELEASE_FRAME. -/
def execReleaseFrame (s : State) : Host.Outcome State Fault Refusal := .next (whenUp s fun s => releaseFrames s (arg s 1))

/-- R31: OP written to TMCMD of block `p`. -/
def tmRun (s : State) (p op : Nat) : State :=
  match op with
  | 1 => invAll s p
  | 2 => invAsid s p
  | 3 => invVa s p
  | 4 => releaseFrames s p
  | _ => tmCommand s p op fun s => s

/-- R32, R33: block `p` can go on: no access that it waits for is in flight, or the recall of its next frame has ended. -/
def tmDone (s : State) (p : Nat) : Bool :=
  let b := tmOf s p
  b.busy && (if b.op = 4 then (match b.waits with | [] => true | f :: _ => !(recallRuns s f)) else
    !((s.accs.any fun a => b.waits.contains a.id && accInFlight a) || (s.frags.any fun f => b.waits.contains f.id) ||
      (s.pubs.any fun x => b.waits.contains x.id) || (engTags s).any fun t => b.waits.contains t))

/-- R155: the copies of imago cells that a command of block `b` covers; for INV_VA those last used through an address in its range
(log 167). -/
def copyCovered (b : TmBlock) (x : ImagoCopy) : Bool :=
  let within := fun a : Nat => decide (b.job.2.1 ≤ a) && decide (a < b.job.2.1 + b.job.2.2)
  match b.op with
  | 1 => true
  | 3 => decide (x.asid = b.job.1) && within x.va
  | 4 => within x.cell
  | _ => false

/-- R32: some TLB or walk cache of the device holds an entry that the command of block `p` drops. -/
def entriesHeld (s : State) (p : Nat) : Bool :=
  let b := tmOf s p
  (s.cores.any fun c => c.2.tlb.any (dropsLeaf b)) || (s.l2tlb.any fun t => t.2.any (dropsLeaf b)) ||
    s.pwc.any fun t => t.2.any (dropsTable b)

/-- R24, R32, R155: the command of block `p` completes; of the walks in flight none that it covers fills a TLB. -/
def tmFinish (s : State) (p : Nat) : State :=
  let s := dropEntries s p
  let b := tmOf s p
  let s := { s with cores := tall resetCore s.cores fun c => { c with imago := c.imago.filter fun x => !copyCovered b x } }
  modTm s p fun b => { b with busy := false, done := true, err := 0, op := 0, job := (0, 0, 0), waits := [] }

/-- R32, R33: what block `p` waited for has come about. RELEASE_FRAME goes on with its frames; an invalidation under which entries were
filled drops those too and waits for the accesses that used them. With nothing left to do the command completes. -/
def tmAdvance (s : State) (p : Nat) : State :=
  if (tmOf s p).op = 4 then
    let s := releaseStep s p
    if (tmOf s p).waits = [] then tmFinish s p else s
  else if entriesHeld s p then invalidateNow s p
  else tmFinish s p

/-- R24, R32, R33: TM_COMMAND_DONE. -/
def execTmCommandDone (s : State) : Host.Outcome State Fault Refusal :=
  let p := arg s 0
  .next (if tmDone s p then tmAdvance s p else s)

/-! ### Which of these have an occasion -/

def readyWalk (s : State) : List (Instr × List Nat) :=
  (s.accs.filterMap fun a => match a.stage with
    | .trans => if s.walks.any (sameWalk s a) || walkerFree s a then some (Instr.pageWalk, [a.id]) else none
    | .dir => if recalling s (frameOf a.pa) then none else some (.directoryRequest, [a.id])
    | _ => none) ++
  ((s.walks.filter (walkOver s)).map fun k => (Instr.walkComplete, [k.id])) ++
  (s.recalls.filterMap fun r =>
    if !r.told || wbLeft s r.core r.frame then none else some (Instr.recallAck, [r.id])) ++
  (([0, 1].filter (tmDone s)).map fun p => (Instr.tmCommandDone, [p]))

end Sys2Proof.Machine
end

