-- ==== Sys2Proof/Machine/Mmio.lean ====
section
/-! DEFINITION. The device MMIO range: every register block of R403 as 32-bit words, read and written by a host port or a program
(spec/17, R403, R405, R425; R8, R30, R48, R180, R198, R392, R406, R412, R413, R415). -/

namespace Sys2Proof.Machine

open Sys2Proof.Machine.State

/-- The low or the high word of a 64-bit register. -/
def half (x : Nat) (hi : Bool) : Nat := if hi then x / 2 ^ 32 % 2 ^ 32 else x % 2 ^ 32

/-- The word `old` with the bytes of `v` that the mask `m` names. -/
def putMasked (old m v : Nat) : Nat :=
  let one := fun k : Nat => (if bit m k then v else old) / 2 ^ (8 * k) % 256 * 2 ^ (8 * k)
  one 0 + one 1 + one 2 + one 3
/-- A 64-bit register with bytes of its low or high word replaced. -/
def putHalf (x : Nat) (hi : Bool) (m v : Nat) : Nat :=
  if hi then x % 2 ^ 32 + 2 ^ 32 * putMasked (half x true) m v else putMasked (half x false) m v + 2 ^ 32 * half x true

/-! ### Reading -/

/-- R404: HSEM, and the reading port's result. -/
def readHsem (s : State) (src o : Nat) : Nat :=
  match o with
  | 0 => s.mgmt.owner.toNat + 2 ^ 16 * s.mgmt.lease.toNat
  | 8 => if src < 2 then (prt s src).hsemRes.toNat else 0
  | _ => 0

/-- R409: MGSTAT of the reading port. -/
def readMgstat (s : State) (src : Nat) : Nat :=
  if src < 2 then (prt s src).mgErr.toNat + 16 * (prt s src).mgReg.toNat else 0

/-- R31: a translation maintenance block. -/
def readTm (b : TmBlock) (o : Nat) : Nat :=
  match o with
  | 0x04 => b.asid.toNat
  | 0x08 => half b.addr.toNat false
  | 0x0C => half b.addr.toNat true
  | 0x10 => half b.len.toNat false
  | 0x14 => half b.len.toNat true
  | 0x18 => b2n b.busy + 2 * b2n b.done + 16 * b.err.toNat
  | _ => 0

/-- R44: the code of a region's state. -/
def modeCode (m : RegionMode) : Nat := match m with | .normal => 0 | .double => 1 | .throttled => 2 | .bypass => 3

/-- R48: the 64-bit word at `o` of the counter block of stack `k`. -/
def counter64 (s : State) (k o : Nat) : Nat :=
  let m := stk s k
  let regions := fun (f : Region → Nat) (w : Nat) => (List.range 8).foldl (fun x g => x + f (rgn s (8 * k + g)) * 2 ^ (w * g)) 0
  match o with
  | 0x00 => m.hit
  | 0x08 => m.miss
  | 0x10 => m.wb
  | 0x18 => m.thr
  | 0x20 => regions (·.sample) 8
  | 0x28 => regions (fun r => modeCode r.mode) 2
  | 0x70 => m.hpBase.toNat
  | 0x78 => b2n m.hpEn + 2 * m.hpRate.toNat + 256 * m.hpSize.toNat
  | 0x80 => m.hpHead.toNat + 2 ^ 32 * m.hpTail.toNat
  | 0x88 => m.hpDrop.toNat
  | _ => if 0x30 ≤ o ∧ o < 0x70 then m.stall.getD ((o - 0x30) / 8) 0 else 0

/-- R198: the 64-bit word at `o` of the issue counters of core `c`. -/
def issue64 (s : State) (c o : Nat) : Nat :=
  let x := cr s c
  if o = 0 then x.issued % 2 ^ 64
  else if o = 0x40 then (4 * cycAt s c + x.idle) % 2 ^ 64
  else if o < 0x40 then x.stalls.getD (o / 8 - 1) 0 % 2 ^ 64
  else 0

/-- R181: the registers of a launch queue. -/
def readQueue (x : Queue) (o : Nat) : Nat :=
  match o with
  | 0x00 => half x.base.toNat false
  | 0x04 => half x.base.toNat true
  | 0x08 => b2n x.en + 2 * x.size.toNat + 32 * x.prio.toNat + 256 * x.ctx.toNat + 65536 * b2n x.cen + 131072 * x.cstack.toNat
  | 0x0C => b2n x.run + 2 * b2n x.stop + 16 * x.err.toNat + (if x.err = 4 then 256 * x.fcode.toNat else 0)
  | 0x10 => x.tail.toNat
  | 0x14 => x.head.toNat
  | 0x18 => x.period.toNat
  | 0x1C => x.budget.toNat
  | 0x20 => x.pairs.toNat
  | _ => 0

/-- R406: the registers of a binding block. -/
def readBind (x : Ctx) (o : Nat) : Nat :=
  let f := x.fields
  match o with
  | 0x04 => b2n x.bound + 2 * b2n x.fenced + 4 * b2n x.busy + 16 * x.err.toNat
  | 0x08 => f.asid.toNat
  | 0x10 => half f.root.toNat false
  | 0x14 => half f.root.toNat true
  | 0x18 => f.home.toNat
  | 0x1C => f.pin.toNat
  | 0x20 => f.efill.toNat
  | 0x28 => half f.view.toNat false
  | 0x2C => half f.view.toNat true
  | 0x30 => half f.save.toNat false
  | 0x34 => half f.save.toNat true
  | 0x38 => half f.saveSz.toNat false
  | 0x3C => half f.saveSz.toNat true
  | 0x40 => b2n f.sflush
  | _ => 0

/-- R413: a mailbox window. -/
def readMailbox (x : Port) (o : Nat) : Nat :=
  if o < 0x20 then x.nonce.toNat / 2 ^ (8 * o) % 2 ^ 32
  else if o = 0x24 then b2n x.mbBusy + 2 * b2n x.mbDone + 16 * x.mbErr.toNat
  else if o = 0x28 then x.mbLen.toNat
  else if 0x800 ≤ o then leNat ((x.report.drop (o - 0x800)).take 4)
  else 0

/-- R412: the measurement block. -/
def readMeasure (m : Mgmt) (o : Nat) : Nat :=
  if o = 0x04 then b2n m.mxBusy + 16 * m.mxErr.toNat
  else if 0x40 ≤ o ∧ o < 0x80 then m.mxDigest.toNat / 2 ^ (8 * (o - 0x40)) % 2 ^ 32
  else if 0x100 ≤ o ∧ o < 0x300 then (measOf m ((o - 0x100) / 64)).toNat / 2 ^ (8 * ((o - 0x100) % 64)) % 2 ^ 32
  else 0

/-- R413: four bytes of the public key. -/
def readKey (o : Nat) : Nat := leNat ((List.range 4).map fun k => if o + k < 1793 then Config.publicKey (o + k) else 0)

/-- R400, R415: the mask of a stack's retired cores. -/
def retiredMask (s : State) (k : Nat) : Nat :=
  (List.range 64).foldl (fun x i => x + b2n (cr s (64 * k + i)).retired * 2 ^ i) 0

/-- R415: the 64-bit word at `o` of the error counters of stack `k`. -/
def error64 (s : State) (k o : Nat) : Nat :=
  match o with
  | 0x00 => (stk s k).eccCe
  | 0x08 => (stk s k).eccUe
  | 0x10 => (stk s k).linkReplays
  | 0x18 => retiredMask s k
  | _ => 0

/-- R391: the 32 bytes of a slot of a fault log. -/
def slotBytes (e : LogSlot) : List Byte :=
  leBytes 1 e.code ++ leBytes 1 e.cls ++ leBytes 1 e.state ++ leBytes 1 e.opk ++ leBytes 2 e.core ++ leBytes 2 0 ++
    leBytes 8 e.addr ++ leBytes 4 e.status ++ leBytes 4 e.data ++ leBytes 8 e.value

/-- R392: a fault log block. -/
def readLog (x : Ctx) (o : Nat) : Nat :=
  if o = 0x00 then
    (x.log.filter fun e => decide (e.2.state ≠ 0)).length + 2 ^ 16 * (x.log.filter fun e => decide (e.2.state = 1)).length
  else if o = 0x08 then x.flerr.toNat
  else if 0x1000 ≤ o ∧ o < 0x3000 then leNat (((slotBytes (tget freeLog x.log ((o - 0x1000) / 32))).drop ((o - 0x1000) % 32)).take 4)
  else 0

/-- R411: what answers outside RUN: `HSEM`, `DEVID`, the mailbox, and a binding block's status. -/
def answers (s : State) (o : Nat) : Bool :=
  decide (s.mgmt.boot = .run) || decide (o < 0x14) || (decide (0x210000 ≤ o) && decide (o < 0x212000)) ||
    (decide (0x200000 ≤ o) && decide (o < 0x204000) && decide (o % 256 < 8))

/-- R403: the 32-bit word at offset `o` of the device MMIO range, as `src` reads it. -/
def mmioWord (s : State) (src o : Nat) : Nat :=
  if !(answers s o) then 0
  else if o < 0x0C then readHsem s src o
  else if o = 0x10 then s.mgmt.devid.toNat
  else if o = 0x18 then readMgstat s src
  else if o < 0x10000 then 0
  else if o < 0x10200 then (if o % 256 < 0x20 then readTm (tmOf s ((o - 0x10000) / 256)) (o % 256) else 0)
  else if o < 0x20000 then 0
  else if o < 0x26000 then half (counter64 s ((o - 0x20000) / 4096) (o % 4096 / 8 * 8)) (bit o 2)
  else if o < 0x50000 then 0
  else if o < 0x68000 then half (issue64 s ((o - 0x50000) / 256) (o % 256 / 8 * 8)) (bit o 2)
  else if o < 0x100000 then 0
  else if o < 0x101000 then readQueue (qu s ((o - 0x100000) / 64)) (o % 64)
  else if o < 0x110000 then 0
  else if o < 0x111000 then readQueue (qu s (64 + (o - 0x110000) / 64)) (o % 64)
  else if o < 0x200000 then 0
  else if o < 0x204000 then readBind (cx s ((o - 0x200000) / 256)) (o % 256)
  else if o < 0x210000 then 0
  else if o < 0x212000 then readMailbox (prt s ((o - 0x210000) / 4096)) (o % 4096)
  else if o < 0x213000 then readMeasure s.mgmt (o % 4096)
  else if o < 0x214000 then readKey (o % 4096)
  else if o = 0x220000 then s.mgmt.plimit.toNat
  else if o < 0x221000 then 0
  else if o < 0x221600 then half (error64 s ((o - 0x221000) / 256) (o % 256 / 8 * 8)) (bit o 2)
  else if o < 0x300000 then 0
  else if o < 0x302000 then
    let d := (o - 0x300000) / 2
    (tget 0 s.mgmt.routes d).toNat + 2 ^ 16 * (tget 0 s.mgmt.routes (d + 1)).toNat
  else if o < 0x400000 then 0
  else if o < 0x500000 then readLog (cx s ((o - 0x400000) / 0x4000)) (o % 0x4000)
  else 0

/-- `n` bytes from offset `o`, as one number. -/
def mmioRead (s : State) (src o : Nat) : Nat → Nat
  | 0 => 0
  | n + 1 => mmioWord s src (o / 4 * 4) / 2 ^ (8 * (o % 4)) % 256 + 256 * mmioRead s src (o + 1) n

/-! ### Writing -/

/-- R404: HSEMCMD; the command of a port is performed at the end of the cycle of stack 0 in which it reaches the controller, so that
those of one cycle can be taken port A first. -/
def writeHsemCmd (s : State) (src v : Nat) : State :=
  if src < 2 then modMgmt s fun m => { m with hsemArr := m.hsemArr ++ [(src, v)] } else s

/-- R8: a field with the bits of `v` cleared. -/
def w1c {n : Nat} (x : BitVec n) (v : Nat) : BitVec n := x &&& ~~~(BitVec.ofNat n v)

/-- R30, R31: a word of a translation maintenance block. -/
def writeTm (s : State) (p o m v : Nat) : State :=
  match o with
  | 0x00 => if bit m 0 then tmRun s p (bits v 3 0) else s
  | 0x04 => modTm s p fun b => { b with asid := BitVec.ofNat 16 (putMasked b.asid.toNat m v) }
  | 0x08 => modTm s p fun b => { b with addr := BitVec.ofNat 64 (putHalf b.addr.toNat false m v) }
  | 0x0C => modTm s p fun b => { b with addr := BitVec.ofNat 64 (putHalf b.addr.toNat true m v) }
  | 0x10 => modTm s p fun b => { b with len := BitVec.ofNat 64 (putHalf b.len.toNat false m v) }
  | 0x14 => modTm s p fun b => { b with len := BitVec.ofNat 64 (putHalf b.len.toNat true m v) }
  | 0x18 => modTm s p fun b => { b with done := b.done && !(bit v 1) }
  | _ => s

/-- R48: a word of the counter block of stack `k`. -/
def writeCounter (s : State) (k o m v : Nat) : State :=
  let hi := bit o 2
  match o / 8 * 8 with
  | 0x00 => modStk s k fun x => { x with hit := putHalf x.hit hi m v }
  | 0x08 => modStk s k fun x => { x with miss := putHalf x.miss hi m v }
  | 0x10 => modStk s k fun x => { x with wb := putHalf x.wb hi m v }
  | 0x18 => modStk s k fun x => { x with thr := putHalf x.thr hi m v }
  | 0x70 => modStk s k fun x => { x with hpBase := BitVec.ofNat 64 (putHalf x.hpBase.toNat hi m v) }
  | 0x78 => if hi then s else writeHpctl s k (putMasked (counter64 s k 0x78) m v)
  | 0x80 => if hi then modStk s k fun x => { x with hpTail := BitVec.ofNat 32 (putMasked x.hpTail.toNat m v) } else s
  | 0x88 => if hi then s else modStk s k fun x => { x with hpDrop := BitVec.ofNat 32 (putMasked x.hpDrop.toNat m v) }
  | c => if 0x30 ≤ c ∧ c < 0x70 then modStk s k fun x => { x with stall := lmod x.stall ((c - 0x30) / 8) fun n => putHalf n hi m v } else s

/-- R198: a word of the issue counters of core `c`. -/
def writeIssue (s : State) (c o m v : Nat) : State :=
  let a := o / 8 * 8
  let x := putHalf (issue64 s c a) (bit o 2) m v
  if a = 0 then modCr s c fun y => { y with issued := x }
  else if a = 0x40 then modCr s c fun y => { y with idle := (x + 2 ^ 64 - 4 * cycAt s c % 2 ^ 64) % 2 ^ 64 }
  else if a < 0x40 then modCr s c fun y => { y with stalls := lmod y.stalls (a / 8 - 1) fun _ => x }
  else s

/-- R182: a guarded register of a queue other than QCTL. -/
def guardedQueue (s : State) (src q : Nat) (f : Queue → Queue) : State :=
  if !(holdsHsem s src) then guardRefused s src q else modQu s q f

/-- R180 to R182: a word of launch queue `q`. -/
def writeQueue (s : State) (src q o m v : Nat) : State :=
  let base := fun (hi : Bool) (x : Queue) =>
    if x.en then { x with err := 6 } else { x with base := BitVec.ofNat 64 (putHalf x.base.toNat hi m v) }
  match o with
  | 0x00 => guardedQueue s src q (base false)
  | 0x04 => guardedQueue s src q (base true)
  | 0x08 =>
    let w := putMasked (readQueue (qu s q) 0x08) m v
    if bit w 0 then enableQueue s src q w else disableQueue s src q w
  | 0x0C => modQu s q fun x => { x with err := w1c x.err (bits v 7 4) }
  | 0x10 => modQu s q fun x => { x with tail := BitVec.ofNat 32 (putMasked x.tail.toNat m v) }
  | 0x18 => guardedQueue s src q fun x => { x with period := BitVec.ofNat 32 (putMasked x.period.toNat m v) }
  | 0x1C => guardedQueue s src q fun x => { x with budget := BitVec.ofNat 32 (putMasked x.budget.toNat m v) }
  | 0x20 => guardedQueue s src q fun x => { x with pairs := BitVec.ofNat 6 (putMasked x.pairs.toNat m v) }
  | _ => s

/-- R407: OP written to BCMD of slot `c`. -/
def runBcmd (s : State) (src c op : Nat) : State :=
  match op with
  | 1 => bindCmd s src c
  | 2 => unbindCmd s src c
  | 3 => preemptCmd s c
  | 4 => fenceCmd s src c
  | _ => s

/-- R405, R406: the binding fields with a word of theirs replaced, none where the word is no field. -/
def bindField (f : BindFields) (o m v : Nat) : Option BindFields :=
  match o with
  | 0x08 => some { f with asid := BitVec.ofNat 16 (putMasked f.asid.toNat m v) }
  | 0x10 => some { f with root := BitVec.ofNat 64 (putHalf f.root.toNat false m v) }
  | 0x14 => some { f with root := BitVec.ofNat 64 (putHalf f.root.toNat true m v) }
  | 0x18 => some { f with home := BitVec.ofNat 3 (putMasked f.home.toNat m v) }
  | 0x1C => some { f with pin := BitVec.ofNat 15 (putMasked f.pin.toNat m v) }
  | 0x20 => some { f with efill := BitVec.ofNat 32 (putMasked f.efill.toNat m v) }
  | 0x28 => some { f with view := BitVec.ofNat 64 (putHalf f.view.toNat false m v) }
  | 0x2C => some { f with view := BitVec.ofNat 64 (putHalf f.view.toNat true m v) }
  | 0x30 => some { f with save := BitVec.ofNat 64 (putHalf f.save.toNat false m v) }
  | 0x34 => some { f with save := BitVec.ofNat 64 (putHalf f.save.toNat true m v) }
  | 0x38 => some { f with saveSz := BitVec.ofNat 64 (putHalf f.saveSz.toNat false m v) }
  | 0x3C => some { f with saveSz := BitVec.ofNat 64 (putHalf f.saveSz.toNat true m v) }
  | 0x40 => some { f with sflush := bit (putMasked (b2n f.sflush) m v) 0 }
  | _ => none

/-- R405, R406: a word of the binding block of slot `c`. -/
def writeBind (s : State) (src c o m v : Nat) : State :=
  match o with
  | 0x00 => if bit m 0 then runBcmd s src c (bits v 2 0) else s
  | 0x04 => modCx s c fun x => { x with err := w1c x.err (bits v 7 4) }
  | _ =>
    match bindField (cx s c).fields o m v with
    | none => s
    | some f => if holdsHsem s src then modCx s c fun x => { x with fields := f } else if src < 2 then bindErr s c 5 else s

/-- R413: a word of mailbox window `p`. -/
def writeMailbox (s : State) (p o m v : Nat) : State :=
  if o < 0x20 then
    modPrt s p fun x =>
      let old := x.nonce.toNat / 2 ^ (8 * o) % 2 ^ 32
      { x with nonce := BitVec.ofNat 256 (x.nonce.toNat - old * 2 ^ (8 * o) + putMasked old m v * 2 ^ (8 * o)) }
  else if o = 0x20 then (if bit m 0 && decide (bits v 1 0 = 1) then startReport s p else s)
  else if o = 0x24 then modPrt s p fun x => { x with mbDone := x.mbDone && !(bit v 1), mbErr := w1c x.mbErr (bits v 7 4) }
  else s

/-- R405, R412: a word of the measurement block. -/
def writeMeasure (s : State) (src o m v : Nat) : State :=
  if o = 0x00 then (if bit m 0 then startExtend s src (bits v 2 0) else s)
  else if o = 0x04 then modMgmt s fun x => { x with mxErr := w1c x.mxErr (bits v 7 4) }
  else if 0x40 ≤ o ∧ o < 0x80 then
    (if !(holdsHsem s src) then (if src < 2 then modMgmt s fun x => { x with mxErr := 5 } else s)
    else modMgmt s fun x =>
      let k := 8 * (o - 0x40)
      let old := x.mxDigest.toNat / 2 ^ k % 2 ^ 32
      { x with mxDigest := BitVec.ofNat 512 (x.mxDigest.toNat - old * 2 ^ k + putMasked old m v * 2 ^ k) })
  else s

/-- R415: a word of the error counters of stack `k`. -/
def writeError (s : State) (k o m v : Nat) : State :=
  let hi := bit o 2
  match o / 8 * 8 with
  | 0x00 => modStk s k fun x => { x with eccCe := putHalf x.eccCe hi m v }
  | 0x08 => modStk s k fun x => { x with eccUe := putHalf x.eccUe hi m v }
  | 0x10 => modStk s k fun x => { x with linkReplays := putHalf x.linkReplays hi m v }
  | _ => s

/-- R408: the two entries of the routing table in a word. -/
def writeRoutes (s : State) (src d m v : Nat) : State :=
  let one := fun (s : State) (d k : Nat) =>
    if bits m (2 * k + 1) (2 * k) = 0 then s
    else writeRoute s src d (putMasked (tget 0 s.mgmt.routes d).toNat (bits m (2 * k + 1) (2 * k)) (half (v / 2 ^ (16 * k)) false))
  one (one s d 0) (d + 1) 1

/-- R392: FLCMD of context `c`. -/
def runFlcmd (s : State) (c v : Nat) : State :=
  let k := bits v 7 0
  match bits v 9 8 with
  | 1 => retrySlot s c k
  | 2 => abandonSlot s c
  | 3 => freeReport s c k
  | _ => s

/-- R392: a word of the fault log block of context `c`. -/
def writeLog (s : State) (c o v : Nat) : State :=
  match o with
  | 0x04 => runFlcmd s c v
  | 0x08 => modCx s c fun x => { x with flerr := w1c x.flerr (bits v 3 0) }
  | _ => s

/-- R403: the bytes of `v` under the mask `m` written to the word at offset `o` by `src`; the other bytes of `v` are 0. -/
def writeWord (s : State) (src o m v : Nat) : State :=
  if !(answers s o) then s
  else if o = 0x04 then writeHsemCmd s src v
  else if o = 0x10 then writeDevid s src (putMasked s.mgmt.devid.toNat m v)
  else if o = 0x18 then (if src < 2 then modPrt s src fun p => { p with mgErr := w1c p.mgErr (bits v 3 0) } else s)
  else if o < 0x10000 then s
  else if o < 0x10200 then writeTm s ((o - 0x10000) / 256) (o % 256) m v
  else if o < 0x20000 then s
  else if o < 0x26000 then writeCounter s ((o - 0x20000) / 4096) (o % 4096) m v
  else if o < 0x50000 then s
  else if o < 0x68000 then writeIssue s ((o - 0x50000) / 256) (o % 256) m v
  else if o < 0x100000 then s
  else if o < 0x101000 then writeQueue s src ((o - 0x100000) / 64) (o % 64) m v
  else if o < 0x110000 then s
  else if o < 0x111000 then writeQueue s src (64 + (o - 0x110000) / 64) (o % 64) m v
  else if o < 0x200000 then s
  else if o < 0x204000 then writeBind s src ((o - 0x200000) / 256) (o % 256) m v
  else if o < 0x210000 then s
  else if o < 0x212000 then writeMailbox s ((o - 0x210000) / 4096) (o % 4096) m v
  else if o < 0x213000 then writeMeasure s src (o % 4096) m v
  else if o < 0x220000 then s
  else if o = 0x220000 then writePlimit s src (putMasked s.mgmt.plimit.toNat m v)
  else if o < 0x221000 then s
  else if o < 0x221600 then writeError s ((o - 0x221000) / 256) (o % 256) m v
  else if o < 0x300000 then s
  else if o < 0x302000 then writeRoutes s src ((o - 0x300000) / 2) m v
  else if o < 0x400000 then s
  else if o < 0x500000 then writeLog s ((o - 0x400000) / 0x4000) (o % 0x4000) v
  else s

/-- The words that bytes `o` to `o + n - 1` touch are written in ascending order (log 53); `k` bounds their number. -/
def writeWords (src : Nat) : Nat → Nat → Nat → Nat → State → State
  | 0, _, _, _, s => s
  | k + 1, o, n, v, s =>
    if n = 0 then s else
    let c := min n (4 - o % 4)
    writeWords src k (o + c) (n - c) (v / 2 ^ (8 * c))
      (writeWord s src (o / 4 * 4) ((2 ^ c - 1) * 2 ^ (o % 4)) (v % 2 ^ (8 * c) * 2 ^ (8 * (o % 4))))

/-- `n` bytes of `v` written from offset `o` by `src`. -/
def mmioWrite (s : State) (src o n v : Nat) : State := writeWords src (n / 4 + 2) o n v s

/-- The address lies in the device MMIO range. -/
def inMmio (pa : Nat) : Bool := decide (mmioBase ≤ pa) && decide (pa < mmioBase + 2 ^ 32)

/-- R8: REGISTER_WRITE by `src` of a size and a value at a physical address of the device MMIO range. -/
def execRegisterWrite (s : State) : Host.Outcome State Fault Refusal :=
  let a := arg s 1
  if inMmio a then .next (orWait s (mmioWrite s (arg s 0) (a - mmioBase) (arg s 2) (arg s 3))) else .fault (.unbacked a)

end Sys2Proof.Machine
end

