-- ==== Sys2Proof/Machine/Ports.lean ====
section
/-! DEFINITION. What comes back to a core, and what the host ports and the pod do: returning values, host reads and writes, snoops,
links, far operations (spec/03, R79 to R87; spec/17, R402, R403, R410). -/

namespace Sys2Proof.Machine

open Sys2Proof.Machine.State

/-! ### LOAD_RETURN (R79, R80, R81) -/

/-- R28: the access's frame is still PRIVATE to its core, which has not been told otherwise. -/
def stillPrivate (s : State) (a : Acc) : Bool :=
  a.priv && decide (tget .untouched s.dir (frameOf a.pa) = .privateTo a.core) &&
    !(s.recalls.any fun r => decide (r.frame = frameOf a.pa) && r.told)

/-- The sector goes into the L1 where it still may (R70, R79, R144). -/
def installFill (s : State) (a : Acc) (v : Nat) : State :=
  if !a.fill || (a.priv && !(stillPrivate s a)) then s
  else match pathOf s a with
    | some p => l1Install s a.core (accPa s a) p (if a.got = 0 then BitVec.allOnes 32 else a.got) v
    | none => s

/-- The values of a load's lanes from its sector. -/
def partValues (a : Acc) (v : Nat) : List (Nat × Nat) := a.parts.map fun p => (p.1, sectorBytes v (p.2 % 32) a.n)

/-- The access delivers its lanes' values, and is done. -/
def deliver (s : State) (a : Acc) (xs : List (Nat × Nat)) : State :=
  match findOp (wv s a.wave) a.op with
  | none => dropAcc s a
  | some o => addResult (dropAcc s a) a.wave a.op a.lanes (loadWrites o a.n .untyped xs)

/-- R79: a load's sector reaches its core. -/
def loadBack (s : State) (a : Acc) (v : Nat) : State :=
  let s := if a.acq then selfInvalidate s a.core else s
  let a := { a with fill := a.fill && !a.acq }
  deliver (installFill s a v) a (partValues a v)

/-- R81: what an atomic on a PRIVATE frame waited for has come: it is performed in the L1, or, the frame being PRIVATE no longer,
classified anew. -/
def privAtomicBack (s : State) (a : Acc) (v : Nat) : State :=
  let s := installFill s a v
  let b := { a with got := 0, fill := false }
  if stillPrivate s a then
    let b := { b with stage := .ready }
    route (putAcc s b) b
  else putAcc s { b with stage := .dir, priv := false }

/-- A value that came back for access `a`: its sector, or an atomic's old value. -/
def valueBack (s : State) (a : Acc) (v : Nat) : State :=
  match a.act with
  | .load => loadBack s a v
  | .atom .. =>
    if a.priv && decide (a.got ≠ 0) then privAtomicBack s a v
    else
      let s := if a.acq then selfInvalidate s a.core else s
      deliver s a (a.parts.map fun p => (p.1, v % 2 ^ (8 * a.n)))
  | .red .. => if a.priv && decide (a.got ≠ 0) then privAtomicBack s a v else completeAcc s a
  | .barWait _ => completeAcc (modWv (selfInvalidate s a.core) a.wave fun w => wake w a.lanes) a
  | _ => completeAcc s a

/-- R19: the value that lane `l` of a store writes: of an MMIO register each lane writes its own, so that the bytes which the lanes of
one sector leave, in `d`, do not do. -/
def laneStores (s : State) (a : Acc) (d : Nat) (p : Nat × Nat) : Nat :=
  match findOp (wv s a.wave) a.op with
  | none => sectorBytes d (p.2 % 32) a.n
  | some o => match o.instr with
    | .st .. => opVal (specOf o.instr) o.words 0 p.1
    | .sst .. => opVal (specOf o.instr) o.words 0 0
    | _ => sectorBytes d (p.2 % 32) a.n

/-- R19, R425: an MMIO access is performed, lane by lane, as a program's. -/
def mmioPerform (s : State) (a : Acc) : State :=
  let off := fun p : Nat × Nat => a.pa - a.pa % 32 + p.2 % 32 - mmioBase
  match a.act with
  | .store d => completeAcc (a.parts.foldl (fun s (p : Nat × Nat) => mmioWrite s 2 (off p) a.n (laneStores s a d p)) s) a
  | _ =>
    let s := if a.acq then selfInvalidate s a.core else s
    deliver s a (a.parts.map fun p => (p.1, mmioRead s 2 (off p) a.n))

/-- R69: the access's value may return now. -/
def valueDue (s : State) (a : Acc) : Bool :=
  let at_ := ((findOp (wv s a.wave) a.op).map (·.issuedAt)).getD 0
  decide (a.lat = 0) || decide (at_ + a.lat ≤ cycAt s a.core)

/-- R145: a load of a TWIN page is delivered once every earlier load of its wave on such a page has read its side: the earlier one cannot
then see a side newer than the later. -/
def sideTurn (s : State) (a : Acc) : Bool :=
  let load := fun y : Acc => match y.act with | .load => true | _ => false
  let unread := fun y : Acc => match y.stage with | .trans | .walk => true | .ret | .failed => false | _ => decide (y.kind = .twin)
  !(load a && decide (a.kind = .twin) && (earlierAccs s a).any fun y => load y && unread y)

/-- R69, R88, R145: the value that the home sent is due, the first of its channel, and in its turn. -/
def returns (s : State) (a : Acc) : Bool := valueDue s a && dataTurn s a.id && sideTurn s a

/-- R79: LOAD_RETURN on `acc ext code class`: a value that the home sent, or one from a peer, which is `ext`, or the code of a fault
found there (R17, R34). -/
def execLoadReturn (s : State) : Host.Outcome State Fault Refusal :=
  .next (match findAcc s (arg s 0) with
    | none => s
    | some a =>
      match a.act, a.stage with
      | .imago .., _ => s
      | _, .ret => if returns s a then reroute (valueBack (dataCome s a.id) a a.val) a.core else s
      | _, .home =>
        if a.kind = .mmio then orWait s (reroute (mmioPerform s a) a.core)
        else
          let d := destOf s (accPa s a)
          if d < 2048 ∨ 8192 ≤ d ∨ accReturns a = false then s
          else if arg s 2 ≠ 0 then reroute (failFar (forgetFar s a.id) a (arg s 2) (arg s 3)) a.core
          else reroute (valueBack (forgetFar s a.id) a (arg s 1)) a.core
      | _, _ => s)

/-! ### Accesses of hosts and other devices (R82, R84, R117) -/

/-- The bytes are device memory. -/
def inMemory (pa n : Nat) : Bool := decide (0 < n) && decide (pa + n ≤ gddrEnd)

/-- R26, R27: the frames of an access by a host or another device are SHARED; it must wait where one is PRIVATE. -/
def shareFrames (s : State) (pa n : Nat) : State :=
  ((List.range (frameOf (pa + n - 1) - frameOf pa + 1)).map fun k => frameOf pa + k).foldl (fun s f => classify s f none) s

/-- R84: a host's access to device memory: its frames, and at the home of each line the bytes that cores own, fetched or, with `take`,
revoked; a read asks the memory side for a line that the slice does not hold. -/
def portAccess (s : State) (pa n : Nat) (take fill : Bool) : State :=
  (linesOf pa n).foldl (fun s line =>
    let s := settleLine s line (maskIn line pa n) take
    if fill then lineFill s line (maskIn line pa n) 0xFFFF else s) (shareFrames s pa n)

/-- R84: a host's write performed at its homes. -/
def portWrite (s : State) (pa n v : Nat) : State := putBytes (n / 128 + 2) pa n v (portAccess s pa n true false)

/-- R84: the host keeps the lines it has read: `h` 1 shared, 2 exclusively. -/
def hostKeeps (s : State) (pa n h : Nat) : State :=
  if h = 0 then s
  else (linesOf pa n).foldl (fun s l => { s with hostHeld := (l, decide (h = 1)) :: s.hostHeld.filter fun x => x.1 ≠ l }) s

/-- R84, R399: a host's read served at the home; a poisoned sector makes the data poisoned. A line that the host takes for itself alone
is owned by no core afterwards (log 142). -/
def portRead (s : State) (p pa n h : Nat) : State :=
  let s := portAccess s pa n (decide (h = 2)) true
  out (hostKeeps s pa n h) (.hostData p (homeRead s pa n) (poisonIn s pa n))

/-- A write of a host. -/
def hostWrites (e : Arrival) : Bool := decide (e.src < 2) && decide (0x60 ≤ e.op) && decide (e.op < 0x63)

/-- R404: a host's write that reaches `HSEMCMD`. -/
def writesHsemCmd (e : Arrival) : Bool :=
  let o := e.pa - mmioBase
  hostWrites e && decide (o < 8) && decide (4 < o + e.n)

/-- R84, R403: an arrived access of a host, to the registers or to memory; the Cmp of a MemWr goes back once it has been performed.
An access to the registers other than a command to `HSEM` is performed behind the commands that reached `HSEM` in its cycle (log 160);
one to memory must wait behind requests at its lines. -/
def hostPerform (s : State) (e : Arrival) : State :=
  if inMmio e.pa then
    if !s.mgmt.hsemArr.isEmpty && !writesHsemCmd e then mustWait s
    else if e.op = 0x63 then out s (.hostData e.src (mmioRead s e.src (e.pa - mmioBase) e.n) false)
    else mmioWrite s e.src (e.pa - mmioBase) e.n e.data
  else if lineBusy s e.pa e.n then mustWait s
  else if e.op = 0x63 then portRead s e.src e.pa e.n e.cmp
  else
    let s := portWrite s e.pa e.n e.data
    if e.op = 0x62 then out s (.cmp e.src) else s

/-- R19: an atomic or reduction of a peer on memory of this device; the old value, or a fault. -/
def farAtomic (s : State) (dev pa n code d e : Nat) : State :=
  if poisonIn s pa n then out s (.farReply dev 0 1 0)
  else
    let old := homeRead s pa n
    out (putBytes 2 pa n (atomNew code n old d e) s) (.farReply dev old 0 0)

/-- R131: a barrier operation of a peer. -/
def farBarrier (s : State) (dev pa : Nat) (act : Act) : State :=
  let (b, f) := barApply act (homeRead s pa 16)
  out (putBytes 2 pa 16 b s) (.farReply dev 0 (f.getD 0) 0)

/-- A wait of a peer's thread recorded at this home: `kind` 0 on a barrier object's phase `arg`, 2 on an imago cell. -/
def farWaiter (s : State) (dev pa p kind : Nat) : State :=
  let (id, s) := fresh s
  { s with waiters := s.waiters ++
      [{ id := id, wave := 0, op := dev, lanes := 0, space := 1, home := 0, addr := pa, arg := p, dst := kind, deadline := 0, woken := false }] }

/-- R153: an imago operation of a peer. -/
def farImago (s : State) (dev pa op g v : Nat) : State :=
  match imagoHome s pa op g v with
  | (s, some (st, c, x)) => out s (.farReply dev x st c)
  | (s, none) => farWaiter s dev pa 0 2

/-- R108: a store of a peer to one sector: the bytes `d` under the mask `m`. -/
def farStore (s : State) (pa d m : Nat) : State :=
  homePut s (lineOf pa) (lineMask pa (BitVec.ofNat 32 m)) (lineSector pa d)

/-- R82, R87: operation `op` of device `dev` on `n` bytes at `pa`, numbered as `Out.peer` numbers what this device sends. An imago
cell's frame takes no classification (R25). What does not lie in usable memory is answered with code 0x02 (R17). -/
def farPerform (s : State) (dev pa n op d e : Nat) : State :=
  if n = 0 ∨ gddrUsable < pa + n then out s (.farReply dev 0 2 0)
  else if lineBusy s pa n then mustWait s
  else if 0x30 ≤ op ∧ op < 0x34 then farImago (lineFill (reach s pa 16 true 0xFFFF) (lineOf pa) (maskIn (lineOf pa) pa 16) 0xFFFF) dev pa (op - 0x30) e d
  else
    let s := shareFrames s pa n
    let upd := fun _ : Unit => lineFill (reach s pa n true 0xFFFF) (lineOf pa) (maskIn (lineOf pa) pa n) 0xFFFF
    match op with
    | 0 => let s := reach s pa n false 0xFFFF
           out s (if poisonIn s pa n then .farReply dev 0 1 0 else .farReply dev (homeRead s pa n) 0 0)
    | 1 => out (putBytes (n / 128 + 2) pa n d (reach s pa n true 0xFFFF)) (.farReply dev 0 0 0)
    | 2 => out (farStore (reach s pa n true 0xFFFF) pa d e) (.farReply dev 0 0 0)
    | 0x40 => farBarrier (upd ()) dev pa (.barInit d e)
    | 0x41 => farBarrier (upd ()) dev pa (.barExp d)
    | 0x42 => farBarrier (upd ()) dev pa (.barArr d)
    | 0x43 => let s := upd ()
              if barReturns (homeRead s pa 16) d then out s (.farReply dev 0 0 0) else farWaiter s dev pa d 0
    | _ => if 0x10 ≤ op ∧ op < 0x30 then farAtomic (upd ()) dev pa n (op - 0x10) d e else s

/-! ### Accesses that have arrived -/

/-- An arrived access performed; it must wait where that cannot be yet. -/
def arrivalPerform (s : State) (e : Arrival) : State :=
  if e.src < 2 then hostPerform s e else farPerform s (e.src - 2) e.pa e.n e.op e.data e.cmp

/-- R82, R84, R117: an arrived access waits behind an earlier one, still to be performed, that touches one of its lines, and a write of a
host that is not relaxed behind every earlier write of its port. -/
def behind (e k : Arrival) : Bool :=
  (decide (lineOf k.pa ≤ lineOf (e.pa + e.n - 1)) && decide (lineOf e.pa ≤ lineOf (k.pa + k.n - 1))) ||
    (hostWrites e && hostWrites k && decide (e.src = k.src) && decide (e.op ≠ 0x61))

/-- The arrived accesses performed in turn, but for those that must wait. -/
def arrivalsFrom (kept : List Arrival) : List Arrival → State → State
  | [], s => { s with arrivals := kept }
  | e :: r, s =>
    if kept.any (behind e) then arrivalsFrom (kept ++ [e]) r s else
    let t := arrivalPerform s e
    arrivalsFrom (if t.blocked.isNone then kept else kept ++ [e]) r (orWait s t)

/-- What has arrived is performed as far as it can be. -/
def arrivalsRun (s : State) : State := arrivalsFrom [] s.arrivals s

/-- An access arrives, and is performed if nothing makes it wait. -/
def hostArrive (s : State) (e : Arrival) : State := arrivalsRun { s with arrivals := s.arrivals ++ [e] }

/-- R84: HOST_POSTED_WRITE on `port address size value relaxed`; with nothing named, what has arrived goes on. -/
def execHostPostedWrite (s : State) : Host.Outcome State Fault Refusal :=
  if s.args.isEmpty then .next (arrivalsRun s)
  else if !(inMmio (arg s 1)) && !(inMemory (arg s 1) (arg s 2)) then .fault (.unbacked (arg s 1))
  else .next (hostArrive s
    { src := arg s 0 % 2, op := if arg s 4 = 0 then 0x60 else 0x61, pa := arg s 1, n := arg s 2, data := arg s 3, cmp := 0 })

/-- R84: HOST_MEMWR on `port address size value`. -/
def execHostMemwr (s : State) : Host.Outcome State Fault Refusal :=
  if s.args.isEmpty then .next (arrivalsRun s)
  else if !(inMemory (arg s 1) (arg s 2)) then .fault (.unbacked (arg s 1))
  else .next (hostArrive s { src := arg s 0 % 2, op := 0x62, pa := arg s 1, n := arg s 2, data := arg s 3, cmp := 0 })

/-- R84: HOST_READ on `port address size keep`, of memory or registers. -/
def execHostRead (s : State) : Host.Outcome State Fault Refusal :=
  if s.args.isEmpty then .next (arrivalsRun s)
  else if !(inMmio (arg s 1)) && !(inMemory (arg s 1) (arg s 2)) then .fault (.unbacked (arg s 1))
  else .next (hostArrive s { src := arg s 0 % 2, op := 0x63, pa := arg s 1, n := arg s 2, data := 0, cmp := arg s 3 })

/-- R82: FAR_OPERATION on `dev addr size op data cmp`; what a collective of another device sends is its own event's. -/
def execFarOperation (s : State) : Host.Outcome State Fault Refusal :=
  .next (if s.args.isEmpty then arrivalsRun s else if arg s 3 = 0x50 then s
    else hostArrive s { src := 2 + arg s 0, op := arg s 3, pa := arg s 1, n := arg s 2, data := arg s 4, cmp := arg s 5 })

/-- The event that performs what has arrived, where some of it can go on. -/
def readyArrivals (s : State) : List (Instr × List Nat) :=
  match s.arrivals with
  | [] => []
  | e :: _ =>
    let t := arrivalsRun s
    if t.arrivals.length < s.arrivals.length ∨ s.recalls.length < t.recalls.length then
      [(if 2 ≤ e.src then .farOperation else match e.op with | 0x62 => .hostMemwr | 0x63 => .hostRead | _ => .hostPostedWrite, [])]
    else []

/-! ### Snoops both ways (R84, R86) -/

/-- The request parked at `line` that waits for the host's answer to a back-invalidate snoop. -/
def snoopedBy (s : State) (line : Nat) : Option Parked :=
  (firstParked s line).filter fun p => decide (p.need = .bisnp)

/-- R84: BISNP_RESPONSE: a changed line is written at its home; the host gives the line up, or keeps it shared where the waiting
access reads; the access goes on. -/
def execBisnpResponse (s : State) : Host.Outcome State Fault Refusal :=
  let line := arg s 0
  .next (match snoopedBy s line with
    | none => s
    | some p =>
      let reads := match p.msg.body with
        | .load _ => true
        | .imago id => !((findAcc s id).any accWrites)
        | _ => false
      let s := if arg s 1 = 0 then s else homePut s line (BitVec.allOnes 128) (BitVec.ofNat 1024 (arg s 2))
      let rest := s.hostHeld.filter fun x => x.1 ≠ line
      { s with
        hostHeld := if reads then (line, true) :: rest else rest
        parked := s.parked.map fun x => if x = p then { x with need := .turn } else x })

/-- The line is a HOST line of port `p`. -/
def portLine (p line : Nat) : Bool :=
  decide (hostBase ≤ 128 * line) && decide (128 * line < 0x200000000000) && decide (hostPort (128 * line) = p)

/-- A snoop of port `p` may be answered: nothing but a request to that host stands at the line. -/
def snoopFree (s : State) (p line : Nat) : Bool :=
  portLine p line && (match firstParked s line with
    | none => true
    | some x => match x.need with | .d2h _ => true | _ => false)

/-- R86: owned words are recalled or merged, and the line's data goes to the host. -/
def snoopReply (s : State) (p line : Nat) : State :=
  let s := settleLine s line (BitVec.allOnes 128) true
  out s (.snpReply p line (homeRead s (128 * line) 128))

/-- R86: SNPDATA: the home's copy becomes a clean shared one. -/
def execSnpdata (s : State) : Host.Outcome State Fault Refusal :=
  let line := arg s 1
  .next (if !(snoopFree s (arg s 0) line) then s else
    let s := snoopReply s (arg s 0) line
    { s with
      hostOwn := s.hostOwn.filter fun x => x ≠ line
      l2 := tmod noL2 s.l2 line fun t => { t with dirty := 0 } })

/-- R86: SNPINV: the home's copy is dropped. -/
def execSnpinv (s : State) : Host.Outcome State Fault Refusal :=
  let line := arg s 1
  .next (if !(snoopFree s (arg s 0) line) then s else
    let s := snoopReply s (arg s 0) line
    { s with hostOwn := s.hostOwn.filter fun x => x ≠ line, l2 := tset noL2 s.l2 line noL2 })

/-- R86: SNPCUR: the current data; the home keeps its copy, which holds the recalled bytes. -/
def execSnpcur (s : State) : Host.Outcome State Fault Refusal :=
  let line := arg s 1
  .next (if !(snoopFree s (arg s 0) line) then s else
    let s := snoopReply s (arg s 0) line
    if s.hostOwn.contains line then { s with l2 := tmod noL2 s.l2 line fun t => { t with dirty := t.valid } } else s)

/-! ### The host's answers (R86) -/

/-- The request parked for D2H request `req`. -/
def d2hParked (s : State) (req : Nat) : Option Parked := s.parked.find? fun p => decide (p.need = .d2h req)

/-- R86: the data of RdCurr goes to the waiting load alone; a shared or an owned line is installed at its home. -/
def d2hAnswer (s : State) (req line kind v : Nat) : State :=
  let s := { s with d2hWait := s.d2hWait.filter fun x => x.1 ≠ req }
  match d2hParked s req with
  | none => s
  | some p =>
    if kind = 0 then
      let s := unpark s line p.msg.id
      (match p.msg.body with
      | .load id => (match findAcc s id with
        | some a =>
          let x := sectorOf (accPa s a) (ownNewest s a.core line (BitVec.ofNat 1024 v))
          sendData (putAcc s { a with stage := .ret, val := x, got := a.mask }) a
        | none => s)
      | _ => s)
    else
      let s := homeLine (l2Room s line) line (BitVec.allOnes 128) (BitVec.ofNat 1024 v)
      { s with
        hostOwn := if kind = 2 then line :: s.hostOwn.filter (fun x => x ≠ line) else s.hostOwn
        l2 := tmod noL2 s.l2 line fun t => { t with valid := 15 }
        parked := s.parked.map fun x => if x = p then { x with need := .turn } else x }

/-- The message that carries the write of access `id` over PCIe. -/
def pcieMessage (s : State) (id : Nat) : Option Msg :=
  s.net.find? fun m => decide (8192 ≤ m.dest) && (match m.body with | .daf e => decide (dafAcc e = some id) | _ => false)

/-- R86: the completion of an access over PCIe: data for a load, or the acknowledgement of a write. -/
def pcieAnswer (s : State) (a : Acc) (v : Nat) : State :=
  if destOf s a.pa < 8192 then s
  else match a.act, a.stage with
    | .load, .home => putAcc (forgetFar s a.id)
        { a with stage := .ret, val := v % 2 ^ 256, got := a.mask }
    | _, _ => match pcieMessage s a.id with
      | some m => ackMessage s m.core m.id 0 0
      | none => s

/-- R83, R86: the completion of an engine's write over PCIe, which goes under the name of its message. -/
def pcieEngine (s : State) (req : Nat) : State :=
  match s.net.find? fun m => decide (m.id = req) && decide (8192 ≤ m.dest) with
  | some m => ackMessage s m.core m.id 0 0
  | none => s

/-- R86: HOST_RESPONSE. -/
def execHostResponse (s : State) : Host.Outcome State Fault Refusal :=
  let req := arg s 0
  .next (match s.d2hWait.find? fun x => x.1 = req with
    | some (_, line, kind) => d2hAnswer s req line kind (arg s 1)
    | none => match findAcc s req with
      | some a => pcieAnswer s a (arg s 1)
      | none => pcieEngine s req)

/-! ### Links (R402, R410) -/

/-- An entry that goes to an address of `gone`. -/
def entryGone (s : State) (gone : Nat → Bool) (e : DafEntry) : Bool :=
  match e.kind with
  | .reg l _ | .wb l _ _ _ | .reply l _ _ _ => gone (128 * l)
  | .eng _ ps _ => ps.any fun x => gone (engPa s x)
  | .wt a | .atm a | .rel a => (findAcc s a).any fun a => a.stage ≠ .failed && !(untranslated a) && gone (accPa s a)

/-- What can no longer reach its address faults with code 0x0A (R402, R410): accesses, and the writes of engines, leave the FIFO and the
network. -/
def cutOff (s : State) (gone : Nat → Bool) : State :=
  let away := fun a : Acc => gone (accPa s a) && decide (a.kind ≠ .mmio) &&
    (match a.stage with | .dir | .ready | .queued | .home | .parked => true | _ => false)
  let xs := s.accs.filter away
  let ids := xs.map fun a => a.id
  let hit := entryGone s gone
  let engs := s.cores.flatMap fun (e : Nat × Core) =>
    ((e.2.daf ++ e.2.unacked.map Prod.snd).filter hit).map fun x => (e.1, x)
  let toks := s.cores.flatMap fun (e : Nat × Core) => (e.2.unacked.filter fun u => hit u.2).map Prod.fst
  let lost := fun m : Msg => match m.body with
    | .daf e => hit e
    | .load i | .imago i | .data i => ids.contains i
    | .revoke l _ | .fetch l _ | .merge l => gone (128 * l)
    | .ack _ | .reclass _ => false
  let s := { s with
    net := s.net.filter fun m => !(lost m) && !(toks.contains m.id)
    parked := s.parked.filter fun p => !(lost p.msg)
    cores := tall resetCore s.cores fun c => { c with
      daf := c.daf.filter fun e => !(hit e), unacked := c.unacked.filter fun u => !(hit u.2)
      relOut := match c.relOut with | some t => if toks.contains t then none else some t | none => none } }
  let s := engs.foldl (fun s (c, e) => match e.kind with
    | .eng tag ps add => failEng s c tag ps add 0x0A
    | _ => s) s
  let s := xs.foldl (fun s a => failFar s a 0x0A 10) s
  ((xs.map fun a => a.core).eraseDups).foldl reroute s

/-- R402: HOST_LINK_DOWN: CXL.cache is no longer negotiated, and accesses through the window fault; what the homes held of the host's
lines is gone. -/
def execHostLinkDown (s : State) : Host.Outcome State Fault Refusal :=
  let p := arg s 0
  .next (if 2 ≤ p then s else
    let s := cutOff s fun pa => portLine p (lineOf pa)
    let s := modPrt s p fun x => { x with up := false, cxlCache := false }
    let mine := portLine p
    { s with
      hostOwn := s.hostOwn.filter fun l => !(mine l)
      l2 := s.l2.filter fun (e : Nat × L2Tag) => !(mine e.1)
      registry := s.registry.filter fun e => !(mine e.line)
      d2hWait := s.d2hWait.filter fun x => !(mine x.2.1)
      parked := s.parked.filter fun x => !(mine x.line)
      cores := tall resetCore s.cores fun c => { c with l1 := c.l1.filter fun x => !(mine x.line) } })

/-- R402: HOST_LINK_UP: trained with CXL.io and CXL.mem only. -/
def execHostLinkUp (s : State) : Host.Outcome State Fault Refusal :=
  .next (modPrt s (arg s 0) fun x => { x with up := true, cxlCache := false })

/-- R402: CXL_CACHE_NEGOTIATED. -/
def execCxlCacheNegotiated (s : State) : Host.Outcome State Fault Refusal :=
  .next (modPrt s (arg s 0) fun x => { x with up := true, cxlCache := true })

/-- R410: FABRIC_PORT_FAIL: the port leaves every mask; accesses that have no port left fault. -/
def execFabricPortFail (s : State) : Host.Outcome State Fault Refusal :=
  .next (if 16 ≤ arg s 0 then s else
    let s := modMgmt s fun m => { m with fabricUp := m.fabricUp &&& ~~~(1#16 <<< arg s 0) }
    cutOff s fun pa => isFar pa && noRoute s (farDev pa))

/-- Arrived accesses that can be performed, values that stand ready to return to their cores, and MMIO accesses. -/
def readyPorts (s : State) : List (Instr × List Nat) :=
  readyArrivals s ++ s.accs.filterMap fun a =>
    match a.act, a.stage with
    | .imago .., _ => none
    | _, .ret => if returns s a then some (.loadReturn, [a.id]) else none
    | _, .home => if a.kind = .mmio then some (.loadReturn, [a.id]) else none
    | _, _ => none

end Sys2Proof.Machine
end

