-- ==== Sys2Proof/Machine/Replay.lean ====
section
/-! DEFINITION. The return from a handler (spec/13, R320; spec/16, R390). -/

namespace Sys2Proof.Machine

open Sys2Proof.Machine.State

/-- R390: operation `id`, opened anew for lanes `m`, performs its instruction with the words of its entry. -/
def startReplay (i : Instr) (s : State) (w id : Nat) (m : Lanes) : State :=
  match i with
  | .fence .. => startFence s w id
  | .pub .. => startPub s false w id
  | .msflushRange .. => startFlushRange s w id
  | .pgload h _ => startPgload s w h.a.toNat id
  | .nfmt .. => s
  | .attr .. => addResultIn 22 s w id m noWrites
  | .rast .. => resumeRast s w id m
  | .hitbin .. => execHitbin.startHits s w id m
  | .rflush .. => execRflush.startRflush s w id
  | .hvpost .. => startPost s w id m
  | .coll .. => startColl s w id
  | .launchDev .. => startLaunch s w id
  | .ldq .. | .stq .. | .lda .. | .sta .. => startBank s w id m
  | _ => startBar s false w id m

/-- R390: an entry of KIND 0 or 1: its destinations are empty again, and its flag is counted still. -/
def replayNew (s : State) (w : Nat) (e : Entry) : State :=
  match decodeWords e.head e.ext with
  | .error _ => s
  | .ok i =>
    let sp := specOf i
    if e.lanes = 0 then modWv s w fun v => flagDown v sp.flag else
    let (id, s) := fresh s
    let o : Opr := { id := id, instr := i, pc := 0, lanes := e.lanes, todo := e.lanes, window := sp.win, flag := sp.flag, flanes := 0,
                     status := 0, cls := 0, faddr := 0, kind := entryKind i sp, slot := 0, words := e.words, left := 0, skid := 0,
                     issuedAt := cycAt s (wv s w).core }
    startReplay i (modWv s w fun v => { emptyDsts v sp e.lanes with ops := v.ops ++ [o] }) w id e.lanes

/-- R390: the held work of a `kick` or a matrix instruction whose LANES the handler cleared is not performed: records that stopped, and
those behind one that failed its checks, end; a matrix instruction leaves its tile as it is. -/
def dropHeld (s : State) (w id : Nat) : State :=
  let v := wv s w
  match findOp v id with
  | none => s
  | some o =>
    match o.instr with
    | .kick .. =>
      let ended := fun c : Copy => decide (c.wave = w) && decide (c.op = id) &&
        ((decide (1 ≤ c.hold) && decide (c.hold ≤ 3)) || (!c.fetched && kickStopped s c))
      completeOp (((cr s v.core).scarab.filter ended).foldl copyEnd s) w id o.todo 0
    | _ => modWv s w fun v => complete { v with heldMats := v.heldMats.filter fun x => x.op ≠ id } id o.todo o.left

/-- R390, R141, R350, R374: an entry of KIND 2: operation `id` resumes with the words of the entry. -/
def replayHeld (s : State) (w id : Nat) (e : Entry) : State :=
  match findOp (wv s w) id with
  | none => s
  | some o =>
    let same := decide (o.words = e.words)
    match o.instr with
    | .travs .. | .travr .. => resumeWalks s w id e.lanes e.words
    | _ => if e.lanes = 0 then dropHeld s w id else
    match o.instr with
    | .kick .. => resumeKick (modWv s w fun v => modOp v id fun o => { o with words := e.words }) w id
    | _ => resumeMat (modWv s w fun v => modOp v id fun o => { o with words := e.words }) w id same

/-- R390: one entry performed. -/
def replayEntry (s : State) (w id : Nat) (e : Entry) : State := if id = 0 then replayNew s w e else replayHeld s w id e

/-- R320, R390: `rfe`, illegal where the wave runs no handler; what it performs again waits for an acquire (R94). -/
def execRfe (h : Head) (s : State) : Host.Outcome State Fault Refusal :=
  let i := Instr.rfe h
  let sp := specOf i
  let v := wv s s.cur.wave
  runOp i sp (!(inh v)) false (acquireOut v) (fun _ s => orStall s (returnTrap (advance sp s) s.cur.wave replayEntry)) s

end Sys2Proof.Machine
end

