-- ==== Sys2Proof/Machine/UniInt.lean ====
section
/-! DEFINITION. Scalar arithmetic of the uniform set (spec/13, R307 to R311). -/

namespace Sys2Proof.Machine

open Sys2Proof.Machine.State

/-- R308: `sadd`, as `vadd`. -/
def execSadd (h : Head) (g : GExt) (s : State) : Host.Outcome State Fault Refusal :=
  uniAlu (.sadd h g) (fun _ xs => intOp g (· + ·) (xs.getD 0 0) (xs.getD 1 0)) s

/-- R222: the short form of `sadd`. -/
def execSaddShort (h : Head) (s : State) : Host.Outcome State Fault Refusal :=
  uniAlu (.saddShort h) (fun _ xs => intOp (shortG h.b) (· + ·) (xs.getD 0 0) (xs.getD 1 0)) s

/-- R308: `ssub`, as `vsub`. -/
def execSsub (h : Head) (g : GExt) (s : State) : Host.Outcome State Fault Refusal :=
  uniAlu (.ssub h g) (fun _ xs => intOp g (· - ·) (xs.getD 0 0) (xs.getD 1 0)) s

/-- R222: the short form of `ssub`. -/
def execSsubShort (h : Head) (s : State) : Host.Outcome State Fault Refusal :=
  uniAlu (.ssubShort h) (fun _ xs => intOp (shortG h.b) (· - ·) (xs.getD 0 0) (xs.getD 1 0)) s

/-- R308: `smul`, as `vmul`. -/
def execSmul (h : Head) (g : GExt) (s : State) : Host.Outcome State Fault Refusal :=
  uniAlu (.smul h g) (fun _ xs => intOp g (· * ·) (xs.getD 0 0) (xs.getD 1 0)) s

/-- R222: the short form of `smul`. -/
def execSmulShort (h : Head) (s : State) : Host.Outcome State Fault Refusal :=
  uniAlu (.smulShort h) (fun _ xs => intOp (shortG h.b) (· * ·) (xs.getD 0 0) (xs.getD 1 0)) s

/-- R308: `smulh`, as `vmulh`. -/
def execSmulh (h : Head) (g : GExt) (s : State) : Host.Outcome State Fault Refusal :=
  uniAlu (.smulh h g) (fun _ xs => mulhOp g (xs.getD 0 0) (xs.getD 1 0)) s

/-- R222: the short form of `smulh`. -/
def execSmulhShort (h : Head) (s : State) : Host.Outcome State Fault Refusal :=
  uniAlu (.smulhShort h) (fun _ xs => mulhOp (shortG h.b) (xs.getD 0 0) (xs.getD 1 0)) s

/-- R308: `smin`, as `vmin`. -/
def execSmin (h : Head) (g : GExt) (s : State) : Host.Outcome State Fault Refusal :=
  uniAlu (.smin h g) (fun _ xs => minOp g (xs.getD 0 0) (xs.getD 1 0)) s

/-- R222: the short form of `smin`. -/
def execSminShort (h : Head) (s : State) : Host.Outcome State Fault Refusal :=
  uniAlu (.sminShort h) (fun _ xs => minOp (shortG h.b) (xs.getD 0 0) (xs.getD 1 0)) s

/-- R308: `smax`, as `vmax`. -/
def execSmax (h : Head) (g : GExt) (s : State) : Host.Outcome State Fault Refusal :=
  uniAlu (.smax h g) (fun _ xs => maxOp g (xs.getD 0 0) (xs.getD 1 0)) s

/-- R222: the short form of `smax`. -/
def execSmaxShort (h : Head) (s : State) : Host.Outcome State Fault Refusal :=
  uniAlu (.smaxShort h) (fun _ xs => maxOp (shortG h.b) (xs.getD 0 0) (xs.getD 1 0)) s

/-- R308: `sand`, as `vand`. -/
def execSand (h : Head) (g : GExt) (s : State) : Host.Outcome State Fault Refusal :=
  uniAlu (.sand h g) (fun _ xs => bitOp g (· &&& ·) (xs.getD 0 0) (xs.getD 1 0)) s

/-- R222: the short form of `sand`. -/
def execSandShort (h : Head) (s : State) : Host.Outcome State Fault Refusal :=
  uniAlu (.sandShort h) (fun _ xs => bitOp (shortG h.b) (· &&& ·) (xs.getD 0 0) (xs.getD 1 0)) s

/-- R308: `sor`, as `vor`. -/
def execSor (h : Head) (g : GExt) (s : State) : Host.Outcome State Fault Refusal :=
  uniAlu (.sor h g) (fun _ xs => bitOp g (· ||| ·) (xs.getD 0 0) (xs.getD 1 0)) s

/-- R222: the short form of `sor`. -/
def execSorShort (h : Head) (s : State) : Host.Outcome State Fault Refusal :=
  uniAlu (.sorShort h) (fun _ xs => bitOp (shortG h.b) (· ||| ·) (xs.getD 0 0) (xs.getD 1 0)) s

/-- R308: `sxor`, as `vxor`. -/
def execSxor (h : Head) (g : GExt) (s : State) : Host.Outcome State Fault Refusal :=
  uniAlu (.sxor h g) (fun _ xs => bitOp g (· ^^^ ·) (xs.getD 0 0) (xs.getD 1 0)) s

/-- R222: the short form of `sxor`. -/
def execSxorShort (h : Head) (s : State) : Host.Outcome State Fault Refusal :=
  uniAlu (.sxorShort h) (fun _ xs => bitOp (shortG h.b) (· ^^^ ·) (xs.getD 0 0) (xs.getD 1 0)) s

/-- R308: `sshl`, as `vshl`. -/
def execSshl (h : Head) (g : GExt) (s : State) : Host.Outcome State Fault Refusal :=
  uniAlu (.sshl h g) (fun _ xs => shlOp g (xs.getD 0 0) (xs.getD 1 0)) s

/-- R222: the short form of `sshl`. -/
def execSshlShort (h : Head) (s : State) : Host.Outcome State Fault Refusal :=
  uniAlu (.sshlShort h) (fun _ xs => shlOp (shortG h.b) (xs.getD 0 0) (xs.getD 1 0)) s

/-- R308: `sshr`, as `vshr`. -/
def execSshr (h : Head) (g : GExt) (s : State) : Host.Outcome State Fault Refusal :=
  uniAlu (.sshr h g) (fun _ xs => shrOp g (xs.getD 0 0) (xs.getD 1 0)) s

/-- R222: the short form of `sshr`. -/
def execSshrShort (h : Head) (s : State) : Host.Outcome State Fault Refusal :=
  uniAlu (.sshrShort h) (fun _ xs => shrOp (shortG h.b) (xs.getD 0 0) (xs.getD 1 0)) s

/-- R308: `ssar`, as `vsar`. -/
def execSsar (h : Head) (g : GExt) (s : State) : Host.Outcome State Fault Refusal :=
  uniAlu (.ssar h g) (fun _ xs => sarOp g (xs.getD 0 0) (xs.getD 1 0)) s

/-- R222: the short form of `ssar`. -/
def execSsarShort (h : Head) (s : State) : Host.Outcome State Fault Refusal :=
  uniAlu (.ssarShort h) (fun _ xs => sarOp (shortG h.b) (xs.getD 0 0) (xs.getD 1 0)) s

/-- R308: `sclz`, as `vclz`. -/
def execSclz (h : Head) (g : GExt) (s : State) : Host.Outcome State Fault Refusal :=
  uniAlu (.sclz h g) (fun _ xs => clzOp (xs.getD 0 0)) s

/-- R222: the short form of `sclz`. -/
def execSclzShort (h : Head) (s : State) : Host.Outcome State Fault Refusal :=
  uniAlu (.sclzShort h) (fun _ xs => clzOp (xs.getD 0 0)) s

/-- R308: `spopc`, as `vpopc`. -/
def execSpopc (h : Head) (g : GExt) (s : State) : Host.Outcome State Fault Refusal :=
  uniAlu (.spopc h g) (fun _ xs => popcOp (xs.getD 0 0)) s

/-- R222: the short form of `spopc`. -/
def execSpopcShort (h : Head) (s : State) : Host.Outcome State Fault Refusal :=
  uniAlu (.spopcShort h) (fun _ xs => popcOp (xs.getD 0 0)) s

/-- R309: `smov`. -/
def execSmov (h : Head) (g : GExt) (s : State) : Host.Outcome State Fault Refusal :=
  uniAlu (.smov h g) (fun _ xs => xs.getD 0 0) s

/-- R222: the short form of `smov`. -/
def execSmovShort (h : Head) (s : State) : Host.Outcome State Fault Refusal :=
  uniAlu (.smovShort h) (fun _ xs => xs.getD 0 0) s

/-- R309: `ssel`. -/
def execSsel (h : Head) (g : GExt) (s : State) : Host.Outcome State Fault Refusal :=
  uniAlu (.ssel h g) (fun v xs => if upred v g.e.toNat then xs.getD 0 0 else xs.getD 1 0) s

/-- R309: `smovi`, one 32-bit literal. -/
def execSmovi (h : Head) (l : BitVec 32) (s : State) : Host.Outcome State Fault Refusal :=
  uniAlu (.smovi h l) (fun _ _ => l.toNat) s

/-- R308: `sbfe`, as `vbfe`. -/
def execSbfe (h : Head) (g : GExt) (s : State) : Host.Outcome State Fault Refusal :=
  uniAlu (.sbfe h g) (fun _ xs => bfeOp (decide (gT g = 16)) (xs.getD 0 0) (xs.getD 1 0)) s

/-- R310: `scmp`, as `vcmp` with uniform predicates. -/
def execScmp (h : Head) (g : GExt) (s : State) : Host.Outcome State Fault Refusal :=
  uniPred (.scmp h g) h.a.toNat (fun v xs =>
    combine g.e.toNat (cmpOp (gT g) (xs.getD 0 0) (xs.getD 1 0)) (upred v (g.e.toNat % 8))) s

/-- R310: `sqlog`, as `vplog`. -/
def execSqlog (h : Head) (g : GExt) (s : State) : Host.Outcome State Fault Refusal :=
  uniPred (.sqlog h g) h.a.toNat (fun v _ => tableOp (gT g) (upred v h.b.toNat) (upred v g.c.toNat)) s

/-- R308: `slea`, as `vlea`. -/
def execSlea (h : Head) (g : GExt) (s : State) : Host.Outcome State Fault Refusal :=
  uniAlu (.slea h g) (fun _ xs => leaOp (gT g) (xs.getD 0 0) (xs.getD 1 0)) s

/-- R311: `sidx`, an index common to the wave. -/
def execSidx (h : Head) (e : IExt) (s : State) : Host.Outcome State Fault Refusal :=
  uniAlu (.sidx h e) (fun v _ => indexVal (gp s v.group) v 0 e.sub.toNat) s

end Sys2Proof.Machine
end

