-- ==== Sys2Proof/Machine/Dispatch.lean ====
section
/-! DEFINITION. One arm for each constructor of `Instr`, each a call of that instruction's meaning. -/

namespace Sys2Proof.Machine

def exec (i : Instr) (s : State) : Host.Outcome State Fault Refusal :=
  match i with
  | .vmov h g => Sys2Proof.Machine.execVmov h g s
  | .vmovShort h => Sys2Proof.Machine.execVmovShort h s
  | .vmovi h e => Sys2Proof.Machine.execVmovi h e s
  | .vmovh h e => Sys2Proof.Machine.execVmovh h e s
  | .vsel h g => Sys2Proof.Machine.execVsel h g s
  | .vadd h g => Sys2Proof.Machine.execVadd h g s
  | .vaddShort h => Sys2Proof.Machine.execVaddShort h s
  | .vsub h g => Sys2Proof.Machine.execVsub h g s
  | .vsubShort h => Sys2Proof.Machine.execVsubShort h s
  | .vmul h g => Sys2Proof.Machine.execVmul h g s
  | .vmulShort h => Sys2Proof.Machine.execVmulShort h s
  | .vmulh h g => Sys2Proof.Machine.execVmulh h g s
  | .vmulhShort h => Sys2Proof.Machine.execVmulhShort h s
  | .vmad h g => Sys2Proof.Machine.execVmad h g s
  | .vmadw h g => Sys2Proof.Machine.execVmadw h g s
  | .vmin h g => Sys2Proof.Machine.execVmin h g s
  | .vminShort h => Sys2Proof.Machine.execVminShort h s
  | .vmax h g => Sys2Proof.Machine.execVmax h g s
  | .vmaxShort h => Sys2Proof.Machine.execVmaxShort h s
  | .vabsd h g => Sys2Proof.Machine.execVabsd h g s
  | .vabsdShort h => Sys2Proof.Machine.execVabsdShort h s
  | .vaddi h e => Sys2Proof.Machine.execVaddi h e s
  | .vand h g => Sys2Proof.Machine.execVand h g s
  | .vandShort h => Sys2Proof.Machine.execVandShort h s
  | .vor h g => Sys2Proof.Machine.execVor h g s
  | .vorShort h => Sys2Proof.Machine.execVorShort h s
  | .vxor h g => Sys2Proof.Machine.execVxor h g s
  | .vxorShort h => Sys2Proof.Machine.execVxorShort h s
  | .vandn h g => Sys2Proof.Machine.execVandn h g s
  | .vandnShort h => Sys2Proof.Machine.execVandnShort h s
  | .vshl h g => Sys2Proof.Machine.execVshl h g s
  | .vshlShort h => Sys2Proof.Machine.execVshlShort h s
  | .vshr h g => Sys2Proof.Machine.execVshr h g s
  | .vshrShort h => Sys2Proof.Machine.execVshrShort h s
  | .vsar h g => Sys2Proof.Machine.execVsar h g s
  | .vsarShort h => Sys2Proof.Machine.execVsarShort h s
  | .vrot h g => Sys2Proof.Machine.execVrot h g s
  | .vrotShort h => Sys2Proof.Machine.execVrotShort h s
  | .vbfe h g => Sys2Proof.Machine.execVbfe h g s
  | .vbfi h g => Sys2Proof.Machine.execVbfi h g s
  | .vclz h g => Sys2Proof.Machine.execVclz h g s
  | .vclzShort h => Sys2Proof.Machine.execVclzShort h s
  | .vpopc h g => Sys2Proof.Machine.execVpopc h g s
  | .vpopcShort h => Sys2Proof.Machine.execVpopcShort h s
  | .vbrev h g => Sys2Proof.Machine.execVbrev h g s
  | .vbrevShort h => Sys2Proof.Machine.execVbrevShort h s
  | .vperm h g => Sys2Proof.Machine.execVperm h g s
  | .vcmp h g => Sys2Proof.Machine.execVcmp h g s
  | .vcmpi h e => Sys2Proof.Machine.execVcmpi h e s
  | .vplog h g => Sys2Proof.Machine.execVplog h g s
  | .vpmov h g => Sys2Proof.Machine.execVpmov h g s
  | .vlea h g => Sys2Proof.Machine.execVlea h g s
  | .vidx h e => Sys2Proof.Machine.execVidx h e s
  | .vfadd h g => Sys2Proof.Machine.execVfadd h g s
  | .vfaddShort h => Sys2Proof.Machine.execVfaddShort h s
  | .vfsub h g => Sys2Proof.Machine.execVfsub h g s
  | .vfsubShort h => Sys2Proof.Machine.execVfsubShort h s
  | .vfmul h g => Sys2Proof.Machine.execVfmul h g s
  | .vfmulShort h => Sys2Proof.Machine.execVfmulShort h s
  | .vfma h g => Sys2Proof.Machine.execVfma h g s
  | .vfmin h g => Sys2Proof.Machine.execVfmin h g s
  | .vfminShort h => Sys2Proof.Machine.execVfminShort h s
  | .vfmax h g => Sys2Proof.Machine.execVfmax h g s
  | .vfmaxShort h => Sys2Proof.Machine.execVfmaxShort h s
  | .vfcmp h g => Sys2Proof.Machine.execVfcmp h g s
  | .vfclass h g => Sys2Proof.Machine.execVfclass h g s
  | .vfrnd h g => Sys2Proof.Machine.execVfrnd h g s
  | .vfrndShort h => Sys2Proof.Machine.execVfrndShort h s
  | .vfract h g => Sys2Proof.Machine.execVfract h g s
  | .vfractShort h => Sys2Proof.Machine.execVfractShort h s
  | .vrcp h g => Sys2Proof.Machine.execVrcp h g s
  | .vrcpShort h => Sys2Proof.Machine.execVrcpShort h s
  | .vrsq h g => Sys2Proof.Machine.execVrsq h g s
  | .vrsqShort h => Sys2Proof.Machine.execVrsqShort h s
  | .vsqrt h g => Sys2Proof.Machine.execVsqrt h g s
  | .vsqrtShort h => Sys2Proof.Machine.execVsqrtShort h s
  | .vexp2 h g => Sys2Proof.Machine.execVexp2 h g s
  | .vexp2Short h => Sys2Proof.Machine.execVexp2Short h s
  | .vlog2 h g => Sys2Proof.Machine.execVlog2 h g s
  | .vlog2Short h => Sys2Proof.Machine.execVlog2Short h s
  | .vsinp h g => Sys2Proof.Machine.execVsinp h g s
  | .vsinpShort h => Sys2Proof.Machine.execVsinpShort h s
  | .vcosp h g => Sys2Proof.Machine.execVcosp h g s
  | .vcospShort h => Sys2Proof.Machine.execVcospShort h s
  | .vfdiv h g => Sys2Proof.Machine.execVfdiv h g s
  | .vfdivShort h => Sys2Proof.Machine.execVfdivShort h s
  | .vpfma h g => Sys2Proof.Machine.execVpfma h g s
  | .vpfadd h g => Sys2Proof.Machine.execVpfadd h g s
  | .vpfmul h g => Sys2Proof.Machine.execVpfmul h g s
  | .vcvt h g => Sys2Proof.Machine.execVcvt h g s
  | .vscl h g => Sys2Proof.Machine.execVscl h g s
  | .vpack h g => Sys2Proof.Machine.execVpack h g s
  | .vunpk h g => Sys2Proof.Machine.execVunpk h g s
  | .vdot4 h g => Sys2Proof.Machine.execVdot4 h g s
  | .vdot8 h g => Sys2Proof.Machine.execVdot8 h g s
  | .vfdot2 h g => Sys2Proof.Machine.execVfdot2 h g s
  | .vftag h g => Sys2Proof.Machine.execVftag h g s
  | .vshfl h g => Sys2Proof.Machine.execVshfl h g s
  | .vbcst h g => Sys2Proof.Machine.execVbcst h g s
  | .vvote h g => Sys2Proof.Machine.execVvote h g s
  | .vredu h g => Sys2Proof.Machine.execVredu h g s
  | .vscan h g => Sys2Proof.Machine.execVscan h g s
  | .vrdln h g => Sys2Proof.Machine.execVrdln h g s
  | .vwrln h g => Sys2Proof.Machine.execVwrln h g s
  | .vmatch h g => Sys2Proof.Machine.execVmatch h g s
  | .vcompact h g => Sys2Proof.Machine.execVcompact h g s
  | .vcompactRow h g => Sys2Proof.Machine.execVcompactRow h g s
  | .vexpand h g => Sys2Proof.Machine.execVexpand h g s
  | .ld h m => Sys2Proof.Machine.execLd h m s
  | .st h m => Sys2Proof.Machine.execSt h m s
  | .ldl h m => Sys2Proof.Machine.execLdl h m s
  | .stl h m => Sys2Proof.Machine.execStl h m s
  | .ldq h m => Sys2Proof.Machine.execLdq h m s
  | .stq h m => Sys2Proof.Machine.execStq h m s
  | .lda h m => Sys2Proof.Machine.execLda h m s
  | .sta h m => Sys2Proof.Machine.execSta h m s
  | .atom h m => Sys2Proof.Machine.execAtom h m s
  | .red h m => Sys2Proof.Machine.execRed h m s
  | .atoml h m => Sys2Proof.Machine.execAtoml h m s
  | .pfx h m => Sys2Proof.Machine.execPfx h m s
  | .cprop h m => Sys2Proof.Machine.execCprop h m s
  | .cget h m => Sys2Proof.Machine.execCget h m s
  | .crecyc h m => Sys2Proof.Machine.execCrecyc h m s
  | .cprobe h m => Sys2Proof.Machine.execCprobe h m s
  | .fence h m => Sys2Proof.Machine.execFence h m s
  | .wsync h m => Sys2Proof.Machine.execWsync h m s
  | .wsyncShort h => Sys2Proof.Machine.execWsyncShort h s
  | .br h t => Sys2Proof.Machine.execBr h t s
  | .jmp h t => Sys2Proof.Machine.execJmp h t s
  | .callDirect h t => Sys2Proof.Machine.execCallDirect h t s
  | .callRegister h t => Sys2Proof.Machine.execCallRegister h t s
  | .ret h t => Sys2Proof.Machine.execRet h t s
  | .retShort h => Sys2Proof.Machine.execRetShort h s
  | .land h => Sys2Proof.Machine.execLand h s
  | .exitL h t => Sys2Proof.Machine.execExitL h t s
  | .exitShort h => Sys2Proof.Machine.execExitShort h s
  | .rast h n => Sys2Proof.Machine.execRast h n s
  | .hitbin h n => Sys2Proof.Machine.execHitbin h n s
  | .attr h n => Sys2Proof.Machine.execAttr h n s
  | .travs h n => Sys2Proof.Machine.execTravs h n s
  | .travr h n => Sys2Proof.Machine.execTravr h n s
  | .hvpost h n => Sys2Proof.Machine.execHvpost h n s
  | .smov h g => Sys2Proof.Machine.execSmov h g s
  | .smovShort h => Sys2Proof.Machine.execSmovShort h s
  | .smovi h l => Sys2Proof.Machine.execSmovi h l s
  | .ssel h g => Sys2Proof.Machine.execSsel h g s
  | .sadd h g => Sys2Proof.Machine.execSadd h g s
  | .saddShort h => Sys2Proof.Machine.execSaddShort h s
  | .ssub h g => Sys2Proof.Machine.execSsub h g s
  | .ssubShort h => Sys2Proof.Machine.execSsubShort h s
  | .smul h g => Sys2Proof.Machine.execSmul h g s
  | .smulShort h => Sys2Proof.Machine.execSmulShort h s
  | .smulh h g => Sys2Proof.Machine.execSmulh h g s
  | .smulhShort h => Sys2Proof.Machine.execSmulhShort h s
  | .smin h g => Sys2Proof.Machine.execSmin h g s
  | .sminShort h => Sys2Proof.Machine.execSminShort h s
  | .smax h g => Sys2Proof.Machine.execSmax h g s
  | .smaxShort h => Sys2Proof.Machine.execSmaxShort h s
  | .sand h g => Sys2Proof.Machine.execSand h g s
  | .sandShort h => Sys2Proof.Machine.execSandShort h s
  | .sor h g => Sys2Proof.Machine.execSor h g s
  | .sorShort h => Sys2Proof.Machine.execSorShort h s
  | .sxor h g => Sys2Proof.Machine.execSxor h g s
  | .sxorShort h => Sys2Proof.Machine.execSxorShort h s
  | .sshl h g => Sys2Proof.Machine.execSshl h g s
  | .sshlShort h => Sys2Proof.Machine.execSshlShort h s
  | .sshr h g => Sys2Proof.Machine.execSshr h g s
  | .sshrShort h => Sys2Proof.Machine.execSshrShort h s
  | .ssar h g => Sys2Proof.Machine.execSsar h g s
  | .ssarShort h => Sys2Proof.Machine.execSsarShort h s
  | .sbfe h g => Sys2Proof.Machine.execSbfe h g s
  | .sclz h g => Sys2Proof.Machine.execSclz h g s
  | .sclzShort h => Sys2Proof.Machine.execSclzShort h s
  | .spopc h g => Sys2Proof.Machine.execSpopc h g s
  | .spopcShort h => Sys2Proof.Machine.execSpopcShort h s
  | .scmp h g => Sys2Proof.Machine.execScmp h g s
  | .sqlog h g => Sys2Proof.Machine.execSqlog h g s
  | .slea h g => Sys2Proof.Machine.execSlea h g s
  | .sidx h e => Sys2Proof.Machine.execSidx h e s
  | .sld h m => Sys2Proof.Machine.execSld h m s
  | .sst h m => Sys2Proof.Machine.execSst h m s
  | .satom h m => Sys2Proof.Machine.execSatom h m s
  | .barinit h m => Sys2Proof.Machine.execBarinit h m s
  | .barexp h m => Sys2Proof.Machine.execBarexp h m s
  | .bararr h m => Sys2Proof.Machine.execBararr h m s
  | .barwait h m => Sys2Proof.Machine.execBarwait h m s
  | .waddr h m => Sys2Proof.Machine.execWaddr h m s
  | .kick h m => Sys2Proof.Machine.execKick h m s
  | .pub h m => Sys2Proof.Machine.execPub h m s
  | .sbank h m => Sys2Proof.Machine.execSbank h m s
  | .msflushRange h m => Sys2Proof.Machine.execMsflushRange h m s
  | .msflushStack h m => Sys2Proof.Machine.execMsflushStack h m s
  | .nop h => Sys2Proof.Machine.execNop h s
  | .rfe h => Sys2Proof.Machine.execRfe h s
  | .ubr h t => Sys2Proof.Machine.execUbr h t s
  | .ujmp h t => Sys2Proof.Machine.execUjmp h t s
  | .ucall h t => Sys2Proof.Machine.execUcall h t s
  | .uret h t => Sys2Proof.Machine.execUret h t s
  | .uretShort h => Sys2Proof.Machine.execUretShort h s
  | .endW h t => Sys2Proof.Machine.execEndW h t s
  | .endShort h => Sys2Proof.Machine.execEndShort h s
  | .yieldW h e => Sys2Proof.Machine.execYieldW h e s
  | .yieldShort h => Sys2Proof.Machine.execYieldShort h s
  | .trapSw h e => Sys2Proof.Machine.execTrapSw h e s
  | .sgetr h e => Sys2Proof.Machine.execSgetr h e s
  | .ssetr h e => Sys2Proof.Machine.execSsetr h e s
  | .rclaim h e => Sys2Proof.Machine.execRclaim h e s
  | .rfree h e => Sys2Proof.Machine.execRfree h e s
  | .guardW h g => Sys2Proof.Machine.execGuardW h g s
  | .elect h g => Sys2Proof.Machine.execElect h g s
  | .mma h n => Sys2Proof.Machine.execMma h n s
  | .mmas h n => Sys2Proof.Machine.execMmas h n s
  | .mmap h n => Sys2Proof.Machine.execMmap h n s
  | .mzero h n => Sys2Proof.Machine.execMzero h n s
  | .mfill h n => Sys2Proof.Machine.execMfill h n s
  | .mdrain h n => Sys2Proof.Machine.execMdrain h n s
  | .mscale h n => Sys2Proof.Machine.execMscale h n s
  | .mbtake h n => Sys2Proof.Machine.execMbtake h n s
  | .mbpass h n => Sys2Proof.Machine.execMbpass h n s
  | .mbpassNone h n => Sys2Proof.Machine.execMbpassNone h n s
  | .pgload h n => Sys2Proof.Machine.execPgload h n s
  | .pgctx h n => Sys2Proof.Machine.execPgctx h n s
  | .pgemit h n => Sys2Proof.Machine.execPgemit h n s
  | .rflush h n => Sys2Proof.Machine.execRflush h n s
  | .tvrel h n => Sys2Proof.Machine.execTvrel h n s
  | .nfmt h n => Sys2Proof.Machine.execNfmt h n s
  | .coll h n => Sys2Proof.Machine.execColl h n s
  | .launchDev h n => Sys2Proof.Machine.execLaunchDev h n s
  | .resetDev => Sys2Proof.Machine.execResetDev s
  | .registerWrite => Sys2Proof.Machine.execRegisterWrite s
  | .pageWalk => Sys2Proof.Machine.execPageWalk s
  | .walkComplete => Sys2Proof.Machine.execWalkComplete s
  | .directoryRequest => Sys2Proof.Machine.execDirectoryRequest s
  | .reclassify => Sys2Proof.Machine.execReclassify s
  | .recallAck => Sys2Proof.Machine.execRecallAck s
  | .invAll => Sys2Proof.Machine.execInvAll s
  | .invAsid => Sys2Proof.Machine.execInvAsid s
  | .invVa => Sys2Proof.Machine.execInvVa s
  | .releaseFrame => Sys2Proof.Machine.execReleaseFrame s
  | .tmCommandDone => Sys2Proof.Machine.execTmCommandDone s
  | .msCacheRequest => Sys2Proof.Machine.execMsCacheRequest s
  | .hotPageRecordDone => Sys2Proof.Machine.execHotPageRecordDone s
  | .hpctlWrite => Sys2Proof.Machine.execHpctlWrite s
  | .gddr7RequestIssue => Sys2Proof.Machine.execGddr7RequestIssue s
  | .gddr7Complete => Sys2Proof.Machine.execGddr7Complete s
  | .regionSample => Sys2Proof.Machine.execRegionSample s
  | .refreshStart => Sys2Proof.Machine.execRefreshStart s
  | .refreshEnd => Sys2Proof.Machine.execRefreshEnd s
  | .msFlushComplete => Sys2Proof.Machine.execMsFlushComplete s
  | .pinGranted => Sys2Proof.Machine.execPinGranted s
  | .rastFragment => Sys2Proof.Machine.execRastFragment s
  | .tileFragmentResume => Sys2Proof.Machine.execTileFragmentResume s
  | .pinLimitResume => Sys2Proof.Machine.execPinLimitResume s
  | .tileClose => Sys2Proof.Machine.execTileClose s
  | .tileScan => Sys2Proof.Machine.execTileScan s
  | .tileClassifyEnd => Sys2Proof.Machine.execTileClassifyEnd s
  | .tileReferenceRelease => Sys2Proof.Machine.execTileReferenceRelease s
  | .binRecordArrive => Sys2Proof.Machine.execBinRecordArrive s
  | .binAgeDrain => Sys2Proof.Machine.execBinAgeDrain s
  | .rflushDrain => Sys2Proof.Machine.execRflushDrain s
  | .carveOut => Sys2Proof.Machine.execCarveOut s
  | .dafHeadSend => Sys2Proof.Machine.execDafHeadSend s
  | .relSend => Sys2Proof.Machine.execRelSend s
  | .ackReceived => Sys2Proof.Machine.execAckReceived s
  | .homeReg => Sys2Proof.Machine.execHomeReg s
  | .homeLoad => Sys2Proof.Machine.execHomeLoad s
  | .homeWriteback => Sys2Proof.Machine.execHomeWriteback s
  | .homeAtomic => Sys2Proof.Machine.execHomeAtomic s
  | .ownerReply => Sys2Proof.Machine.execOwnerReply s
  | .revokeWord => Sys2Proof.Machine.execRevokeWord s
  | .fetchWord => Sys2Proof.Machine.execFetchWord s
  | .mergeLine => Sys2Proof.Machine.execMergeLine s
  | .mergeComplete => Sys2Proof.Machine.execMergeComplete s
  | .loadReturn => Sys2Proof.Machine.execLoadReturn s
  | .linkReplay => Sys2Proof.Machine.execLinkReplay s
  | .packetReflected => Sys2Proof.Machine.execPacketReflected s
  | .hostPostedWrite => Sys2Proof.Machine.execHostPostedWrite s
  | .hostMemwr => Sys2Proof.Machine.execHostMemwr s
  | .hostRead => Sys2Proof.Machine.execHostRead s
  | .bisnpResponse => Sys2Proof.Machine.execBisnpResponse s
  | .snpdata => Sys2Proof.Machine.execSnpdata s
  | .snpinv => Sys2Proof.Machine.execSnpinv s
  | .snpcur => Sys2Proof.Machine.execSnpcur s
  | .hostLinkDown => Sys2Proof.Machine.execHostLinkDown s
  | .cxlCacheNegotiated => Sys2Proof.Machine.execCxlCacheNegotiated s
  | .farOperation => Sys2Proof.Machine.execFarOperation s
  | .fabricPortFail => Sys2Proof.Machine.execFabricPortFail s
  | .scarabFetch => Sys2Proof.Machine.execScarabFetch s
  | .copyPiece => Sys2Proof.Machine.execCopyPiece s
  | .scarabFifoResume => Sys2Proof.Machine.execScarabFifoResume s
  | .barrierWake => Sys2Proof.Machine.execBarrierWake s
  | .pubSwap => Sys2Proof.Machine.execPubSwap s
  | .waddrWake => Sys2Proof.Machine.execWaddrWake s
  | .waddrTimeout => Sys2Proof.Machine.execWaddrTimeout s
  | .imagoHomeOp => Sys2Proof.Machine.execImagoHomeOp s
  | .imagoResult => Sys2Proof.Machine.execImagoResult s
  | .cgetWake => Sys2Proof.Machine.execCgetWake s
  | .cgetTimeout => Sys2Proof.Machine.execCgetTimeout s
  | .resultWriteback => Sys2Proof.Machine.execResultWriteback s
  | .priorityGroup => Sys2Proof.Machine.execPriorityGroup s
  | .issueStarvation => Sys2Proof.Machine.execIssueStarvation s
  | .claimDeadlock => Sys2Proof.Machine.execClaimDeadlock s
  | .batonHandover => Sys2Proof.Machine.execBatonHandover s
  | .qctlEnable => Sys2Proof.Machine.execQctlEnable s
  | .qctlDisable => Sys2Proof.Machine.execQctlDisable s
  | .queueRecordRead => Sys2Proof.Machine.execQueueRecordRead s
  | .launchAccept => Sys2Proof.Machine.execLaunchAccept s
  | .groupPlace => Sys2Proof.Machine.execGroupPlace s
  | .groupComplete => Sys2Proof.Machine.execGroupComplete s
  | .hiveTaskTimeout => Sys2Proof.Machine.execHiveTaskTimeout s
  | .contractRelease => Sys2Proof.Machine.execContractRelease s
  | .contractOverrun => Sys2Proof.Machine.execContractOverrun s
  | .yieldmaxExpiry => Sys2Proof.Machine.execYieldmaxExpiry s
  | .ebudFill => Sys2Proof.Machine.execEbudFill s
  | .impreciseFault => Sys2Proof.Machine.execImpreciseFault s
  | .trapDelivery => Sys2Proof.Machine.execTrapDelivery s
  | .retry => Sys2Proof.Machine.execRetry s
  | .abandon => Sys2Proof.Machine.execAbandon s
  | .freeSlot => Sys2Proof.Machine.execFreeSlot s
  | .fenceComplete => Sys2Proof.Machine.execFenceComplete s
  | .softError => Sys2Proof.Machine.execSoftError s
  | .unitRetire => Sys2Proof.Machine.execUnitRetire s
  | .hsemTake => Sys2Proof.Machine.execHsemTake s
  | .hsemRelease => Sys2Proof.Machine.execHsemRelease s
  | .hsemLeaseTick => Sys2Proof.Machine.execHsemLeaseTick s
  | .bindCtx => Sys2Proof.Machine.execBindCtx s
  | .unbindCtx => Sys2Proof.Machine.execUnbindCtx s
  | .preempt => Sys2Proof.Machine.execPreempt s
  | .fenceCommand => Sys2Proof.Machine.execFenceCommand s
  | .devidWrite => Sys2Proof.Machine.execDevidWrite s
  | .routingTableWrite => Sys2Proof.Machine.execRoutingTableWrite s
  | .plimitWrite => Sys2Proof.Machine.execPlimitWrite s
  | .mextend => Sys2Proof.Machine.execMextend s
  | .mextendDone => Sys2Proof.Machine.execMextendDone s
  | .report => Sys2Proof.Machine.execReport s
  | .reportDone => Sys2Proof.Machine.execReportDone s
  | .dieSensorSample => Sys2Proof.Machine.execDieSensorSample s
  | .powerAverage => Sys2Proof.Machine.execPowerAverage s
  | .fireflyNodeRead => Sys2Proof.Machine.execFireflyNodeRead s
  | .collStart => Sys2Proof.Machine.execCollStart s
  | .collComplete => Sys2Proof.Machine.execCollComplete s
  | .matrixRetire => Sys2Proof.Machine.execMatrixRetire s
  | .pgloadComplete => Sys2Proof.Machine.execPgloadComplete s
  | .nfmtLoaded => Sys2Proof.Machine.execNfmtLoaded s
  | .throttledAdmission => Sys2Proof.Machine.execThrottledAdmission s
  | .hostLinkUp => Sys2Proof.Machine.execHostLinkUp s
  | .hostResponse => Sys2Proof.Machine.execHostResponse s
  | .correctedSoftError => Sys2Proof.Machine.execCorrectedSoftError s

end Sys2Proof.Machine
end

