-- ==== Sys2Proof/Machine/Place.lean ====
section
/-! DEFINITION. A program placed by hand: the state in which a given instruction is the next that a step runs (log 5). -/

namespace Sys2Proof.Machine

open Sys2Proof.Machine.State

/-- The physical and virtual address of the code page. -/
def placePa : Nat := 0x100000
def placeVa : Nat := 0x200000

/-- The translation of the code page, as the core's TLB holds it. -/
def placeTlb : TlbEntry :=
  { asid := 1, base := placeVa, log2 := 12, lvl := 7, w := false, x := true, lnd := false, d := false, kind := .normal, dev := 0,
    frame := placePa, classes := [] }

/-- The wave: 32 lanes at the instruction, all 32 granules and 128 uniform registers. -/
def placeWave : Wave :=
  { idleWave with
    live := true, ctx := 0, group := 1, core := 0, quad := 0, h := 32, uregs := 128, entry := placeVa,
    lanes := List.replicate 32 { idleLane with pc := placeVa, exited := false } }

/-- The code line as the core's L1 holds it: the sector of the instruction. -/
def placeLine (w : Nat) : L1Line :=
  { line := placePa / 128, bank := 0, path := .priv, valid := sectorMask 0, dirty := 0, owned := 0, pend := 0,
    data := BitVec.ofNat 1024 (w % 2 ^ 64) }

/-- The state with the instruction `w` placed. -/
def placeWord (s : State) (w : Nat) : State :=
  let s := { s with
    moves := [], due := [], turn := 0,
    mgmt := { s.mgmt with boot := .run },
    mem := memWrite s.mem placePa 8 w, waves := [], groups := [] }
  let s := modCx s 0 fun c => { c with bound := true, fenced := false, held := { c.held with asid := 1 } }
  let s := modCr s 0 fun c => { c with tlb := [placeTlb], l1 := [placeLine w], retired := false }
  let s := setGp s 1 { noGroup with live := true, waves := [1] }
  setWv s 1 placeWave

end Sys2Proof.Machine
end

