-- ==== Sys2Proof/Machine/Ready.lean ====
section
/-! DEFINITION. Which events of the device have an occasion now, and the order in which the model takes them (log 4).
Events that only the outside world brings about are not among them. -/

namespace Sys2Proof.Machine

open Sys2Proof.Machine.State

/-- The events of the device that have an occasion, in the order the model takes them. -/
def readyAll (s : State) : List (Instr × List Nat) :=
  readyManage s ++ readyLogs s ++ readyWaiter s ++ readyPair s ++ readyGroup s ++ readyWave s ++ readyWalk s ++ readyHome s ++
    readyPorts s ++ readyResults s ++ readyImago s ++ readyCache s ++ readyCopies s ++ readyPattern s ++ readyMatrix s ++
    readyRaster s ++ readyFormica s ++ readyFirefly s ++ readyHive s ++ readyColl s ++ readyLaunch s

/-- Performing an event changes something, where `run` performs it: one that must still wait leaves the state as it is (log 127). -/
def changes (run : Instr → State → Host.Outcome State Fault Refusal) (s : State) (x : Instr × List Nat) : Bool :=
  match run x.1 { s with args := x.2 } with
  | .next t => decide (t ≠ { s with args := x.2 })
  | _ => true

/-- The next event of the device. -/
def ready (run : Instr → State → Host.Outcome State Fault Refusal) (s : State) : Option (Instr × List Nat) := (readyAll s).find? (changes run s)

/-- A row of the table that is an event and no instruction of a program. -/
def isEvent (i : Instr) : Bool := (encode i).isEmpty

/-- With an empty schedule, what comes next: a due action, an event, or a quadrant's cycle (log 4). -/
def openMove (run : Instr → State → Host.Outcome State Fault Refusal) (s : State) : State :=
  match s.moves with
  | _ :: _ => s
  | [] => match s.due with
    | (i, a) :: _ => { s with moves := [.perform i a] }
    | [] => match ready run s with
      | some (i, a) => { s with moves := [.perform i a] }
      | none => openTurn s

/-- R98, R115: accesses that wait to leave their cores are tried again, since what held them may be gone. -/
def rerouteAll (s : State) : State := ((s.accs.filter fun a => decide (a.stage = .ready)).map fun a => a.core).eraseDups.foldl reroute s

/-- What a step adds after an instruction or an event: accesses no longer held leave or are performed at their banks, and waits that ended are noted (R133, R134, R140);
what had to wait in it (log 127) is over. -/
def settled (s : State) : State := { noteWakes (bankResumeAll (rerouteAll s)) with blocked := none }

end Sys2Proof.Machine
end

