-- ==== Sys2Proof/Machine/Step.lean ====
section
/-! DEFINITION. One step of the machine: the agent that moves next performs one instruction or event (log 4). -/

namespace Sys2Proof.Machine

/-- `f` on the next state of an outcome. -/
def mapNext (f : State → State) : Host.Outcome State Fault Refusal → Host.Outcome State Fault Refusal
  | .next s => .next (f s)
  | .fault r => .fault r
  | .refused r => .refused r

/-- One move of the schedule. -/
def doMove (m : Move) (s : State) : Host.Outcome State Fault Refusal :=
  match m with
  | .perform i a => if isEvent i then mapNext settled (exec i { s with args := a }) else .next s
  | .issue q cands lanes unis chosen =>
    match attempt s q cands lanes unis chosen with
    | (s, none) => .next (settled s)
    | (s, some i) =>
      mapNext (fun t => settled (afterIssue i q cands lanes unis chosen s.cur.wave (cr s (q / 4)).issued t)) (exec i s)
  | .tick k => .next (settled (tick exec k s))

/-- One step: the first entry of the schedule, or what comes next where the schedule is empty. -/
def step (s : State) : Host.Outcome State Fault Refusal :=
  let s := openMove exec s
  match s.moves with
  | m :: r => doMove m { s with moves := r }
  | [] => .next s

/-- `s` with the instruction whose bits are `w` where the next step fetches (log 5): the bytes of a code page, a wave of 32
lanes standing at them on core 0, quadrant 0, in a bound context, and the schedule at that quadrant's cycle. -/
def State.withFetchWord (s : State) (_nbits w : Nat) : State := placeWord s w

end Sys2Proof.Machine
end

