-- ==== Sys2Proof/Safety.lean ====
section
/-! DEFINITION. The terms in which statements speak: a safe run, the conditions of issue written out one by one, and what a
state shows after an instruction has issued. -/

namespace Sys2Proof.Machine

/-- The memory is in its canonical form. -/
def MemOk (s : State) : Prop := memWf s.mem = true

/-- A step goes on: it answers a next state. -/
def Goes (s : State) : Prop := ∃ t, step s = .next t

/-- The wave of the PC group that issues. -/
def curWave (s : State) : Wave := wv s s.cur.wave

/-- R196, R231: the instruction meets every condition of issue that does not depend on what it does, and its guard slot
keeps it (R228). -/
structure Issuable (i : Instr) (s : State) : Prop where
  /-- Nothing that its issue needs, such as a fetch, has had to wait (log 127). -/
  free : s.blocked = none
  /-- R231: its register runs lie within what the wave holds. -/
  runs : runsIn (curWave s) (specOf i) = true
  /-- Condition 1: the distance of its D field has passed. -/
  apart : distOk (curWave s) (cycAt s (curWave s).core) s.cur.lanes (specOf i).d = true
  /-- Condition 2: the flags its wait mask names count zero. -/
  waited : flagsClear (curWave s) (specOf i).w = true
  /-- Condition 3: no source is empty in an active lane, -/
  sources : ∀ x ∈ (specOf i).srcs, srcEmpty (curWave s) (active (specOf i) s) x = false
  /-- no destination is, -/
  dests : ∀ d ∈ (specOf i).dsts, dstEmpty (curWave s) (active (specOf i) s) d = false
  /-- and neither its guard nor a predicate it names is pending (R244). -/
  guard : guardWait (curWave s) (specOf i) s.cur.lanes = false
  preds : predWait (curWave s) (specOf i) (active (specOf i) s) = false
  /-- Condition 4: its guard slot has a value. -/
  slot : (specOf i).g = 0 ∨ slotPending (curWave s) (specOf i).g = false
  /-- Condition 5: the core's units cover its energy class. -/
  energy : ∀ e, (specOf i).ec = some e → ebudOk s (curWave s).core (curWave s).ctx e = true
  /-- R178: an instruction of the matrix engine is issued by the holder of the pair's baton. -/
  baton : (specOf i).mat = true → (pr s (corePair (curWave s).core)).baton = some s.cur.wave
  /-- Condition 7: its completion flag and the replay window have room. -/
  flag : (curWave s).flags.getD (specOf i).flag 0 < 63
  window : (specOf i).win = true → windowUsed (curWave s) < 16
  /-- R207: the tags of its sources agree. -/
  tags : ∀ x ∈ (specOf i).srcs, tagsOk (curWave s) (active (specOf i) s) x = true
  /-- R228: its guard slot does not discard it. -/
  kept : discarded (curWave s) (specOf i) = false

/-- R168, R172: the state once the instruction has issued with the writes `ws`: they are due three cycles later, or wait as the
result of a variable-latency operation; with no active lane nothing but the PC group has moved. -/
def issuedWith (i : Instr) (ws : Writes) (s : State) : State :=
  let sp := specOf i
  let w := s.cur.wave
  let t := advance sp s
  if active sp s = 0 then t
  else if sp.var then
    let (id, t) := openOp i sp (active sp s) 0 [] t
    let (r, t) := fresh t
    modWv t w fun v => { v with results := v.results ++ [{ id := r, op := id, lanes := active sp s, due := 0, writes := ws }] }
  else modWv t w fun v => addPend v (cycAt t v.core) ws

/-- The writes of one lane instruction whose active lane `l` computes the words `f l`, each with its tag. -/
def laneResult (i : Instr) (s : State) (f : Nat → List (Word × Tag)) : Writes :=
  { noWrites with regs := (lanesOf (active (specOf i) s)).flatMap fun l =>
      ((dstRegs (specOf i)).zip (f l)).map fun (r, b, t) => (l, r, b, t) }

/-- The writes of one lane instruction whose active lane `l` decides the predicate `k` as `f l`. -/
def laneDecides (i : Instr) (s : State) (k : Nat) (f : Nat → Bool) : Writes :=
  { noWrites with preds := (lanesOf (active (specOf i) s)).map fun l => (l, k, f l) }

/-- The writes of one uniform instruction that computes the number `x`. -/
def uniResult (i : Instr) (s : State) (x : Nat) : Writes :=
  if active (specOf i) s = 0 then noWrites
  else { noWrites with sregs := (dstRegs (specOf i)).zip (natWords (dstRegs (specOf i)).length x) }

/-- The value of source number `k` of the instruction in lane `l`, as it issues. -/
def source (i : Instr) (s : State) (l k : Nat) : Nat := ((specOf i).srcs.map (srcVal (curWave s) l)).getD k 0

/-- `n` words of the number `x`, untyped. -/
def plain (n x : Nat) : List (Word × Tag) := (natWords n x).map fun w => (w, .untyped)

/-- R170, R383: an operation in flight: the state once the instruction has issued and its operation number `s.nextId` is open for
its active lanes, with its captured words and `parts` further parts. -/
def opened (i : Instr) (parts : Nat) (s : State) : State :=
  (openOp i (specOf i) (active (specOf i) s) parts (capture (curWave s) (specOf i)) (advance (specOf i) s)).2

/-- R209, R381: no floating-point exception of the wave is enabled to trap. -/
def noArithTraps (v : Wave) : Prop := v.fmode.getLsbD 14 = false ∧ v.fmode.getLsbD 15 = false ∧ v.fmode.getLsbD 16 = false

/-! ### The tables that statements range over -/

/-- The value that the uniform operand byte `b` names: register `s<b>` below 128, the number `b - 128` from 128 (R223, log 13). -/
def uniWord (v : Wave) (b : BitVec 8) : Word := if b.toNat < 128 then sread v b.toNat else BitVec.ofNat 32 (b.toNat - 128)

/-- R249, R252, R254: the two-register operations of the short forms on 32-bit signed words, each with the word it makes of A and B
(R222: A = A op B). -/
def shortPairs : List ((Head → Instr) × (Head → Instr) × (Word → Word → Word)) :=
  [(.vaddShort, .saddShort, fun x y => x + y), (.vsubShort, .ssubShort, fun x y => x - y),
   (.vmulShort, .smulShort, fun x y => x * y),
   (.vmulhShort, .smulhShort, fun x y => (x.signExtend 64 * y.signExtend 64).extractLsb' 32 32),
   (.vminShort, .sminShort, fun x y => if x.sle y then x else y), (.vmaxShort, .smaxShort, fun x y => if x.sle y then y else x),
   (.vandShort, .sandShort, fun x y => x &&& y), (.vorShort, .sorShort, fun x y => x ||| y),
   (.vxorShort, .sxorShort, fun x y => x ^^^ y),
   (.vshlShort, .sshlShort, fun x y => x <<< (y.toNat % 256)), (.vshrShort, .sshrShort, fun x y => x >>> (y.toNat % 256)),
   (.vsarShort, .ssarShort, fun x y => x.sshiftRight (y.toNat % 256))]

/-- The short forms of the lane set alone. -/
def shortLanePairs : List ((Head → Instr) × (Word → Word → Word)) :=
  [(.vabsdShort, fun x y => if x.sle y then y - x else x - y), (.vandnShort, fun x y => x &&& ~~~y),
   (.vrotShort, fun x y => x.rotateLeft (y.toNat % 32))]

/-- R254: the one-register operations of the short forms. -/
def shortSingles : List ((Head → Instr) × (Head → Instr) × (Word → Word)) :=
  [(.vclzShort, .sclzShort, fun x => BitVec.ofNat 32 (((List.range 32).takeWhile fun k => !(x.getLsbD (31 - k))).length)),
   (.vpopcShort, .spopcShort, fun x => BitVec.ofNat 32 (((List.range 32).filter fun k => x.getLsbD k).length))]

/-- R248 to R257: the extended lane instructions that compute registers from the values of their sources: how many words each
writes, and the number it makes of its sources. -/
def laneTable : List ((Head → GExt → Instr) × (GExt → Nat) × (GExt → (Nat → Nat) → Nat)) :=
  let w := fun g => wide (gT g)
  let one := fun _ : GExt => 1
  [(.vadd, w, fun g x => intOp g (· + ·) (x 0) (x 1)), (.vsub, w, fun g x => intOp g (· - ·) (x 0) (x 1)),
   (.vmul, w, fun g x => intOp g (· * ·) (x 0) (x 1)), (.vmulh, w, fun g x => mulhOp g (x 0) (x 1)),
   (.vmin, w, fun g x => intOp g min (x 0) (x 1)), (.vmax, w, fun g x => intOp g max (x 0) (x 1)),
   (.vabsd, w, fun g x => intOp g (fun a b => ((a - b).natAbs : Int)) (x 0) (x 1)),
   (.vand, w, fun _ x => x 0 &&& x 1), (.vor, w, fun _ x => x 0 ||| x 1), (.vxor, w, fun _ x => x 0 ^^^ x 1),
   (.vandn, w, fun g x => andnOp g (x 0) (x 1)), (.vshl, w, fun g x => shlOp g (x 0) (x 1)),
   (.vshr, w, fun g x => shrOp g (x 0) (x 1)), (.vsar, w, fun g x => sarOp g (x 0) (x 1)),
   (.vrot, w, fun g x => rotOp g (x 0) (x 1)), (.vclz, one, fun _ x => clzOp (x 0)), (.vpopc, one, fun _ x => popcOp (x 0)),
   (.vbrev, one, fun _ x => brevOp (x 0)), (.vbfe, one, fun g x => bfeOp (decide (gT g = 16)) (x 0) (x 1)),
   (.vbfi, one, fun _ x => bfiOp (x 0) (x 1) (x 2)), (.vperm, one, fun _ x => permOp (x 0) (x 1) (x 2)),
   (.vmad, one, fun g x => narrow 32 (decide (16 ≤ gT g)) g.sat (elem (gT g) (x 0) 0 * elem (gT g) (x 1) 0 + elem (gT g) (x 2) 0)),
   (.vmadw, fun _ => 2, fun g x =>
     narrow 64 (decide (16 ≤ gT g)) g.sat (elem (gT g) (x 0) 0 * elem (gT g) (x 1) 0 + elem (gT g + 1) (x 2) 0)),
   (.vlea, fun _ => 2, fun g x => leaOp (gT g) (x 0) (x 1)),
   (.vdot4, one, fun g x => dotOp g 8 4 (x 0) (x 1) (x 2)), (.vdot8, one, fun g x => dotOp g 4 8 (x 0) (x 1) (x 2))]

/-- R308, R309: the extended uniform instructions, the same way. -/
def uniTable : List ((Head → GExt → Instr) × (GExt → (Nat → Nat) → Nat)) :=
  [(.sadd, fun g x => intOp g (· + ·) (x 0) (x 1)), (.ssub, fun g x => intOp g (· - ·) (x 0) (x 1)),
   (.smul, fun g x => intOp g (· * ·) (x 0) (x 1)), (.smulh, fun g x => mulhOp g (x 0) (x 1)),
   (.smin, fun g x => intOp g min (x 0) (x 1)), (.smax, fun g x => intOp g max (x 0) (x 1)),
   (.sand, fun _ x => x 0 &&& x 1), (.sor, fun _ x => x 0 ||| x 1), (.sxor, fun _ x => x 0 ^^^ x 1),
   (.sshl, fun g x => shlOp g (x 0) (x 1)), (.sshr, fun g x => shrOp g (x 0) (x 1)), (.ssar, fun g x => sarOp g (x 0) (x 1)),
   (.sbfe, fun g x => bfeOp (decide (gT g = 16)) (x 0) (x 1)), (.sclz, fun _ x => clzOp (x 0)), (.spopc, fun _ x => popcOp (x 0)),
   (.slea, fun g x => leaOp (gT g) (x 0) (x 1)), (.smov, fun _ x => x 0)]

/-- R259 to R265: the extended floating-point instructions with one result element for each source element, each with the result of
an element: its bits and the flags it raises. -/
def floatTable : List ((Head → GExt → Instr) × (Fmt → Rnd → List Nat → FRes)) :=
  [(.vfadd, fAdd), (.vfsub, fSub), (.vfmul, fMul), (.vfma, fFma), (.vfdiv, fDiv), (.vfmin, fMinMax false), (.vfmax, fMinMax true),
   (.vsqrt, fSqrt), (.vfrnd, fRnd), (.vfract, fFract), (.vrcp, fRcp), (.vrsq, fRsq), (.vexp2, fExp2), (.vlog2, fLog2),
   (.vsinp, fSinp), (.vcosp, fCosp)]

/-- R222: their short forms. -/
def floatShorts : List ((Head → Instr) × (Fmt → Rnd → List Nat → FRes)) :=
  [(.vfaddShort, fAdd), (.vfsubShort, fSub), (.vfmulShort, fMul), (.vfdivShort, fDiv), (.vfminShort, fMinMax false),
   (.vfmaxShort, fMinMax true), (.vsqrtShort, fSqrt), (.vfrndShort, fRnd), (.vfractShort, fFract), (.vrcpShort, fRcp),
   (.vrsqShort, fRsq), (.vexp2Short, fExp2), (.vlog2Short, fLog2), (.vsinpShort, fSinp), (.vcospShort, fCosp)]

/-- R266: the packed FP8 instructions. -/
def fp8Table : List ((Head → GExt → Instr) × (Fmt → Rnd → List Nat → FRes)) := [(.vpfma, fFma), (.vpfadd, fAdd), (.vpfmul, fMul)]

/-- The writes of a lane instruction with the outputs `f l` of its active lanes: their registers and predicates, and every flag they
raise made sticky (R209). -/
def laneOutputs (i : Instr) (s : State) (f : Nat → LaneOut) : Writes :=
  let a := laneWrites (specOf i) ((lanesOf (active (specOf i) s)).map fun l => (l, f l))
  { a.writes with sticky := a.flags }

/-- The state with `n` draws counted (log 12). -/
def withDraws (n : Nat) (s : State) : State := { s with draws := n }

/-- The state `t` with the draws of an instruction of rounding field `rm` counted: an instruction that rounds stochastically without
a seed takes one free place for each lane and element (log 12). -/
def drawn (rm : BitVec 3) (s t : State) : State :=
  if rmode (curWave s) rm = 5 ∧ (curWave s).fmode.getLsbD 8 = false then { t with draws := t.draws + 1024 } else t

/-- Element `k`, of `w` bits, of each source of the instruction in lane `l`. -/
def elements (i : Instr) (s : State) (w l k : Nat) : List Nat :=
  (specOf i).srcs.map fun x => srcVal (curWave s) l x / 2 ^ (w * k) % 2 ^ w

/-- R259: the output of lane `l` of a floating-point instruction of type fields `g`: each element rounded on its own. -/
def floatLane (i : Instr) (g : GExt) (f : Fmt → Rnd → List Nat → FRes) (s : State) (l : Nat) : LaneOut :=
  let t := gT g
  packF (fmtOf t).width (fpN t) (wide t) (fpTag t) fun k =>
    f (fmtOf t) (rndOf (curWave s) g.rm g.sat s.draws l k) (elements i s (fmtOf t).width l k)

/-- R266: the output of lane `l` of a packed FP8 instruction. -/
def fp8Lane (i : Instr) (g : GExt) (f : Fmt → Rnd → List Nat → FRes) (s : State) (l : Nat) : LaneOut :=
  packF 8 4 1 (if gT g = 0 then .e4m3x4 else .e5m2x4) fun k =>
    f (if gT g = 0 then E4M3 else E5M2) (rndOf (curWave s) g.rm g.sat s.draws l k) (elements i s 8 l k)

/-- R246: the state after an instruction whose lanes compute `out` has met an enabled exception: a precise ARITH trap of the exceptions
raised and enabled, with the lanes that raised one, and every flag raised made sticky, as are `more`, those of steps whose results are
not delivered (R278). -/
def arithTrapped (i : Instr) (out : Nat → LaneOut) (more : Word) (s : State) : State :=
  let on := (curWave s).fmode
  let raised := (lanesOf (active (specOf i) s)).foldl (fun x l => x ||| (out l).raised) 0
  raisePrecise (modWv s s.cur.wave fun u => { u with fmode := u.fmode ||| raised ||| more })
    (trapOf i 4 (arithCause on raised)
      (lanesWhere fun l => inLanes (active (specOf i) s) l && decide (arithCause on (out l).raised ≠ 0)))

/-- R246: the active lanes of an instruction whose lanes compute `out` raise an exception that is enabled. -/
def raisesEnabled (i : Instr) (out : Nat → LaneOut) (s : State) : Prop :=
  arithCause (curWave s).fmode ((lanesOf (active (specOf i) s)).foldl (fun x l => x ||| (out l).raised) 0) ≠ 0

/-- R278: what every lane of a floating-point reduction computes: the tree over the active lanes, with the flags of the operands read and of
the steps. -/
def reduOut (h : Head) (g : GExt) (s : State) : LaneOut :=
  let v := curWave s
  let op := gT g % 16
  let m := active (specOf (.vredu h g)) s
  let x := fun l => reduIn v op (vread v l h.b.toNat).toNat
  let tree := reduTree (fun level j b c => reduStep v g.rm s.draws op (2 ^ level * j) level b c) 5 1
    ((List.range 32).map fun l => if inLanes m l then some (x l).bits else none)
  { regs := [(BitVec.ofNat 32 ((tree.1.headD none).getD 0), .f32)], preds := []
    raised := (lanesOf m).foldl (fun w l => w ||| (x l).raised) 0 ||| tree.2 }

/-- R278: the combination over the lanes of a list, and the flags of its steps. -/
def scanOf (h : Head) (g : GExt) (s : State) : List Nat → Nat × Word
  | [] => (reduId (gT g % 16), 0)
  | l :: r =>
    let v := curWave s
    let op := gT g % 16
    let x := fun k => (vread v k h.b.toNat).toNat
    r.foldl (fun (a : Nat × Word) k =>
      let y := reduStep v g.rm s.draws op k 0 a.1 (x k)
      (y.bits, a.2 ||| y.raised)) ((reduIn v op (x l)).bits, (reduIn v op (x l)).raised)

/-- R278: what a lane of a floating-point scan computes: the combination over the active lanes up to it, or below it. -/
def scanOut (h : Head) (g : GExt) (s : State) (l : Nat) : LaneOut :=
  let upto := (lanesOf (active (specOf (.vscan h g)) s)).filter fun k => decide (k < l) || (!(gT g).testBit 4 && decide (k = l))
  { regs := [(BitVec.ofNat 32 (scanOf h g s upto).1, .f32)], preds := [], raised := (scanOf h g s upto).2 }

/-! ### Encodings -/

/-- R230: the opcodes of the four combinations of set (S) and form (X) that the opcode maps list. -/
def listedOpcode (s x : Bool) (op : Nat) : Bool :=
  let inside := fun l : List (Nat × Nat) => l.any fun r => decide (r.1 ≤ op) && decide (op ≤ r.2)
  match s, x with
  | false, true => inside [(0x00, 0x0D), (0x10, 0x1D), (0x20, 0x25), (0x40, 0x54), (0x58, 0x5F), (0x80, 0x89), (0xA0, 0xB1),
      (0xD0, 0xD3), (0xD5, 0xD5), (0xE0, 0xE5)]
  | false, false => inside [(0x00, 0x00), (0x04, 0x07), (0x0A, 0x0C), (0x10, 0x17), (0x1A, 0x1C), (0x40, 0x42), (0x44, 0x45),
      (0x48, 0x51), (0xB1, 0xB1), (0xD3, 0xD5)]
  | true, true => inside [(0x00, 0x02), (0x04, 0x07), (0x0A, 0x0B), (0x10, 0x12), (0x14, 0x16), (0x18, 0x18), (0x1A, 0x1B),
      (0x20, 0x20), (0x22, 0x22), (0x24, 0x25), (0x40, 0x42), (0x44, 0x4C), (0x61, 0x67), (0x69, 0x6E), (0x80, 0x8B), (0xC0, 0xC4)]
  | true, false => inside [(0x00, 0x00), (0x04, 0x07), (0x0A, 0x0B), (0x10, 0x12), (0x14, 0x16), (0x1A, 0x1B), (0x60, 0x60),
      (0x64, 0x66), (0x68, 0x68)]

/-- Instruction words written from the encodings of R219 to R230, each with the instruction it stands for. -/
def specWords : List (BitVec 32 × BitVec 32 × Instr) :=
  [-- (!p3) vadd.i32.sat v2, v4, v6 d1 w2
   (0x52040204, 0x06007020, .vadd ⟨1, 2, 2, 4⟩ ⟨6, 0, 3, true, false, false, false, 0, true, 0⟩),
   -- vadd v7, v9
   (0x00040709, 0x00000000, .vaddShort ⟨0, 0, 7, 9⟩),
   -- vmovi v5, an unsigned 0x8001
   (0x40010500, 0x80010001, .vmovi ⟨0, 0, 5, 0⟩ ⟨32769, 0, false, false, 1⟩),
   -- vcmp.lt p3, v4, v5
   (0x40200304, 0x05000002, .vcmp ⟨0, 0, 3, 4⟩ ⟨5, 0, 0, false, false, false, false, 0, false, 2⟩),
   -- vfma.f32.rtz v1, v2, v3, v4
   (0x40430102, 0x03040080, .vfma ⟨0, 0, 1, 2⟩ ⟨3, 4, 0, false, false, false, false, 2, false, 0⟩),
   -- vcvt code 4: v3 from v6:v7
   (0x40580306, 0x00000044, .vcvt ⟨0, 0, 3, 6⟩ ⟨0, 0, 0, false, false, false, false, 1, false, 4⟩),
   -- vshfl.idx v1, v2, v3, v4
   (0x40800102, 0x03040000, .vshfl ⟨0, 0, 1, 2⟩ ⟨3, 4, 0, false, false, false, false, 0, false, 0⟩),
   -- vcompact.row v8:v10, v2, v3, p1
   (0x40880802, 0x03010010, .vcompactRow ⟨0, 0, 8, 2⟩ ⟨3, 1, 0, false, false, false, false, 0, false, 16⟩),
   -- ld.b32 v8, [v10:v11 - 4] f3
   (0x40A0080A, 0x80FFC310, .ld ⟨0, 0, 8, 10⟩ ⟨128, 4092, 3, 0, 2, 0⟩),
   -- stl.b64 [s7 + v12 + 16], v4
   (0x45A3040C, 0x07010F1A, .stl ⟨0, 5, 4, 12⟩ ⟨7, 16, 15, 0, 3, 2⟩),
   -- atoml, operation 11, release order
   (0x40AA0406, 0x1000B1A0, .atoml ⟨0, 0, 4, 6⟩ ⟨16, 11, 1, 2, 4, 0⟩),
   -- fence.sc-order 3
   (0x40B00000, 0x00000FC0, .fence ⟨0, 0, 0, 0⟩ ⟨0, 0, 15, 3, 0, 0⟩),
   -- (!p1) br -2
   (0x40D00000, 0xFFFFFE30, .br ⟨0, 0, 0, 0⟩ ⟨16777214, 1, true, 0⟩),
   -- call v6:v7 + 4
   (0x40D20206, 0x00000100, .callRegister ⟨0, 0, 2, 6⟩ ⟨1, 0, false, 0⟩),
   -- ret
   (0x00D30000, 0x00000000, .retShort ⟨0, 0, 0, 0⟩),
   -- travs
   (0x40E30008, 0x1418202E, .travs ⟨0, 0, 0, 8⟩ ⟨20, 24, 2, 0, 1, 3, true, false⟩),
   -- smovi s9, 0xDEADBEEF
   (0xC0010900, 0xDEADBEEF, .smovi ⟨0, 0, 9, 0⟩ 3735928559),
   -- sadd s3, s4, 2
   (0xC0040304, 0x82000000, .sadd ⟨0, 0, 3, 4⟩ ⟨130, 0, 0, false, false, false, false, 0, false, 0⟩),
   -- sld.b64 s4:s5, [s10:s11 + 8]
   (0xC040040A, 0x80008018, .sld ⟨0, 0, 4, 10⟩ ⟨128, 8, 0, 0, 3, 0⟩),
   -- barwait
   (0xC0470003, 0x05000F20, .barwait ⟨0, 0, 0, 3⟩ ⟨5, 0, 15, 0, 4, 0⟩),
   -- nop
   (0x80600000, 0x00000000, .nop ⟨0, 0, 0, 0⟩),
   -- rfe w15 d3
   (0xBF680000, 0x00000000, .rfe ⟨3, 15, 0, 0⟩),
   -- trap 0x1234
   (0xC0670000, 0x12340000, .trapSw ⟨0, 0, 0, 0⟩ ⟨4660, 0, false, false, 0⟩),
   -- guard g2, q5
   (0xC06D0205, 0x00000000, .guardW ⟨0, 0, 2, 5⟩ ⟨0, 0, 0, false, false, false, false, 0, false, 0⟩),
   -- mma
   (0xC0800304, 0x100018A4, .mma ⟨0, 0, 3, 4⟩ ⟨16, 0, 1, 2, 5, 1, false, false⟩),
   -- mbpass.none
   (0xC0880000, 0x0000F020, .mbpassNone ⟨0, 0, 0, 0⟩ ⟨0, 0, 15, 0, 1, 0, false, false⟩),
   -- coll
   (0xC0C3000C, 0x0000B000, .coll ⟨0, 0, 0, 12⟩ ⟨0, 0, 11, 0, 0, 0, false, false⟩)]

/-! ### Frames -/

/-- The arithmetic instructions: those that compute registers, predicates and flags of their wave and nothing else, with no condition
of issue of their own. -/
def isArithmetic (i : Instr) : Bool :=
  match i with
  | .vmov .. | .vmovShort .. | .vmovi .. | .vmovh .. | .vsel .. | .vadd .. | .vaddShort .. | .vsub .. | .vsubShort .. | .vmul ..
  | .vmulShort .. | .vmulh .. | .vmulhShort .. | .vmad .. | .vmadw .. | .vmin .. | .vminShort .. | .vmax .. | .vmaxShort ..
  | .vabsd .. | .vabsdShort .. | .vaddi .. | .vand .. | .vandShort .. | .vor .. | .vorShort .. | .vxor .. | .vxorShort ..
  | .vandn .. | .vandnShort .. | .vshl .. | .vshlShort .. | .vshr .. | .vshrShort .. | .vsar .. | .vsarShort .. | .vrot ..
  | .vrotShort .. | .vbfe .. | .vbfi .. | .vclz .. | .vclzShort .. | .vpopc .. | .vpopcShort .. | .vbrev .. | .vbrevShort ..
  | .vperm .. | .vcmp .. | .vcmpi .. | .vplog .. | .vpmov .. | .vlea .. | .vidx .. | .vfadd .. | .vfaddShort .. | .vfsub ..
  | .vfsubShort .. | .vfmul .. | .vfmulShort .. | .vfma .. | .vfmin .. | .vfminShort .. | .vfmax .. | .vfmaxShort .. | .vfcmp ..
  | .vfclass .. | .vfrnd .. | .vfrndShort .. | .vfract .. | .vfractShort .. | .vrcp .. | .vrcpShort .. | .vrsq .. | .vrsqShort ..
  | .vsqrt .. | .vsqrtShort .. | .vexp2 .. | .vexp2Short .. | .vlog2 .. | .vlog2Short .. | .vsinp .. | .vsinpShort .. | .vcosp ..
  | .vcospShort .. | .vfdiv .. | .vfdivShort .. | .vpfma .. | .vpfadd .. | .vpfmul .. | .vcvt .. | .vscl .. | .vpack .. | .vunpk ..
  | .vdot4 .. | .vdot8 .. | .vfdot2 .. | .vftag .. | .vshfl .. | .vbcst .. | .vvote .. | .vredu .. | .vscan .. | .vmatch ..
  | .vcompact .. | .vexpand .. | .smov .. | .smovShort .. | .smovi .. | .ssel .. | .sadd .. | .saddShort .. | .ssub ..
  | .ssubShort .. | .smul .. | .smulShort .. | .smulh .. | .smulhShort .. | .smin .. | .sminShort .. | .smax .. | .smaxShort ..
  | .sand .. | .sandShort .. | .sor .. | .sorShort .. | .sxor .. | .sxorShort .. | .sshl .. | .sshlShort .. | .sshr ..
  | .sshrShort .. | .ssar .. | .ssarShort .. | .sbfe .. | .sclz .. | .sclzShort .. | .spopc .. | .spopcShort .. | .scmp ..
  | .sqlog .. | .slea .. | .sidx .. => true
  | _ => false

/-- What the issue of an instruction leaves unchanged. Outside its wave: everything but the issue count, energy units and prefetch
buffer of its core, and the counters of names and draws. In the wave: the bits and tag of every register, and its full bit but where
the instruction has a variable latency and the register is a destination in an active lane; every predicate; `FMODE` and the trap
registers; every completion flag but its own; and every lane outside the PC group. -/
structure IssueFrame (i : Instr) (s t : State) : Prop where
  /-- Memory, the pairs with their scratch and FIFOs, and every other agent. -/
  outside : t = { s with waves := t.waves, cores := t.cores, nextId := t.nextId, draws := t.draws }
  /-- Every other wave. -/
  waves : ∀ w, w ≠ s.cur.wave → wv t w = wv s w
  /-- The cores. -/
  cores : ∀ c, cr t c = { cr s c with issued := (cr t c).issued, ebud := (cr t c).ebud, prefetch := (cr t c).prefetch }
  /-- The wave but for its registers' full bits, its lanes, its flags and what it has under way. -/
  wave : curWave t = { curWave s with
    lanes := (curWave t).lanes, vregs := (curWave t).vregs, sregs := (curWave t).sregs, qPend := (curWave t).qPend,
    flags := (curWave t).flags, ops := (curWave t).ops, results := (curWave t).results, pend := (curWave t).pend,
    lastIssue := (curWave t).lastIssue, starved := (curWave t).starved, priority := (curWave t).priority }
  /-- The lane registers. -/
  vregs : ∀ l r, (vreg (curWave t) l r).bits = (vreg (curWave s) l r).bits ∧ (vreg (curWave t) l r).tag = (vreg (curWave s) l r).tag ∧
    ((vreg (curWave t) l r).full = (vreg (curWave s) l r).full ∨
      ((specOf i).var = true ∧ ∃ k ∈ lanesOf (active (specOf i) s), ∃ d ∈ dstRegs (specOf i), vkey l r = vkey k d))
  /-- The uniform registers. -/
  sregs : ∀ r, (sreg (curWave t) r).bits = (sreg (curWave s) r).bits ∧
    ((sreg (curWave t) r).full = (sreg (curWave s) r).full ∨ ((specOf i).var = true ∧ r ∈ dstRegs (specOf i)))
  /-- The lanes of the PC group keep their predicates and do not sleep or exit, -/
  group : ∀ l, ln (curWave t) l = { ln (curWave s) l with
    pc := (ln (curWave t) l).pc, lastIssue := (ln (curWave t) l).lastIssue, since := (ln (curWave t) l).since,
    loopBuf := (ln (curWave t) l).loopBuf, predPend := (ln (curWave t) l).predPend }
  /-- and the others do not change. -/
  others : ∀ l, inLanes s.cur.lanes l = false → ln (curWave t) l = ln (curWave s) l
  /-- The completion flags. -/
  flags : ∀ f, f ≠ (specOf i).flag → (curWave t).flags[f]? = (curWave s).flags[f]?

/-! ### Traps -/

/-- R386, R387: the wave `w` can enter its handler: it is enabled, does not run already, and the header of the frame lies in SCRATCH
banks of the allocation; nothing of the wave is in flight. -/
structure CanTrap (s : State) (w : Nat) : Prop where
  /-- `TBA.EN`. -/
  enabled : (wv s w).tba.getLsbD 0 = true
  /-- `TSTAT.INH`. -/
  idle : inh (wv s w) = false
  /-- The header within the allocation, -/
  fits : scrIn (gp s (wv s w).group) (wv s w).tframe.toNat 1024 = true
  /-- in SCRATCH banks. -/
  modes : ∀ k < 1024, (bank s (gp s (wv s w).group).pair (scrBank (gp s (wv s w).group) ((wv s w).tframe.toNat + k))).mode = .scratch
  /-- No operation of the wave is in its replay window, -/
  window : windowUsed (wv s w) = 0
  /-- and no fixed-latency result is on its way. -/
  landed : (wv s w).pend = []

/-- R388: the bytes of the frame of a trap of wave `w`: the header, and an entry for each operation of the window that it holds. -/
def frameSize (s : State) (w : Nat) : Nat :=
  let held := ((wv s w).ops.filter fun o => o.window).filter fun o => decide (entryLanes s o ≠ 0)
  1024 + (held.map fun o => (entryBytes o (entryLanes s o)).length).sum

/-- R386: the trap word written to `s1`, `TSTAT` and the frame: INH 1, with the class, code and delivery; no entry to replay. -/
def trapWord (imp : Bool) (t : Trap) : Word := BitVec.ofNat 32 (t.cls + 32 + 64 * imp.toNat + 256 * t.code)

/-! ### Memory instructions -/

/-- R170, R285, R383: the state once a memory instruction has issued: with an active lane its operation is open, with the words it
captured, helper lanes are done with (R362), and the accesses of the others begin. -/
def memIssued (i : Instr) (s : State) : State :=
  let m := active (specOf i) s
  if m = 0 then advance (specOf i) s
  else
    let k := workLanes i (curWave s) m
    let t := skipHelpers (opened i 0 s) s.cur.wave s.nextId (m &&& ~~~k)
    if k = 0 then refreshWindow t s.cur.wave s.nextId else startMem t false s.cur.wave s.nextId k

/-- The same of a barrier instruction or `waddr` (R301, R302). -/
def barIssued (i : Instr) (s : State) : State :=
  if active (specOf i) s = 0 then advance (specOf i) s
  else startBar (opened i 0 s) false s.cur.wave s.nextId (active (specOf i) s)

/-- The memory instructions that have no condition of issue but those of every memory instruction. -/
def isPlainMemory (i : Instr) : Bool :=
  match i with
  | .ld .. | .st .. | .sld .. | .sst .. | .ldl .. | .stl .. | .atom .. | .atoml .. | .satom .. | .red .. | .cprop .. | .cget ..
  | .crecyc .. | .cprobe .. => true
  | _ => false

/-- R226: the scratch offset of lane `l` of `ldl` or `stl`: B's register, plus C's uniform value, plus the signed immediate. -/
def scratchOffset (h : Head) (m : MExt) (s : State) (l : Nat) : Int :=
  ((vread (curWave s) l h.b.toNat).toNat : Int) + (uniWord (curWave s) m.c).toNat + m.imm.toInt

/-- The scratch bytes of the wave's group at offset `o`. -/
def groupScratch (s t : State) (o n : Nat) : Nat := scrRead t (groupOf s s.cur.wave) o n

/-! ### Control, copies, engines -/

/-- R170: the state once the instruction has issued and, where a lane is active, its operation number `s.nextId` is open and `f` has been
done. -/
def begun (i : Instr) (f : State → State) (s : State) : State :=
  if active (specOf i) s = 0 then advance (specOf i) s else f (opened i 0 s)

/-- The number that the register pair at `b` of lane `l` holds. -/
def lanePair (v : Wave) (l : Nat) (b : BitVec 8) : Nat :=
  (vread v l b.toNat).toNat + 2 ^ 32 * (vread v l (b.toNat + 1)).toNat

/-- The number that the uniform register pair at `b` holds. -/
def uniPair (v : Wave) (b : BitVec 8) : Nat := (sread v b.toNat).toNat + 2 ^ 32 * (sread v (b.toNat + 1)).toNat

/-- R312: an address plus four times a 24-bit signed offset, modulo 2^64. -/
def offsetBy (x : Nat) (off : BitVec 24) : Nat := (((x : Int) + 4 * off.toInt) % 2 ^ 64).toNat

/-- R314: the instructions with register targets: whether the target page's LND is checked, the target of each lane, and whether a link
is written. -/
def registerJumps (h : Head) (t : BExt) (v : Wave) : List (Instr × Bool × (Nat → Nat) × Bool) :=
  [(.jmp h t, true, fun l => offsetBy (lanePair v l h.b) t.off, false),
   (.callRegister h t, true, fun l => offsetBy (lanePair v l h.b) t.off, true),
   (.ret h t, false, fun l => lanePair v l h.b, false), (.retShort h, false, fun l => lanePair v l 0, false),
   (.ujmp h t, true, fun _ => offsetBy (uniPair v h.b) t.off, false), (.uret h t, false, fun _ => uniPair v h.b, false),
   (.uretShort h, false, fun _ => uniPair v 0, false)]

/-- R314: the link of a call at `s.cur.pc`: the pair at `a` of each lane of `m`. -/
def laneLink (s : State) (a : BitVec 8) (m : Lanes) : Writes :=
  { noWrites with regs := (lanesOf m).flatMap fun l =>
      [(l, a.toNat, BitVec.ofNat 32 (s.cur.pc + 8), .untyped), (l, a.toNat + 1, BitVec.ofNat 32 ((s.cur.pc + 8) / 2 ^ 32), .untyped)] }

/-- R168: the state with the writes `ws` due three cycles after the issue, for lanes `m`. -/
def linked (s : State) (m : Lanes) (ws : Writes) (t : State) : State :=
  if m = 0 then t else modWv t s.cur.wave fun v => addPend v (cycAt t v.core) ws

end Sys2Proof.Machine
end

