-- ==== Sys2Proof/Certificates/Slice0/Obligations.lean ====
section
/-! DEFINITION. The statements about this machine. -/

open Sys2Proof Sys2Proof.Machine Sys2Proof.Machine.State

/-! ### Encoding -/

/-- R219 to R231: the bytes of a well-formed instruction decode to it, whatever follows them. -/
def Obligations.DecodeEncode : Prop :=
  ∀ (i : Instr) (rest : List Byte), WellFormed i = true → decode (encodeBytes i ++ rest) = .ok (i, rest)

/-- R219, R231: the words that decode to an instruction are the words of that instruction (the second only where the head says that
one follows). -/
def Obligations.EncodeDecode : Prop :=
  ∀ (w e : BitVec 32) (i : Instr), decodeWords w e = .ok i → encode i = if hasExt w then [w, e] else [w]

/-- R219 to R230: words written out from the fields of their encodings, one or more of each family, decode to the instructions they
stand for. -/
def Obligations.SpecWordsDecode : Prop :=
  ∀ p ∈ specWords, (decodeWords p.1 p.2.1).toOption = some p.2.2

/-- R220: a pair of set bit, form bit and opcode that no entry lists is no instruction, whatever its other bits hold. -/
def Obligations.UnlistedOpcodesRejected : Prop :=
  ∀ w e : BitVec 32, listedOpcode (w.getLsbD 31) (w.getLsbD 30) (w.extractLsb' 16 8).toNat = false →
    decodeWords w e = .error .noOpcode

/-! ### Lane and uniform arithmetic -/

/-- R222, R249, R252: a two-source short form of the lane set and its uniform counterpart compute A = A op B on 32-bit words, and the
result is written as R168 says; so do the forms that the lane set alone has, the distance, and-not and the rotate. -/
def Obligations.ShortFormsComputeAOpB : Prop :=
  (∀ p ∈ shortPairs, ∀ (h : Head) (s : State),
    (Issuable (p.1 h) s →
      exec (p.1 h) s = .next (issuedWith (p.1 h) (laneResult (p.1 h) s fun l =>
        [(p.2.2 (vread (curWave s) l h.a.toNat) (vread (curWave s) l h.b.toNat), .untyped)]) s)) ∧
    (Issuable (p.2.1 h) s →
      exec (p.2.1 h) s = .next (issuedWith (p.2.1 h)
        (uniResult (p.2.1 h) s (p.2.2 (uniWord (curWave s) h.a) (uniWord (curWave s) h.b)).toNat) s))) ∧
  (∀ p ∈ shortLanePairs, ∀ (h : Head) (s : State), Issuable (p.1 h) s →
    exec (p.1 h) s = .next (issuedWith (p.1 h) (laneResult (p.1 h) s fun l =>
      [(p.2 (vread (curWave s) l h.a.toNat) (vread (curWave s) l h.b.toNat), .untyped)]) s))

/-- R222, R254: the one-source short forms compute A = op B: leading zeros, 1 bits and, in the lane set, the bits reversed. -/
def Obligations.ShortFormsComputeOpB : Prop :=
  (∀ p ∈ shortSingles, ∀ (h : Head) (s : State),
    (Issuable (p.1 h) s →
      exec (p.1 h) s = .next (issuedWith (p.1 h) (laneResult (p.1 h) s fun l =>
        [(p.2.2 (vread (curWave s) l h.b.toNat), .untyped)]) s)) ∧
    (Issuable (p.2.1 h) s →
      exec (p.2.1 h) s = .next (issuedWith (p.2.1 h)
        (uniResult (p.2.1 h) s (p.2.2 (uniWord (curWave s) h.b)).toNat) s))) ∧
  (∀ (h : Head) (s : State), Issuable (.vbrevShort h) s →
    exec (.vbrevShort h) s = .next (issuedWith (.vbrevShort h) (laneResult (.vbrevShort h) s fun l =>
      [((vread (curWave s) l h.b.toNat).reverse, .untyped)]) s))

/-- R248 to R257, R271: an extended lane instruction of the integer table issues with the words its entry gives, in each active lane. -/
def Obligations.LaneIntegerCompletes : Prop :=
  ∀ p ∈ laneTable, ∀ (h : Head) (g : GExt) (s : State), Issuable (p.1 h g) s →
    exec (p.1 h g) s = .next (issuedWith (p.1 h g) (laneResult (p.1 h g) s fun l =>
      plain (p.2.1 g) (p.2.2 g (source (p.1 h g) s l))) s)

/-- R248: an element-wise result holds in element `k` the exact result of the elements `k`, wrapped to the element's width without SAT
and clamped to its range with it, and holds nothing above its last element. -/
def Obligations.ElementsAreIndependent : Prop :=
  ∀ (g : GExt) (f : Int → Int → Int) (b c : Nat),
    intOp g f b c < 2 ^ (elemW (gT g) * elemN (gT g)) ∧
    ∀ k < elemN (gT g),
      let w := elemW (gT g)
      let x := f (elem (gT g) b k) (elem (gT g) c k)
      let r : Int := (intOp g f b c / 2 ^ (w * k) % 2 ^ w : Nat)
      (g.sat = false → r = x % 2 ^ w) ∧
      (g.sat = true → 16 ≤ gT g → r = max 0 (min x (2 ^ w - 1))) ∧
      (g.sat = true → gT g < 16 → r = (max (-(2 ^ (w - 1))) (min x (2 ^ (w - 1) - 1))) % 2 ^ w)

/-- R252: the shifts and the rotate take their amount from bits [7:0] of the second operand; a shift by W or more gives 0, or for the
arithmetic right shift the sign bit everywhere; the rotate is by the amount modulo W; W is 32 or 64 by T. -/
def Obligations.ShiftsAndRotate : Prop :=
  ∀ (g : GExt) (b : BitVec 64) (c : Nat), gT g < 2 →
    let n := c % 256
    (gT g = 0 →
      let x := b.setWidth 32
      shlOp g x.toNat c = (x <<< n).toNat ∧ shrOp g x.toNat c = (x >>> n).toNat ∧
      sarOp g x.toNat c = (x.sshiftRight n).toNat ∧ rotOp g x.toNat c = (x.rotateLeft (n % 32)).toNat) ∧
    (gT g = 1 →
      shlOp g b.toNat c = (b <<< n).toNat ∧ shrOp g b.toNat c = (b >>> n).toNat ∧
      sarOp g b.toNat c = (b.sshiftRight n).toNat ∧ rotOp g b.toNat c = (b.rotateLeft (n % 64)).toNat)

/-- R257: `vlea` writes the 64-bit sum of its base pair and its index, sign-extended with T[2] and zero-extended without it, times 2
to the power T[1:0]; the pair registers it names must be even; its opcode is 0x24. -/
def Obligations.LeaAddsScaledIndex : Prop :=
  ∀ (h : Head) (g : GExt) (s : State),
    ((encode (.vlea h g)).map (fun w => w.extractLsb' 16 8)).head? = some 0x24 ∧
    (WellFormed (.vlea h g) = true → h.a.toNat % 2 = 0 ∧ h.b.toNat % 2 = 0) ∧
    (Issuable (.vlea h g) s →
      exec (.vlea h g) s = .next (issuedWith (.vlea h g) (laneResult (.vlea h g) s fun l =>
        let base := vread (curWave s) l (h.b.toNat + 1) ++ vread (curWave s) l h.b.toNat
        let c := vread (curWave s) l g.c.toNat
        let x := if g.t.getLsbD 2 then c.signExtend 64 else c.setWidth 64
        let r := base + x <<< (gT g % 4)
        [(r.extractLsb' 0 32, .untyped), (r.extractLsb' 32 32, .untyped)]) s))

/-- R308, R309: an extended uniform instruction of the table issues with the number its entry gives, once for the PC group. -/
def Obligations.UniformIntegerCompletes : Prop :=
  ∀ p ∈ uniTable, ∀ (h : Head) (g : GExt) (s : State), Issuable (p.1 h g) s →
    exec (p.1 h g) s = .next (issuedWith (p.1 h g) (uniResult (p.1 h g) s (p.2 g (source (p.1 h g) s 0))) s)

/-- R245, R251, R258, R309, R311: a move copies bits and tag, a select copies those of the register its predicate names, and the uniform move,
select, literal and index write the value named. -/
def Obligations.MovesSelectsAndLiterals : Prop :=
  ∀ (h : Head) (g : GExt) (e : IExt) (x : BitVec 32) (s : State),
    let v := curWave s
    let copy := fun (l r n : Nat) => (List.range n).map fun k => (vread v l (r + k), (vreg v l (r + k)).tag)
    (Issuable (.vmov h g) s →
      exec (.vmov h g) s =
        .next (issuedWith (.vmov h g) (laneResult (.vmov h g) s fun l => copy l h.b.toNat (wide (gT g))) s)) ∧
    (Issuable (.vmovShort h) s →
      exec (.vmovShort h) s = .next (issuedWith (.vmovShort h) (laneResult (.vmovShort h) s fun l => copy l h.b.toNat 1) s)) ∧
    (Issuable (.vsel h g) s →
      exec (.vsel h g) s = .next (issuedWith (.vsel h g) (laneResult (.vsel h g) s fun l =>
        if pred v l g.e.toNat then copy l h.b.toNat (wide (gT g)) else copy l g.c.toNat (wide (gT g))) s)) ∧
    (Issuable (.smovShort h) s →
      exec (.smovShort h) s =
        .next (issuedWith (.smovShort h) (uniResult (.smovShort h) s (uniWord v h.b).toNat) s)) ∧
    (Issuable (.ssel h g) s →
      exec (.ssel h g) s = .next (issuedWith (.ssel h g) (uniResult (.ssel h g) s
        (if upred v g.e.toNat then source (.ssel h g) s 0 0 else source (.ssel h g) s 0 1)) s)) ∧
    (Issuable (.smovi h x) s →
      exec (.smovi h x) s = .next (issuedWith (.smovi h x) (uniResult (.smovi h x) s x.toNat) s)) ∧
    (Issuable (.vidx h e) s →
      exec (.vidx h e) s = .next (issuedWith (.vidx h e) (laneResult (.vidx h e) s fun l =>
        plain 1 (indexVal (gp s v.group) v l e.sub.toNat)) s)) ∧
    (Issuable (.sidx h e) s →
      exec (.sidx h e) s =
        .next (issuedWith (.sidx h e) (uniResult (.sidx h e) s (indexVal (gp s v.group) v 0 e.sub.toNat)) s))

/-- R251: the lane immediates: the immediate sign-extended, zero-extended or shifted left by 16; the high half replaced; and the sum
with the sign-extended immediate, clamped to the signed range where SUB[0] is 1. -/
def Obligations.LaneImmediates : Prop :=
  ∀ (h : Head) (e : IExt) (s : State),
    let v := curWave s
    (Issuable (.vmovi h e) s →
      exec (.vmovi h e) s = .next (issuedWith (.vmovi h e) (laneResult (.vmovi h e) s fun _ =>
        [(if e.sub = 0 then e.imm.signExtend 32 else if e.sub = 1 then e.imm.setWidth 32 else e.imm ++ 0#16, .untyped)]) s)) ∧
    (Issuable (.vmovh h e) s →
      exec (.vmovh h e) s = .next (issuedWith (.vmovh h e) (laneResult (.vmovh h e) s fun l =>
        [(e.imm ++ (source (.vmovh h e) s l 0 : BitVec 16), .untyped)]) s)) ∧
    (Issuable (.vaddi h e) s →
      exec (.vaddi h e) s = .next (issuedWith (.vaddi h e) (laneResult (.vaddi h e) s fun l =>
        let b := vread v l h.b.toNat
        let i := e.imm.signExtend 32
        [(if e.sub.getLsbD 0 then
            BitVec.ofInt 32 (max (-(2 ^ 31)) (min (b.toInt + i.toInt) (2 ^ 31 - 1)))
          else b + i, .untyped)]) s))

/-- R255, R256, R310: the lane comparisons decide a predicate of each active lane, the uniform ones a uniform predicate; the truth
tables read bit 2 * b + c; a combination is applied to what the comparison finds. -/
def Obligations.PredicatesDecided : Prop :=
  ∀ (h : Head) (g : GExt) (e : IExt) (s : State),
    let v := curWave s
    (Issuable (.vcmp h g) s →
      exec (.vcmp h g) s = .next (issuedWith (.vcmp h g) (laneDecides (.vcmp h g) s h.a.toNat fun l =>
        combine g.e.toNat (cmpOp (gT g) (source (.vcmp h g) s l 0) (source (.vcmp h g) s l 1)) (pred v l (g.e.toNat % 8))) s)) ∧
    (Issuable (.vcmpi h e) s →
      exec (.vcmpi h e) s = .next (issuedWith (.vcmpi h e) (laneDecides (.vcmpi h e) s h.a.toNat fun l =>
        let b := vread v l h.b.toNat
        if e.sub.getLsbD 3 then relOf (e.sub.toNat % 8) b.toNat e.imm.toNat else relOf (e.sub.toNat % 8) b.toInt e.imm.toInt) s)) ∧
    (Issuable (.vplog h g) s →
      exec (.vplog h g) s = .next (issuedWith (.vplog h g) (laneDecides (.vplog h g) s h.a.toNat fun l =>
        (gT g).testBit (2 * (pred v l h.b.toNat).toNat + (pred v l g.c.toNat).toNat)) s)) ∧
    (Issuable (.scmp h g) s →
      exec (.scmp h g) s = .next (issuedWith (.scmp h g) { noWrites with qs := [(h.a.toNat,
        combine g.e.toNat (cmpOp (gT g) (source (.scmp h g) s 0 0) (source (.scmp h g) s 0 1)) (upred v (g.e.toNat % 8)))] } s)) ∧
    (Issuable (.sqlog h g) s →
      exec (.sqlog h g) s = .next (issuedWith (.sqlog h g) { noWrites with qs := [(h.a.toNat,
        (gT g).testBit (2 * (upred v h.b.toNat).toNat + (upred v g.c.toNat).toNat))] } s))

/-- R256: the four forms of `vpmov`: the eight predicates as a byte, predicates 1 to 7 from a register's bits, one predicate as 0 or
1, and a predicate from a register that is not zero. -/
def Obligations.PredicateMoves : Prop :=
  ∀ (h : Head) (g : GExt) (s : State), Issuable (.vpmov h g) s →
    let i := Instr.vpmov h g
    let v := curWave s
    (gT g = 0 → exec i s = .next (issuedWith i (laneResult i s fun l =>
      [(BitVec.ofNat 32 ((List.range 8).foldl (fun x k => x + (pred v l k).toNat * 2 ^ k) 0), .untyped)]) s)) ∧
    (gT g = 1 → exec i s = .next (issuedWith i (laneOutputs i s fun l =>
      { regs := [], preds := [1, 2, 3, 4, 5, 6, 7].map fun k => (k, (vread v l h.b.toNat).getLsbD k), raised := 0 }) s)) ∧
    (gT g = 2 → exec i s = .next (issuedWith i (laneResult i s fun l => [(if pred v l h.b.toNat then 1 else 0, .untyped)]) s)) ∧
    (3 ≤ gT g → exec i s = .next (issuedWith i (laneDecides i s h.a.toNat fun l => decide (vread v l h.b.toNat ≠ 0)) s))

/-- R259 to R266: a floating-point instruction of a wave with no trap enabled issues with each element of each active lane rounded on
its own, and the flags its elements raise made sticky. Where rounding is stochastic its draws are counted (log 12). -/
def Obligations.FloatCompletes : Prop :=
  (∀ p ∈ floatTable, ∀ (h : Head) (g : GExt) (s : State), Issuable (p.1 h g) s → noArithTraps (curWave s) →
    exec (p.1 h g) s =
      .next (drawn g.rm s (issuedWith (p.1 h g) (laneOutputs (p.1 h g) s (floatLane (p.1 h g) g p.2 s)) s))) ∧
  (∀ p ∈ floatShorts, ∀ (h : Head) (s : State), Issuable (p.1 h) s → noArithTraps (curWave s) →
    exec (p.1 h) s =
      .next (drawn 0 s (issuedWith (p.1 h) (laneOutputs (p.1 h) s (floatLane (p.1 h) (shortG h.b) p.2 s)) s))) ∧
  (∀ p ∈ fp8Table, ∀ (h : Head) (g : GExt) (s : State), Issuable (p.1 h g) s → noArithTraps (curWave s) →
    exec (p.1 h g) s =
      .next (drawn g.rm s (issuedWith (p.1 h g) (laneOutputs (p.1 h g) s (fp8Lane (p.1 h g) g p.2 s)) s)))


/-- R263, R267 to R270, R272, R273, R262: the conversions, packs, scales, the floating dot product, the comparison, the classification
and the tag operation issue with each active lane computed from its own sources, in a wave with no trap enabled. Where rounding is
stochastic its draws are counted (log 12). -/
def Obligations.ConversionsComplete : Prop :=
  ∀ (h : Head) (g : GExt) (s : State), noArithTraps (curWave s) →
    let v := curWave s
    let t := gT g
    let r := fun l k => rndOf v g.rm g.sat s.draws l k
    let goes := fun (i : Instr) (f : Nat → (Nat → Nat) → LaneOut) =>
      Issuable i s → exec i s = .next (issuedWith i (laneOutputs i s fun l => f l (source i s l)) s)
    let rounds := fun (i : Instr) (f : Nat → (Nat → Nat) → LaneOut) =>
      Issuable i s → exec i s = .next (drawn g.rm s (issuedWith i (laneOutputs i s fun l => f l (source i s l)) s))
    rounds (.vcvt h g) (fun l x => cvtOp t (r l) (x 0)) ∧
    rounds (.vpack h g) (fun l x => packOp t (r l) (x 0) (x 1) (x 2)) ∧
    rounds (.vscl h g) (fun l x => sclOp t (r l) (x 0) (x 1)) ∧
    rounds (.vfdot2 h g) (fun l x => fdot2Op t (r l 0) (x 0) (x 1) (x 2)) ∧
    goes (.vunpk h g) (fun l x => unpkOp t { rndOf v 1 false 0 l 0 with sat := false } (x 0) (x 1) (x 2)) ∧
    goes (.vfcmp h g) (fun l x =>
      let f := fmtOf (t % 4)
      let c := fcmpOp (t / 4) (readVal f (den v) (x 0)) (readVal f (den v) (x 1))
      { regs := [], preds := [(h.a.toNat, combine g.e.toNat c.1 (pred v l (g.e.toNat % 8)))], raised := c.2 }) ∧
    goes (.vfclass h g) (fun _ x =>
      { regs := [(BitVec.ofNat 32 (pack 16 (fpN t) fun k => classOf (fmtOf t) (x 0 / 2 ^ ((fmtOf t).width * k) % 2 ^ (fmtOf t).width)),
          .untyped)],
        preds := [], raised := 0 }) ∧
    goes (.vftag h g) (fun l x =>
      { regs := [if t = 16 then (BitVec.ofNat 32 (tagCode (vreg v l h.b.toNat).tag), .untyped) else (BitVec.ofNat 32 (x 0), tagOfCode t)],
        preds := [], raised := 0 })

/-- R200, R201: a sum, difference, product, quotient, fused product and root with a NaN among the operands give the canonical NaN of
the format, and raise IV where one of them is signalling. -/
def Obligations.NanOperandsGiveCanonicalNan : Prop :=
  ∀ (f : Fmt) (c : Rnd) (x y z : Nat), f ∈ [F64, F32, F16, BF16, E5M2, E4M3] →
    let nan := fun w => isNan (readVal f c.den w)
    let sig := fun w => isSig (readVal f c.den w)
    (nan x || nan y → ∀ op ∈ [fAdd, fSub, fMul, fDiv],
      (op f c [x, y]).bits = f.nanBits ∧ ((sig x || sig y) = true → (op f c [x, y]).raised &&& fIv = fIv)) ∧
    (nan x || nan y || nan z →
      (fFma f c [x, y, z]).bits = f.nanBits ∧ ((sig x || sig y || sig z) = true → (fFma f c [x, y, z]).raised &&& fIv = fIv)) ∧
    (nan x → (fSqrt f c [x]).bits = f.nanBits ∧ (sig x = true → (fSqrt f c [x]).raised &&& fIv = fIv))

/-! ### Exchange and compaction -/

/-- R274 to R277, R279: the exchanges between active lanes. A lane whose source lane is not active or not valid takes the register of
the E field; `vrdln` of an exited lane gives 0; `vwrln` writes the register of the lane it names, which is empty until then. -/
def Obligations.ExchangesComplete : Prop :=
  ∀ (h : Head) (g : GExt) (s : State),
    let v := curWave s
    let b := h.b.toNat
    let copy := fun l r => [(vread v l r, (vreg v l r).tag)]
    let one := fun n : Nat => [(BitVec.ofNat 32 n, Tag.untyped)]
    let act := fun i => active (specOf i) s
    (Issuable (.vshfl h g) s → exec (.vshfl h g) s = .next (issuedWith (.vshfl h g) (laneResult (.vshfl h g) s fun l =>
      match shflSource (gT g) l ((vread v l g.c.toNat).toNat % 32) with
      | some k => if inLanes (act (.vshfl h g)) k then copy k b else copy l g.e.toNat
      | none => copy l g.e.toNat) s)) ∧
    (Issuable (.vbcst h g) s → exec (.vbcst h g) s = .next (issuedWith (.vbcst h g) (laneResult (.vbcst h g) s fun l =>
      let m := act (.vbcst h g)
      let k := if gT g = 0 then firstLane m else if gT g = 1 then (lanesOf m).getLastD 0
        else (vread v (firstLane m) g.c.toNat).toNat % 32
      if inLanes m k then copy k b else copy l g.e.toNat) s)) ∧
    (Issuable (.vvote h g) s → exec (.vvote h g) s = .next (issuedWith (.vvote h g) (laneResult (.vvote h g) s fun _ =>
      let ls := lanesOf (act (.vvote h g))
      let x := fun k => (vread v k b).toNat
      one (match gT g with
        | 0 => (ls.all fun k => decide (x k ≠ 0)).toNat
        | 1 => (ls.any fun k => decide (x k ≠ 0)).toNat
        | 2 => (lanesWhere fun k => inLanes (act (.vvote h g)) k && decide (x k ≠ 0)).toNat
        | 3 => (ls.all fun k => decide (x k = x (firstLane (act (.vvote h g))))).toNat
        | _ => (act (.vvote h g)).toNat)) s)) ∧
    (Issuable (.vmatch h g) s → exec (.vmatch h g) s = .next (issuedWith (.vmatch h g) (laneResult (.vmatch h g) s fun l =>
      let x := fun k => vrun v k b (wide (gT g))
      one (lanesWhere fun k => inLanes (act (.vmatch h g)) k && decide (x k = x l)).toNat) s)) ∧
    (let i := Instr.vrdln h g
     let k := fun l => (vread v l g.c.toNat).toNat % 32
     Issuable i s → b < 8 * v.h → (∀ l ∈ lanesOf (act i), (ln v (k l)).exited = true ∨ vEmpty v (k l) b = false) →
      exec i s = .next (issuedWith i (laneResult i s fun l => if (ln v (k l)).exited then one 0 else copy (k l) b) s)) ∧
    (let i := Instr.vwrln h g
     Issuable i s → h.a.toNat < 8 * v.h → vEmpty v (gT g) h.a.toNat = false →
      exec i s = .next (
        if act i = 0 ∨ (ln v (gT g)).exited then advance (specOf i) s
        else
          let first := firstLane (act i)
          modWv (issuedWith i { noWrites with regs := [(gT g, h.a.toNat, vread v first b, (vreg v first b).tag)] } s) s.cur.wave
            fun u => setVreg u (gT g) h.a.toNat { vreg u (gT g) h.a.toNat with full := false }))

/-- R278: the reduction gives every active lane one number, the tree of its combinations over the active lanes; the scan gives each
lane the combination over the active lanes up to it, or below it, and the identity where there is none. The floating-point forms
read each operand as a step does (a NaN canonical, a subnormal as FMODE.DEN says), round each step, tag the result, and make the flags of the steps sticky where no trap is enabled. Where rounding is
stochastic its draws are counted (log 12). -/
def Obligations.ReductionsComplete : Prop :=
  ∀ (h : Head) (g : GExt) (s : State),
    let v := curWave s
    let op := gT g % 16
    let x := fun l => (vread v l h.b.toNat).toNat
    let fold := fun ls : List Nat => match ls with
      | [] => reduId op
      | l :: r => r.foldl (fun a k => reduInt op a (x k)) (x l)
    let rounds := fun ls : List Nat => match ls with
      | [] => (reduId op, 0)
      | l :: r => r.foldl (fun (a : Nat × Word) k =>
          ((reduStep v g.rm s.draws op k 0 a.1 (x k)).bits, a.2 ||| (reduStep v g.rm s.draws op k 0 a.1 (x k)).raised))
          ((reduIn v op (x l)).bits, (reduIn v op (x l)).raised)
    let upto := fun (m : Lanes) l => (lanesOf m).filter fun k => decide (k < l) || (!(gT g).testBit 4 && decide (k = l))
    (let i := Instr.vredu h g
     let m := active (specOf i) s
     let tree := reduTree (fun level j b c => reduStep v g.rm s.draws op (2 ^ level * j) level b c) 5 1
       ((List.range 32).map fun l => if inLanes m l then some (reduIn v op (x l)).bits else none)
     let read := (lanesOf m).foldl (fun w l => w ||| (reduIn v op (x l)).raised) 0
     Issuable i s →
      (op < 8 → exec i s = .next (drawn g.rm s (issuedWith i (laneResult i s fun _ =>
        [(BitVec.ofNat 32 (fold (lanesOf m)), .untyped)]) s))) ∧
      (8 ≤ op → noArithTraps v → exec i s = .next (drawn g.rm s (issuedWith i (laneOutputs i s fun _ =>
        { regs := [(BitVec.ofNat 32 ((tree.1.headD none).getD 0), .f32)], preds := [], raised := read ||| tree.2 }) s)))) ∧
    (let i := Instr.vscan h g
     let m := active (specOf i) s
     Issuable i s →
      (op < 8 → exec i s = .next (drawn g.rm s (issuedWith i (laneResult i s fun l =>
        [(BitVec.ofNat 32 (fold (upto m l)), .untyped)]) s))) ∧
      (8 ≤ op → noArithTraps v → exec i s = .next (drawn g.rm s (issuedWith i
        { laneResult i s (fun l => [(BitVec.ofNat 32 (rounds (upto m l)).1, .f32)]) with sticky := (rounds (lanesOf m)).2 } s))))

/-- R281: of 48 elements `n` are kept, in ascending order of index: those of largest magnitude, the lower index first among equals;
and it is told whether more than `n` are not zero. -/
def Obligations.CompactionKeepsTheLargest : Prop :=
  ∀ (rank : Nat → Nat) (n : Nat), n ≤ 48 →
    let ks := (keepOf rank n).1
    ks.length = n ∧ ks.Pairwise (· < ·) ∧ (∀ i ∈ ks, i < 48) ∧
    (∀ i ∈ ks, ∀ j < 48, j ∉ ks → rank j < rank i ∨ (rank j = rank i ∧ i < j)) ∧
    ((keepOf rank n).2 = true ↔ n < ((List.range 48).filter fun i => decide (rank i ≠ 0)).length)

/-- R281 to R284: compaction of a lane's elements, the row form, whose saturated counts set `FMODE.CSAT` or trap, and expansion. -/
def Obligations.CompactionCompletes : Prop :=
  ∀ (h : Head) (g : GExt) (s : State),
    let v := curWave s
    (let i := Instr.vcompact h g
     Issuable i s → exec i s = .next (issuedWith i (laneOutputs i s fun l =>
        let c := compactLane (gT g) (vrun v l h.b.toNat 12)
        { regs := c.1, preds := [(g.e.toNat, c.2)], raised := 0 }) s)) ∧
    (let i := Instr.vcompactRow h g
     let m := active (specOf i) s
     let x := fun l => (vread v l h.b.toNat).toNat
     let kept := (lanesOf m).filter fun l => if (gT g).testBit 2 then !(isZero (readVal F32 (den v) (x l))) else decide (x l ≠ 0)
     let d := (vread v (firstLane m) g.c.toNat).toNat
     let full := 65535 < d % 65536 + kept.length ∨ d / 65536 = 65535
     Issuable i s →
      (full → v.fmode.getLsbD 5 = true → m ≠ 0 → exec i s = .next (raisePrecise
        (modWv s s.cur.wave fun u => { u with fmode := u.fmode ||| fCsat }) (trapOf i 4 8 m))) ∧
      (¬ full ∨ v.fmode.getLsbD 5 = false → exec i s = .next (issuedWith i
        { laneOutputs i s (fun l =>
            let r := (lanesOf m).idxOf l
            { regs := (match kept[r]? with
                | some c => [(vread v c h.b.toNat, (vreg v c h.b.toNat).tag), (BitVec.ofNat 32 (min (d % 65536 + r) 65535 + 65536 * c), .untyped)]
                | none => [(0, .untyped), (0xFFFFFFFF, .untyped)]) ++
                [(BitVec.ofNat 32 (min (d % 65536 + kept.length) 65535 + 65536 * min (d / 65536 + 1) 65535), .untyped)]
              preds := [(g.e.toNat, decide full)], raised := 0 })
          with sticky := if full then fCsat else 0 } s))) ∧
    (let i := Instr.vexpand h g
     let t := gT g
     Issuable i s → exec i s = .next (issuedWith i (laneOutputs i s fun l =>
        { regs := (natWords 12 (expandLane t (wordsNat (vrun v l h.b.toNat (compactN t / 4)))
            (wordsNat (vrun v l g.c.toNat (compactQ t))))).map fun w => (w, compactTag t),
          preds := [], raised := 0 }) s))

/-! ### Issue -/

/-- R168, R172, R242, R246: in a wave with no trap enabled, an arithmetic instruction that meets the conditions of issue issues, and
leaves unchanged everything that `IssueFrame` names: memory, every other wave, every register's bits and tag, every predicate. -/
def Obligations.ArithmeticFrame : Prop :=
  ∀ (i : Instr) (s : State), isArithmetic i = true → Issuable i s → noArithTraps (curWave s) →
    ∃ t, exec i s = .next t ∧ IssueFrame i s t

/-- R246, R209, R278: an instruction one of whose active lanes raises an enabled exception takes a precise ARITH trap, whose code names
the exceptions raised and enabled and whose mask the lanes that raised one, makes every exception raised sticky, and writes no
destination: the floating-point instructions and their short forms, the packed FP8 ones, the conversions, packs, scales and the dot
product, the comparison, and the floating-point reduction and scan. -/
def Obligations.EnabledExceptionTraps : Prop :=
  ∀ (h : Head) (g : GExt) (s : State),
    let v := curWave s
    let t := gT g
    let r := fun l k => rndOf v g.rm g.sat s.draws l k
    let traps := fun (i : Instr) (out : Nat → LaneOut) =>
      Issuable i s → raisesEnabled i out s → exec i s = .next (arithTrapped i out 0 s)
    let rounds := fun (i : Instr) (rm : BitVec 3) (out : Nat → LaneOut) (more : Word) =>
      Issuable i s → raisesEnabled i out s → exec i s = .next (drawn rm s (arithTrapped i out more s))
    let conv := fun (i : Instr) (f : Nat → (Nat → Nat) → LaneOut) => rounds i g.rm (fun l => f l (source i s l)) 0
    (∀ p ∈ floatTable, rounds (p.1 h g) g.rm (floatLane (p.1 h g) g p.2 s) 0) ∧
    (∀ p ∈ floatShorts, rounds (p.1 h) 0 (floatLane (p.1 h) (shortG h.b) p.2 s) 0) ∧
    (∀ p ∈ fp8Table, rounds (p.1 h g) g.rm (fp8Lane (p.1 h g) g p.2 s) 0) ∧
    conv (.vcvt h g) (fun l x => cvtOp t (r l) (x 0)) ∧
    conv (.vpack h g) (fun l x => packOp t (r l) (x 0) (x 1) (x 2)) ∧
    conv (.vscl h g) (fun l x => sclOp t (r l) (x 0) (x 1)) ∧
    conv (.vfdot2 h g) (fun l x => fdot2Op t (r l 0) (x 0) (x 1) (x 2)) ∧
    traps (.vunpk h g) (fun l =>
      let x := source (.vunpk h g) s l
      unpkOp t { rndOf v 1 false 0 l 0 with sat := false } (x 0) (x 1) (x 2)) ∧
    traps (.vfcmp h g) (fun l =>
      let x := source (.vfcmp h g) s l
      { regs := [], preds := [], raised := (fcmpOp (t / 4) (readVal (fmtOf (t % 4)) (den v) (x 0)) (readVal (fmtOf (t % 4)) (den v) (x 1))).2 }) ∧
    (8 ≤ t % 16 → rounds (.vredu h g) g.rm (fun _ => reduOut h g s) 0) ∧
    (8 ≤ t % 16 → rounds (.vscan h g) g.rm (scanOut h g s) (scanOf h g s (lanesOf (active (specOf (.vscan h g)) s))).2)

/-- R196, R231, R178: the conditions of issue in their order, for the arithmetic instructions and for the matrix instructions that compute
on a tile of the leader. A register run beyond what the wave holds is an illegal instruction. Then the first condition that fails
decides: (1) the distance, (2) the wait mask, (3) a pending guard, an empty source (a trap where its trap bit is set), an empty
destination or a pending predicate, (4) a pending guard slot, (5) the energy, (6) the baton, which traps, (7) a full flag and a full
replay window. Nothing but the note of the wait changes (and the count of draws, log 12). -/
def Obligations.IllegalRunsTrapAndWaitsHold : Prop :=
  ∀ (i : Instr) (s : State),
    let v := curWave s
    let sp := specOf i
    let m := active sp s
    let onTile := ∃ h n, i ∈ [Instr.mma h n, .mmas h n, .mmap h n, .mzero h n, .mfill h n, .mdrain h n, .mscale h n] ∧
      v.core % 2 = 0 ∧ h.a.toNat < (groupOf s s.cur.wave).kernel.accum
    let upToDraws := fun (o : State) => ∃ n, exec i s = .next (withDraws n o)
    let waits := fun k => upToDraws (stall s k)
    let traps := fun c => upToDraws (raisePrecise (stall s (trapCondition c)) (trapOf i c 0 s.cur.lanes))
    let past2 := runsIn v sp = true ∧ distOk v (cycAt s v.core) s.cur.lanes sp.d = true ∧ flagsClear v sp.w = true
    let past3 := past2 ∧ guardWait v sp s.cur.lanes = false ∧ (∀ x ∈ sp.srcs, srcEmpty v m x = false) ∧
      (∀ d ∈ sp.dsts, dstEmpty v m d = false) ∧ predWait v sp m = false
    let past4 := past3 ∧ (sp.g = 0 ∨ slotPending v sp.g = false)
    let past5 := past4 ∧ ∀ e, sp.ec = some e → ebudOk s v.core v.ctx e = true
    let past6 := past5 ∧ (sp.mat = true → (pr s (corePair v.core)).baton = some s.cur.wave)
    isArithmetic i = true ∨ onTile →
    (runsIn v sp = false → traps 1) ∧
    (runsIn v sp = true → distOk v (cycAt s v.core) s.cur.lanes sp.d = false → waits 1) ∧
    (runsIn v sp = true → distOk v (cycAt s v.core) s.cur.lanes sp.d = true → flagsClear v sp.w = false → waits 2) ∧
    (past2 → guardWait v sp s.cur.lanes = true → waits 3) ∧
    (past2 → guardWait v sp s.cur.lanes = false → ∀ a x b, sp.srcs = a ++ x :: b → (∀ y ∈ a, srcEmpty v m y = false) →
      srcEmpty v m x = true → (x.trap = true → traps 2) ∧ (x.trap = false → waits 3)) ∧
    (past2 → guardWait v sp s.cur.lanes = false → (∀ x ∈ sp.srcs, srcEmpty v m x = false) →
      (∃ d ∈ sp.dsts, dstEmpty v m d = true) ∨ predWait v sp m = true → waits 3) ∧
    (past3 → sp.g ≠ 0 → slotPending v sp.g = true → waits 4) ∧
    (past4 → ∀ e, sp.ec = some e → ebudOk s v.core v.ctx e = false → waits 5) ∧
    (past5 → sp.mat = true → (pr s (corePair v.core)).baton ≠ some s.cur.wave → traps 5) ∧
    (past6 → 63 ≤ v.flags.getD sp.flag 0 ∨ (sp.win = true ∧ 16 ≤ windowUsed v) → waits 7)

/-- R168: of the fixed-latency writes on their way, those that fall due later stay as they are and are not in the registers, and those that
are due land in their order, each over what the ones before it left. -/
def Obligations.FixedResultsLandWhenDue : Prop :=
  ∀ (s : State) (now w : Nat),
    let v := wv s w
    let u := wv (tickWave s now w) w
    let x := (v.pend.filter fun p => decide (p.due ≤ now)).foldl (fun y p => land false y p.writes) v
    u.pend = v.pend.filter (fun p => decide (now < p.due)) ∧
    u.vregs = x.vregs ∧ u.sregs = x.sregs ∧ u.fmode = x.fmode ∧ u.q = x.q ∧ (∀ l k, pred u l k = pred x l k) ∧
    ((∀ p ∈ v.pend, now < p.due) → u.pend = v.pend ∧ u.vregs = v.vregs ∧ u.sregs = v.sregs ∧ u.fmode = v.fmode ∧ u.q = v.q) ∧
    (∀ a, a ≠ w → wv (tickWave s now w) a = wv s a)

/-- R172, R206, R209, R325, R386: writes that land change the registers they list and no others: a listed register takes its bits and its
tag, and a variable-latency result makes it full; a listed predicate takes its value and is pending no more; what no entry lists keeps
its value, its tag and its full bit, and predicate 0 reads true; `FMODE` takes the sticky flags; nothing else of the wave but pending
marks, the guard slots that wait for a uniform register made full and the record of registers held empty changes. -/
def Obligations.LandWritesWhatIsListed : Prop :=
  ∀ (fill : Bool) (v : Wave) (ws : Writes), ws.sys = [] →
    let u := land fill v ws
    (∀ l r, (∀ x ∈ ws.regs, vkey x.1 x.2.1 ≠ vkey l r) → vreg u l r = vreg v l r) ∧
    ((ws.regs.map fun x => vkey x.1 x.2.1).Nodup → ∀ x ∈ ws.regs,
      (vreg u x.1 x.2.1).bits = x.2.2.1 ∧ (vreg u x.1 x.2.1).tag = x.2.2.2 ∧ (fill = true → (vreg u x.1 x.2.1).full = true)) ∧
    (∀ r, (∀ x ∈ ws.sregs, x.1 ≠ r) → sreg u r = sreg v r) ∧
    ((ws.sregs.map Prod.fst).Nodup → ∀ x ∈ ws.sregs,
      (sreg u x.1).bits = x.2 ∧ (fill = true → (sreg u x.1).full = true)) ∧
    (∀ l k, (∀ x ∈ ws.preds, x.1 ≠ l ∨ x.2.1 % 8 ≠ k % 8) → pred u l k = pred v l k) ∧
    ((∀ x ∈ ws.preds, x.2.1 < 8) → (ws.preds.map fun x => (x.1, x.2.1)).Nodup → ∀ x ∈ ws.preds, x.1 < v.lanes.length → 0 < x.2.1 →
      pred u x.1 x.2.1 = x.2.2 ∧ (fill = true → (ln u x.1).predPend.getLsbD x.2.1 = false)) ∧
    (∀ k, (∀ x ∈ ws.qs, x.1 ≠ k) → upred u k = upred v k) ∧
    ((∀ x ∈ ws.qs, x.1 < 8) → (ws.qs.map Prod.fst).Nodup → ∀ x ∈ ws.qs, 0 < x.1 →
      upred u x.1 = x.2 ∧ (fill = true → u.qPend.getLsbD x.1 = false)) ∧
    (∀ l, pred u l 0 = true) ∧ upred u 0 = true ∧
    u.fmode = v.fmode ||| ws.sticky ∧
    (ws.sregs = [] → u.guards = v.guards) ∧
    (fill = true → u.guards = ws.sregs.foldl (fun gs x => gs.map (fillGuard x.1 x.2)) v.guards) ∧
    u = { v with
      vregs := u.vregs, sregs := u.sregs, lanes := u.lanes, q := u.q, qPend := u.qPend, fmode := u.fmode,
      replayEmpty := u.replayEmpty, guards := u.guards } ∧
    (∀ l, ln u l = { ln v l with preds := (ln u l).preds, predPend := (ln u l).predPend })

/-! ### Traps -/

/-- R386, R388: a precise or imprecise trap of a wave with nothing in flight. The header of the frame is written where `TFRAME` says;
`s0` holds the frame's offset and `s1` and `TSTAT` the new trap word; every lane that is awake stands at the handler, and every other
lane, every other register and all else of the wave stays. -/
def Obligations.TrapTaken : Prop :=
  ∀ (s : State) (w : Nat) (imp : Bool) (r : Trap), CanTrap s w → r.cls < 32 → r.code < 256 → r.data < 2 ^ 64 → r.status < 2 ^ 32 →
    let v := wv s w
    let g := gp s v.group
    let t := takeTrap s w imp r
    let u := wv t w
    let f := fun o n => scrRead t g (v.tframe.toNat + o) n
    u.tstat = trapWord imp r ∧ sreg u 0 = { bits := v.tframe, full := true } ∧ sreg u 1 = { bits := trapWord imp r, full := true } ∧
    (∀ l, awake (ln v l) = true → ln u l = { ln v l with pc := handlerPc v }) ∧ (∀ l, awake (ln v l) = false → ln u l = ln v l) ∧
    u.vregs = v.vregs ∧ (∀ k, 2 ≤ k → sreg u k = sreg v k) ∧ u.q = v.q ∧ u.fmode = v.fmode ∧ u.flags = v.flags ∧ u.h = v.h ∧
    f 0 4 = (trapWord imp r).toNat ∧ f 4 4 = r.lmask.toNat ∧ f 8 4 = r.head.toNat ∧ f 12 4 = r.ext.toNat ∧ f 16 8 = r.data ∧
    f 24 4 = r.status ∧ f 28 4 = (sreg v 0).bits.toNat ∧ f 32 4 = (sreg v 1).bits.toNat ∧
    f 36 1 = (sreg v 0).full.toNat + 2 * (sreg v 1).full.toNat ∧
    (∀ l < 32, f (64 + 8 * l) 8 = if (ln v l).exited then 2 ^ 64 - 1 else (ln v l).pc % 2 ^ 64) ∧
    (∀ x, x ≠ w → wv t x = wv s x) ∧ t.mem = s.mem ∧
    (∀ a, a < scrAddr g v.tframe.toNat ∨ scrAddr g v.tframe.toNat + 1024 ≤ a →
      memByte (pr t g.pair).scratch a = memByte (pr s g.pair).scratch a)

/-- R387, R388, R391: a trap with no handler to enter is not taken: `TBA.EN` is 0, or the handler runs already, or it is enabled and idle
and the frame does not lie whole within the group's allocation and in SCRATCH banks. It is logged, with the first lane's target as the
address of a control trap and no address for a software trap, and the context is fenced. -/
def Obligations.TrapWithoutHandlerFences : Prop :=
  ∀ (s : State) (w : Nat) (imp : Bool) (r : Trap), (wv s w).pend = [] →
    let v := wv s w
    let g := gp s v.group
    let off := v.tframe.toNat
    let n := frameSize s w
    let addr := if r.cls = 7 then (r.causes.head?.map fun x => x.2.2).getD 0 else if r.cls = 8 then 0 else r.data
    v.tba.getLsbD 0 = false ∨ inh v = true ∨
      (v.tba.getLsbD 0 = true ∧ inh v = false ∧ (scrIn g off n = false ∨
        ∃ k < n, (bank s g.pair (scrBank g (off + k))).mode ≠ .scratch)) →
    takeTrap s w imp r = fence (logEntry s v.ctx (report r.code r.cls 0 v.core addr r.status)) v.ctx ∧
    (cx (takeTrap s w imp r) v.ctx).fenced = true

/-- R386, R388, R390: a trap taken by a wave with nothing in flight, and returned from with `s0` as the entry left it, gives back every
lane's PC and sleep, `s0` and `s1` with their full bits, and every other register; the handler runs no more. -/
def Obligations.ReturnUndoesEntry : Prop :=
  ∀ (s : State) (w : Nat) (imp : Bool) (r : Trap) (replay : State → Nat → Nat → Entry → State),
    CanTrap s w → r.cls < 32 → r.code < 256 → r.data < 2 ^ 64 → r.status < 2 ^ 32 →
    (∀ l < 32, let x := ln (wv s w) l; x.exited = false → canonical x.pc = true ∧ x.pc % 4 = 0 ∧ x.pc < 2 ^ 64 ∧ x.sleep ≠ .woken) →
    let v := wv s w
    let t := returnTrap (takeTrap s w imp r) w replay
    let u := wv t w
    (∀ l < 32, ln u l = ln v l) ∧ sreg u 0 = sreg v 0 ∧ sreg u 1 = sreg v 1 ∧ (∀ k, 2 ≤ k → sreg u k = sreg v k) ∧ u.vregs = v.vregs ∧
    inh u = false ∧ u.tstat = trapWord imp r &&& ~~~0x20#32 ∧ u.fmode = v.fmode ∧ u.q = v.q ∧
    (∀ x, x ≠ w → wv t x = wv s x) ∧ t.mem = s.mem

/-! ### The step -/

/-- R166, R167, R219: where the schedule's next move is the issue of quadrant `q`, its first candidate still has lanes to issue and its
wave may issue, the words at its PC decode to `i`, nothing of their fetch has to wait (log 127) and a slot of its set is free, the step
runs exactly `i` for those lanes; around it the step adds the rest of the quadrant's cycle and lets accesses leave and waits end. The
schedule is the model's (log 4). -/
def Obligations.StepRunsDecoded : Prop :=
  ∀ (s : State) (q : Nat) (x : Issue) (second : Bool) (rest : List (Issue × Bool)) (lanes unis : Nat) (chosen : Option Nat)
    (r : List Move) (s1 s2 : State) (h e : Nat) (i : Instr),
    s.moves = .issue q ((x, second) :: rest) lanes unis chosen :: r →
    let s0 := { s with moves := r }
    let y := candNow s0 x
    let v := wv s0 y.wave
    let held := groupHolds { s0 with cur := y }
    y.lanes ≠ 0 → mayIssue s0 v = true →
    fetchWord { s0 with cur := y } v.core v.ctx y.pc held = (s1, .ok h) →
    (hasExt (BitVec.ofNat 32 h) = false → s2 = s1 ∧ e = 0) →
    (hasExt (BitVec.ofNat 32 h) = true → fetchWord s1 v.core v.ctx ((y.pc + 4) % 2 ^ 64) held = (s2, .ok e)) →
    decodeWords (BitVec.ofNat 32 h) (BitVec.ofNat 32 e) = .ok i → s2.blocked = none →
    (if (specOf i).uni then unis else lanes) ≠ 0 →
    step s = mapNext (fun t => settled (afterIssue i q ((x, second) :: rest) lanes unis chosen s2.cur.wave (cr s2 (q / 4)).issued t))
      (exec i s2)

/-- Where the schedule's next move is an event, the step runs exactly that event on the operands the move names. The schedule is the
model's (log 4). An event or instruction something of which has to wait leaves the state as it was before it, so that nothing of it is
done (log 127), but for the recall of a frame that it waits for (R27); nothing is left waiting after a step. -/
def Obligations.StepRunsEvent : Prop :=
  (∀ (s : State) (i : Instr) (a : List Nat) (r : List Move), s.moves = .perform i a :: r → isEvent i = true →
    step s = mapNext settled (exec i { s with moves := r, args := a })) ∧
  (∀ s t : State, (t.blocked = none → orWait s t = t ∧ orStall s t = t) ∧
    (t.blocked = some 0 → orWait s t = s ∧ orStall s t = stall s 7) ∧
    ∀ f, t.blocked = some (f + 1) → orWait s t = startRecall s f [] ∧ orStall s t = stall (startRecall s f []) 7) ∧
  (∀ s t : State, s.blocked = none → step s = .next t → t.blocked = none)

/-- R231: words at the PC that decode to no instruction raise a precise illegal-instruction trap (class 1) at the head's address, with
the head word and, where one follows, the extension word. -/
def Obligations.IllegalEncodingTraps : Prop :=
  ∀ (s s1 s2 : State) (h e : Nat) (x : Reject),
    let v := wv s s.cur.wave
    fetchWord s v.core v.ctx s.cur.pc (groupHolds s) = (s1, .ok h) →
    (hasExt (BitVec.ofNat 32 h) = false → s2 = s1 ∧ e = 0) →
    (hasExt (BitVec.ofNat 32 h) = true → fetchWord s1 v.core v.ctx ((s.cur.pc + 4) % 2 ^ 64) (groupHolds s) = (s2, .ok e)) →
    decodeWords (BitVec.ofNat 32 h) (BitVec.ofNat 32 e) = .error x →
    fetchCur s = (raisePrecise s2 {
      cls := 1, code := 0, lmask := s.cur.lanes, head := BitVec.ofNat 32 h, ext := BitVec.ofNat 32 e, data := 0, status := 0,
      causes := [] }, none)

/-- R44, R58, R163, R180, R322, R404, R406, R408, R411, R414: values that the spec gives for reset; and that the device has
not booted then, which is the model's choice (log 2). -/
def Obligations.ResetValues : Prop :=
  State.reset.mgmt.devid = 0 ∧ State.reset.mgmt.plimit = 3300 ∧ State.reset.mgmt.owner = 0 ∧ State.reset.mgmt.lease = 0 ∧
  State.reset.mgmt.boot = .booting ∧ (∀ r, (rgn State.reset r).mode = .normal) ∧
  (∀ p k, k < 64 → bank State.reset p k = { mode := if k < 2 then .cacheL else if k < 4 then .cacheF else .reserve, owner := 0, fifo := [] }) ∧
  (∀ c, (cx State.reset c).bound = false ∧ (cx State.reset c).fields.pin = 16) ∧
  (∀ q, (qu State.reset q).en = false ∧ (qu State.reset q).head = 0 ∧ (qu State.reset q).tail = 0) ∧
  (∀ k, cycOf State.reset k = 0 ∧ (stk State.reset k).hit = 0 ∧ (stk State.reset k).miss = 0) ∧
  (∀ w, (wv State.reset w).live = false)

/-! ### Memory -/

/-- The memory after reset, which lists nothing, has the canonical form (log 1). -/
def Obligations.ResetMemoryCanonical : Prop := MemOk State.reset

/-- Every step keeps the memory in its canonical form: addresses strictly rising, and no byte listed that reads as an unlisted one. -/
def Obligations.StepKeepsMemoryCanonical : Prop := ∀ s t : State, MemOk s → step s = .next t → MemOk t

/-- R6: what a write of `n` bytes leaves: within its run a read gives the written number's bytes, least significant first, and every byte
outside the run reads as before; equal memories are equal data. -/
def Obligations.MemoryReadsBack : Prop :=
  ∀ (m m' : List Host.Cell) (a n v : Nat),
    memRead (memWrite m a n v) a n = v % 256 ^ n ∧
    (∀ b, b < a ∨ a + n ≤ b → memByte (memWrite m a n v) b = memByte m b) ∧
    (memWf m = true → memWf (memWrite m a n v) = true) ∧
    (memWf m = true → memWf m' = true → (∀ b, memByte m b = memByte m' b) → m = m')

/-! ### Memory instructions -/

/-- R285, R286, R289, R291, R295, R296, R153: a load, store, atomic, reduction or imago operation whose wave has no acquire outstanding,
no unretired matrix work, room in the replay window, the request slots and the dirty-address FIFO issues: its operation opens and its
accesses begin. -/
def Obligations.MemoryInstructionsIssue : Prop :=
  ∀ (i : Instr) (s : State), isPlainMemory i = true → Issuable i s → memWaits i s = false → exec i s = .next (memIssued i s)

/-- R292, R293: `ldq` with the entries it takes and `stq` with room for its own issue so too, as do `lda` of a tile that is not EMPTY
and `sta`, of tiles the group has that no unretired matrix instruction names; `lda` of an EMPTY tile traps as a tag mismatch. -/
def Obligations.FifoAndTileAccessesIssue : Prop :=
  ∀ (h : Head) (m : MExt) (s : State),
    let g := groupOf s s.cur.wave
    let full := fun (t : Nat) => !(accTile s (curWave s).core (tileIdx g t)).empty
    (Issuable (.ldq h m) s → memWaits (.ldq h m) s = false → fifoWaits (.ldq h m) (active (specOf (.ldq h m)) s) s = false →
      exec (.ldq h m) s = .next (memIssued (.ldq h m) s)) ∧
    (Issuable (.stq h m) s → memWaits (.stq h m) s = false →
      fifoWaits (.stq h m) (workLanes (.stq h m) (curWave s) (active (specOf (.stq h m)) s)) s = false →
      exec (.stq h m) s = .next (memIssued (.stq h m) s)) ∧
    (Issuable (.sta h m) s → memWaits (.sta h m) s = false → m.c.toNat < g.kernel.accum → tileBusy s m.c.toNat = false →
      exec (.sta h m) s = .next (memIssued (.sta h m) s)) ∧
    (Issuable (.lda h m) s → memWaits (.lda h m) s = false → m.c.toNat < g.kernel.accum → tileBusy s m.c.toNat = false →
      full m.c.toNat = true → exec (.lda h m) s = .next (memIssued (.lda h m) s)) ∧
    (Issuable (.lda h m) s → memWaits (.lda h m) s = false → m.c.toNat < g.kernel.accum → tileBusy s m.c.toNat = false →
      full m.c.toNat = false → active (specOf (.lda h m)) s ≠ 0 →
      exec (.lda h m) s = .next (raisePrecise s (trapOf (.lda h m) 3 0 s.cur.lanes)))

/-- R95, R108, R110, R285: the accesses of an instruction of `n` bytes are one for each 32-byte sector that its lanes name: every lane's
address lies in exactly one of them, that of its sector, and no two of them have one sector; memory, waves and what was under way
stay as they are. -/
def Obligations.OneAccessForEachSector : Prop :=
  ∀ (w : Nat) (o : Opr) (n : Nat) (cls : AccClass) (data : Option (Nat → Nat)) (ps : List (Nat × Nat)) (s : State),
    let (t, as) := sectorAccs w o n cls data ps (sectorsOf ps) s
    (∀ p ∈ ps, ∃ a ∈ as, p ∈ a.parts) ∧
    (∀ a ∈ as, ∀ p ∈ a.parts, p ∈ ps ∧ p.2 / 32 = a.va / 32) ∧
    (as.map fun a => a.va / 32).Nodup ∧
    (∀ a ∈ as, a.op = o.id ∧ a.wave = w ∧ a.cls = cls ∧ a.n = n) ∧
    t = { s with nextId := t.nextId }

/-- R291, R226, R69: `ldl` at the bank, with every active lane's address aligned, inside the allocation and in SCRATCH banks: each active
lane's destination is to take the bytes at its address, no sooner than 6 cc after the issue; scratch and memory do not change. -/
def Obligations.ScratchLoadReads : Prop :=
  ∀ (h : Head) (m : MExt) (s : State),
    let i := Instr.ldl h m
    let n := 2 ^ m.sz.toNat
    let g := groupOf s s.cur.wave
    let ls := lanesOf (active (specOf i) s)
    WellFormed i = true → Issuable i s → memWaits i s = false → active (specOf i) s ≠ 0 →
    (∀ l ∈ ls, scrFault s g (scratchOffset h m s l) n = none) →
    ∃ t, exec i s = .next t ∧
      (∃ k, (curWave t).results = (curWave s).results ++ [{
        id := k, op := s.nextId, lanes := active (specOf i) s, due := cycAt s (curWave s).core + 6,
        writes := { noWrites with regs := ls.flatMap fun l =>
          ((dstRegs (specOf i)).zip (natWords ((n + 3) / 4) (groupScratch s s (scratchOffset h m s l).toNat n))).map fun (r, b) =>
            (l, r, b, .untyped) } }]) ∧
      t.pairs = s.pairs ∧ t.mem = s.mem

/-- R291, R108, R93, R94: `stl` with every active lane's address aligned, inside the allocation and in SCRATCH banks: in ascending lane order
each lane that is no helper writes its bytes, so that a byte several lanes write holds the highest lane's; every byte that no lane
writes, and all of memory, stays. Without a release it does so as it issues. A release leaves an access whose marker goes to the
dirty-address FIFO at once, or behind what holds it, and does the same with its captured words when the marker's release completes. -/
def Obligations.ScratchStoreWrites : Prop :=
  let writes := fun (s t : State) (g : Group) (n : Nat) (ls : List Nat) (at_ x : Nat → Nat) =>
    let wrote := fun l a => decide (at_ l ≤ a) && decide (a < at_ l + n)
    t.mem = s.mem ∧ (∀ p, p ≠ g.pair → pr t p = pr s p) ∧
    (∀ a, (∀ l ∈ ls, wrote l a = false) → memByte (pr t g.pair).scratch a = memByte (pr s g.pair).scratch a) ∧
    (∀ l ∈ ls, ∀ a, wrote l a = true → (∀ k ∈ ls, l < k → wrote k a = false) →
      memByte (pr t g.pair).scratch a = BitVec.ofNat 8 (x l / 256 ^ (a - at_ l)))
  ∀ (h : Head) (m : MExt) (s : State),
    let i := Instr.stl h m
    let n := 2 ^ m.sz.toNat
    let v := curWave s
    let g := groupOf s s.cur.wave
    let works := active (specOf i) s &&& ~~~v.helpers
    (WellFormed i = true → Issuable i s → memWaits i s = false → m.ord.toNat < 2 →
      (∀ l ∈ lanesOf works, scrFault s g (scratchOffset h m s l) n = none) →
      ∃ t, exec i s = .next t ∧ writes s t g n (lanesOf works) (fun l => scrAddr g (scratchOffset h m s l).toNat)
        (fun l => wordsNat (vrun v l h.a.toNat ((n + 3) / 4)))) ∧
    (WellFormed i = true → Issuable i s → memWaits i s = false → 2 ≤ m.ord.toNat → works ≠ 0 →
      ∃ t a, exec i s = .next t ∧ t.mem = s.mem ∧ t.pairs = s.pairs ∧ a ∈ t.accs ∧ (∀ b ∈ s.accs, b.id ≠ a.id → b ∈ t.accs) ∧
        a.op = s.nextId ∧ a.wave = s.cur.wave ∧ a.lanes = works ∧ a.act = .scr ∧ a.rel = true ∧
        ((a.stage = .queued ∧ (cr t v.core).daf = (cr s v.core).daf ++ [{ kind := .rel a.id, accs := [a.id] }]) ∨
          (a.stage = .ready ∧ (cr t v.core).daf = (cr s v.core).daf))) ∧
    (∀ (a : Acc) (o : Opr), a.act = .scr → findOp (wv s a.wave) a.op = some o → o.instr = i →
      (∀ l ∈ lanesOf a.lanes, scrFault s (groupOf s a.wave) (laneScrOff i o 1 l) n = none) →
      writes s (relComplete s a) (groupOf s a.wave) n (lanesOf a.lanes)
        (fun l => scrAddr (groupOf s a.wave) (laneScrOff i o 1 l).toNat) (fun l => opVal (specOf i) o.words 0 l % 2 ^ (8 * n)))

/-- R79, R112, R114, R298, R300: a prefetch, a fence with nothing of its wave left to report and a `wsync` with no result or access of
its wave outstanding issue: the prefetch of each lane in turn where none of them must wait (log 127), the self-invalidation of an
acquire fence and the marker of a release (the self-invalidation of `fence.ar` follows the release's completion), and the arrival of
the PC group. -/
def Obligations.FencesAndSyncComplete : Prop :=
  ∀ (h : Head) (m : MExt) (s : State),
    let v := curWave s
    let at_ := fun i => advance (specOf i) s
    (let i := Instr.pfx h m
     let low := fun l => (vread v l h.b.toNat).toNat
     let va := fun l : Nat => (((if m.c = 128 then low l + 2 ^ 32 * (vread v l (h.b.toNat + 1)).toNat
       else low l + (sread v m.c.toNat).toNat + 2 ^ 32 * (sread v (m.c.toNat + 1)).toNat : Nat) : Int) + m.imm.toInt) % 2 ^ 64
     let done := (lanesOf (active (specOf i) s)).foldl (fun u l => prefetchLane v.core v.ctx m.sz.toNat u (va l).toNat) (at_ i)
     WellFormed i = true → Issuable i s → acquireOut v = false → done.blocked = none → exec i s = .next done) ∧
    (let i := Instr.fence h m
     Issuable i s → acquireOut v = false → loadsOut v = false → mayFault s s.cur.wave = false → faultHeld i v = false →
      matPending s s.cur.wave = false → dafRoom s v.core 1 = true →
      exec i s = .next (if active (specOf i) s = 0 ∨ m.ord = 0 then at_ i
        else if m.ord = 1 then selfInvalidate (at_ i) v.core
        else
          let o := openOp i (specOf i) (active (specOf i) s) 0 [] (at_ i)
          startFence o.2 s.cur.wave o.1)) ∧
    (Issuable (.wsync h m) s → arrivalWaits s s.cur.wave = false →
      exec (.wsync h m) s = .next (arrive (at_ (.wsync h m)) (active (specOf (.wsync h m)) s))) ∧
    (Issuable (.wsyncShort h) s → arrivalWaits s s.cur.wave = false →
      exec (.wsyncShort h) s = .next (arrive (at_ (.wsyncShort h)) (active (specOf (.wsyncShort h)) s)))

/-- R112: an episode of `wsync` completes exactly when every lane that has not exited has arrived; then every waiting lane is awake and
none is counted as arrived. -/
def Obligations.WsyncEpisode : Prop :=
  ∀ v : Wave, v.wsyncArrived ≠ 0 → inh v = false →
    let u := wsyncCheck v
    (wsyncMissing v = 0 → u.wsyncArrived = 0 ∧ (∀ l < 32, (ln v l).exited = false → (ln v l).sleep = .wsync → (ln u l).sleep = .awake) ∧
      ∀ l < 32, (ln v l).sleep ≠ .wsync → ln u l = ln v l) ∧
    (wsyncMissing v ≠ 0 → u = v)

/-! ### Barriers -/

/-- R301, R302: a barrier instruction or `waddr` under the conditions of a memory instruction issues, and is performed at the bank or
sent to its home. -/
def Obligations.BarrierInstructionsIssue : Prop :=
  ∀ (h : Head) (m : MExt) (s : State), ∀ i ∈ [Instr.barinit h m, .barexp h m, .bararr h m, .barwait h m, .waddr h m],
    Issuable i s → memWaits i s = false → exec i s = .next (barIssued i s)

/-- R131, R132, R133, R301, R139: the barrier object: `barinit` sets its fields; each of the arrivals of a PC group takes one, in turn, and the
first that finds none ends them, those before it standing; an expectation adds to the bytes, and the credit of a copy takes from
them; the phase that is done with both advances and is reloaded, BYTESPER as the signed number its bits are; each operation that cannot
be done leaves the object as it is and names its fault; a wait returns by its distance from PHASE. -/
def Obligations.BarrierObject : Prop :=
  ∀ (phase arr arrPer bytes bytesPer k : Nat) (left : Int),
    phase < 2 ^ 32 → arr < 2 ^ 16 → arrPer < 2 ^ 16 → bytesPer < 2 ^ 32 → -(2 ^ 31) ≤ left → left < 2 ^ 31 →
    let b := barObject phase arr arrPer left bytesPer
    let done := barObject (phase + 1) arrPer arrPer bytesPer bytesPer
    (barPhase b = phase ∧ barArrLeft b = arr ∧ barArrPer b = arrPer ∧ barBytesLeft b = left ∧ barBytesPer b = bytesPer) ∧
    (barPhase done = (phase + 1) % 2 ^ 32 ∧ barArrLeft done = arrPer ∧
      barBytesLeft done = (if bytesPer < 2 ^ 31 then (bytesPer : Int) else bytesPer - 2 ^ 32)) ∧
    barApply (.barInit k bytes) b =
      (if (k = 0 ∧ bytes = 0) ∨ 2 ^ 31 ≤ bytes ∨ 2 ^ 16 ≤ k then (b, some 3) else (barObject 0 k k bytes bytes, none)) ∧
    barApply (.barArr 0) b = (b, none) ∧
    barApply (.barArr (k + 1)) b =
      (if arr = 0 then (b, some 2)
       else barApply (.barArr k) (if arr = 1 ∧ left = 0 then done else barObject phase (arr - 1) arrPer left bytesPer)) ∧
    (left ≠ 0 → barApply (.barArr k) b =
      (barObject phase (arr - k) arrPer left bytesPer, if k ≤ arr then none else some 2)) ∧
    barApply (.barExp k) b =
      (if k = 0 ∨ 2 ^ 31 ≤ k then (b, some 3) else if 2 ^ 31 ≤ left + k then (b, some 2)
       else if arr = 0 ∧ left + k = 0 then (done, none) else (barObject phase arr arrPer (left + k) bytesPer, none)) ∧
    (∀ (s : State) (c : Copy),
      let g := gp s c.group
      let o := recTarget c.bytes
      (scrMode s g o 16 = false → creditApply s c k = (s, some (10, 0x22))) ∧
      (scrMode s g o 16 = true → scrRead s g o 16 = b →
        creditApply s c k =
          (if left - k < -(2 ^ 31) then (s, some (11, 2))
           else if arr = 0 ∧ left - k = 0 then (scrWrite s g o 16 done, none)
           else (scrWrite s g o 16 (barObject phase arr arrPer (left - k) bytesPer), none)))) ∧
    ∀ p, barReturns b p = decide (1 ≤ ((phase : Int) - p) % 2 ^ 32 ∧ ((phase : Int) - p) % 2 ^ 32 ≤ 2 ^ 31 - 1)

/-! ### Control -/

/-- R313, R314, R222, R317: direct branches set the PC of every active lane to next + 4 * OFF, and a direct call writes its link;
`nop` does nothing beyond its issue; `exit` ends the active lanes, and `end` with a true guard every lane of the wave. -/
def Obligations.BranchesCallsAndEnds : Prop :=
  ∀ (h : Head) (t : BExt) (s : State),
    let w := s.cur.wave
    let goes := fun (i : Instr) (f : Lanes → State → State) =>
      Issuable i s → exec i s = .next (f (active (specOf i) s) (advance (specOf i) s))
    let direct := offsetBy (s.cur.pc + 8) t.off
    goes (.br h t) (fun m u => setPcs u w m fun _ => direct) ∧
    goes (.ubr h t) (fun m u => setPcs u w m fun _ => direct) ∧
    goes (.callDirect h t) (fun m u => linked s m (laneLink s h.a m) (setPcs u w m fun _ => direct)) ∧
    goes (.ucall h t) (fun m u => linked s m
      { noWrites with sregs := [(h.a.toNat, BitVec.ofNat 32 (s.cur.pc + 8)), (h.a.toNat + 1, BitVec.ofNat 32 ((s.cur.pc + 8) / 2 ^ 32))] }
      (setPcs u w m fun _ => direct)) ∧
    goes (.nop h) (fun _ u => u) ∧
    goes (.exitShort h) (fun m u => exitLanes u w m) ∧ goes (.exitL h t) (fun m u => exitLanes u w m) ∧
    goes (.endShort h) (fun m u => if m = 0 then u else exitLanes u w allLanes) ∧
    goes (.endW h t) (fun m u => if m = 0 then u else exitLanes u w allLanes)

/-- R314, R315: an instruction with register targets checks each lane's target in ascending order at one instant (log 80). Where no target has a cause, each active lane takes
its own, and a call writes its link; where some have, those lanes keep their PCs and get no link, the others go, and one precise
control trap names the lanes, their causes and their targets. A target that is misaligned has cause 0x20, one that is not canonical 6.
Where a check must wait (log 127), so does the instruction. -/
def Obligations.RegisterTargets : Prop :=
  (∀ (h : Head) (t : BExt) (s : State), ∀ p ∈ registerJumps h t (curWave s), ∀ i lnd dest link, p = (i, lnd, dest, link) →
    Issuable i s →
    let v := curWave s
    let w := s.cur.wave
    let m := active (specOf i) s
    let c := checkTargets v.core v.ctx lnd ((lanesOf m).map fun l => (l, dest l)) (advance (specOf i) s)
    let bad := c.2.filter fun x => decide (x.2.1 ≠ 0)
    let mask := lanesWhere fun l => bad.any fun x => x.1 = l
    let went := linked s (m &&& ~~~mask) (if link then laneLink s h.a (m &&& ~~~mask) else noWrites) (setPcs c.1 w (m &&& ~~~mask) dest)
    (bad = [] → c.1.blocked = none → exec i s = .next went) ∧
    (bad = [] → c.1.blocked = some 0 → exec i s = .next (stall s 7)) ∧
    (∀ x r, bad = x :: r → exec i s = .next (orStall s (raisePrecise (setPcs went w mask fun _ => s.cur.pc)
      { trapOf i 7 x.2.1 mask with status := x.2.2.2, causes := bad.map fun y => (y.1, y.2.1, y.2.2.1) })))) ∧
  (∀ (s : State) (core ctx t : Nat) (lnd : Bool),
    (t % 4 ≠ 0 → checkTarget s core ctx t lnd = (s, 0x20, 0x20)) ∧
    (t % 4 = 0 → canonical t = false → (checkTarget s core ctx t lnd).1 = s ∧ (checkTarget s core ctx t lnd).2.1 = 6))

/-- R316: the words that decode to `land` are exactly those with S = 0, X = 0, OP = 0xD4, A = 0 and B = 0, whatever their D and W hold,
which it keeps; they are the words that a checked target accepts; with X = 1 no word of that opcode decodes; `land` does nothing
beyond its issue. -/
def Obligations.LandWords : Prop :=
  (∀ (w e : BitVec 32) (h : Head), decodeWords w e = .ok (.land h) ↔
    w.getLsbD 31 = false ∧ w.getLsbD 30 = false ∧ w.extractLsb' 16 8 = 0xD4 ∧ w.extractLsb' 0 16 = 0 ∧
    h = { d := w.extractLsb' 28 2, w := w.extractLsb' 24 4, a := 0, b := 0 }) ∧
  (∀ w : BitVec 32, landWord w.toNat = true ↔ ∃ e h, decodeWords w e = .ok (.land h)) ∧
  decodeWords 0x00D40000 0 = .ok (.land { d := 0, w := 0, a := 0, b := 0 }) ∧
  (∀ w e : BitVec 32, w.getLsbD 31 = false → w.getLsbD 30 = true → w.extractLsb' 16 8 = 0xD4 → ∃ x, decodeWords w e = .error x) ∧
  (∀ (h : Head) (s : State), Issuable (.land h) s → exec (.land h) s = .next (advance (specOf (.land h)) s))

/-- R319: `trap` has A = 0, B = 0 and SUB = 0 and carries its number in its extension; with a false guard it does nothing; with a true
one the wave takes a precise software trap, class 8: its frame holds the trap number, and as the resumption address of every lane
of the PC group that has not exited the next instruction's, while every other lane is where it was. -/
def Obligations.SoftwareTrap : Prop :=
  ∀ (h : Head) (e : IExt) (s : State),
    let i := Instr.trapSw h e
    let w := s.cur.wave
    let r := { trapOf i 8 0 (active (specOf i) s) with data := e.imm.toNat }
    (WellFormed i = true → h.a = 0 ∧ h.b = 0 ∧ e.sub = 0) ∧
    (Issuable i s → active (specOf i) s = 0 → exec i s = .next (advance (specOf i) s)) ∧
    (Issuable i s → active (specOf i) s ≠ 0 → ∃ t, exec i s = .next t ∧ t = raisePrecise (advance (specOf i) s) r ∧
      (CanTrap s w →
        let g := gp s (wv s w).group
        let f := fun o n => scrRead t g ((wv s w).tframe.toNat + o) n
        (wv t w).tstat = trapWord false r ∧ f 16 8 = e.imm.toNat ∧
        ∀ l < 32, (ln (wv s w) l).exited = false →
          f (64 + 8 * l) 8 = if inLanes s.cur.lanes l then (s.cur.pc + 8) % 2 ^ 64 else (ln (wv s w) l).pc % 2 ^ 64))

/-! ### System registers, the pool, guard slots, the return and `yield` -/

/-- R321 to R323, R209: `sgetr` of a register that exists is to write it as it stood at issue, and number 0 latches the high word of the
same count; of a reserved number it is an illegal instruction. `ssetr` of a writable register is to write it, but for a rounding or
denormal mode that is reserved; of any other it is an illegal instruction. The registers that a landing write sets keep their reserved
bits 0. -/
def Obligations.SystemRegisters : Prop :=
  ∀ (h : Head) (e : IExt) (s : State),
    let num := e.imm.toNat
    let v := curWave s
    let g := Instr.sgetr h e
    let p := Instr.ssetr h e
    let b := source p s 0 0
    let illegal := fun (i : Instr) (t : State) => exec i s = .next (raisePrecise t (trapOf i 1 0 s.cur.lanes))
    (∀ x, sysRead s s.cur.wave num = some x → Issuable g s →
      exec g s = .next (issuedWith g { noWrites with sregs := [(h.a.toNat, BitVec.ofNat 32 x)] }
        (if num = 0 ∧ active (specOf g) s ≠ 0 then
          modWv s s.cur.wave fun u => { u with cycHigh := some (BitVec.ofNat 32 (cycAt s v.core / 2 ^ 32)) }
        else s))) ∧
    (sysRead s s.cur.wave num = none → Issuable g s → illegal g (stall s 8)) ∧
    (sysRead s s.cur.wave 0 = some (cycAt s v.core % 2 ^ 32)) ∧
    (num ∈ [0x040, 0x050, 0x080, 0x081, 0x082] → (num ≠ 0x040 ∨ (1 ≤ b % 8 ∧ b % 8 ≤ 5 ∧ b / 8 % 4 ≠ 3)) → Issuable p s →
      exec p s = .next (issuedWith p { noWrites with sys := [(num, BitVec.ofNat 32 b)] } s)) ∧
    (num = 0x040 → (b % 8 = 0 ∨ 5 < b % 8 ∨ b / 8 % 4 = 3) → active (specOf p) s ≠ 0 → Issuable p s → illegal p s) ∧
    (num ∉ [0x040, 0x050, 0x080, 0x081, 0x082] → Issuable p s → illegal p (stall s 8)) ∧
    (∀ x : Word, (land false v { noWrites with sys := [(0x040, x)] }).fmode = x ∧
      (land false v { noWrites with sys := [(0x081, x)] }).tba = x &&& 0xFFFFFFFD#32 ∧
      (land false v { noWrites with sys := [(0x082, x)] }).tframe = x &&& 0x000FFF00#32 ∧
      (land false v { noWrites with sys := [(0x080, x)] }).tstat = (x &&& 0x1FFFFF1F#32) ||| (v.tstat &&& 0xE0#32))

/-- R175, R176, R325, R326, R320, R318: a claim that the pool can serve at once extends the wave, and one behind a claim that does not fit
sleeps at the end of the queue; `rfree` gives granules back when their registers are full; a `k` out of range is illegal; `guard`
makes its slot pending; `elect` is to write who won; `rfe` in a handler returns, where nothing it starts again has to wait
(log 127); a `yield` with no request pending does nothing, and with one saves a wave that is quiet, where its slots and frames need
not wait. -/
def Obligations.PoolGuardsElectionAndYield : Prop :=
  ∀ (h : Head) (e : IExt) (x : GExt) (s : State),
    let w := s.cur.wave
    let v := curWave s
    let q := quadKey v
    let p := poolOf (gp s v.group) q
    let at_ := fun i => advance (specOf i) s
    (let i := Instr.rclaim h e
     let k := source i s 0 0
     let m := active (specOf i) s
     Issuable i s → m ≠ 0 →
      (1 ≤ k → v.h + k ≤ 32 → p.queue = [] → k ≤ p.free → ∃ t, exec i s = .next t ∧ (wv t w).h = v.h + k ∧
        poolOf (gp t v.group) q = { p with quad := q, free := p.free - k, queue := [] } ∧
        ∀ l r, 8 * v.h ≤ r → r < 256 → l < 32 → vreg (wv t w) l r = zeroReg) ∧
      (1 ≤ k → v.h + k ≤ 32 → (∀ y ∈ (p.queue ++ [(w, k, m)]).head?, p.free < y.2.1) → ∃ t, exec i s = .next t ∧ (wv t w).h = v.h ∧
        poolOf (gp t v.group) q = { p with quad := q, queue := p.queue ++ [(w, k, m)] } ∧
        ∀ l < v.lanes.length, inLanes m l = true → (ln (wv t w) l).sleep = .rclaim k) ∧
      (k < 1 ∨ 32 < v.h + k → exec i s = .next (raisePrecise s (trapOf i 1 0 s.cur.lanes)))) ∧
    (let i := Instr.rfree h e
     let k := source i s 0 0
     Issuable i s → active (specOf i) s ≠ 0 →
      (1 ≤ k → k < v.h → granulesFull v k = true → exec i s = .next (toPool (modWv (at_ i) w fun u =>
        { u with h := v.h - k, vregs := u.vregs.filter fun y => decide (y.1 % 256 < 8 * (v.h - k)) }) v.group q k)) ∧
      (k < 1 ∨ v.h ≤ k → exec i s = .next (raisePrecise s (trapOf i 1 0 s.cur.lanes)))) ∧
    (let i := Instr.guardW h x
     let b := h.b.toNat
     Issuable i s → active (specOf i) s ≠ 0 → (gT x = 2 → b < v.uregs) → h.a.toNat < v.guards.length →
      ∃ t, exec i s = .next t ∧ (wv t w).guards = v.guards.set h.a.toNat
        (if gT x = 0 then .pendQ (upred v b) (cycAt s v.core + 4) else if gT x = 1 then .pendQ (!upred v b) (cycAt s v.core + 4)
         else if sEmpty v b = true then .pendS b (cycAt s v.core + 4) else .pendQ (decide (sread v b ≠ 0)) (cycAt s v.core + 4))) ∧
    (let i := Instr.elect h x
     let me := v.index % 32 + 256 * firstLane s.cur.lanes
     let key := BitVec.ofNat 32 (source i s 0 0)
     let won := fun (b : Bool) (r : Nat) =>
       { noWrites with sregs := [(h.a.toNat, BitVec.ofNat 32 (r + if b then 2 ^ 31 else 0))], qs := [(x.c.toNat, b)] }
     Issuable i s → active (specOf i) s ≠ 0 →
      (gT x = 0 → exec i s = .next (issuedWith i (won true me) (setGp s v.group (gp s v.group)))) ∧
      (gT x = 1 → ∀ k wi l, (gp s v.group).elected = some (k, wi, l) → k = key →
        exec i s = .next (issuedWith i (won false (wi + 256 * l)) (setGp s v.group (gp s v.group)))) ∧
      (gT x = 1 → (∀ k wi l, (gp s v.group).elected = some (k, wi, l) → k ≠ key) →
        exec i s = .next (issuedWith i (won true me)
          (setGp s v.group { gp s v.group with elected := some (key, v.index % 32, firstLane s.cur.lanes) }))) ∧
      (2 ≤ gT x → exec i s = .next (issuedWith i (won (decide (v.core % 2 = 0)) me) (setGp s v.group (gp s v.group))))) ∧
    (let i := Instr.rfe h
     Issuable i s → (inh v = true → acquireOut v = false → (returnTrap (at_ i) w replayEntry).blocked = none →
        exec i s = .next (returnTrap (at_ i) w replayEntry)) ∧
      (inh v = false → exec i s = .next (raisePrecise (stall s 8) (trapOf i 1 0 s.cur.lanes)))) ∧
    (∀ i ∈ [Instr.yieldShort h, Instr.yieldW h e], Issuable i s →
      (v.request = false ∨ active (specOf i) s = 0 → exec i s = .next (at_ i)) ∧
      (v.request = true → active (specOf i) s ≠ 0 → quietWave s w = true →
        exec i s = .next (orStall s (saveWave (at_ i) w s.cur.pc s.cur.lanes))))

/-! ### Copies, banks, the matrix engine -/

/-- R303 to R306, R137, R144: `kick` with room in the Scarab's queue hands its records over; `pub` under the conditions of a release begins
its swap, where none of its lookups must wait (log 127); `sbank` is to write its status and, where that is 0, changes the bank's mode: 2 for a bank out of range, 5
for an unknown mode, 0 for the mode it has, 1 for a FIFO with entries, 4 with a copy in flight and 3 beyond the limits, looked at in that
order (log 34); `msflush.range` begins its flush, and
`msflush.stack`, with the stack-flush right, that of its stack; without the right it is illegal. -/
def Obligations.CopiesBanksAndFlushes : Prop :=
  ∀ (h : Head) (m : MExt) (s : State),
    let w := s.cur.wave
    let v := curWave s
    let id := s.nextId
    let n := (uniWord v m.c).toNat
    (Issuable (.kick h m) s → acquireOut v = false → (n ≤ 64 → (cr s v.core).scarab.length + n ≤ 256) →
      exec (.kick h m) s = .next (begun (.kick h m) (fun t => startKick t w id) s)) ∧
    (Issuable (.pub h m) s → memWaits (.pub h m) s = false →
      let done := begun (.pub h m) (fun t => startPub t false w id) s
      (done.blocked = none → exec (.pub h m) s = .next done) ∧ (done.blocked = some 0 → exec (.pub h m) s = .next (stall s 7))) ∧
    (Issuable (.msflushRange h m) s → acquireOut v = false →
      exec (.msflushRange h m) s = .next (begun (.msflushRange h m) (fun t => startFlushRange t w id) s)) ∧
    (let i := Instr.msflushStack h m
     Issuable i s →
      ((cx s v.ctx).held.sflush = true → acquireOut v = false → ∃ t, exec i s = .next t ∧
        (active (specOf i) s = 0 → t = advance (specOf i) s) ∧
        (active (specOf i) s ≠ 0 → (id + 1, w, id) ∈ (stk t (coreStack v.core)).flushes)) ∧
      ((cx s v.ctx).held.sflush = false → exec i s = .next (raisePrecise (stall s 8) (trapOf i 1 0 s.cur.lanes)))) ∧
    (let i := Instr.sbank h m
     let k := source i s 0 0
     let x := source i s 0 1
     let a := active (specOf i) s
     let g := gp s v.group
     let b := g.bank0 + k
     let old := (bank s g.pair b).mode
     let o := opened i 0 s
     let ways := fun c => (l1Banks s c).length
     let isCache := fun m => m = BankMode.cacheL ∨ m = BankMode.cacheF
     let tooMany := fun new => isCache new ∧ ¬ isCache old ∧ (cacheLimits s g.pair []).2 < ways (2 * g.pair) + ways (2 * g.pair + 1) + 1
     let tooFew := isCache old ∧ ways (if old = .cacheL then 2 * g.pair else 2 * g.pair + 1) < 3
     WellFormed i = true → Issuable i s → acquireOut v = false → ownScrWaits s w = false → matPending s w = false → a ≠ 0 →
      ∃ t, exec i s = .next t ∧ ∃ st, st ≤ 5 ∧
        (∃ r, (wv t w).results = v.results ++ [{ id := r, op := id, lanes := a, due := cycAt s v.core, writes :=
          { noWrites with sregs := [(h.a.toNat, BitVec.ofNat 32 st)] } }]) ∧
        (g.nBanks ≤ k → st = 2) ∧ (k < g.nBanks → 3 < x → st = 5) ∧
        (k < g.nBanks → ∀ new, modeOf x = some new →
          (old = new → st = 0) ∧
          (old ≠ new → old = .fifo → (bank s g.pair b).fifo ≠ [] ∨ fifoPromised o g.pair b ≠ 0 → st = 1) ∧
          (old ≠ new → (old = .fifo → (bank s g.pair b).fifo = [] ∧ fifoPromised o g.pair b = 0) →
            (copyInFlight s g v.group k = true → st = 4) ∧
            (copyInFlight s g v.group k = false → tooMany new ∨ tooFew → st = 3) ∧
            (copyInFlight s g v.group k = false → ¬ tooMany new → ¬ tooFew → st = 0))) ∧
        (st = 0 → b < (pr s g.pair).banks.length → ∀ new, modeOf x = some new → (bank t g.pair b).mode = new) ∧
        (st ≠ 0 → t.pairs = s.pairs))

/-- R328, R329, R335 to R339, R349, R178, R341: a matrix instruction of the baton's holder on the leader, of a tile the group has, that has
no earlier access to wait for and whose operands pass the engine's checks, joins the queue of its pair with its captured words; one
that fails them takes the precise trap they name. `mbtake` of a baton that is free holds it, and of one that is held or is being
passed sleeps in the queue; a pass, where none is under way, begins. -/
def Obligations.MatrixInstructionsIssue : Prop :=
  ∀ (h : Head) (n : NExt) (s : State),
    let w := s.cur.wave
    let v := curWave s
    let p := corePair v.core
    (∀ i ∈ [Instr.mma h n, .mmas h n, .mmap h n, .mzero h n, .mfill h n, .mdrain h n, .mscale h n],
      Issuable i s → v.core % 2 = 0 → h.a.toNat < (groupOf s w).kernel.accum → matWaits s i = false → active (specOf i) s ≠ 0 →
      (∀ args, matArgs s w i ((specOf i).srcs.map (srcVal v 0)) = .ok args →
        ∃ t o, exec i s = .next t ∧ (pr t p).mats = (pr s p).mats ++ [o] ∧
          o.wave = w ∧ o.op = s.nextId ∧ o.instr = i ∧ o.tile = tileIdx (groupOf s w) h.a.toNat ∧ o.args = args ∧ t.mem = s.mem) ∧
      (∀ c k, matArgs s w i ((specOf i).srcs.map (srcVal v 0)) = .error (c, k) →
        exec i s = .next (raisePrecise s (trapOf i c k s.cur.lanes)))) ∧
    (let i := Instr.mbtake h n
     let m := active (specOf i) s
     Issuable i s → m ≠ 0 →
      ((pr s p).baton = none → (pr s p).batonQueue = [] → ∃ t, exec i s = .next t ∧ (pr t p).baton = some w) ∧
      ((pr s p).baton = some w → (pr s p).batonPass = none → exec i s = .next (advance (specOf i) s)) ∧
      ((∃ u, (pr s p).baton = some u ∧ (u ≠ w ∨ (pr s p).batonPass ≠ none)) → (∀ y ∈ (pr s p).batonQueue, y.1 ≠ w) → ∃ t, exec i s = .next t ∧
        (pr t p).batonQueue = (pr s p).batonQueue ++ [(w, m)] ∧ (pr t p).baton = (pr s p).baton ∧
        ∀ l < v.lanes.length, inLanes m l = true → (ln (wv t w) l).sleep = .baton)) ∧
    (let i := Instr.mbpass h n
     Issuable i s → (pr s p).batonPass = none → active (specOf i) s ≠ 0 → ∃ t, exec i s = .next t ∧
      (pr t p).batonPass = some (waveAt s v.group (uniWord v h.b).toNat) ∧ (pr t p).baton = (pr s p).baton) ∧
    (let i := Instr.mbpassNone h n
     Issuable i s → (pr s p).batonPass = none → active (specOf i) s ≠ 0 → ∃ t, exec i s = .next t ∧
      (pr t p).batonPass = some none ∧ (pr t p).baton = (pr s p).baton)

/-! ### Pattern slots, graphics, traversal, tasks and collectives -/

/-- R342, R348, R356, R358, R363, R364, R366, R369, R371, R375, R376, R379: the instructions of the fixed-function engines issue and
begin: a slot's load, its cursor at the first block, and its next block of indices; a triangle or a record for each lane that is no helper; a flush; a
release of references; results of `attr` no sooner than 22 cc after the issue (log 64); a format's load; a lane's walk; a task for each lane,
where none of its reads must wait (log 127); a collective; and a launch in the device queue. -/
def Obligations.EngineInstructionsIssue : Prop :=
  ∀ (h : Head) (n : NExt) (s : State),
    let w := s.cur.wave
    let v := curWave s
    let id := s.nextId
    let k := h.a.toNat
    let begins := fun (i : Instr) (ok : Bool) (f : Lanes → State → State) =>
      Issuable i s → acquireOut v = false → ok = true → exec i s = .next (begun i (f (active (specOf i) s)) s)
    begins (.pgload h n) (!(slotBusy s w k)) (fun _ t => startPgload t w k id) ∧
    (Issuable (.pgctx h n) s → slotBusy s w k = false → active (specOf (.pgctx h n)) s ≠ 0 →
      ((slotOf v k).state = .loaded → (n.shape.getLsbD 0 = true → invertible (slotOf v k).words = true) →
        exec (.pgctx h n) s = .next (modWv (advance (specOf (.pgctx h n)) s) w fun u => setSlot u k
          (startCursor { slotOf v k with order := n.shape.getLsbD 0, row0 := (uniWord v h.b).toNat % 8192 }))) ∧
      ((slotOf v k).state = .loaded → n.shape.getLsbD 0 = true → invertible (slotOf v k).words = false →
        exec (.pgctx h n) s = .next (raisePrecise s (trapOf (.pgctx h n) 9 0x35 s.cur.lanes))) ∧
      ((slotOf v k).state ≠ .loaded → exec (.pgctx h n) s = .next (raisePrecise s (trapOf (.pgctx h n) 9 0x36 s.cur.lanes)))) ∧
    (Issuable (.pgemit h n) s → slotBusy s w k = false → active (specOf (.pgemit h n)) s ≠ 0 → WellFormed (.pgemit h n) = true →
      (slotOf v k).state = .loaded → k < v.pats.length → ∃ t r, exec (.pgemit h n) s = .next t ∧
        slotOf (wv t w) k = (emitBlock (slotOf v k)).2 ∧
        (wv t w).results = v.results ++ [{ id := r, op := id, lanes := active (specOf (.pgemit h n)) s, due := cycAt s v.core, writes :=
          { noWrites with sregs := (dstRegs (specOf (.pgemit h n))).zip (natWords 1 (emitBlock (slotOf v k)).1) } }]) ∧
    begins (.rast h n) true (fun m t => execRast.startRast t w id m) ∧
    begins (.hitbin h n) true (fun m t => execHitbin.startHits t w id m) ∧
    begins (.rflush h n) true (fun _ t => execRflush.startRflush t w id) ∧
    (Issuable (.tvrel h n) s → active (specOf (.tvrel h n)) s ≠ 0 →
      ∃ t, exec (.tvrel h n) s = .next t ∧ ∀ pa, w ∉ (tget freeTile t.tiles pa).refs) ∧
    (Issuable (.attr h n) s → acquireOut v = false → active (specOf (.attr h n)) s ≠ 0 →
      ∃ t r, exec (.attr h n) s = .next t ∧ (wv t w).results = v.results ++
        [{ id := r, op := id, lanes := active (specOf (.attr h n)) s, due := cycAt s v.core + 22, writes := noWrites }]) ∧
    begins (.nfmt h n) true (fun _ t => t) ∧
    begins (.travs h n) (!(nfmtWaits v) && ffRoom s v.core (laneCount s.cur.lanes)) (fun m t => (lanesOf m).foldl (startLane w id) t) ∧
    begins (.travr h n) (ffRoom s v.core (laneCount s.cur.lanes)) (fun m t => (lanesOf m).foldl (startLane w id) t) ∧
    begins (.hvpost h n) (!(threadBusy s w (active (specOf (.hvpost h n)) s)) && !(hiveFull s w (active (specOf (.hvpost h n)) s))
        && (begun (.hvpost h n) (fun t => startPost t w id (active (specOf (.hvpost h n)) s)) s).blocked.isNone)
      (fun m t => startPost t w id m) ∧
    (let o := source (.coll h n) s 0 0
     let g := groupOf s w
     begins (.coll h n) (!(threadBusy s w s.cur.lanes) && ((scrDescFault s g o 64).isSome || collOk (scrBytes s g o 64)))
      (fun _ t => startColl t w id) ∧
     (Issuable (.coll h n) s → acquireOut v = false → threadBusy s w s.cur.lanes = false → scrDescFault s g o 64 = none →
      collOk (scrBytes s g o 64) = false →
      let t := raisePrecise (spoil s v.core v.ctx (scrBytes s g o 64)) { trapOf (.coll h n) 10 0x47 s.cur.lanes with data := o }
      (t.blocked = none → exec (.coll h n) s = .next t) ∧ (t.blocked = some 0 → exec (.coll h n) s = .next (stall s 7)))) ∧
    begins (.launchDev h n) (!(threadBusy s w s.cur.lanes) && decide ((cx s v.ctx).devQueue.length < 64)) (fun _ t => startLaunch t w id)

/-! ### Events -/

/-- R404, R407, R408, R410 to R415, R392, R398 to R400, R8: the management events. HSEM is taken by a port that finds it free or its own,
released by its holder, and its lease runs down; once the device has come up, the holder binds a slot whose fields pass, and unbinds and
fences one that is bound and not busy, which anyone pre-empts; identity, routes and the power limit change; extends and reports start and
finish, an extend of the digest as it stood at its start (log 115); sensors set their terms; an operator's RETRY, ABANDON and FREE act
on a parked or reported slot; errors are counted, a core retires, and a link's replay is counted and seen in nothing else (log 70). The
commands to a block that does not answer before the device has come up leave the state as it is. A reset empties memory (log 1) and boots
by its images (logs 2, 11). The periodic ones act where the clock has made them due and do nothing else; one that must wait leaves the
state as it is (log 127). -/
def Obligations.ManagementEvents : Prop :=
  ∀ s : State,
    let does := fun (i : Instr) (t : State) => (t.blocked = none → exec i s = .next t) ∧ (t.blocked = some 0 → exec i s = .next s)
    let isDue := fun i : Instr => s.due.contains (i, s.args) = true
    let a := arg s 0
    let b := arg s 1
    let x := cx s a
    let y := cx s b
    let holds := s.mgmt.owner.toNat = a + 1
    let mg := fun (i : Instr) (f : Mgmt) => exec i s = .next { s with mgmt := f }
    (a < 2 → b % 65536 ≠ 0 → (s.mgmt.owner = 0 ∨ holds) → ∃ t, exec .hsemTake s = .next t ∧
      t.mgmt = { s.mgmt with owner := BitVec.ofNat 2 (a + 1), lease := BitVec.ofNat 16 b }) ∧
    (a < 2 → holds → ∃ t, exec .hsemRelease s = .next t ∧ t.mgmt = { s.mgmt with owner := 0, lease := 0 }) ∧
    (isDue .hsemLeaseTick → s.mgmt.owner ≠ 0 → exec .hsemLeaseTick s = .next { s with
      due := s.due.erase (.hsemLeaseTick, s.args), mgmt := { s.mgmt with
        lease := s.mgmt.lease - 1, owner := if s.mgmt.lease.toNat ≤ 1 then 0 else s.mgmt.owner } }) ∧
    (∀ i ∈ [Instr.hsemLeaseTick, .dieSensorSample, .powerAverage], ¬ isDue i → exec i s = .next s) ∧
    (a < 2 → holds → b < 64 → s.mgmt.boot = .run → y.busy = false → y.bound = false → bindCause s y.fields = 0 →
      ∃ t, exec .bindCtx s = .next t ∧ cx t b = { resetCtx with fields := y.fields, held := y.fields, bound := true, flerr := y.flerr }) ∧
    (s.mgmt.boot ≠ .run → ∀ i ∈ [Instr.unbindCtx, .fenceCommand, .preempt, .routingTableWrite, .plimitWrite, .mextend, .retry, .abandon,
      .freeSlot], exec i s = .next s) ∧
    (s.mgmt.boot = .run → a < 2 → holds → b < 64 → y.busy = false → y.bound = true →
      exec .unbindCtx s = .next (unbindSlot (bindErr s b 0) b) ∧
      ∃ t, exec .fenceCommand s = .next t ∧ (cx t b).fenced = true ∧ ((cx t b).busy = true ↔ b ∈ t.fences)) ∧
    (s.mgmt.boot = .run → a < 64 → x.busy = false → x.bound = true → exec .preempt s = .next (preemptCtx (bindErr s a 0) a)) ∧
    (a < 2 → holds → (∀ e ∈ s.ctxs, e.2.bound = false) → mg .devidWrite { s.mgmt with devid := BitVec.ofNat 12 b }) ∧
    (s.mgmt.boot = .run → a < 2 → holds → b < 4096 → mg .routingTableWrite { s.mgmt with routes := tset 0 s.mgmt.routes b (BitVec.ofNat 16 (arg s 2)) }) ∧
    (s.mgmt.boot = .run → a < 2 → holds → 500 ≤ b % 4096 → b % 4096 ≤ 3300 → mg .plimitWrite { s.mgmt with plimit := BitVec.ofNat 12 (b % 4096) }) ∧
    (s.mgmt.boot = .run → a < 2 → holds → s.mgmt.mxBusy = false → 4 ≤ b → b ≤ 7 → mg .mextend
      { s.mgmt with mxBusy := true, mxErr := 0, mxReg := b, mxLatch := s.mgmt.mxDigest }) ∧
    (s.mgmt.mxBusy = true → mg .mextendDone { extendReg s.mgmt s.mgmt.mxReg s.mgmt.mxLatch with mxBusy := false }) ∧
    (a < 2 → (prt s a).mbBusy = false → ∃ t, exec .report s = .next t ∧ t.mgmt.mbQueue = s.mgmt.mbQueue ++ [(a, (prt s a).nonce)]) ∧
    (∀ n r, s.mgmt.mbQueue = (a, n) :: r → ∃ t, exec .reportDone s = .next t ∧ t.mgmt.mbQueue = r ∧
      (a < s.ports.length → (prt t a).mbBusy = false ∧ (prt t a).mbDone = true ∧ (prt t a).mbLen = 1864 ∧
        (prt t a).report = reportBytes s n)) ∧
    (a < 384 → isDue .dieSensorSample → ∃ t, exec .dieSensorSample s = .next t ∧
      let c := tget 0 s.inputs.coreTemp a
      (cr t a).dieTerm = if c ≤ 95 then 255 else if c ≤ 100 then 127 else if c ≤ 105 then 63 else 15) ∧
    (isDue .powerAverage → s.inputs.power ≠ s.mgmt.plimit.toNat → exec .powerAverage s = .next { s with
      due := s.due.erase (.powerAverage, s.args), mgmt := { s.mgmt with capped := decide (s.mgmt.plimit.toNat < s.inputs.power) } }) ∧
    (s.mgmt.boot ≠ .booting → ∃ t, exec .resetDev s = .next t ∧ t.mem = [] ∧ t.waves = State.reset.waves ∧
      (t.mgmt.boot = .run ↔ ∀ k, 1 ≤ k → k ≤ 3 → Config.imageVerifies k = true)) ∧
    (inMmio b = true → does .registerWrite (mmioWrite s a (b - mmioBase) (arg s 2) (arg s 3))) ∧
    (s.mgmt.boot = .run → does .retry (retrySlot s a b)) ∧
    (s.mgmt.boot = .run → x.bound = true → ∃ t, exec .abandon s = .next t ∧ (cx t a).fenced = true) ∧
    (s.mgmt.boot = .run → (logSlot s a b).state ≠ 0 → (logSlot s a b).state ≠ 1 → exec .freeSlot s = .next (retryDone s a b)) ∧
    (a ∈ s.fences → does .fenceComplete (fenceOver s a)) ∧
    (a = 0 → (wv s b).live = true → exec .softError s = .next (countUe (fenceBound s (wv s b).ctx) (coreStack (wv s b).core))) ∧
    (a = 3 → exec .softError s = .next (countUe (sectorError s b (arg s 2)) (homeStack (32 * b)))) ∧
    (a < 6 → ∃ t, exec .correctedSoftError s = .next t ∧ (stk t a).eccCe = ((stk s a).eccCe + 1) % 2 ^ 64 ∧ t.mem = s.mem) ∧
    (a < 384 → exec .unitRetire s = .next (retireUnit s a (decide (b = 1)))) ∧
    (exec .packetReflected s = .next s) ∧
    (a < 6 → ∃ t, exec .linkReplay s = .next t ∧ (stk t a).linkReplays = (stk s a).linkReplays + 1 ∧ t.net = s.net ∧ t.mem = s.mem)

/-- R180 to R183, R187, R189, R191 to R197, R169, R172, R176, R178, R329, R342, R369, R372, R378, R382, R383: the events of queues, launches,
waves and engines, each where its occasion holds and nothing it needs has to wait (log 127). At the end of YIELDMAX a linked group
that is not placed yet counts as completed (log 110). -/
def Obligations.LaunchWaveAndEngineEvents : Prop :=
  ∀ s : State,
    let does := fun (i : Instr) (t : State) => (t.blocked = none → exec i s = .next t) ∧ (t.blocked = some 0 → exec i s = .next s)
    let a := arg s 0
    let b := arg s 1
    let v := wv s a
    (s.mgmt.boot = .run →
      exec .qctlEnable s = .next (enableQueue s a b (arg s 2)) ∧ exec .qctlDisable s = .next (disableQueue s a b (arg s 2))) ∧
    (queueReads (qu s a) = true → ((qu s a).tail - (qu s a).head).toNat ≤ 2 ^ (qu s a).size.toNat → ∀ t bs,
      engBytes s (ctxUnit s (qu s a).ctx.toNat) (qu s a).ctx.toNat .ld
        ((qu s a).base.toNat + 128 * ((qu s a).head.toNat % 2 ^ (qu s a).size.toNat)) 128 = (t, .ok bs) → t.blocked = none →
      ∃ u, exec .queueRecordRead s = .next u ∧ (qu u a).offered = true ∧
        (cx u (qu s a).ctx.toNat).offers = (cx t (qu s a).ctx.toNat).offers ++ [(a, bs)]) ∧
    (queueReads (qu s a) = true → 2 ^ (qu s a).size.toNat < ((qu s a).tail - (qu s a).head).toNat →
      does .queueRecordRead (stopQueue s a 1 0)) ∧
    does .launchAccept (acceptOffer s a) ∧
    (∀ t, placement s a = some t → does .groupPlace t) ∧
    (workDone s a = true → does .groupComplete
      (publishGroup (endIfOver 8 (modGp s a fun y => { y with published := true }) a)
        (gp s a).ctx (gp s a).launch (gp s a).stage (gp s a).lin ((gp s a).pair / 32))) ∧
    (workDone s a = false → saveDue s a = true → does .groupComplete (saveGroup s a)) ∧
    (∀ l, releaseDue s a = some l → exec .contractRelease s = .next
      ((tkeys s.groups fun g => g.live && !g.savedAll && decide ((pr s g.pair).reservedBy = a + 1) &&
        !((launchOf (modLaunch s l.ctx l.id fun y => { y with released := some (cycOf s (qu s a).cstack.toNat) }) g).any fun y =>
          decide ((ruleLaunch (modLaunch s l.ctx l.id fun y => { y with released := some (cycOf s (qu s a).cstack.toNat) }) y).id = l.id))).foldl
        requestGroup (modLaunch s l.ctx l.id fun y => { y with released := some (cycOf s (qu s a).cstack.toNat) }))) ∧
    (∀ l, findLaunch s a = some l → overrunDue s l = true → (launchEvent s l 2 0 (eventStack s l)).blocked = none →
      ∃ t, exec .contractOverrun s = .next t ∧ ∀ y ∈ (cx t l.ctx).launches, y.id = l.id → y.contract = false ∧ y.overrun = true ∧ y.prio = 7) ∧
    (let g := gp s v.group
     let t := dropGroup s v.group
     yieldLate s a = true →
      ((∀ l, findLaunch t g.launch = some l → accepted l = false ∨ linkedAfter l 8 g.stage = []) →
        does .yieldmaxExpiry (endIfOver 8 t g.upstream)) ∧
      ∀ l, findLaunch t g.launch = some l → accepted l = true → does .yieldmaxExpiry (endIfOver 8
        (((linkedAfter l 8 g.stage).takeWhile fun k => !(l.placed.contains (k, g.lin))).foldl
          (fun u k => publishGroup (modLaunch u l.ctx l.id fun y => { y with placed := y.placed ++ [(k, g.lin)] })
            l.ctx l.id k g.lin (g.pair / 32)) t) g.upstream)) ∧
    (∀ t, oldTask s a = some t → exec .hiveTaskTimeout s = .next (formTask s a t.ctx t.kernel.entry)) ∧
    (∀ r, (v.results.find? fun r => r.id = b) = some r → resultReady s a r = true → attrOf v r = none → ∃ t,
      exec .resultWriteback s = .next t ∧ (wv t a).vregs = (land true v r.writes).vregs ∧ (wv t a).sregs = (land true v r.writes).sregs ∧
      (wv t a).q = (land true v r.writes).q ∧ (wv t a).results = v.results.filter (fun x => x.id ≠ r.id) ∧ t.mem = s.mem) ∧
    (∀ pc, priorityPc s a = some pc → (ln v b).pc = pc → ∃ t, exec .priorityGroup s = .next t ∧
      wv t a = { v with priority := some (lanesAt v pc, 0) }) ∧
    (starving s a = true → ∃ t, exec .issueStarvation s = .next t ∧ wv t a = { v with starved := true }) ∧
    (claimDead s a = true → ∃ u, does .claimDeadlock ((gp s a).waves.foldl claimTrap u) ∧ u = { s with groups := u.groups } ∧
      (∀ k, k ≠ a → gp u k = gp s k) ∧
      ∀ q, (q ∈ (gp s a).pools.map (·.quad) ∨ ∃ w ∈ (gp s a).waves, (wv s w).live = true ∧ (wv s w).saved = false ∧ quadKey (wv s w) = q) →
        poolOf (gp u a) q = { poolOf (gp s a) q with queue := [], dlk := true }) ∧
    (∀ u, (pr s a).batonPass = some (some u) → holderBusy s (pr s a) = false → (wv s u).live = true → (wv s u).saved = false →
      exec .batonHandover s = .next (takeBaton s a u)) ∧
    ((pr s a).batonPass = some none → holderBusy s (pr s a) = false → (pr s a).batonQueue = [] → ∃ t,
      exec .batonHandover s = .next t ∧ pr t a = { pr s a with baton := none, batonPass := none, passMats := [] }) ∧
    (faultNews v = true → ∃ t, exec .impreciseFault s = .next t ∧ wv t a = { v with faulting := true }) ∧
    (∀ r, trapDue s a = true → v.trap = some r → exec .trapDelivery s = .next (takeTrap s a (trapImp r) r)) ∧
    (∀ r, trapDue s a = true → v.trap = none → impreciseTrap v = some r → exec .trapDelivery s = .next (takeTrap s a true r)) ∧
    (∀ c k, a < 6 → k < 64 → (c, cx s c) ∈ s.ctxs → (s.ctxs.map Prod.fst).Nodup → (cx s c).bound = true → (cx s c).held.efill ≠ 0 →
      s.due.contains (Instr.ebudFill, s.args) = true → ∃ t, exec .ebudFill s = .next t ∧
      tget 0 (cr t (64 * a + k)).ebud c = min (tget 0 (cr s (64 * a + k)).ebud c + (cx s c).held.efill.toNat % 65536)
        (256 * ((cx s c).held.efill.toNat / 65536))) ∧
    (∀ m, matReady s a = some m →
      (matRetired m = true → does .matrixRetire (matDone s a m)) ∧
      (matRetired m = false →
        (∀ h n, m.instr = .mma h n ∨ m.instr = .mmas h n ∨ m.instr = .mmap h n →
          (m.reads = none → does .matrixRetire (matRead s a m n.shape.toNat)) ∧
          ∀ xs, m.reads = some xs → does .matrixRetire (matMultiply s a m n.shape.toNat xs)) ∧
        (∀ h n, m.instr = .mfill h n → does .matrixRetire (matFill s a m n.shape.toNat)) ∧
        (∀ h n, m.instr = .mdrain h n → does .matrixRetire (matDrain s a m n.shape.toNat)) ∧
        (∀ h n, m.instr = .mzero h n → ∃ t, does .matrixRetire (matDone t a m) ∧
          ∀ c ∈ [2 * a, 2 * a + 1], accTile t c m.tile = { empty := false, elems := [] }))) ∧
    (∀ id rest o k, (slotOf v b).loading = id :: rest → findOp v id = some o → readHeld s a id = false →
      opVal (specOf o.instr) o.words 0 0 % 4 = 0 →
      ∀ t ws, readProgram v.core v.ctx 32 (opVal (specOf o.instr) o.words 0 0) s = (t, .ok ws) →
      loadedSlot (opVal (specOf o.instr) o.words 0 0) ws = .ok k →
      does .pgloadComplete (completeOp (modWv t a fun u => setSlot u b { k with loading := rest }) a id o.todo 0)) ∧
    (∀ o t bs f, nfmtOut v = some o → readsMayGo s a o.id = true →
      engBytes s (.core v.core) v.ctx .ld (opVal (specOf o.instr) o.words 0 0) 64 = (t, .ok bs) →
      formatOf (opVal (specOf o.instr) o.words 0 0) bs = some f →
      does .nfmtLoaded (completeOp (modWv t a fun u => { u with nfmt := some f }) a o.id o.todo 0)) ∧
    (∀ c x, findWalk s a = some (c, x) → walkGoes s x = true → does .fireflyNodeRead (runWalk c 64 true x s)) ∧
    (∀ c, findColl s a = some c → collOrphan s c = false → c.hold = 0 →
      (c.started = false → does .collStart (collBegin s c b)) ∧
      (∀ t, c.started = true → collFinish s c = (t, none) → does .collComplete t))

/-- R22 to R33, R41 to R52, R66: the events of translation, of the memory-side cache, GDDR7 and the carve-out, each where its occasion
holds and nothing it needs has to wait (log 127); the periodic ones act where the clock has made them due. A walk completes no sooner
than 22 cc after it began (log 61). -/
def Obligations.TranslationAndCacheEvents : Prop :=
  ∀ s : State,
    let does := fun (i : Instr) (t : State) => (t.blocked = none → exec i s = .next t) ∧ (t.blocked = some 0 → exec i s = .next s)
    let isDue := fun i : Instr => s.due.contains (i, s.args) = true
    let acted := fun i : Instr => { s with due := s.due.erase (i, s.args) }
    let a := arg s 0
    let b := arg s 1
    let now := fun g : Nat => cycOf s (regionStack g)
    (∀ x, findAcc s a = some x → x.stage = .trans → s.walks.any (sameWalk s x) = true →
      exec .pageWalk s = .next (putAcc
        { s with walks := s.walks.map fun k => if sameWalk s x k then { k with waiters := k.waiters ++ [x.id] } else k }
        { x with stage := .walk })) ∧
    (∀ x, findAcc s a = some x → x.stage = .trans → s.walks.any (sameWalk s x) = false → walkerFree s x = true →
      (startWalk s x).blocked = none → ∃ t w,
      exec .pageWalk s = .next t ∧ w ∈ t.walks ∧ w.asid = accAsid s x ∧ w.page = x.va / 4096 ∧ w.waiters = [x.id] ∧
      w.due = cycAt (walkNow s x).1 x.core + 22 ∧
      ∀ c l k, (walkNow s x).2 = .fault c l k → w.code = c ∧ w.level = l ∧ w.knum = k ∧ w.entry = none) ∧
    (∀ w, (s.walks.find? fun k => k.id = a) = some w → walkOver s w = true → does .walkComplete
      (((s.accs.filter fun x => w.waiters.contains x.id).map fun x => x.core).eraseDups.foldl reroute
        (w.waiters.foldl (walkAnswer w) { s with walks := s.walks.filter fun k => k.id ≠ w.id }))) ∧
    (∀ x, findAcc s a = some x → x.stage = .dir → recalling s (frameOf x.pa) = false →
      let f := frameOf x.pa
      (tget .untouched s.dir f = .untouched → coreAgent x = true → exec .directoryRequest s = .next
        (classified { s with dir := tset .untouched s.dir f (.privateTo x.core) } x (.privateTo x.core))) ∧
      (tget .untouched s.dir f = .untouched → coreAgent x = false → exec .directoryRequest s = .next
        (classified { s with dir := tset .untouched s.dir f .shared } x .shared)) ∧
      (tget .untouched s.dir f = .shared → exec .directoryRequest s = .next (classified s x .shared)) ∧
      (∀ c, tget .untouched s.dir f = .privateTo c → c = x.core → coreAgent x = true →
        exec .directoryRequest s = .next (classified s x (.privateTo c))) ∧
      (∀ c, tget .untouched s.dir f = .privateTo c → c ≠ x.core → exec .directoryRequest s = .next
        (send { s with nextId := s.nextId + 1, recalls := s.recalls ++
          [{ id := s.nextId, frame := f, core := c, told := false, waiters := [x.id] }] } c (homeSlice (4096 * f)) 3 (.reclass s.nextId)))) ∧
    (∀ m id r, netFirst s a = some m → m.body = .reclass id → (s.recalls.find? fun r => r.id = id) = some r →
      ∃ t, exec .reclassify s = .next t ∧ t = reclassify (netDrop s m.id) r ∧
        t.recalls = s.recalls.map (fun x => if x.id = r.id then { x with told := true } else x)) ∧
    (∀ r, (s.recalls.find? fun r => r.id = a) = some r → r.told = true → wbLeft s r.core r.frame = false → ∃ t,
      exec .recallAck s = .next t ∧ t.recalls = s.recalls.filter (fun x => x.id ≠ r.id)) ∧
    (s.mgmt.boot = .run → exec .invAll s = .next (invAll s b) ∧ exec .invAsid s = .next (invAsid s b) ∧ exec .invVa s = .next (invVa s b) ∧
      exec .releaseFrame s = .next (releaseFrames s b)) ∧
    (tmDone s a = true → (tmOf s a).op ≠ 4 → entriesHeld s a = true → exec .tmCommandDone s = .next (invalidateNow s a)) ∧
    (tmDone s a = true → (tmOf s a).op ≠ 4 → entriesHeld s a = false → ∃ t, exec .tmCommandDone s = .next (modTm t a fun b =>
      { b with busy := false, done := true, err := 0, op := 0, job := (0, 0, 0), waits := [] }) ∧
      t.mem = s.mem ∧ ∀ p, tmOf t p = tmOf s p) ∧
    (a < s.ports.length → tmDone s a = true → (tmOf s a).op = 4 →
      let hi := frameOf ((tmOf s a).job.2.1 + (tmOf s a).job.2.2)
      let u := releaseFrom (s.dir.length + 1) ((tmOf s a).waits.headD hi) hi s
      (u.2 = [] → ∃ t, exec .tmCommandDone s = .next t ∧ (tmOf t a).busy = false ∧ (tmOf t a).done = true ∧ t.mem = u.1.mem) ∧
      (u.2 ≠ [] → exec .tmCommandDone s = .next (modTm u.1 a fun b => { b with waits := u.2 }))) ∧
    (∀ q l, (stk s a).queue = q :: l → ∀ t r, (t, r) = hpTake (modStk s a fun m => { m with queue := l }) q →
      let x := rgn t (regionOf (128 * r.line))
      ((x.refreshUntil ≠ 0 ∨ x.waiting ≠ [] ∨ (throttled x = true ∧ cycOf s a < x.nextAdmit)) → exec .msCacheRequest s = .next
        (setRgn t (regionOf (128 * r.line)) { x with waiting := x.waiting ++ [{ r with arrived := cycOf s a }] })) ∧
      (x.refreshUntil = 0 → x.waiting = [] → (throttled x = true → x.nextAdmit ≤ cycOf s a) →
        exec .msCacheRequest s = .next (msAdmit t r))) ∧
    (∀ r l, mayAdmit s a = true → (rgn s a).waiting = r :: l → (rgn s a).drains = [] → exec .throttledAdmission s = .next
      (msAdmit (modStk (modRgn s a fun x => { x with waiting := l }) (regionStack a) fun m =>
        { m with thr := (m.thr + (now a - r.arrived)) % 2 ^ 64 }) r)) ∧
    (∀ d l, mayAdmit s a = true → (rgn s a).waiting = [] → (rgn s a).drains = d :: l → exec .throttledAdmission s = .next
      (msDrain (modRgn s a fun x => { x with drains := l, nextAdmit := now a + 4 }) d)) ∧
    (mayAdmit s a = true → (rgn s a).waiting ≠ [] → (rgn s a).drains ≠ [] → ∃ t, exec .throttledAdmission s = .next t) ∧
    (∀ r l, (stk s a).held = r :: l → (stk s a).slots.length < 12288 → exec .gddr7RequestIssue s = .next
      (modStk s a fun m => { m with held := l, slots := (stk s a).slots ++ [r] })) ∧
    (∀ r, (stk s a).slots[b]? = some r → gddrBack s a r = true →
      (((stk s a).slots.take b).any fun x => decide (x.line = r.line ∧ x.sector = r.sector)) = false → r.write = true →
      exec .gddr7Complete s = .next (modStk s a fun m => { m with slots := m.slots.eraseIdx b })) ∧
    (∀ i ∈ [Instr.regionSample, .refreshStart, .carveOut], ¬ isDue i → exec i s = .next s) ∧
    (isDue .regionSample → ∃ t, exec .regionSample s = .next t ∧ (rgn t a).sample = min 255 (tget 0 s.inputs.regionTemp a) ∧
      (rgn t a).mode = nextMode (rgn s a).mode (min 255 (tget 0 s.inputs.regionTemp a)) ∧
      ∀ k < 8, (cr t (64 * regionStack a + 8 * (a % 8) + k)).dramTerm = dramTermOf (rgn t a).mode) ∧
    (isDue .refreshStart → exec .refreshStart s = .next (modRgn (addThr (acted .refreshStart) (regionStack a) (waitSum (rgn s a) (now a))) a
      fun x => { x with refreshUntil := now a + 286, waiting := x.waiting.map fun r => { r with arrived := now a } })) ∧
    (refreshOver s a = true → throttled (rgn s a) = true → ∃ t, exec .refreshEnd s = .next t ∧
      rgn t a = { rgn s a with refreshUntil := 0, waiting := (rgn s a).waiting.map fun r => { r with arrived := now a } }) ∧
    (refreshOver s a = true → throttled (rgn s a) = false → (rgn s a).waiting = [] → ∃ t, exec .refreshEnd s = .next t ∧
      rgn t a = { rgn s a with refreshUntil := 0 }) ∧
    (∀ f w op, findFlush s a = some (f, w, op) → flushDone s a = true → ∃ t, exec .msFlushComplete s = .next t ∧
      ∀ o, findOp (wv s w) op = some o → wv t w = complete (wv s w) op o.todo 1) ∧
    (∀ d v l, (stk s a).hpWriting = (d, v) :: l → lineBusy s d 16 = false → (hpRecord s a d v l).blocked = none → ∃ t, exec .hotPageRecordDone s = .next t ∧ (stk t a).hpWriting = l ∧
      (stk t a).hpHead = (stk s a).hpHead + 1) ∧
    (s.mgmt.boot = .run → a < 6 → ∃ t, exec .hpctlWrite s = .next t ∧ (stk t a).hpRate = BitVec.ofNat 4 (b / 2 % 16) ∧
      (stk t a).hpSize = BitVec.ofNat 5 (b / 2 ^ 8 % 32) ∧
      ((stk t a).hpEn = true ↔ b % 2 = 1 ∧ (stk s a).hpBase.toNat % 4096 = 0 ∧ (stk s a).hpBase.toNat < gddrUsable ∧
        6 ≤ b / 2 ^ 8 % 32 ∧ b / 2 ^ 8 % 32 ≤ 20 ∧ (stk s a).hpBase.toNat + 16 * 2 ^ (b / 2 ^ 8 % 32) ≤ gddrUsable)) ∧
    (∀ line p, s.pinWait[a]? = some (line, p) → pinFree s line = true →
      exec .pinGranted s = .next (pinLine { s with pinWait := s.pinWait.eraseIdx a } line p)) ∧
    (isDue .carveOut → ∃ t, exec .carveOut s = .next t ∧ ∀ c ∈ [2 * a, 2 * a + 1], (cr t c).shadowHits = 0 ∧ (cr t c).lruHits = 0)

/-- R72 to R79, R82 to R86, R117, R153, R402, R410: the events of homes, of the dirty-address FIFO, of the host and of the fabric, each
where its occasion holds. An access of a host or of another device joins those that have arrived, which are performed in turn as far
as none must wait (logs 127, 142), behind a request parked at its line (log 118); a host's access to an address with no memory behind it
stops (log 119), and a device's is answered with code 0x02 (R17). One to the registers is performed behind the commands that have reached
HSEM in its cycle (log 160). A link that goes down drops the lines held through it (log 118). -/
def Obligations.HomeHostAndFabricEvents : Prop :=
  ∀ s : State,
    let a := arg s 0
    let b := arg s 1
    let n := arg s 2
    (∀ t m e l k, takeRequest s a = (t, some m) → m.body = .daf e → e.kind = .reg l k → exec .homeReg s = .next (serveReg t m l k)) ∧
    (∀ t m id x, takeRequest s a = (t, some m) → m.body = .load id → findAcc t id = some x →
      exec .homeLoad s = .next (serveLoad t m x)) ∧
    (∀ t m e l k d own, takeWriteback s a = (t, some m) → m.body = .daf e → e.kind = .wb l k d own → exec .homeWriteback s = .next
      (ackTo (disown (homePut t l k d) l m.core own) m)) ∧
    (∀ t, takeWriteback s a = (t, none) → exec .homeWriteback s = .next t) ∧
    (∀ t m e x, takeRequest s a = (t, some m) → m.body = .daf e → (∀ k l d, e.kind ≠ .eng k l d) →
      (dafAcc e).bind (findAcc t) = some x → (∀ op g v, x.act ≠ .imago op g v) → exec .homeAtomic s = .next (serveHome t m x)) ∧
    (∀ t m e k l d, takeRequest s a = (t, some m) → m.body = .daf e → e.kind = .eng k l d →
      exec .homeAtomic s = .next (serveEng t m k l d)) ∧
    (∀ t m x, takeRequest s a = (t, some m) → hostFor t m (lineOf x.pa) (accWrites x) true = none → fillFor t m (lineOf x.pa) (lineMask x.pa x.mask) = none →
      recallFor t m (lineOf x.pa) (lineMask x.pa x.mask) none false = none →
      (∀ id, m.body = .imago id → findAcc t id = some x → exec .imagoHomeOp s = .next (imagoPerform t x)) ∧
      ∀ e, m.body = .daf e → (dafAcc e).bind (findAcc t) = some x → exec .imagoHomeOp s = .next (ackTo (imagoPerform t x) m)) ∧
    (∀ m e l k d r, netFirst s a = some m → m.body = .daf e → e.kind = .reply l k d r → exec .ownerReply s = .next
      (ackTo (answered (homePut (bringParked (netDrop s m.id) l m.core) l k d) l m.core) m)) ∧
    (exec .revokeWord s = .next (recallAtCore s a 0) ∧ exec .fetchWord s = .next (recallAtCore s a 1) ∧
      exec .mergeLine s = .next (recallAtCore s a 2)) ∧
    (∀ p, firstParked s a = some p → p.need = .members [] → exec .mergeComplete s = .next
      { regDrop s a with parked := s.parked.map fun x => if x = p then { x with need := .turn } else x }) ∧
    (∀ e r, (cr s a).daf = e :: r → headFree s a = true → exec .dafHeadSend s = .next (reroute (sendHead s a e r) a)) ∧
    (∀ e r, (cr s a).daf = e :: r → relFree s a = true → e.accs = [] →
      exec .relSend s = .next (reroute (modCr s a fun c => { c with daf := r }) a)) ∧
    (∀ e r x y l, (cr s a).daf = e :: r → relFree s a = true → e.accs = y :: l → (dafAcc e).bind (findAcc s) = some x → x.priv = true →
      exec .relSend s = .next (reroute (relComplete (modCr s a fun c => { c with daf := r }) x) a)) ∧
    (∀ m k u, netFirst s b = some m → m.core = a → m.body = .ack k → ((cr s a).unacked.find? fun u => u.1 = b) = some u →
      exec .ackReceived s = .next (reroute (entryAcked (modCr (netDrop s b) a fun c => { c with
        unacked := c.unacked.filter fun x => x.1 ≠ b
        relOut := if c.relOut = some b then none else c.relOut }) a u.2 n (arg s 3)) a)) ∧
    (∀ x, findAcc s a = some x → (∀ op g v, x.act ≠ .imago op g v) → x.stage = .ret → returns s x = true →
      exec .loadReturn s = .next (reroute (valueBack (dataCome s x.id) x x.val) x.core)) ∧
    (let came := fun k op d c : Nat =>
       arrivalsRun { s with arrivals := s.arrivals ++ [{ src := k, op := op, pa := b, n := n, data := d, cmp := c }] }
     s.args ≠ [] →
      ((inMmio b = true ∨ inMemory b n = true) →
        exec .hostPostedWrite s = .next (came (a % 2) (if arg s 4 = 0 then 0x60 else 0x61) (arg s 3) 0) ∧
        exec .hostRead s = .next (came (a % 2) 0x63 0 (arg s 3))) ∧
      (inMemory b n = true → exec .hostMemwr s = .next (came (a % 2) 0x62 (arg s 3) 0)) ∧
      (arg s 3 ≠ 0x50 → exec .farOperation s = .next (came (2 + a) (arg s 3) (arg s 4) (arg s 5))) ∧
      (inMemory b n = false → exec .hostMemwr s = .fault (.unbacked b) ∧
        (inMmio b = false → exec .hostRead s = .fault (.unbacked b) ∧ exec .hostPostedWrite s = .fault (.unbacked b)))) ∧
    (∀ i ∈ [Instr.hostPostedWrite, .hostMemwr, .hostRead, .farOperation], s.args = [] → exec i s = .next (arrivalsRun s)) ∧
    (∀ e, s.arrivals = [e] →
      let t := arrivalPerform s e
      (t.blocked = none → arrivalsRun s = { t with arrivals := [] }) ∧ (t.blocked = some 0 → arrivalsRun s = s) ∧
      (2 ≤ e.src → t = farPerform s (e.src - 2) e.pa e.n e.op e.data e.cmp ∧
        (e.n = 0 ∨ gddrUsable < e.pa + e.n → t = out s (.farReply (e.src - 2) 0 2 0))) ∧
      (e.src < 2 → inMmio e.pa = true → s.mgmt.hsemArr ≠ [] → writesHsemCmd e = false → t = mustWait s) ∧
      (e.src < 2 → inMmio e.pa = true → s.mgmt.hsemArr = [] ∨ writesHsemCmd e = true → t = if e.op = 0x63 then
          out s (.hostData e.src (mmioRead s e.src (e.pa - mmioBase) e.n) false)
        else mmioWrite s e.src (e.pa - mmioBase) e.n e.data) ∧
      (e.src < 2 → inMmio e.pa = false → lineBusy s e.pa e.n = false →
        (e.op = 0x62 → t = out (portWrite s e.pa e.n e.data) (.cmp e.src)) ∧
        (e.op ≠ 0x62 → e.op ≠ 0x63 → t = portWrite s e.pa e.n e.data) ∧
        (e.op = 0x63 →
          let u := portAccess s e.pa e.n (decide (e.cmp = 2)) true
          t = out (hostKeeps u e.pa e.n e.cmp) (.hostData e.src (homeRead u e.pa e.n) (poisonIn u e.pa e.n)))) ∧
      (e.src < 2 → inMmio e.pa = false → lineBusy s e.pa e.n = true → t = mustWait s)) ∧
    (∀ p, snoopedBy s a = some p → ∃ t, exec .bisnpResponse s = .next t ∧
      t.parked = s.parked.map (fun x => if x = p then { x with need := .turn } else x)) ∧
    (snoopFree s a b = true →
      (∃ t, exec .snpdata s = .next t ∧ b ∉ t.hostOwn) ∧
      (∃ t, exec .snpinv s = .next t ∧ b ∉ t.hostOwn ∧ tget noL2 t.l2 b = noL2) ∧
      ∃ t, exec .snpcur s = .next t ∧ t.hostOwn = (snoopReply s a b).hostOwn ∧
        (b ∈ t.hostOwn → (tget noL2 t.l2 b).dirty = (tget noL2 t.l2 b).valid)) ∧
    (∀ line k, (s.d2hWait.find? fun x => x.1 = a) = some (a, line, k) → exec .hostResponse s = .next (d2hAnswer s a line k b)) ∧
    (a < s.ports.length →
      (a < 2 → ∃ t, exec .hostLinkDown s = .next t ∧ (prt t a).up = false ∧ (prt t a).cxlCache = false ∧
        ∀ l ∈ t.hostOwn, portLine a l = false) ∧
      (∃ t, exec .hostLinkUp s = .next t ∧ (prt t a).up = true ∧ (prt t a).cxlCache = false) ∧
      ∃ t, exec .cxlCacheNegotiated s = .next t ∧ (prt t a).up = true ∧ (prt t a).cxlCache = true) ∧
    (a < 16 → ∃ t, exec .fabricPortFail s = .next t ∧ t.mgmt.fabricUp = s.mgmt.fabricUp &&& ~~~(1#16 <<< a))

/-- R137 to R141, R144, R133, R155, R156, R356 to R363, R55 to R57: the events of copies, waits, imago and graphics, each where its occasion
holds and nothing it needs has to wait (log 127). -/
def Obligations.CopyWaitAndTileEvents : Prop :=
  ∀ s : State,
    let does := fun (i : Instr) (t : State) => (t.blocked = none → exec i s = .next t) ∧ (t.blocked = some 0 → exec i s = .next s)
    let a := arg s 0
    let b := arg s 1
    (∀ c, nextFetch s a = some c → exec .scarabFetch s = .next (fetchCopy s c)) ∧
    (∀ c, findCopy s a = some c →
      (copyOrphan s c = false → pieceGoes s c = true →
        (c.hold ≠ 5 → does .copyPiece (copyPiece s c)) ∧ (c.hold = 5 → does .copyPiece (pieceAcked s c))) ∧
      (fifoFree s c = true → does .scarabFifoResume (copyPiece s { c with hold := 0 }))) ∧
    (∀ p, (s.pubs.find? fun p => p.id = a) = some p → pubReady s p = true → exec .pubSwap s = .next
      (completeOp (pubAgain (p.pages.foldl pubSwapPage { s with pubs := s.pubs.filter fun x => x.id ≠ p.id }) p) p.wave p.op 0 1)) ∧
    (∀ x, findWaiter s a = some x →
      (wakeDue s x = true → exec .barrierWake s = .next
        (completeOp (selfInvalidate (endWait s x) (wv s x.wave).core) x.wave x.op x.lanes 0)) ∧
      (x.dst = 1 → (x.woken = true ∨ waiterReady s x = true ∨ (wv s x.wave).request = true) →
        exec .waddrWake s = .next (waddrReturn s x)) ∧
      (x.dst = 1 → x.deadline ≤ cycAt s (wv s x.wave).core → exec .waddrTimeout s = .next (waddrReturn s x))) ∧
    (∀ x, findAcc s a = some x →
      (∀ op g v, x.act = .imago op g v →
        (x.stage = .ret → dataTurn s x.id = true → exec .imagoResult s = .next (imagoDeliver (dataCome s x.id) x x.val)) ∧
        (x.stage = .home → remoteDest (destOf s x.pa) = true →
          (arg s 2 = 0 → exec .imagoResult s = .next (imagoDeliver (forgetFar s x.id) x b)) ∧
          (arg s 2 ≠ 0 → exec .imagoResult s = .next
            (failAcc (forgetFar s x.id) x 10 (statusWord (arg s 2 % 256) x.lvl 8 (kindNum x.kind) true)))) ∧
        (getExpired s x = true → exec .cgetTimeout s = .next (imagoDeliver (forgetFar s x.id) x (imagoVal 5 g 0)))) ∧
      (parkedGet x = true → x.status = 1 → exec .cgetWake s = .next (imagoDeliver s x x.val))) ∧
    (∀ i ready go, (i, ready, go) ∈ [(Instr.rastFragment, fragReady, fun (s : State) (f : Fragment) => if f.held = 3 then setupFrag s f else arriveFrag s f),
        (.tileFragmentResume, fragResumes, arriveFrag), (.pinLimitResume, fragUnpinned, arriveFrag)] →
      ∀ f, (s.frags.find? fun f => f.id = a) = some f → ready s f = true → does i (go s f)) ∧
    (∀ f, findFlushOf s a = some f → b ∈ (if flushMayStart s f then startFlush s f else f).toClose →
      (tget freeTile s.tiles b).state = .opened → ∃ t, exec .tileClose s = .next t ∧
      tget freeTile t.tiles b = { tget freeTile s.tiles b with state := .closed, closedBy := f.id, order := s.nextId }) ∧
    (nextClosed s (homeStack a) = some a → ∀ t e,
      let x := tget freeTile s.tiles a
      let ag := Agent.unit (homeStack a)
      let u := { s with tiles := tset freeTile s.tiles a { x with state := .classifying, formica := true } }
      (viewOf u ag x.ctx x.view = (t, .error e) → does .tileScan (formicaReport t x.ctx 7 e)) ∧
      (∀ v, viewOf u ag x.ctx x.view = (t, .ok v) → (cx (scanPixels t ag x v).1 x.ctx).fenced = false →
        does .tileScan (sendRecs (scanPixels t ag x v).1 (scanRecs v x a (scanPixels t ag x v).2)))) ∧
    (classified_ s a = true →
      let t := { s with tiles := tset freeTile s.tiles a { tget freeTile s.tiles a with state := .shading, formica := false } }
      ((tget freeTile s.tiles a).refs ≠ [] → exec .tileClassifyEnd s = .next (flushOver t (tget freeTile s.tiles a).closedBy)) ∧
      ((tget freeTile s.tiles a).refs = [] →
        exec .tileClassifyEnd s = .next (flushOver (tileToFree t a) (tget freeTile s.tiles a).closedBy))) ∧
    (refOver s a b = true → exec .tileReferenceRelease s = .next (releaseRef s a b)) ∧
    (∀ r, (s.binRecs.find? fun r => r.id = a) = some r → recReady s r = true → does .binRecordArrive
      (if r.op = 0 then enterBin { s with binRecs := s.binRecs.filter fun x => x.id ≠ r.id } r
       else arriveHit { s with binRecs := s.binRecs.filter fun x => x.id ≠ r.id } r)) ∧
    (∀ x, (s.bins.find? fun b => b.id = a) = some x → binOld s x = true → does .binAgeDrain (drainBin s x)) ∧
    (∀ f, findFlushOf s a = some f → flushMayDrain s f = true →
      let u := putFlush s { f with started := true, drained := true }
      does .rflushDrain (flushOver
        ((u.bins.filter fun x => decide (x.ctx = f.ctx) && decide (x.view = f.view)).foldl drainBin u) f.id))
end

