-- ==== Sys2Proof/Laws/State.lean ====
section
/-! SUPPORT. One lemma for each field of State and each of its updates, so that no proof unfolds a record update. -/

namespace Sys2Proof.Machine

open Sys2Proof.Machine.State

/-! ### `setWv` changes `waves` alone -/

@[simp] theorem setWv_moves (s : State) (w : Nat) (v : Wave) : (setWv s w v).moves = s.moves := (rfl)
@[simp] theorem setWv_due (s : State) (w : Nat) (v : Wave) : (setWv s w v).due = s.due := (rfl)
@[simp] theorem setWv_args (s : State) (w : Nat) (v : Wave) : (setWv s w v).args = s.args := (rfl)
@[simp] theorem setWv_stalled (s : State) (w : Nat) (v : Wave) : (setWv s w v).stalled = s.stalled := (rfl)
@[simp] theorem setWv_turn (s : State) (w : Nat) (v : Wave) : (setWv s w v).turn = s.turn := (rfl)
@[simp] theorem setWv_cur (s : State) (w : Nat) (v : Wave) : (setWv s w v).cur = s.cur := (rfl)
@[simp] theorem setWv_draws (s : State) (w : Nat) (v : Wave) : (setWv s w v).draws = s.draws := (rfl)
@[simp] theorem setWv_nextId (s : State) (w : Nat) (v : Wave) : (setWv s w v).nextId = s.nextId := (rfl)
@[simp] theorem setWv_outbox (s : State) (w : Nat) (v : Wave) : (setWv s w v).outbox = s.outbox := (rfl)
@[simp] theorem setWv_inputs (s : State) (w : Nat) (v : Wave) : (setWv s w v).inputs = s.inputs := (rfl)
@[simp] theorem setWv_cyc (s : State) (w : Nat) (v : Wave) : (setWv s w v).cyc = s.cyc := (rfl)
@[simp] theorem setWv_mem (s : State) (w : Nat) (v : Wave) : (setWv s w v).mem = s.mem := (rfl)
@[simp] theorem setWv_poison (s : State) (w : Nat) (v : Wave) : (setWv s w v).poison = s.poison := (rfl)
@[simp] theorem setWv_cores (s : State) (w : Nat) (v : Wave) : (setWv s w v).cores = s.cores := (rfl)
@[simp] theorem setWv_pairs (s : State) (w : Nat) (v : Wave) : (setWv s w v).pairs = s.pairs := (rfl)
@[simp] theorem setWv_waves (s : State) (w : Nat) (v : Wave) : (setWv s w v).waves = tset idleWave s.waves w v := (rfl)
@[simp] theorem setWv_groups (s : State) (w : Nat) (v : Wave) : (setWv s w v).groups = s.groups := (rfl)
@[simp] theorem setWv_ctxs (s : State) (w : Nat) (v : Wave) : (setWv s w v).ctxs = s.ctxs := (rfl)
@[simp] theorem setWv_queues (s : State) (w : Nat) (v : Wave) : (setWv s w v).queues = s.queues := (rfl)
@[simp] theorem setWv_ports (s : State) (w : Nat) (v : Wave) : (setWv s w v).ports = s.ports := (rfl)
@[simp] theorem setWv_mgmt (s : State) (w : Nat) (v : Wave) : (setWv s w v).mgmt = s.mgmt := (rfl)
@[simp] theorem setWv_stackMems (s : State) (w : Nat) (v : Wave) : (setWv s w v).stackMems = s.stackMems := (rfl)
@[simp] theorem setWv_regions (s : State) (w : Nat) (v : Wave) : (setWv s w v).regions = s.regions := (rfl)
@[simp] theorem setWv_msLines (s : State) (w : Nat) (v : Wave) : (setWv s w v).msLines = s.msLines := (rfl)
@[simp] theorem setWv_l2 (s : State) (w : Nat) (v : Wave) : (setWv s w v).l2 = s.l2 := (rfl)
@[simp] theorem setWv_registry (s : State) (w : Nat) (v : Wave) : (setWv s w v).registry = s.registry := (rfl)
@[simp] theorem setWv_regStamp (s : State) (w : Nat) (v : Wave) : (setWv s w v).regStamp = s.regStamp := (rfl)
@[simp] theorem setWv_hostHeld (s : State) (w : Nat) (v : Wave) : (setWv s w v).hostHeld = s.hostHeld := (rfl)
@[simp] theorem setWv_hostOwn (s : State) (w : Nat) (v : Wave) : (setWv s w v).hostOwn = s.hostOwn := (rfl)
@[simp] theorem setWv_net (s : State) (w : Nat) (v : Wave) : (setWv s w v).net = s.net := (rfl)
@[simp] theorem setWv_parked (s : State) (w : Nat) (v : Wave) : (setWv s w v).parked = s.parked := (rfl)
@[simp] theorem setWv_accs (s : State) (w : Nat) (v : Wave) : (setWv s w v).accs = s.accs := (rfl)
@[simp] theorem setWv_l2tlb (s : State) (w : Nat) (v : Wave) : (setWv s w v).l2tlb = s.l2tlb := (rfl)
@[simp] theorem setWv_pwc (s : State) (w : Nat) (v : Wave) : (setWv s w v).pwc = s.pwc := (rfl)
@[simp] theorem setWv_walks (s : State) (w : Nat) (v : Wave) : (setWv s w v).walks = s.walks := (rfl)
@[simp] theorem setWv_dir (s : State) (w : Nat) (v : Wave) : (setWv s w v).dir = s.dir := (rfl)
@[simp] theorem setWv_recalls (s : State) (w : Nat) (v : Wave) : (setWv s w v).recalls = s.recalls := (rfl)
@[simp] theorem setWv_twins (s : State) (w : Nat) (v : Wave) : (setWv s w v).twins = s.twins := (rfl)
@[simp] theorem setWv_pubs (s : State) (w : Nat) (v : Wave) : (setWv s w v).pubs = s.pubs := (rfl)
@[simp] theorem setWv_waiters (s : State) (w : Nat) (v : Wave) : (setWv s w v).waiters = s.waiters := (rfl)
@[simp] theorem setWv_hives (s : State) (w : Nat) (v : Wave) : (setWv s w v).hives = s.hives := (rfl)
@[simp] theorem setWv_tiles (s : State) (w : Nat) (v : Wave) : (setWv s w v).tiles = s.tiles := (rfl)
@[simp] theorem setWv_frags (s : State) (w : Nat) (v : Wave) : (setWv s w v).frags = s.frags := (rfl)
@[simp] theorem setWv_binRecs (s : State) (w : Nat) (v : Wave) : (setWv s w v).binRecs = s.binRecs := (rfl)
@[simp] theorem setWv_bins (s : State) (w : Nat) (v : Wave) : (setWv s w v).bins = s.bins := (rfl)
@[simp] theorem setWv_flushes (s : State) (w : Nat) (v : Wave) : (setWv s w v).flushes = s.flushes := (rfl)
@[simp] theorem setWv_colls (s : State) (w : Nat) (v : Wave) : (setWv s w v).colls = s.colls := (rfl)
@[simp] theorem setWv_pinWait (s : State) (w : Nat) (v : Wave) : (setWv s w v).pinWait = s.pinWait := (rfl)
@[simp] theorem setWv_d2hWait (s : State) (w : Nat) (v : Wave) : (setWv s w v).d2hWait = s.d2hWait := (rfl)
@[simp] theorem setWv_fences (s : State) (w : Nat) (v : Wave) : (setWv s w v).fences = s.fences := (rfl)
@[simp] theorem setWv_was (s : State) (w : Nat) (v : Wave) : (setWv s w v).was = s.was := (rfl)
@[simp] theorem setWv_arrivals (s : State) (w : Nat) (v : Wave) : (setWv s w v).arrivals = s.arrivals := (rfl)
@[simp] theorem setWv_blocked (s : State) (w : Nat) (v : Wave) : (setWv s w v).blocked = s.blocked := (rfl)

/-! ### `setCr` changes `cores` alone -/

@[simp] theorem setCr_moves (s : State) (c : Nat) (v : Core) : (setCr s c v).moves = s.moves := (rfl)
@[simp] theorem setCr_due (s : State) (c : Nat) (v : Core) : (setCr s c v).due = s.due := (rfl)
@[simp] theorem setCr_args (s : State) (c : Nat) (v : Core) : (setCr s c v).args = s.args := (rfl)
@[simp] theorem setCr_stalled (s : State) (c : Nat) (v : Core) : (setCr s c v).stalled = s.stalled := (rfl)
@[simp] theorem setCr_turn (s : State) (c : Nat) (v : Core) : (setCr s c v).turn = s.turn := (rfl)
@[simp] theorem setCr_cur (s : State) (c : Nat) (v : Core) : (setCr s c v).cur = s.cur := (rfl)
@[simp] theorem setCr_draws (s : State) (c : Nat) (v : Core) : (setCr s c v).draws = s.draws := (rfl)
@[simp] theorem setCr_nextId (s : State) (c : Nat) (v : Core) : (setCr s c v).nextId = s.nextId := (rfl)
@[simp] theorem setCr_outbox (s : State) (c : Nat) (v : Core) : (setCr s c v).outbox = s.outbox := (rfl)
@[simp] theorem setCr_inputs (s : State) (c : Nat) (v : Core) : (setCr s c v).inputs = s.inputs := (rfl)
@[simp] theorem setCr_cyc (s : State) (c : Nat) (v : Core) : (setCr s c v).cyc = s.cyc := (rfl)
@[simp] theorem setCr_mem (s : State) (c : Nat) (v : Core) : (setCr s c v).mem = s.mem := (rfl)
@[simp] theorem setCr_poison (s : State) (c : Nat) (v : Core) : (setCr s c v).poison = s.poison := (rfl)
@[simp] theorem setCr_cores (s : State) (c : Nat) (v : Core) : (setCr s c v).cores = tset resetCore s.cores c v := (rfl)
@[simp] theorem setCr_pairs (s : State) (c : Nat) (v : Core) : (setCr s c v).pairs = s.pairs := (rfl)
@[simp] theorem setCr_waves (s : State) (c : Nat) (v : Core) : (setCr s c v).waves = s.waves := (rfl)
@[simp] theorem setCr_groups (s : State) (c : Nat) (v : Core) : (setCr s c v).groups = s.groups := (rfl)
@[simp] theorem setCr_ctxs (s : State) (c : Nat) (v : Core) : (setCr s c v).ctxs = s.ctxs := (rfl)
@[simp] theorem setCr_queues (s : State) (c : Nat) (v : Core) : (setCr s c v).queues = s.queues := (rfl)
@[simp] theorem setCr_ports (s : State) (c : Nat) (v : Core) : (setCr s c v).ports = s.ports := (rfl)
@[simp] theorem setCr_mgmt (s : State) (c : Nat) (v : Core) : (setCr s c v).mgmt = s.mgmt := (rfl)
@[simp] theorem setCr_stackMems (s : State) (c : Nat) (v : Core) : (setCr s c v).stackMems = s.stackMems := (rfl)
@[simp] theorem setCr_regions (s : State) (c : Nat) (v : Core) : (setCr s c v).regions = s.regions := (rfl)
@[simp] theorem setCr_msLines (s : State) (c : Nat) (v : Core) : (setCr s c v).msLines = s.msLines := (rfl)
@[simp] theorem setCr_l2 (s : State) (c : Nat) (v : Core) : (setCr s c v).l2 = s.l2 := (rfl)
@[simp] theorem setCr_registry (s : State) (c : Nat) (v : Core) : (setCr s c v).registry = s.registry := (rfl)
@[simp] theorem setCr_regStamp (s : State) (c : Nat) (v : Core) : (setCr s c v).regStamp = s.regStamp := (rfl)
@[simp] theorem setCr_hostHeld (s : State) (c : Nat) (v : Core) : (setCr s c v).hostHeld = s.hostHeld := (rfl)
@[simp] theorem setCr_hostOwn (s : State) (c : Nat) (v : Core) : (setCr s c v).hostOwn = s.hostOwn := (rfl)
@[simp] theorem setCr_net (s : State) (c : Nat) (v : Core) : (setCr s c v).net = s.net := (rfl)
@[simp] theorem setCr_parked (s : State) (c : Nat) (v : Core) : (setCr s c v).parked = s.parked := (rfl)
@[simp] theorem setCr_accs (s : State) (c : Nat) (v : Core) : (setCr s c v).accs = s.accs := (rfl)
@[simp] theorem setCr_l2tlb (s : State) (c : Nat) (v : Core) : (setCr s c v).l2tlb = s.l2tlb := (rfl)
@[simp] theorem setCr_pwc (s : State) (c : Nat) (v : Core) : (setCr s c v).pwc = s.pwc := (rfl)
@[simp] theorem setCr_walks (s : State) (c : Nat) (v : Core) : (setCr s c v).walks = s.walks := (rfl)
@[simp] theorem setCr_dir (s : State) (c : Nat) (v : Core) : (setCr s c v).dir = s.dir := (rfl)
@[simp] theorem setCr_recalls (s : State) (c : Nat) (v : Core) : (setCr s c v).recalls = s.recalls := (rfl)
@[simp] theorem setCr_twins (s : State) (c : Nat) (v : Core) : (setCr s c v).twins = s.twins := (rfl)
@[simp] theorem setCr_pubs (s : State) (c : Nat) (v : Core) : (setCr s c v).pubs = s.pubs := (rfl)
@[simp] theorem setCr_waiters (s : State) (c : Nat) (v : Core) : (setCr s c v).waiters = s.waiters := (rfl)
@[simp] theorem setCr_hives (s : State) (c : Nat) (v : Core) : (setCr s c v).hives = s.hives := (rfl)
@[simp] theorem setCr_tiles (s : State) (c : Nat) (v : Core) : (setCr s c v).tiles = s.tiles := (rfl)
@[simp] theorem setCr_frags (s : State) (c : Nat) (v : Core) : (setCr s c v).frags = s.frags := (rfl)
@[simp] theorem setCr_binRecs (s : State) (c : Nat) (v : Core) : (setCr s c v).binRecs = s.binRecs := (rfl)
@[simp] theorem setCr_bins (s : State) (c : Nat) (v : Core) : (setCr s c v).bins = s.bins := (rfl)
@[simp] theorem setCr_flushes (s : State) (c : Nat) (v : Core) : (setCr s c v).flushes = s.flushes := (rfl)
@[simp] theorem setCr_colls (s : State) (c : Nat) (v : Core) : (setCr s c v).colls = s.colls := (rfl)
@[simp] theorem setCr_pinWait (s : State) (c : Nat) (v : Core) : (setCr s c v).pinWait = s.pinWait := (rfl)
@[simp] theorem setCr_d2hWait (s : State) (c : Nat) (v : Core) : (setCr s c v).d2hWait = s.d2hWait := (rfl)
@[simp] theorem setCr_fences (s : State) (c : Nat) (v : Core) : (setCr s c v).fences = s.fences := (rfl)
@[simp] theorem setCr_was (s : State) (c : Nat) (v : Core) : (setCr s c v).was = s.was := (rfl)
@[simp] theorem setCr_arrivals (s : State) (c : Nat) (v : Core) : (setCr s c v).arrivals = s.arrivals := (rfl)
@[simp] theorem setCr_blocked (s : State) (c : Nat) (v : Core) : (setCr s c v).blocked = s.blocked := (rfl)

/-! ### `setPr` changes `pairs` alone -/

@[simp] theorem setPr_moves (s : State) (p : Nat) (v : Pair) : (setPr s p v).moves = s.moves := (rfl)
@[simp] theorem setPr_due (s : State) (p : Nat) (v : Pair) : (setPr s p v).due = s.due := (rfl)
@[simp] theorem setPr_args (s : State) (p : Nat) (v : Pair) : (setPr s p v).args = s.args := (rfl)
@[simp] theorem setPr_stalled (s : State) (p : Nat) (v : Pair) : (setPr s p v).stalled = s.stalled := (rfl)
@[simp] theorem setPr_turn (s : State) (p : Nat) (v : Pair) : (setPr s p v).turn = s.turn := (rfl)
@[simp] theorem setPr_cur (s : State) (p : Nat) (v : Pair) : (setPr s p v).cur = s.cur := (rfl)
@[simp] theorem setPr_draws (s : State) (p : Nat) (v : Pair) : (setPr s p v).draws = s.draws := (rfl)
@[simp] theorem setPr_nextId (s : State) (p : Nat) (v : Pair) : (setPr s p v).nextId = s.nextId := (rfl)
@[simp] theorem setPr_outbox (s : State) (p : Nat) (v : Pair) : (setPr s p v).outbox = s.outbox := (rfl)
@[simp] theorem setPr_inputs (s : State) (p : Nat) (v : Pair) : (setPr s p v).inputs = s.inputs := (rfl)
@[simp] theorem setPr_cyc (s : State) (p : Nat) (v : Pair) : (setPr s p v).cyc = s.cyc := (rfl)
@[simp] theorem setPr_mem (s : State) (p : Nat) (v : Pair) : (setPr s p v).mem = s.mem := (rfl)
@[simp] theorem setPr_poison (s : State) (p : Nat) (v : Pair) : (setPr s p v).poison = s.poison := (rfl)
@[simp] theorem setPr_cores (s : State) (p : Nat) (v : Pair) : (setPr s p v).cores = s.cores := (rfl)
@[simp] theorem setPr_pairs (s : State) (p : Nat) (v : Pair) : (setPr s p v).pairs = tset resetPair s.pairs p v := (rfl)
@[simp] theorem setPr_waves (s : State) (p : Nat) (v : Pair) : (setPr s p v).waves = s.waves := (rfl)
@[simp] theorem setPr_groups (s : State) (p : Nat) (v : Pair) : (setPr s p v).groups = s.groups := (rfl)
@[simp] theorem setPr_ctxs (s : State) (p : Nat) (v : Pair) : (setPr s p v).ctxs = s.ctxs := (rfl)
@[simp] theorem setPr_queues (s : State) (p : Nat) (v : Pair) : (setPr s p v).queues = s.queues := (rfl)
@[simp] theorem setPr_ports (s : State) (p : Nat) (v : Pair) : (setPr s p v).ports = s.ports := (rfl)
@[simp] theorem setPr_mgmt (s : State) (p : Nat) (v : Pair) : (setPr s p v).mgmt = s.mgmt := (rfl)
@[simp] theorem setPr_stackMems (s : State) (p : Nat) (v : Pair) : (setPr s p v).stackMems = s.stackMems := (rfl)
@[simp] theorem setPr_regions (s : State) (p : Nat) (v : Pair) : (setPr s p v).regions = s.regions := (rfl)
@[simp] theorem setPr_msLines (s : State) (p : Nat) (v : Pair) : (setPr s p v).msLines = s.msLines := (rfl)
@[simp] theorem setPr_l2 (s : State) (p : Nat) (v : Pair) : (setPr s p v).l2 = s.l2 := (rfl)
@[simp] theorem setPr_registry (s : State) (p : Nat) (v : Pair) : (setPr s p v).registry = s.registry := (rfl)
@[simp] theorem setPr_regStamp (s : State) (p : Nat) (v : Pair) : (setPr s p v).regStamp = s.regStamp := (rfl)
@[simp] theorem setPr_hostHeld (s : State) (p : Nat) (v : Pair) : (setPr s p v).hostHeld = s.hostHeld := (rfl)
@[simp] theorem setPr_hostOwn (s : State) (p : Nat) (v : Pair) : (setPr s p v).hostOwn = s.hostOwn := (rfl)
@[simp] theorem setPr_net (s : State) (p : Nat) (v : Pair) : (setPr s p v).net = s.net := (rfl)
@[simp] theorem setPr_parked (s : State) (p : Nat) (v : Pair) : (setPr s p v).parked = s.parked := (rfl)
@[simp] theorem setPr_accs (s : State) (p : Nat) (v : Pair) : (setPr s p v).accs = s.accs := (rfl)
@[simp] theorem setPr_l2tlb (s : State) (p : Nat) (v : Pair) : (setPr s p v).l2tlb = s.l2tlb := (rfl)
@[simp] theorem setPr_pwc (s : State) (p : Nat) (v : Pair) : (setPr s p v).pwc = s.pwc := (rfl)
@[simp] theorem setPr_walks (s : State) (p : Nat) (v : Pair) : (setPr s p v).walks = s.walks := (rfl)
@[simp] theorem setPr_dir (s : State) (p : Nat) (v : Pair) : (setPr s p v).dir = s.dir := (rfl)
@[simp] theorem setPr_recalls (s : State) (p : Nat) (v : Pair) : (setPr s p v).recalls = s.recalls := (rfl)
@[simp] theorem setPr_twins (s : State) (p : Nat) (v : Pair) : (setPr s p v).twins = s.twins := (rfl)
@[simp] theorem setPr_pubs (s : State) (p : Nat) (v : Pair) : (setPr s p v).pubs = s.pubs := (rfl)
@[simp] theorem setPr_waiters (s : State) (p : Nat) (v : Pair) : (setPr s p v).waiters = s.waiters := (rfl)
@[simp] theorem setPr_hives (s : State) (p : Nat) (v : Pair) : (setPr s p v).hives = s.hives := (rfl)
@[simp] theorem setPr_tiles (s : State) (p : Nat) (v : Pair) : (setPr s p v).tiles = s.tiles := (rfl)
@[simp] theorem setPr_frags (s : State) (p : Nat) (v : Pair) : (setPr s p v).frags = s.frags := (rfl)
@[simp] theorem setPr_binRecs (s : State) (p : Nat) (v : Pair) : (setPr s p v).binRecs = s.binRecs := (rfl)
@[simp] theorem setPr_bins (s : State) (p : Nat) (v : Pair) : (setPr s p v).bins = s.bins := (rfl)
@[simp] theorem setPr_flushes (s : State) (p : Nat) (v : Pair) : (setPr s p v).flushes = s.flushes := (rfl)
@[simp] theorem setPr_colls (s : State) (p : Nat) (v : Pair) : (setPr s p v).colls = s.colls := (rfl)
@[simp] theorem setPr_pinWait (s : State) (p : Nat) (v : Pair) : (setPr s p v).pinWait = s.pinWait := (rfl)
@[simp] theorem setPr_d2hWait (s : State) (p : Nat) (v : Pair) : (setPr s p v).d2hWait = s.d2hWait := (rfl)
@[simp] theorem setPr_fences (s : State) (p : Nat) (v : Pair) : (setPr s p v).fences = s.fences := (rfl)
@[simp] theorem setPr_was (s : State) (p : Nat) (v : Pair) : (setPr s p v).was = s.was := (rfl)
@[simp] theorem setPr_arrivals (s : State) (p : Nat) (v : Pair) : (setPr s p v).arrivals = s.arrivals := (rfl)
@[simp] theorem setPr_blocked (s : State) (p : Nat) (v : Pair) : (setPr s p v).blocked = s.blocked := (rfl)

/-! ### `setGp` changes `groups` alone -/

@[simp] theorem setGp_moves (s : State) (g : Nat) (v : Group) : (setGp s g v).moves = s.moves := (rfl)
@[simp] theorem setGp_due (s : State) (g : Nat) (v : Group) : (setGp s g v).due = s.due := (rfl)
@[simp] theorem setGp_args (s : State) (g : Nat) (v : Group) : (setGp s g v).args = s.args := (rfl)
@[simp] theorem setGp_stalled (s : State) (g : Nat) (v : Group) : (setGp s g v).stalled = s.stalled := (rfl)
@[simp] theorem setGp_turn (s : State) (g : Nat) (v : Group) : (setGp s g v).turn = s.turn := (rfl)
@[simp] theorem setGp_cur (s : State) (g : Nat) (v : Group) : (setGp s g v).cur = s.cur := (rfl)
@[simp] theorem setGp_draws (s : State) (g : Nat) (v : Group) : (setGp s g v).draws = s.draws := (rfl)
@[simp] theorem setGp_nextId (s : State) (g : Nat) (v : Group) : (setGp s g v).nextId = s.nextId := (rfl)
@[simp] theorem setGp_outbox (s : State) (g : Nat) (v : Group) : (setGp s g v).outbox = s.outbox := (rfl)
@[simp] theorem setGp_inputs (s : State) (g : Nat) (v : Group) : (setGp s g v).inputs = s.inputs := (rfl)
@[simp] theorem setGp_cyc (s : State) (g : Nat) (v : Group) : (setGp s g v).cyc = s.cyc := (rfl)
@[simp] theorem setGp_mem (s : State) (g : Nat) (v : Group) : (setGp s g v).mem = s.mem := (rfl)
@[simp] theorem setGp_poison (s : State) (g : Nat) (v : Group) : (setGp s g v).poison = s.poison := (rfl)
@[simp] theorem setGp_cores (s : State) (g : Nat) (v : Group) : (setGp s g v).cores = s.cores := (rfl)
@[simp] theorem setGp_pairs (s : State) (g : Nat) (v : Group) : (setGp s g v).pairs = s.pairs := (rfl)
@[simp] theorem setGp_waves (s : State) (g : Nat) (v : Group) : (setGp s g v).waves = s.waves := (rfl)
@[simp] theorem setGp_groups (s : State) (g : Nat) (v : Group) : (setGp s g v).groups = tset noGroup s.groups g v := (rfl)
@[simp] theorem setGp_ctxs (s : State) (g : Nat) (v : Group) : (setGp s g v).ctxs = s.ctxs := (rfl)
@[simp] theorem setGp_queues (s : State) (g : Nat) (v : Group) : (setGp s g v).queues = s.queues := (rfl)
@[simp] theorem setGp_ports (s : State) (g : Nat) (v : Group) : (setGp s g v).ports = s.ports := (rfl)
@[simp] theorem setGp_mgmt (s : State) (g : Nat) (v : Group) : (setGp s g v).mgmt = s.mgmt := (rfl)
@[simp] theorem setGp_stackMems (s : State) (g : Nat) (v : Group) : (setGp s g v).stackMems = s.stackMems := (rfl)
@[simp] theorem setGp_regions (s : State) (g : Nat) (v : Group) : (setGp s g v).regions = s.regions := (rfl)
@[simp] theorem setGp_msLines (s : State) (g : Nat) (v : Group) : (setGp s g v).msLines = s.msLines := (rfl)
@[simp] theorem setGp_l2 (s : State) (g : Nat) (v : Group) : (setGp s g v).l2 = s.l2 := (rfl)
@[simp] theorem setGp_registry (s : State) (g : Nat) (v : Group) : (setGp s g v).registry = s.registry := (rfl)
@[simp] theorem setGp_regStamp (s : State) (g : Nat) (v : Group) : (setGp s g v).regStamp = s.regStamp := (rfl)
@[simp] theorem setGp_hostHeld (s : State) (g : Nat) (v : Group) : (setGp s g v).hostHeld = s.hostHeld := (rfl)
@[simp] theorem setGp_hostOwn (s : State) (g : Nat) (v : Group) : (setGp s g v).hostOwn = s.hostOwn := (rfl)
@[simp] theorem setGp_net (s : State) (g : Nat) (v : Group) : (setGp s g v).net = s.net := (rfl)
@[simp] theorem setGp_parked (s : State) (g : Nat) (v : Group) : (setGp s g v).parked = s.parked := (rfl)
@[simp] theorem setGp_accs (s : State) (g : Nat) (v : Group) : (setGp s g v).accs = s.accs := (rfl)
@[simp] theorem setGp_l2tlb (s : State) (g : Nat) (v : Group) : (setGp s g v).l2tlb = s.l2tlb := (rfl)
@[simp] theorem setGp_pwc (s : State) (g : Nat) (v : Group) : (setGp s g v).pwc = s.pwc := (rfl)
@[simp] theorem setGp_walks (s : State) (g : Nat) (v : Group) : (setGp s g v).walks = s.walks := (rfl)
@[simp] theorem setGp_dir (s : State) (g : Nat) (v : Group) : (setGp s g v).dir = s.dir := (rfl)
@[simp] theorem setGp_recalls (s : State) (g : Nat) (v : Group) : (setGp s g v).recalls = s.recalls := (rfl)
@[simp] theorem setGp_twins (s : State) (g : Nat) (v : Group) : (setGp s g v).twins = s.twins := (rfl)
@[simp] theorem setGp_pubs (s : State) (g : Nat) (v : Group) : (setGp s g v).pubs = s.pubs := (rfl)
@[simp] theorem setGp_waiters (s : State) (g : Nat) (v : Group) : (setGp s g v).waiters = s.waiters := (rfl)
@[simp] theorem setGp_hives (s : State) (g : Nat) (v : Group) : (setGp s g v).hives = s.hives := (rfl)
@[simp] theorem setGp_tiles (s : State) (g : Nat) (v : Group) : (setGp s g v).tiles = s.tiles := (rfl)
@[simp] theorem setGp_frags (s : State) (g : Nat) (v : Group) : (setGp s g v).frags = s.frags := (rfl)
@[simp] theorem setGp_binRecs (s : State) (g : Nat) (v : Group) : (setGp s g v).binRecs = s.binRecs := (rfl)
@[simp] theorem setGp_bins (s : State) (g : Nat) (v : Group) : (setGp s g v).bins = s.bins := (rfl)
@[simp] theorem setGp_flushes (s : State) (g : Nat) (v : Group) : (setGp s g v).flushes = s.flushes := (rfl)
@[simp] theorem setGp_colls (s : State) (g : Nat) (v : Group) : (setGp s g v).colls = s.colls := (rfl)
@[simp] theorem setGp_pinWait (s : State) (g : Nat) (v : Group) : (setGp s g v).pinWait = s.pinWait := (rfl)
@[simp] theorem setGp_d2hWait (s : State) (g : Nat) (v : Group) : (setGp s g v).d2hWait = s.d2hWait := (rfl)
@[simp] theorem setGp_fences (s : State) (g : Nat) (v : Group) : (setGp s g v).fences = s.fences := (rfl)
@[simp] theorem setGp_was (s : State) (g : Nat) (v : Group) : (setGp s g v).was = s.was := (rfl)
@[simp] theorem setGp_arrivals (s : State) (g : Nat) (v : Group) : (setGp s g v).arrivals = s.arrivals := (rfl)
@[simp] theorem setGp_blocked (s : State) (g : Nat) (v : Group) : (setGp s g v).blocked = s.blocked := (rfl)

/-! ### `setCx` changes `ctxs` alone -/

@[simp] theorem setCx_moves (s : State) (c : Nat) (v : Ctx) : (setCx s c v).moves = s.moves := (rfl)
@[simp] theorem setCx_due (s : State) (c : Nat) (v : Ctx) : (setCx s c v).due = s.due := (rfl)
@[simp] theorem setCx_args (s : State) (c : Nat) (v : Ctx) : (setCx s c v).args = s.args := (rfl)
@[simp] theorem setCx_stalled (s : State) (c : Nat) (v : Ctx) : (setCx s c v).stalled = s.stalled := (rfl)
@[simp] theorem setCx_turn (s : State) (c : Nat) (v : Ctx) : (setCx s c v).turn = s.turn := (rfl)
@[simp] theorem setCx_cur (s : State) (c : Nat) (v : Ctx) : (setCx s c v).cur = s.cur := (rfl)
@[simp] theorem setCx_draws (s : State) (c : Nat) (v : Ctx) : (setCx s c v).draws = s.draws := (rfl)
@[simp] theorem setCx_nextId (s : State) (c : Nat) (v : Ctx) : (setCx s c v).nextId = s.nextId := (rfl)
@[simp] theorem setCx_outbox (s : State) (c : Nat) (v : Ctx) : (setCx s c v).outbox = s.outbox := (rfl)
@[simp] theorem setCx_inputs (s : State) (c : Nat) (v : Ctx) : (setCx s c v).inputs = s.inputs := (rfl)
@[simp] theorem setCx_cyc (s : State) (c : Nat) (v : Ctx) : (setCx s c v).cyc = s.cyc := (rfl)
@[simp] theorem setCx_mem (s : State) (c : Nat) (v : Ctx) : (setCx s c v).mem = s.mem := (rfl)
@[simp] theorem setCx_poison (s : State) (c : Nat) (v : Ctx) : (setCx s c v).poison = s.poison := (rfl)
@[simp] theorem setCx_cores (s : State) (c : Nat) (v : Ctx) : (setCx s c v).cores = s.cores := (rfl)
@[simp] theorem setCx_pairs (s : State) (c : Nat) (v : Ctx) : (setCx s c v).pairs = s.pairs := (rfl)
@[simp] theorem setCx_waves (s : State) (c : Nat) (v : Ctx) : (setCx s c v).waves = s.waves := (rfl)
@[simp] theorem setCx_groups (s : State) (c : Nat) (v : Ctx) : (setCx s c v).groups = s.groups := (rfl)
@[simp] theorem setCx_ctxs (s : State) (c : Nat) (v : Ctx) : (setCx s c v).ctxs = tset resetCtx s.ctxs c v := (rfl)
@[simp] theorem setCx_queues (s : State) (c : Nat) (v : Ctx) : (setCx s c v).queues = s.queues := (rfl)
@[simp] theorem setCx_ports (s : State) (c : Nat) (v : Ctx) : (setCx s c v).ports = s.ports := (rfl)
@[simp] theorem setCx_mgmt (s : State) (c : Nat) (v : Ctx) : (setCx s c v).mgmt = s.mgmt := (rfl)
@[simp] theorem setCx_stackMems (s : State) (c : Nat) (v : Ctx) : (setCx s c v).stackMems = s.stackMems := (rfl)
@[simp] theorem setCx_regions (s : State) (c : Nat) (v : Ctx) : (setCx s c v).regions = s.regions := (rfl)
@[simp] theorem setCx_msLines (s : State) (c : Nat) (v : Ctx) : (setCx s c v).msLines = s.msLines := (rfl)
@[simp] theorem setCx_l2 (s : State) (c : Nat) (v : Ctx) : (setCx s c v).l2 = s.l2 := (rfl)
@[simp] theorem setCx_registry (s : State) (c : Nat) (v : Ctx) : (setCx s c v).registry = s.registry := (rfl)
@[simp] theorem setCx_regStamp (s : State) (c : Nat) (v : Ctx) : (setCx s c v).regStamp = s.regStamp := (rfl)
@[simp] theorem setCx_hostHeld (s : State) (c : Nat) (v : Ctx) : (setCx s c v).hostHeld = s.hostHeld := (rfl)
@[simp] theorem setCx_hostOwn (s : State) (c : Nat) (v : Ctx) : (setCx s c v).hostOwn = s.hostOwn := (rfl)
@[simp] theorem setCx_net (s : State) (c : Nat) (v : Ctx) : (setCx s c v).net = s.net := (rfl)
@[simp] theorem setCx_parked (s : State) (c : Nat) (v : Ctx) : (setCx s c v).parked = s.parked := (rfl)
@[simp] theorem setCx_accs (s : State) (c : Nat) (v : Ctx) : (setCx s c v).accs = s.accs := (rfl)
@[simp] theorem setCx_l2tlb (s : State) (c : Nat) (v : Ctx) : (setCx s c v).l2tlb = s.l2tlb := (rfl)
@[simp] theorem setCx_pwc (s : State) (c : Nat) (v : Ctx) : (setCx s c v).pwc = s.pwc := (rfl)
@[simp] theorem setCx_walks (s : State) (c : Nat) (v : Ctx) : (setCx s c v).walks = s.walks := (rfl)
@[simp] theorem setCx_dir (s : State) (c : Nat) (v : Ctx) : (setCx s c v).dir = s.dir := (rfl)
@[simp] theorem setCx_recalls (s : State) (c : Nat) (v : Ctx) : (setCx s c v).recalls = s.recalls := (rfl)
@[simp] theorem setCx_twins (s : State) (c : Nat) (v : Ctx) : (setCx s c v).twins = s.twins := (rfl)
@[simp] theorem setCx_pubs (s : State) (c : Nat) (v : Ctx) : (setCx s c v).pubs = s.pubs := (rfl)
@[simp] theorem setCx_waiters (s : State) (c : Nat) (v : Ctx) : (setCx s c v).waiters = s.waiters := (rfl)
@[simp] theorem setCx_hives (s : State) (c : Nat) (v : Ctx) : (setCx s c v).hives = s.hives := (rfl)
@[simp] theorem setCx_tiles (s : State) (c : Nat) (v : Ctx) : (setCx s c v).tiles = s.tiles := (rfl)
@[simp] theorem setCx_frags (s : State) (c : Nat) (v : Ctx) : (setCx s c v).frags = s.frags := (rfl)
@[simp] theorem setCx_binRecs (s : State) (c : Nat) (v : Ctx) : (setCx s c v).binRecs = s.binRecs := (rfl)
@[simp] theorem setCx_bins (s : State) (c : Nat) (v : Ctx) : (setCx s c v).bins = s.bins := (rfl)
@[simp] theorem setCx_flushes (s : State) (c : Nat) (v : Ctx) : (setCx s c v).flushes = s.flushes := (rfl)
@[simp] theorem setCx_colls (s : State) (c : Nat) (v : Ctx) : (setCx s c v).colls = s.colls := (rfl)
@[simp] theorem setCx_pinWait (s : State) (c : Nat) (v : Ctx) : (setCx s c v).pinWait = s.pinWait := (rfl)
@[simp] theorem setCx_d2hWait (s : State) (c : Nat) (v : Ctx) : (setCx s c v).d2hWait = s.d2hWait := (rfl)
@[simp] theorem setCx_fences (s : State) (c : Nat) (v : Ctx) : (setCx s c v).fences = s.fences := (rfl)
@[simp] theorem setCx_was (s : State) (c : Nat) (v : Ctx) : (setCx s c v).was = s.was := (rfl)
@[simp] theorem setCx_arrivals (s : State) (c : Nat) (v : Ctx) : (setCx s c v).arrivals = s.arrivals := (rfl)
@[simp] theorem setCx_blocked (s : State) (c : Nat) (v : Ctx) : (setCx s c v).blocked = s.blocked := (rfl)

/-! ### `setQu` changes `queues` alone -/

@[simp] theorem setQu_moves (s : State) (q : Nat) (v : Queue) : (setQu s q v).moves = s.moves := (rfl)
@[simp] theorem setQu_due (s : State) (q : Nat) (v : Queue) : (setQu s q v).due = s.due := (rfl)
@[simp] theorem setQu_args (s : State) (q : Nat) (v : Queue) : (setQu s q v).args = s.args := (rfl)
@[simp] theorem setQu_stalled (s : State) (q : Nat) (v : Queue) : (setQu s q v).stalled = s.stalled := (rfl)
@[simp] theorem setQu_turn (s : State) (q : Nat) (v : Queue) : (setQu s q v).turn = s.turn := (rfl)
@[simp] theorem setQu_cur (s : State) (q : Nat) (v : Queue) : (setQu s q v).cur = s.cur := (rfl)
@[simp] theorem setQu_draws (s : State) (q : Nat) (v : Queue) : (setQu s q v).draws = s.draws := (rfl)
@[simp] theorem setQu_nextId (s : State) (q : Nat) (v : Queue) : (setQu s q v).nextId = s.nextId := (rfl)
@[simp] theorem setQu_outbox (s : State) (q : Nat) (v : Queue) : (setQu s q v).outbox = s.outbox := (rfl)
@[simp] theorem setQu_inputs (s : State) (q : Nat) (v : Queue) : (setQu s q v).inputs = s.inputs := (rfl)
@[simp] theorem setQu_cyc (s : State) (q : Nat) (v : Queue) : (setQu s q v).cyc = s.cyc := (rfl)
@[simp] theorem setQu_mem (s : State) (q : Nat) (v : Queue) : (setQu s q v).mem = s.mem := (rfl)
@[simp] theorem setQu_poison (s : State) (q : Nat) (v : Queue) : (setQu s q v).poison = s.poison := (rfl)
@[simp] theorem setQu_cores (s : State) (q : Nat) (v : Queue) : (setQu s q v).cores = s.cores := (rfl)
@[simp] theorem setQu_pairs (s : State) (q : Nat) (v : Queue) : (setQu s q v).pairs = s.pairs := (rfl)
@[simp] theorem setQu_waves (s : State) (q : Nat) (v : Queue) : (setQu s q v).waves = s.waves := (rfl)
@[simp] theorem setQu_groups (s : State) (q : Nat) (v : Queue) : (setQu s q v).groups = s.groups := (rfl)
@[simp] theorem setQu_ctxs (s : State) (q : Nat) (v : Queue) : (setQu s q v).ctxs = s.ctxs := (rfl)
@[simp] theorem setQu_queues (s : State) (q : Nat) (v : Queue) : (setQu s q v).queues = tset resetQueue s.queues q v := (rfl)
@[simp] theorem setQu_ports (s : State) (q : Nat) (v : Queue) : (setQu s q v).ports = s.ports := (rfl)
@[simp] theorem setQu_mgmt (s : State) (q : Nat) (v : Queue) : (setQu s q v).mgmt = s.mgmt := (rfl)
@[simp] theorem setQu_stackMems (s : State) (q : Nat) (v : Queue) : (setQu s q v).stackMems = s.stackMems := (rfl)
@[simp] theorem setQu_regions (s : State) (q : Nat) (v : Queue) : (setQu s q v).regions = s.regions := (rfl)
@[simp] theorem setQu_msLines (s : State) (q : Nat) (v : Queue) : (setQu s q v).msLines = s.msLines := (rfl)
@[simp] theorem setQu_l2 (s : State) (q : Nat) (v : Queue) : (setQu s q v).l2 = s.l2 := (rfl)
@[simp] theorem setQu_registry (s : State) (q : Nat) (v : Queue) : (setQu s q v).registry = s.registry := (rfl)
@[simp] theorem setQu_regStamp (s : State) (q : Nat) (v : Queue) : (setQu s q v).regStamp = s.regStamp := (rfl)
@[simp] theorem setQu_hostHeld (s : State) (q : Nat) (v : Queue) : (setQu s q v).hostHeld = s.hostHeld := (rfl)
@[simp] theorem setQu_hostOwn (s : State) (q : Nat) (v : Queue) : (setQu s q v).hostOwn = s.hostOwn := (rfl)
@[simp] theorem setQu_net (s : State) (q : Nat) (v : Queue) : (setQu s q v).net = s.net := (rfl)
@[simp] theorem setQu_parked (s : State) (q : Nat) (v : Queue) : (setQu s q v).parked = s.parked := (rfl)
@[simp] theorem setQu_accs (s : State) (q : Nat) (v : Queue) : (setQu s q v).accs = s.accs := (rfl)
@[simp] theorem setQu_l2tlb (s : State) (q : Nat) (v : Queue) : (setQu s q v).l2tlb = s.l2tlb := (rfl)
@[simp] theorem setQu_pwc (s : State) (q : Nat) (v : Queue) : (setQu s q v).pwc = s.pwc := (rfl)
@[simp] theorem setQu_walks (s : State) (q : Nat) (v : Queue) : (setQu s q v).walks = s.walks := (rfl)
@[simp] theorem setQu_dir (s : State) (q : Nat) (v : Queue) : (setQu s q v).dir = s.dir := (rfl)
@[simp] theorem setQu_recalls (s : State) (q : Nat) (v : Queue) : (setQu s q v).recalls = s.recalls := (rfl)
@[simp] theorem setQu_twins (s : State) (q : Nat) (v : Queue) : (setQu s q v).twins = s.twins := (rfl)
@[simp] theorem setQu_pubs (s : State) (q : Nat) (v : Queue) : (setQu s q v).pubs = s.pubs := (rfl)
@[simp] theorem setQu_waiters (s : State) (q : Nat) (v : Queue) : (setQu s q v).waiters = s.waiters := (rfl)
@[simp] theorem setQu_hives (s : State) (q : Nat) (v : Queue) : (setQu s q v).hives = s.hives := (rfl)
@[simp] theorem setQu_tiles (s : State) (q : Nat) (v : Queue) : (setQu s q v).tiles = s.tiles := (rfl)
@[simp] theorem setQu_frags (s : State) (q : Nat) (v : Queue) : (setQu s q v).frags = s.frags := (rfl)
@[simp] theorem setQu_binRecs (s : State) (q : Nat) (v : Queue) : (setQu s q v).binRecs = s.binRecs := (rfl)
@[simp] theorem setQu_bins (s : State) (q : Nat) (v : Queue) : (setQu s q v).bins = s.bins := (rfl)
@[simp] theorem setQu_flushes (s : State) (q : Nat) (v : Queue) : (setQu s q v).flushes = s.flushes := (rfl)
@[simp] theorem setQu_colls (s : State) (q : Nat) (v : Queue) : (setQu s q v).colls = s.colls := (rfl)
@[simp] theorem setQu_pinWait (s : State) (q : Nat) (v : Queue) : (setQu s q v).pinWait = s.pinWait := (rfl)
@[simp] theorem setQu_d2hWait (s : State) (q : Nat) (v : Queue) : (setQu s q v).d2hWait = s.d2hWait := (rfl)
@[simp] theorem setQu_fences (s : State) (q : Nat) (v : Queue) : (setQu s q v).fences = s.fences := (rfl)
@[simp] theorem setQu_was (s : State) (q : Nat) (v : Queue) : (setQu s q v).was = s.was := (rfl)
@[simp] theorem setQu_arrivals (s : State) (q : Nat) (v : Queue) : (setQu s q v).arrivals = s.arrivals := (rfl)
@[simp] theorem setQu_blocked (s : State) (q : Nat) (v : Queue) : (setQu s q v).blocked = s.blocked := (rfl)

/-! ### `setStk` changes `stackMems` alone -/

@[simp] theorem setStk_moves (s : State) (k : Nat) (v : StackMem) : (setStk s k v).moves = s.moves := (rfl)
@[simp] theorem setStk_due (s : State) (k : Nat) (v : StackMem) : (setStk s k v).due = s.due := (rfl)
@[simp] theorem setStk_args (s : State) (k : Nat) (v : StackMem) : (setStk s k v).args = s.args := (rfl)
@[simp] theorem setStk_stalled (s : State) (k : Nat) (v : StackMem) : (setStk s k v).stalled = s.stalled := (rfl)
@[simp] theorem setStk_turn (s : State) (k : Nat) (v : StackMem) : (setStk s k v).turn = s.turn := (rfl)
@[simp] theorem setStk_cur (s : State) (k : Nat) (v : StackMem) : (setStk s k v).cur = s.cur := (rfl)
@[simp] theorem setStk_draws (s : State) (k : Nat) (v : StackMem) : (setStk s k v).draws = s.draws := (rfl)
@[simp] theorem setStk_nextId (s : State) (k : Nat) (v : StackMem) : (setStk s k v).nextId = s.nextId := (rfl)
@[simp] theorem setStk_outbox (s : State) (k : Nat) (v : StackMem) : (setStk s k v).outbox = s.outbox := (rfl)
@[simp] theorem setStk_inputs (s : State) (k : Nat) (v : StackMem) : (setStk s k v).inputs = s.inputs := (rfl)
@[simp] theorem setStk_cyc (s : State) (k : Nat) (v : StackMem) : (setStk s k v).cyc = s.cyc := (rfl)
@[simp] theorem setStk_mem (s : State) (k : Nat) (v : StackMem) : (setStk s k v).mem = s.mem := (rfl)
@[simp] theorem setStk_poison (s : State) (k : Nat) (v : StackMem) : (setStk s k v).poison = s.poison := (rfl)
@[simp] theorem setStk_cores (s : State) (k : Nat) (v : StackMem) : (setStk s k v).cores = s.cores := (rfl)
@[simp] theorem setStk_pairs (s : State) (k : Nat) (v : StackMem) : (setStk s k v).pairs = s.pairs := (rfl)
@[simp] theorem setStk_waves (s : State) (k : Nat) (v : StackMem) : (setStk s k v).waves = s.waves := (rfl)
@[simp] theorem setStk_groups (s : State) (k : Nat) (v : StackMem) : (setStk s k v).groups = s.groups := (rfl)
@[simp] theorem setStk_ctxs (s : State) (k : Nat) (v : StackMem) : (setStk s k v).ctxs = s.ctxs := (rfl)
@[simp] theorem setStk_queues (s : State) (k : Nat) (v : StackMem) : (setStk s k v).queues = s.queues := (rfl)
@[simp] theorem setStk_ports (s : State) (k : Nat) (v : StackMem) : (setStk s k v).ports = s.ports := (rfl)
@[simp] theorem setStk_mgmt (s : State) (k : Nat) (v : StackMem) : (setStk s k v).mgmt = s.mgmt := (rfl)
@[simp] theorem setStk_stackMems (s : State) (k : Nat) (v : StackMem) : (setStk s k v).stackMems = tset resetStack s.stackMems k v := (rfl)
@[simp] theorem setStk_regions (s : State) (k : Nat) (v : StackMem) : (setStk s k v).regions = s.regions := (rfl)
@[simp] theorem setStk_msLines (s : State) (k : Nat) (v : StackMem) : (setStk s k v).msLines = s.msLines := (rfl)
@[simp] theorem setStk_l2 (s : State) (k : Nat) (v : StackMem) : (setStk s k v).l2 = s.l2 := (rfl)
@[simp] theorem setStk_registry (s : State) (k : Nat) (v : StackMem) : (setStk s k v).registry = s.registry := (rfl)
@[simp] theorem setStk_regStamp (s : State) (k : Nat) (v : StackMem) : (setStk s k v).regStamp = s.regStamp := (rfl)
@[simp] theorem setStk_hostHeld (s : State) (k : Nat) (v : StackMem) : (setStk s k v).hostHeld = s.hostHeld := (rfl)
@[simp] theorem setStk_hostOwn (s : State) (k : Nat) (v : StackMem) : (setStk s k v).hostOwn = s.hostOwn := (rfl)
@[simp] theorem setStk_net (s : State) (k : Nat) (v : StackMem) : (setStk s k v).net = s.net := (rfl)
@[simp] theorem setStk_parked (s : State) (k : Nat) (v : StackMem) : (setStk s k v).parked = s.parked := (rfl)
@[simp] theorem setStk_accs (s : State) (k : Nat) (v : StackMem) : (setStk s k v).accs = s.accs := (rfl)
@[simp] theorem setStk_l2tlb (s : State) (k : Nat) (v : StackMem) : (setStk s k v).l2tlb = s.l2tlb := (rfl)
@[simp] theorem setStk_pwc (s : State) (k : Nat) (v : StackMem) : (setStk s k v).pwc = s.pwc := (rfl)
@[simp] theorem setStk_walks (s : State) (k : Nat) (v : StackMem) : (setStk s k v).walks = s.walks := (rfl)
@[simp] theorem setStk_dir (s : State) (k : Nat) (v : StackMem) : (setStk s k v).dir = s.dir := (rfl)
@[simp] theorem setStk_recalls (s : State) (k : Nat) (v : StackMem) : (setStk s k v).recalls = s.recalls := (rfl)
@[simp] theorem setStk_twins (s : State) (k : Nat) (v : StackMem) : (setStk s k v).twins = s.twins := (rfl)
@[simp] theorem setStk_pubs (s : State) (k : Nat) (v : StackMem) : (setStk s k v).pubs = s.pubs := (rfl)
@[simp] theorem setStk_waiters (s : State) (k : Nat) (v : StackMem) : (setStk s k v).waiters = s.waiters := (rfl)
@[simp] theorem setStk_hives (s : State) (k : Nat) (v : StackMem) : (setStk s k v).hives = s.hives := (rfl)
@[simp] theorem setStk_tiles (s : State) (k : Nat) (v : StackMem) : (setStk s k v).tiles = s.tiles := (rfl)
@[simp] theorem setStk_frags (s : State) (k : Nat) (v : StackMem) : (setStk s k v).frags = s.frags := (rfl)
@[simp] theorem setStk_binRecs (s : State) (k : Nat) (v : StackMem) : (setStk s k v).binRecs = s.binRecs := (rfl)
@[simp] theorem setStk_bins (s : State) (k : Nat) (v : StackMem) : (setStk s k v).bins = s.bins := (rfl)
@[simp] theorem setStk_flushes (s : State) (k : Nat) (v : StackMem) : (setStk s k v).flushes = s.flushes := (rfl)
@[simp] theorem setStk_colls (s : State) (k : Nat) (v : StackMem) : (setStk s k v).colls = s.colls := (rfl)
@[simp] theorem setStk_pinWait (s : State) (k : Nat) (v : StackMem) : (setStk s k v).pinWait = s.pinWait := (rfl)
@[simp] theorem setStk_d2hWait (s : State) (k : Nat) (v : StackMem) : (setStk s k v).d2hWait = s.d2hWait := (rfl)
@[simp] theorem setStk_fences (s : State) (k : Nat) (v : StackMem) : (setStk s k v).fences = s.fences := (rfl)
@[simp] theorem setStk_was (s : State) (k : Nat) (v : StackMem) : (setStk s k v).was = s.was := (rfl)
@[simp] theorem setStk_arrivals (s : State) (k : Nat) (v : StackMem) : (setStk s k v).arrivals = s.arrivals := (rfl)
@[simp] theorem setStk_blocked (s : State) (k : Nat) (v : StackMem) : (setStk s k v).blocked = s.blocked := (rfl)

/-! ### `setRgn` changes `regions` alone -/

@[simp] theorem setRgn_moves (s : State) (r : Nat) (v : Region) : (setRgn s r v).moves = s.moves := (rfl)
@[simp] theorem setRgn_due (s : State) (r : Nat) (v : Region) : (setRgn s r v).due = s.due := (rfl)
@[simp] theorem setRgn_args (s : State) (r : Nat) (v : Region) : (setRgn s r v).args = s.args := (rfl)
@[simp] theorem setRgn_stalled (s : State) (r : Nat) (v : Region) : (setRgn s r v).stalled = s.stalled := (rfl)
@[simp] theorem setRgn_turn (s : State) (r : Nat) (v : Region) : (setRgn s r v).turn = s.turn := (rfl)
@[simp] theorem setRgn_cur (s : State) (r : Nat) (v : Region) : (setRgn s r v).cur = s.cur := (rfl)
@[simp] theorem setRgn_draws (s : State) (r : Nat) (v : Region) : (setRgn s r v).draws = s.draws := (rfl)
@[simp] theorem setRgn_nextId (s : State) (r : Nat) (v : Region) : (setRgn s r v).nextId = s.nextId := (rfl)
@[simp] theorem setRgn_outbox (s : State) (r : Nat) (v : Region) : (setRgn s r v).outbox = s.outbox := (rfl)
@[simp] theorem setRgn_inputs (s : State) (r : Nat) (v : Region) : (setRgn s r v).inputs = s.inputs := (rfl)
@[simp] theorem setRgn_cyc (s : State) (r : Nat) (v : Region) : (setRgn s r v).cyc = s.cyc := (rfl)
@[simp] theorem setRgn_mem (s : State) (r : Nat) (v : Region) : (setRgn s r v).mem = s.mem := (rfl)
@[simp] theorem setRgn_poison (s : State) (r : Nat) (v : Region) : (setRgn s r v).poison = s.poison := (rfl)
@[simp] theorem setRgn_cores (s : State) (r : Nat) (v : Region) : (setRgn s r v).cores = s.cores := (rfl)
@[simp] theorem setRgn_pairs (s : State) (r : Nat) (v : Region) : (setRgn s r v).pairs = s.pairs := (rfl)
@[simp] theorem setRgn_waves (s : State) (r : Nat) (v : Region) : (setRgn s r v).waves = s.waves := (rfl)
@[simp] theorem setRgn_groups (s : State) (r : Nat) (v : Region) : (setRgn s r v).groups = s.groups := (rfl)
@[simp] theorem setRgn_ctxs (s : State) (r : Nat) (v : Region) : (setRgn s r v).ctxs = s.ctxs := (rfl)
@[simp] theorem setRgn_queues (s : State) (r : Nat) (v : Region) : (setRgn s r v).queues = s.queues := (rfl)
@[simp] theorem setRgn_ports (s : State) (r : Nat) (v : Region) : (setRgn s r v).ports = s.ports := (rfl)
@[simp] theorem setRgn_mgmt (s : State) (r : Nat) (v : Region) : (setRgn s r v).mgmt = s.mgmt := (rfl)
@[simp] theorem setRgn_stackMems (s : State) (r : Nat) (v : Region) : (setRgn s r v).stackMems = s.stackMems := (rfl)
@[simp] theorem setRgn_regions (s : State) (r : Nat) (v : Region) : (setRgn s r v).regions = tset resetRegion s.regions r v := (rfl)
@[simp] theorem setRgn_msLines (s : State) (r : Nat) (v : Region) : (setRgn s r v).msLines = s.msLines := (rfl)
@[simp] theorem setRgn_l2 (s : State) (r : Nat) (v : Region) : (setRgn s r v).l2 = s.l2 := (rfl)
@[simp] theorem setRgn_registry (s : State) (r : Nat) (v : Region) : (setRgn s r v).registry = s.registry := (rfl)
@[simp] theorem setRgn_regStamp (s : State) (r : Nat) (v : Region) : (setRgn s r v).regStamp = s.regStamp := (rfl)
@[simp] theorem setRgn_hostHeld (s : State) (r : Nat) (v : Region) : (setRgn s r v).hostHeld = s.hostHeld := (rfl)
@[simp] theorem setRgn_hostOwn (s : State) (r : Nat) (v : Region) : (setRgn s r v).hostOwn = s.hostOwn := (rfl)
@[simp] theorem setRgn_net (s : State) (r : Nat) (v : Region) : (setRgn s r v).net = s.net := (rfl)
@[simp] theorem setRgn_parked (s : State) (r : Nat) (v : Region) : (setRgn s r v).parked = s.parked := (rfl)
@[simp] theorem setRgn_accs (s : State) (r : Nat) (v : Region) : (setRgn s r v).accs = s.accs := (rfl)
@[simp] theorem setRgn_l2tlb (s : State) (r : Nat) (v : Region) : (setRgn s r v).l2tlb = s.l2tlb := (rfl)
@[simp] theorem setRgn_pwc (s : State) (r : Nat) (v : Region) : (setRgn s r v).pwc = s.pwc := (rfl)
@[simp] theorem setRgn_walks (s : State) (r : Nat) (v : Region) : (setRgn s r v).walks = s.walks := (rfl)
@[simp] theorem setRgn_dir (s : State) (r : Nat) (v : Region) : (setRgn s r v).dir = s.dir := (rfl)
@[simp] theorem setRgn_recalls (s : State) (r : Nat) (v : Region) : (setRgn s r v).recalls = s.recalls := (rfl)
@[simp] theorem setRgn_twins (s : State) (r : Nat) (v : Region) : (setRgn s r v).twins = s.twins := (rfl)
@[simp] theorem setRgn_pubs (s : State) (r : Nat) (v : Region) : (setRgn s r v).pubs = s.pubs := (rfl)
@[simp] theorem setRgn_waiters (s : State) (r : Nat) (v : Region) : (setRgn s r v).waiters = s.waiters := (rfl)
@[simp] theorem setRgn_hives (s : State) (r : Nat) (v : Region) : (setRgn s r v).hives = s.hives := (rfl)
@[simp] theorem setRgn_tiles (s : State) (r : Nat) (v : Region) : (setRgn s r v).tiles = s.tiles := (rfl)
@[simp] theorem setRgn_frags (s : State) (r : Nat) (v : Region) : (setRgn s r v).frags = s.frags := (rfl)
@[simp] theorem setRgn_binRecs (s : State) (r : Nat) (v : Region) : (setRgn s r v).binRecs = s.binRecs := (rfl)
@[simp] theorem setRgn_bins (s : State) (r : Nat) (v : Region) : (setRgn s r v).bins = s.bins := (rfl)
@[simp] theorem setRgn_flushes (s : State) (r : Nat) (v : Region) : (setRgn s r v).flushes = s.flushes := (rfl)
@[simp] theorem setRgn_colls (s : State) (r : Nat) (v : Region) : (setRgn s r v).colls = s.colls := (rfl)
@[simp] theorem setRgn_pinWait (s : State) (r : Nat) (v : Region) : (setRgn s r v).pinWait = s.pinWait := (rfl)
@[simp] theorem setRgn_d2hWait (s : State) (r : Nat) (v : Region) : (setRgn s r v).d2hWait = s.d2hWait := (rfl)
@[simp] theorem setRgn_fences (s : State) (r : Nat) (v : Region) : (setRgn s r v).fences = s.fences := (rfl)
@[simp] theorem setRgn_was (s : State) (r : Nat) (v : Region) : (setRgn s r v).was = s.was := (rfl)
@[simp] theorem setRgn_arrivals (s : State) (r : Nat) (v : Region) : (setRgn s r v).arrivals = s.arrivals := (rfl)
@[simp] theorem setRgn_blocked (s : State) (r : Nat) (v : Region) : (setRgn s r v).blocked = s.blocked := (rfl)

/-! ### `modPrt` changes `ports` alone -/

@[simp] theorem modPrt_moves (s : State) (p : Nat) (f : Port → Port) : (modPrt s p f).moves = s.moves := (rfl)
@[simp] theorem modPrt_due (s : State) (p : Nat) (f : Port → Port) : (modPrt s p f).due = s.due := (rfl)
@[simp] theorem modPrt_args (s : State) (p : Nat) (f : Port → Port) : (modPrt s p f).args = s.args := (rfl)
@[simp] theorem modPrt_stalled (s : State) (p : Nat) (f : Port → Port) : (modPrt s p f).stalled = s.stalled := (rfl)
@[simp] theorem modPrt_turn (s : State) (p : Nat) (f : Port → Port) : (modPrt s p f).turn = s.turn := (rfl)
@[simp] theorem modPrt_cur (s : State) (p : Nat) (f : Port → Port) : (modPrt s p f).cur = s.cur := (rfl)
@[simp] theorem modPrt_draws (s : State) (p : Nat) (f : Port → Port) : (modPrt s p f).draws = s.draws := (rfl)
@[simp] theorem modPrt_nextId (s : State) (p : Nat) (f : Port → Port) : (modPrt s p f).nextId = s.nextId := (rfl)
@[simp] theorem modPrt_outbox (s : State) (p : Nat) (f : Port → Port) : (modPrt s p f).outbox = s.outbox := (rfl)
@[simp] theorem modPrt_inputs (s : State) (p : Nat) (f : Port → Port) : (modPrt s p f).inputs = s.inputs := (rfl)
@[simp] theorem modPrt_cyc (s : State) (p : Nat) (f : Port → Port) : (modPrt s p f).cyc = s.cyc := (rfl)
@[simp] theorem modPrt_mem (s : State) (p : Nat) (f : Port → Port) : (modPrt s p f).mem = s.mem := (rfl)
@[simp] theorem modPrt_poison (s : State) (p : Nat) (f : Port → Port) : (modPrt s p f).poison = s.poison := (rfl)
@[simp] theorem modPrt_cores (s : State) (p : Nat) (f : Port → Port) : (modPrt s p f).cores = s.cores := (rfl)
@[simp] theorem modPrt_pairs (s : State) (p : Nat) (f : Port → Port) : (modPrt s p f).pairs = s.pairs := (rfl)
@[simp] theorem modPrt_waves (s : State) (p : Nat) (f : Port → Port) : (modPrt s p f).waves = s.waves := (rfl)
@[simp] theorem modPrt_groups (s : State) (p : Nat) (f : Port → Port) : (modPrt s p f).groups = s.groups := (rfl)
@[simp] theorem modPrt_ctxs (s : State) (p : Nat) (f : Port → Port) : (modPrt s p f).ctxs = s.ctxs := (rfl)
@[simp] theorem modPrt_queues (s : State) (p : Nat) (f : Port → Port) : (modPrt s p f).queues = s.queues := (rfl)
@[simp] theorem modPrt_ports (s : State) (p : Nat) (f : Port → Port) : (modPrt s p f).ports = lmod s.ports p f := (rfl)
@[simp] theorem modPrt_mgmt (s : State) (p : Nat) (f : Port → Port) : (modPrt s p f).mgmt = s.mgmt := (rfl)
@[simp] theorem modPrt_stackMems (s : State) (p : Nat) (f : Port → Port) : (modPrt s p f).stackMems = s.stackMems := (rfl)
@[simp] theorem modPrt_regions (s : State) (p : Nat) (f : Port → Port) : (modPrt s p f).regions = s.regions := (rfl)
@[simp] theorem modPrt_msLines (s : State) (p : Nat) (f : Port → Port) : (modPrt s p f).msLines = s.msLines := (rfl)
@[simp] theorem modPrt_l2 (s : State) (p : Nat) (f : Port → Port) : (modPrt s p f).l2 = s.l2 := (rfl)
@[simp] theorem modPrt_registry (s : State) (p : Nat) (f : Port → Port) : (modPrt s p f).registry = s.registry := (rfl)
@[simp] theorem modPrt_regStamp (s : State) (p : Nat) (f : Port → Port) : (modPrt s p f).regStamp = s.regStamp := (rfl)
@[simp] theorem modPrt_hostHeld (s : State) (p : Nat) (f : Port → Port) : (modPrt s p f).hostHeld = s.hostHeld := (rfl)
@[simp] theorem modPrt_hostOwn (s : State) (p : Nat) (f : Port → Port) : (modPrt s p f).hostOwn = s.hostOwn := (rfl)
@[simp] theorem modPrt_net (s : State) (p : Nat) (f : Port → Port) : (modPrt s p f).net = s.net := (rfl)
@[simp] theorem modPrt_parked (s : State) (p : Nat) (f : Port → Port) : (modPrt s p f).parked = s.parked := (rfl)
@[simp] theorem modPrt_accs (s : State) (p : Nat) (f : Port → Port) : (modPrt s p f).accs = s.accs := (rfl)
@[simp] theorem modPrt_l2tlb (s : State) (p : Nat) (f : Port → Port) : (modPrt s p f).l2tlb = s.l2tlb := (rfl)
@[simp] theorem modPrt_pwc (s : State) (p : Nat) (f : Port → Port) : (modPrt s p f).pwc = s.pwc := (rfl)
@[simp] theorem modPrt_walks (s : State) (p : Nat) (f : Port → Port) : (modPrt s p f).walks = s.walks := (rfl)
@[simp] theorem modPrt_dir (s : State) (p : Nat) (f : Port → Port) : (modPrt s p f).dir = s.dir := (rfl)
@[simp] theorem modPrt_recalls (s : State) (p : Nat) (f : Port → Port) : (modPrt s p f).recalls = s.recalls := (rfl)
@[simp] theorem modPrt_twins (s : State) (p : Nat) (f : Port → Port) : (modPrt s p f).twins = s.twins := (rfl)
@[simp] theorem modPrt_pubs (s : State) (p : Nat) (f : Port → Port) : (modPrt s p f).pubs = s.pubs := (rfl)
@[simp] theorem modPrt_waiters (s : State) (p : Nat) (f : Port → Port) : (modPrt s p f).waiters = s.waiters := (rfl)
@[simp] theorem modPrt_hives (s : State) (p : Nat) (f : Port → Port) : (modPrt s p f).hives = s.hives := (rfl)
@[simp] theorem modPrt_tiles (s : State) (p : Nat) (f : Port → Port) : (modPrt s p f).tiles = s.tiles := (rfl)
@[simp] theorem modPrt_frags (s : State) (p : Nat) (f : Port → Port) : (modPrt s p f).frags = s.frags := (rfl)
@[simp] theorem modPrt_binRecs (s : State) (p : Nat) (f : Port → Port) : (modPrt s p f).binRecs = s.binRecs := (rfl)
@[simp] theorem modPrt_bins (s : State) (p : Nat) (f : Port → Port) : (modPrt s p f).bins = s.bins := (rfl)
@[simp] theorem modPrt_flushes (s : State) (p : Nat) (f : Port → Port) : (modPrt s p f).flushes = s.flushes := (rfl)
@[simp] theorem modPrt_colls (s : State) (p : Nat) (f : Port → Port) : (modPrt s p f).colls = s.colls := (rfl)
@[simp] theorem modPrt_pinWait (s : State) (p : Nat) (f : Port → Port) : (modPrt s p f).pinWait = s.pinWait := (rfl)
@[simp] theorem modPrt_d2hWait (s : State) (p : Nat) (f : Port → Port) : (modPrt s p f).d2hWait = s.d2hWait := (rfl)
@[simp] theorem modPrt_fences (s : State) (p : Nat) (f : Port → Port) : (modPrt s p f).fences = s.fences := (rfl)
@[simp] theorem modPrt_was (s : State) (p : Nat) (f : Port → Port) : (modPrt s p f).was = s.was := (rfl)
@[simp] theorem modPrt_arrivals (s : State) (p : Nat) (f : Port → Port) : (modPrt s p f).arrivals = s.arrivals := (rfl)
@[simp] theorem modPrt_blocked (s : State) (p : Nat) (f : Port → Port) : (modPrt s p f).blocked = s.blocked := (rfl)

/-! ### `out` changes `outbox` alone -/

@[simp] theorem out_moves (s : State) (o : Out) : (out s o).moves = s.moves := (rfl)
@[simp] theorem out_due (s : State) (o : Out) : (out s o).due = s.due := (rfl)
@[simp] theorem out_args (s : State) (o : Out) : (out s o).args = s.args := (rfl)
@[simp] theorem out_stalled (s : State) (o : Out) : (out s o).stalled = s.stalled := (rfl)
@[simp] theorem out_turn (s : State) (o : Out) : (out s o).turn = s.turn := (rfl)
@[simp] theorem out_cur (s : State) (o : Out) : (out s o).cur = s.cur := (rfl)
@[simp] theorem out_draws (s : State) (o : Out) : (out s o).draws = s.draws := (rfl)
@[simp] theorem out_nextId (s : State) (o : Out) : (out s o).nextId = s.nextId := (rfl)
@[simp] theorem out_outbox (s : State) (o : Out) : (out s o).outbox = s.outbox ++ [o] := (rfl)
@[simp] theorem out_inputs (s : State) (o : Out) : (out s o).inputs = s.inputs := (rfl)
@[simp] theorem out_cyc (s : State) (o : Out) : (out s o).cyc = s.cyc := (rfl)
@[simp] theorem out_mem (s : State) (o : Out) : (out s o).mem = s.mem := (rfl)
@[simp] theorem out_poison (s : State) (o : Out) : (out s o).poison = s.poison := (rfl)
@[simp] theorem out_cores (s : State) (o : Out) : (out s o).cores = s.cores := (rfl)
@[simp] theorem out_pairs (s : State) (o : Out) : (out s o).pairs = s.pairs := (rfl)
@[simp] theorem out_waves (s : State) (o : Out) : (out s o).waves = s.waves := (rfl)
@[simp] theorem out_groups (s : State) (o : Out) : (out s o).groups = s.groups := (rfl)
@[simp] theorem out_ctxs (s : State) (o : Out) : (out s o).ctxs = s.ctxs := (rfl)
@[simp] theorem out_queues (s : State) (o : Out) : (out s o).queues = s.queues := (rfl)
@[simp] theorem out_ports (s : State) (o : Out) : (out s o).ports = s.ports := (rfl)
@[simp] theorem out_mgmt (s : State) (o : Out) : (out s o).mgmt = s.mgmt := (rfl)
@[simp] theorem out_stackMems (s : State) (o : Out) : (out s o).stackMems = s.stackMems := (rfl)
@[simp] theorem out_regions (s : State) (o : Out) : (out s o).regions = s.regions := (rfl)
@[simp] theorem out_msLines (s : State) (o : Out) : (out s o).msLines = s.msLines := (rfl)
@[simp] theorem out_l2 (s : State) (o : Out) : (out s o).l2 = s.l2 := (rfl)
@[simp] theorem out_registry (s : State) (o : Out) : (out s o).registry = s.registry := (rfl)
@[simp] theorem out_regStamp (s : State) (o : Out) : (out s o).regStamp = s.regStamp := (rfl)
@[simp] theorem out_hostHeld (s : State) (o : Out) : (out s o).hostHeld = s.hostHeld := (rfl)
@[simp] theorem out_hostOwn (s : State) (o : Out) : (out s o).hostOwn = s.hostOwn := (rfl)
@[simp] theorem out_net (s : State) (o : Out) : (out s o).net = s.net := (rfl)
@[simp] theorem out_parked (s : State) (o : Out) : (out s o).parked = s.parked := (rfl)
@[simp] theorem out_accs (s : State) (o : Out) : (out s o).accs = s.accs := (rfl)
@[simp] theorem out_l2tlb (s : State) (o : Out) : (out s o).l2tlb = s.l2tlb := (rfl)
@[simp] theorem out_pwc (s : State) (o : Out) : (out s o).pwc = s.pwc := (rfl)
@[simp] theorem out_walks (s : State) (o : Out) : (out s o).walks = s.walks := (rfl)
@[simp] theorem out_dir (s : State) (o : Out) : (out s o).dir = s.dir := (rfl)
@[simp] theorem out_recalls (s : State) (o : Out) : (out s o).recalls = s.recalls := (rfl)
@[simp] theorem out_twins (s : State) (o : Out) : (out s o).twins = s.twins := (rfl)
@[simp] theorem out_pubs (s : State) (o : Out) : (out s o).pubs = s.pubs := (rfl)
@[simp] theorem out_waiters (s : State) (o : Out) : (out s o).waiters = s.waiters := (rfl)
@[simp] theorem out_hives (s : State) (o : Out) : (out s o).hives = s.hives := (rfl)
@[simp] theorem out_tiles (s : State) (o : Out) : (out s o).tiles = s.tiles := (rfl)
@[simp] theorem out_frags (s : State) (o : Out) : (out s o).frags = s.frags := (rfl)
@[simp] theorem out_binRecs (s : State) (o : Out) : (out s o).binRecs = s.binRecs := (rfl)
@[simp] theorem out_bins (s : State) (o : Out) : (out s o).bins = s.bins := (rfl)
@[simp] theorem out_flushes (s : State) (o : Out) : (out s o).flushes = s.flushes := (rfl)
@[simp] theorem out_colls (s : State) (o : Out) : (out s o).colls = s.colls := (rfl)
@[simp] theorem out_pinWait (s : State) (o : Out) : (out s o).pinWait = s.pinWait := (rfl)
@[simp] theorem out_d2hWait (s : State) (o : Out) : (out s o).d2hWait = s.d2hWait := (rfl)
@[simp] theorem out_fences (s : State) (o : Out) : (out s o).fences = s.fences := (rfl)
@[simp] theorem out_was (s : State) (o : Out) : (out s o).was = s.was := (rfl)
@[simp] theorem out_arrivals (s : State) (o : Out) : (out s o).arrivals = s.arrivals := (rfl)
@[simp] theorem out_blocked (s : State) (o : Out) : (out s o).blocked = s.blocked := (rfl)

/-! ### A modification is a replacement by the modified record -/

@[simp] theorem modWv_eq (s : State) (w : Nat) (f : Wave → Wave) : modWv s w f = setWv s w (f (wv s w)) := (rfl)
@[simp] theorem modCr_eq (s : State) (c : Nat) (f : Core → Core) : modCr s c f = setCr s c (f (cr s c)) := (rfl)
@[simp] theorem modPr_eq (s : State) (p : Nat) (f : Pair → Pair) : modPr s p f = setPr s p (f (pr s p)) := (rfl)
@[simp] theorem modGp_eq (s : State) (g : Nat) (f : Group → Group) : modGp s g f = setGp s g (f (gp s g)) := (rfl)
@[simp] theorem modCx_eq (s : State) (c : Nat) (f : Ctx → Ctx) : modCx s c f = setCx s c (f (cx s c)) := (rfl)
@[simp] theorem modQu_eq (s : State) (q : Nat) (f : Queue → Queue) : modQu s q f = setQu s q (f (qu s q)) := (rfl)
@[simp] theorem modStk_eq (s : State) (k : Nat) (f : StackMem → StackMem) : modStk s k f = setStk s k (f (stk s k)) := (rfl)
@[simp] theorem modRgn_eq (s : State) (r : Nat) (f : Region → Region) : modRgn s r f = setRgn s r (f (rgn s r)) := (rfl)

/-! ### Each record is read from its own table -/

@[simp] theorem wv_setCr (s : State) (c : Nat) (v : Core) (w : Nat) : wv (setCr s c v) w = wv s w := (rfl)
@[simp] theorem wv_setPr (s : State) (p : Nat) (v : Pair) (w : Nat) : wv (setPr s p v) w = wv s w := (rfl)
@[simp] theorem wv_setGp (s : State) (g : Nat) (v : Group) (w : Nat) : wv (setGp s g v) w = wv s w := (rfl)
@[simp] theorem wv_setCx (s : State) (c : Nat) (v : Ctx) (w : Nat) : wv (setCx s c v) w = wv s w := (rfl)
@[simp] theorem wv_setQu (s : State) (q : Nat) (v : Queue) (w : Nat) : wv (setQu s q v) w = wv s w := (rfl)
@[simp] theorem wv_setStk (s : State) (k : Nat) (v : StackMem) (w : Nat) : wv (setStk s k v) w = wv s w := (rfl)
@[simp] theorem wv_setRgn (s : State) (r : Nat) (v : Region) (w : Nat) : wv (setRgn s r v) w = wv s w := (rfl)
@[simp] theorem wv_modPrt (s : State) (p : Nat) (f : Port → Port) (w : Nat) : wv (modPrt s p f) w = wv s w := (rfl)
@[simp] theorem wv_out (s : State) (o : Out) (w : Nat) : wv (out s o) w = wv s w := (rfl)
@[simp] theorem cr_setWv (s : State) (w : Nat) (v : Wave) (c : Nat) : cr (setWv s w v) c = cr s c := (rfl)
@[simp] theorem cr_setPr (s : State) (p : Nat) (v : Pair) (c : Nat) : cr (setPr s p v) c = cr s c := (rfl)
@[simp] theorem cr_setGp (s : State) (g : Nat) (v : Group) (c : Nat) : cr (setGp s g v) c = cr s c := (rfl)
@[simp] theorem cr_setCx (s : State) (c' : Nat) (v : Ctx) (c : Nat) : cr (setCx s c' v) c = cr s c := (rfl)
@[simp] theorem cr_setQu (s : State) (q : Nat) (v : Queue) (c : Nat) : cr (setQu s q v) c = cr s c := (rfl)
@[simp] theorem cr_setStk (s : State) (k : Nat) (v : StackMem) (c : Nat) : cr (setStk s k v) c = cr s c := (rfl)
@[simp] theorem cr_setRgn (s : State) (r : Nat) (v : Region) (c : Nat) : cr (setRgn s r v) c = cr s c := (rfl)
@[simp] theorem cr_modPrt (s : State) (p : Nat) (f : Port → Port) (c : Nat) : cr (modPrt s p f) c = cr s c := (rfl)
@[simp] theorem cr_out (s : State) (o : Out) (c : Nat) : cr (out s o) c = cr s c := (rfl)
@[simp] theorem pr_setWv (s : State) (w : Nat) (v : Wave) (p : Nat) : pr (setWv s w v) p = pr s p := (rfl)
@[simp] theorem pr_setCr (s : State) (c : Nat) (v : Core) (p : Nat) : pr (setCr s c v) p = pr s p := (rfl)
@[simp] theorem pr_setGp (s : State) (g : Nat) (v : Group) (p : Nat) : pr (setGp s g v) p = pr s p := (rfl)
@[simp] theorem pr_setCx (s : State) (c : Nat) (v : Ctx) (p : Nat) : pr (setCx s c v) p = pr s p := (rfl)
@[simp] theorem pr_setQu (s : State) (q : Nat) (v : Queue) (p : Nat) : pr (setQu s q v) p = pr s p := (rfl)
@[simp] theorem pr_setStk (s : State) (k : Nat) (v : StackMem) (p : Nat) : pr (setStk s k v) p = pr s p := (rfl)
@[simp] theorem pr_setRgn (s : State) (r : Nat) (v : Region) (p : Nat) : pr (setRgn s r v) p = pr s p := (rfl)
@[simp] theorem pr_modPrt (s : State) (p' : Nat) (f : Port → Port) (p : Nat) : pr (modPrt s p' f) p = pr s p := (rfl)
@[simp] theorem pr_out (s : State) (o : Out) (p : Nat) : pr (out s o) p = pr s p := (rfl)
@[simp] theorem gp_setWv (s : State) (w : Nat) (v : Wave) (g : Nat) : gp (setWv s w v) g = gp s g := (rfl)
@[simp] theorem gp_setCr (s : State) (c : Nat) (v : Core) (g : Nat) : gp (setCr s c v) g = gp s g := (rfl)
@[simp] theorem gp_setPr (s : State) (p : Nat) (v : Pair) (g : Nat) : gp (setPr s p v) g = gp s g := (rfl)
@[simp] theorem gp_setCx (s : State) (c : Nat) (v : Ctx) (g : Nat) : gp (setCx s c v) g = gp s g := (rfl)
@[simp] theorem gp_setQu (s : State) (q : Nat) (v : Queue) (g : Nat) : gp (setQu s q v) g = gp s g := (rfl)
@[simp] theorem gp_setStk (s : State) (k : Nat) (v : StackMem) (g : Nat) : gp (setStk s k v) g = gp s g := (rfl)
@[simp] theorem gp_setRgn (s : State) (r : Nat) (v : Region) (g : Nat) : gp (setRgn s r v) g = gp s g := (rfl)
@[simp] theorem gp_modPrt (s : State) (p : Nat) (f : Port → Port) (g : Nat) : gp (modPrt s p f) g = gp s g := (rfl)
@[simp] theorem gp_out (s : State) (o : Out) (g : Nat) : gp (out s o) g = gp s g := (rfl)
@[simp] theorem cx_setWv (s : State) (w : Nat) (v : Wave) (c : Nat) : cx (setWv s w v) c = cx s c := (rfl)
@[simp] theorem cx_setCr (s : State) (c' : Nat) (v : Core) (c : Nat) : cx (setCr s c' v) c = cx s c := (rfl)
@[simp] theorem cx_setPr (s : State) (p : Nat) (v : Pair) (c : Nat) : cx (setPr s p v) c = cx s c := (rfl)
@[simp] theorem cx_setGp (s : State) (g : Nat) (v : Group) (c : Nat) : cx (setGp s g v) c = cx s c := (rfl)
@[simp] theorem cx_setQu (s : State) (q : Nat) (v : Queue) (c : Nat) : cx (setQu s q v) c = cx s c := (rfl)
@[simp] theorem cx_setStk (s : State) (k : Nat) (v : StackMem) (c : Nat) : cx (setStk s k v) c = cx s c := (rfl)
@[simp] theorem cx_setRgn (s : State) (r : Nat) (v : Region) (c : Nat) : cx (setRgn s r v) c = cx s c := (rfl)
@[simp] theorem cx_modPrt (s : State) (p : Nat) (f : Port → Port) (c : Nat) : cx (modPrt s p f) c = cx s c := (rfl)
@[simp] theorem cx_out (s : State) (o : Out) (c : Nat) : cx (out s o) c = cx s c := (rfl)
@[simp] theorem qu_setWv (s : State) (w : Nat) (v : Wave) (q : Nat) : qu (setWv s w v) q = qu s q := (rfl)
@[simp] theorem qu_setCr (s : State) (c : Nat) (v : Core) (q : Nat) : qu (setCr s c v) q = qu s q := (rfl)
@[simp] theorem qu_setPr (s : State) (p : Nat) (v : Pair) (q : Nat) : qu (setPr s p v) q = qu s q := (rfl)
@[simp] theorem qu_setGp (s : State) (g : Nat) (v : Group) (q : Nat) : qu (setGp s g v) q = qu s q := (rfl)
@[simp] theorem qu_setCx (s : State) (c : Nat) (v : Ctx) (q : Nat) : qu (setCx s c v) q = qu s q := (rfl)
@[simp] theorem qu_setStk (s : State) (k : Nat) (v : StackMem) (q : Nat) : qu (setStk s k v) q = qu s q := (rfl)
@[simp] theorem qu_setRgn (s : State) (r : Nat) (v : Region) (q : Nat) : qu (setRgn s r v) q = qu s q := (rfl)
@[simp] theorem qu_modPrt (s : State) (p : Nat) (f : Port → Port) (q : Nat) : qu (modPrt s p f) q = qu s q := (rfl)
@[simp] theorem qu_out (s : State) (o : Out) (q : Nat) : qu (out s o) q = qu s q := (rfl)
@[simp] theorem stk_setWv (s : State) (w : Nat) (v : Wave) (k : Nat) : stk (setWv s w v) k = stk s k := (rfl)
@[simp] theorem stk_setCr (s : State) (c : Nat) (v : Core) (k : Nat) : stk (setCr s c v) k = stk s k := (rfl)
@[simp] theorem stk_setPr (s : State) (p : Nat) (v : Pair) (k : Nat) : stk (setPr s p v) k = stk s k := (rfl)
@[simp] theorem stk_setGp (s : State) (g : Nat) (v : Group) (k : Nat) : stk (setGp s g v) k = stk s k := (rfl)
@[simp] theorem stk_setCx (s : State) (c : Nat) (v : Ctx) (k : Nat) : stk (setCx s c v) k = stk s k := (rfl)
@[simp] theorem stk_setQu (s : State) (q : Nat) (v : Queue) (k : Nat) : stk (setQu s q v) k = stk s k := (rfl)
@[simp] theorem stk_setRgn (s : State) (r : Nat) (v : Region) (k : Nat) : stk (setRgn s r v) k = stk s k := (rfl)
@[simp] theorem stk_modPrt (s : State) (p : Nat) (f : Port → Port) (k : Nat) : stk (modPrt s p f) k = stk s k := (rfl)
@[simp] theorem stk_out (s : State) (o : Out) (k : Nat) : stk (out s o) k = stk s k := (rfl)
@[simp] theorem rgn_setWv (s : State) (w : Nat) (v : Wave) (r : Nat) : rgn (setWv s w v) r = rgn s r := (rfl)
@[simp] theorem rgn_setCr (s : State) (c : Nat) (v : Core) (r : Nat) : rgn (setCr s c v) r = rgn s r := (rfl)
@[simp] theorem rgn_setPr (s : State) (p : Nat) (v : Pair) (r : Nat) : rgn (setPr s p v) r = rgn s r := (rfl)
@[simp] theorem rgn_setGp (s : State) (g : Nat) (v : Group) (r : Nat) : rgn (setGp s g v) r = rgn s r := (rfl)
@[simp] theorem rgn_setCx (s : State) (c : Nat) (v : Ctx) (r : Nat) : rgn (setCx s c v) r = rgn s r := (rfl)
@[simp] theorem rgn_setQu (s : State) (q : Nat) (v : Queue) (r : Nat) : rgn (setQu s q v) r = rgn s r := (rfl)
@[simp] theorem rgn_setStk (s : State) (k : Nat) (v : StackMem) (r : Nat) : rgn (setStk s k v) r = rgn s r := (rfl)
@[simp] theorem rgn_modPrt (s : State) (p : Nat) (f : Port → Port) (r : Nat) : rgn (modPrt s p f) r = rgn s r := (rfl)
@[simp] theorem rgn_out (s : State) (o : Out) (r : Nat) : rgn (out s o) r = rgn s r := (rfl)

/-! ### Fresh names, free values and the moving program counters of a wave -/

@[simp] theorem fresh_fst (s : State) : (fresh s).1 = s.nextId := rfl
@[simp] theorem fresh_snd (s : State) : (fresh s).2 = { s with nextId := s.nextId + 1 } := rfl
@[simp] theorem draw_snd (s : State) : (draw s).2 = { s with draws := s.draws + 1 } := rfl

end Sys2Proof.Machine
end

