-- ==== Sys2Proof/Laws/Table.lean ====
section
/-! SUPPORT. Sparse tables and memory: read after write, and that every operation keeps the canonical form. -/

namespace Sys2Proof.Machine

open Sys2Proof.Machine.State

section Tables

variable {α : Type} (d : α)

/-- Leaving out one key leaves what the others hold, and the default there. -/
theorem tget_tdel (k k' : Nat) : ∀ t : Tab α, tget d (tdel t k) k' = if k' = k then d else tget d t k'
  | [] => by simp [tdel, tget]
  | (k0, v0) :: t => by
    have ih := tget_tdel k k' t
    unfold tdel
    split
    · next h0 => subst h0; rw [ih]; by_cases h : k' = k0 <;> simp [tget, h, Ne.symm]
    · next h0 =>
      simp only [tget]
      by_cases h : k0 = k'
      · subst h; simp [h0]
      · simp only [h, if_false]; exact ih

variable [DecidableEq α]

/-- A written value is read back, and every other key holds what it held. -/
theorem tget_tset (k k' : Nat) (v : α) : ∀ t : Tab α, tget d (tset d t k v) k' = if k' = k then v else tget d t k'
  | [] => by
    unfold tset
    by_cases h : k' = k
    · subst h; split <;> simp [tget, *]
    · split <;> simp [tget, Ne.symm h]
  | (k0, v0) :: t => by
    have ih := tget_tset k k' v t
    have hd := tget_tdel d k k' t
    unfold tset
    split
    · next hlt =>
      by_cases h : k' = k
      · subst h
        split <;> simp [tget, show k0 ≠ k' by omega, *]
      · split <;> simp [tget, h, Ne.symm h, hd]
    · split
      · next he =>
        subst he; rw [ih]
        by_cases h : k' = k
        · simp [h]
        · simp [tget, h, Ne.symm h]
      · next hne =>
        simp only [tget, ih]
        by_cases h : k0 = k'
        · subst h; simp [Ne.symm hne]
        · simp [h]

/-- A write leaves what every other key holds. -/
@[simp] theorem tget_tset_other {k k' : Nat} (h : k' ≠ k) (v : α) (t : Tab α) : tget d (tset d t k v) k' = tget d t k' := by
  rw [tget_tset]; simp [h]

/-- A written value is read back. -/
theorem tget_tset_same {k : Nat} (v : α) (t : Tab α) : tget d (tset d t k v) k = v := by rw [tget_tset]; simp

theorem twfFrom_mono : ∀ {lo lo' : Nat} {t : Tab α}, lo' ≤ lo → twfFrom d lo t = true → twfFrom d lo' t = true
  | _, _, [], _, _ => rfl
  | lo, lo', (k0, v0) :: t, hl, h => by
    simp only [twfFrom, Bool.and_eq_true, decide_eq_true_eq] at h ⊢
    exact ⟨⟨by omega, h.1.2⟩, h.2⟩

/-- Leaving entries out keeps the canonical form. -/
theorem twfFrom_filter (p : Nat × α → Bool) : ∀ {lo : Nat} {t : Tab α}, twfFrom d lo t = true → twfFrom d lo (t.filter p) = true
  | _, [], _ => rfl
  | lo, (k0, v0) :: t, h => by
    simp only [twfFrom, Bool.and_eq_true, decide_eq_true_eq] at h
    have ih := twfFrom_filter p h.2
    simp only [List.filter_cons]
    split
    · simp only [twfFrom, Bool.and_eq_true, decide_eq_true_eq]; exact ⟨h.1, ih⟩
    · exact twfFrom_mono d (by omega) ih

/-- A table whose keys lie above `k` has no entry to leave out there. -/
theorem tdel_of_twfFrom {k : Nat} : ∀ {lo : Nat} {t : Tab α}, twfFrom d lo t = true → k < lo → tdel t k = t
  | _, [], _, _ => rfl
  | lo, (k0, v0) :: t, h, hk => by
    simp only [twfFrom, Bool.and_eq_true, decide_eq_true_eq] at h
    rw [tdel, tdel_of_twfFrom h.2 (show k < k0 + 1 by omega), if_neg (by omega)]

/-- Writing below the least key puts the entry first. -/
theorem twfFrom_tset_above {lo k : Nat} (v : α) (hk : lo ≤ k) : ∀ {t : Tab α}, twfFrom d (k + 1) t = true →
    twfFrom d lo (tset d t k v) = true
  | [], _ => by
    unfold tset; split
    · rfl
    · next hv => simp [twfFrom, hk, hv]
  | (k0, v0) :: t, h => by
    have h' := h
    simp only [twfFrom, Bool.and_eq_true, decide_eq_true_eq] at h'
    rw [tset, if_pos (show k < k0 by omega), tdel_of_twfFrom d h'.2 (show k < k0 + 1 by omega)]
    split
    · exact twfFrom_mono d (by omega) h
    · next hv =>
      simp only [twfFrom, Bool.and_eq_true, decide_eq_true_eq]
      exact ⟨⟨hk, hv⟩, ⟨by omega, h'.1.2⟩, h'.2⟩

/-- Writing keeps the canonical form. -/
theorem twfFrom_tset {k : Nat} (v : α) : ∀ {lo : Nat} {t : Tab α}, lo ≤ k → twfFrom d lo t = true →
    twfFrom d lo (tset d t k v) = true
  | lo, [], hk, _ => by
    unfold tset; split
    · rfl
    · next hv => simp [twfFrom, hk, hv]
  | lo, (k0, v0) :: t, hk, h => by
    have h' := h
    simp only [twfFrom, Bool.and_eq_true, decide_eq_true_eq] at h'
    unfold tset
    split
    · next hlt =>
      rw [tdel_of_twfFrom d h'.2 (show k < k0 + 1 by omega)]
      split
      · exact h
      · next hv =>
        simp only [twfFrom, Bool.and_eq_true, decide_eq_true_eq]
        exact ⟨⟨hk, hv⟩, ⟨by omega, h'.1.2⟩, h'.2⟩
    · split
      · next he =>
        subst he
        exact twfFrom_tset_above d v h'.1.1 h'.2
      · next hnl hne =>
        simp only [twfFrom, Bool.and_eq_true, decide_eq_true_eq]
        exact ⟨h'.1, twfFrom_tset v (by omega) h'.2⟩

theorem twf_tset {t : Tab α} (k : Nat) (v : α) (h : twf d t = true) : twf d (tset d t k v) = true :=
  twfFrom_tset d v (Nat.zero_le k) h

@[simp] theorem twf_nil : twf d ([] : Tab α) = true := rfl

end Tables

/-! ### Memory -/

@[simp] theorem memByte_memSet_other {a a' : Nat} (h : a' ≠ a) (m : Tab Byte) (b : Byte) :
    memByte (memSet m a b) a' = memByte m a' := tget_tset_other 0 h b m

theorem memByte_memSet_same (m : Tab Byte) (a : Nat) (b : Byte) : memByte (memSet m a b) a = b := tget_tset_same 0 b m

@[simp] theorem memWf_memSet {m : Tab Byte} (h : memWf m = true) (a : Nat) (b : Byte) : memWf (memSet m a b) = true := twf_tset 0 a b h

/-- A write of any number of bytes keeps the canonical form. -/
theorem memWf_memWrite : ∀ (n : Nat) {m : Tab Byte} (a v : Nat), memWf m = true → memWf (memWrite m a n v) = true
  | 0, _, _, _, h => h
  | n + 1, _, a, v, h => memWf_memWrite n (a + 1) (v / 256) (memWf_memSet h a _)

/-- A write leaves every byte outside the run it names. -/
theorem memByte_memWrite_other : ∀ (n : Nat) (m : Tab Byte) (a v : Nat) {a' : Nat}, a' < a ∨ a + n ≤ a' →
    memByte (memWrite m a n v) a' = memByte m a'
  | 0, _, _, _, _, _ => rfl
  | n + 1, m, a, v, a', h => by
    rw [memWrite, memByte_memWrite_other n _ _ _ (by omega), memByte_memSet_other (by omega)]

/-- Each byte of a written run is the byte of the number at its place. -/
theorem memByte_memWrite_in : ∀ (n : Nat) (m : Tab Byte) (a v k : Nat), k < n →
    memByte (memWrite m a n v) (a + k) = BitVec.ofNat 8 (v / 256 ^ k)
  | 0, _, _, _, _, h => absurd h (Nat.not_lt_zero _)
  | n + 1, m, a, v, 0, _ => by
    rw [memWrite, memByte_memWrite_other n _ _ _ (by omega), Nat.add_zero, memByte_memSet_same]; simp
  | n + 1, m, a, v, k + 1, hk => by
    have h := memByte_memWrite_in n (memSet m a (BitVec.ofNat 8 v)) (a + 1) (v / 256) k (by omega)
    rw [memWrite, show a + (k + 1) = a + 1 + k by omega, h, Nat.div_div_eq_div_mul, ← Nat.pow_succ']

end Sys2Proof.Machine
end

