-- ==== Sys2Proof/Laws/Memory.lean ====
section
/-! SUPPORT. The operations that store nothing to memory: one lemma per operation, `f_mem`, which says that the state
it answers has the memory it was given (every byte of it). The operations that may store have their lemmas in
Laws/MemoryForm.lean. -/

namespace Sys2Proof.Machine
open Sys2Proof.Machine.State

@[simp] theorem foldl_mem {β : Type} {f : State → β → State} (h : ∀ s x, (f s x).mem = s.mem) : ∀ (l : List β) (s :
    State), (l.foldl f s).mem = s.mem
  | [], _ => rfl
  | x :: r, s => by rw [List.foldl_cons, foldl_mem h r, h]
theorem foldl_mem_fst {β γ : Type} {f : State × γ → β → State × γ} (h : ∀ s x, (f s x).1.mem = s.1.mem) : ∀ (l : List
    β) (s : State × γ), (l.foldl f s).1.mem = s.1.mem
  | [], _ => rfl
  | x :: r, s => by rw [List.foldl_cons, foldl_mem_fst h r, h]
@[simp] theorem ite_mem (c : Prop) [Decidable c] (a b : State) : (if c then a else b).mem = if c then a.mem else
    b.mem := by split <;> rfl
@[simp] theorem modQu_mem (s : State) (q : Nat) (f : Queue → Queue) : (modQu s q f).mem = s.mem := (rfl)
@[simp] theorem dropContracts_mem (s : State) (c : Nat) : (dropContracts s c).mem = s.mem := by simp [dropContracts]
@[simp] theorem modPr_mem (s : State) (p : Nat) (f : Pair → Pair) : (modPr s p f).mem = s.mem := (rfl)
@[simp] theorem passBaton_mem (s : State) (p : Nat) (t : Option Nat) : (passBaton s p t).mem = s.mem := (rfl)
@[simp] theorem clearBank_mem (s : State) (p : Nat) (k : Nat) : (clearBank s p k).mem = s.mem := (rfl)
@[simp] theorem modCr_mem (s : State) (c : Nat) (f : Core → Core) : (modCr s c f).mem = s.mem := (rfl)
@[simp] theorem stopFills_mem (s : State) (c : Nat) (gone : Nat → Bool) : (stopFills s c gone).mem = s.mem := (rfl)
@[simp] theorem evict_mem (s : State) (c : Nat) (x : L1Line) : (evict s c x).mem = s.mem := by simp [evict]
@[simp] theorem dropBank_mem (s : State) (c : Nat) (k : Nat) : (dropBank s c k).mem = s.mem := by simp [dropBank]
@[simp] theorem removeBank_mem (s : State) (p : Nat) (k : Nat) : (removeBank s p k).mem = s.mem := by
  unfold removeBank
  (repeat' split) <;> simp
@[simp] theorem setBank_mem (s : State) (p : Nat) (k : Nat) (m : BankMode) (owner : Nat) : (setBank s p k m
    owner).mem = s.mem := (rfl)
@[simp] theorem releaseAlloc_mem (s : State) (g : Nat) : (releaseAlloc s g).mem = s.mem := by simp [releaseAlloc]
@[simp] theorem unpin_mem (s : State) (p : Nat) : (unpin s p).mem = s.mem := (rfl)
@[simp] theorem dropThese_mem (s : State) (ws : List Nat) (gs : List Nat) (all : Nat → Bool) : (dropThese s ws gs
    all).mem = s.mem := by simp [dropThese]
@[simp] theorem tileToFree_mem (s : State) (pa : Nat) : (tileToFree s pa).mem = s.mem := by simp [tileToFree]
@[simp] theorem dropWaves_mem (s : State) (c : Nat) : (dropWaves s c).mem = s.mem := by simp [dropWaves]
@[simp] theorem modCx_mem (s : State) (c : Nat) (f : Ctx → Ctx) : (modCx s c f).mem = s.mem := (rfl)
@[simp] theorem fence_mem (s : State) (c : Nat) : (fence s c).mem = s.mem := by simp [fence]
@[simp] theorem setFlerr_mem (s : State) (c : Nat) (e : Nat) : (setFlerr s c e).mem = s.mem := (rfl)
@[simp] theorem abandonSlot_mem (s : State) (c : Nat) : (abandonSlot s c).mem = s.mem := by simp [abandonSlot]
@[simp] theorem fresh_mem (s : State) : (fresh s).2.mem = s.mem := (rfl)
@[simp] theorem askFar_mem (s : State) (pa : Nat) (n : Nat) : (askFar s pa n).mem = s.mem := by
  unfold askFar; dsimp only
  (repeat' split) <;> simp
@[simp] theorem mustRecall_mem (s : State) (f : Nat) : (mustRecall s f).mem = s.mem := (rfl)
@[simp] theorem mustWait_mem (s : State) : (mustWait s).mem = s.mem := (rfl)
@[simp] theorem classify_mem (s : State) (f : Nat) (core : Option Nat) : (classify s f core).mem = s.mem := by
  unfold classify
  (repeat' split) <;> simp
@[simp] theorem keepWas_mem (s : State) (pa : Nat) (b : Byte) : (keepWas s pa b).mem = s.mem := by simp [keepWas]
@[simp] theorem draw_mem (s : State) : (draw s).2.mem = s.mem := (rfl)
@[simp] theorem poisonWords_mem (s : State) (line : Nat) (ws : BitVec 32) : (poisonWords s line ws).mem = s.mem :=
    (rfl)
@[simp] theorem spendSent_mem (c : Nat) (f : DafEntry → DafEntry) (s : State) : (spendSent c f s).mem = s.mem := (rfl)
@[simp] theorem regDrop_mem (s : State) (line : Nat) : (regDrop s line).mem = s.mem := (rfl)
@[simp] theorem regTouch_mem (s : State) (line : Nat) : (regTouch s line).mem = s.mem := by simp [regTouch]
@[simp] theorem modStk_mem (s : State) (k : Nat) (f : StackMem → StackMem) : (modStk s k f).mem = s.mem := (rfl)
@[simp] theorem msRequest_mem (s : State) (line : Nat) (write : Bool) (core : Nat) : (msRequest s line write
    core).mem = s.mem := (rfl)
@[simp] theorem lineFill_mem (s : State) (line : Nat) (m : BitVec 128) (core : Nat) : (lineFill s line m core).mem =
    s.mem := by simp [lineFill]
@[simp] theorem takeSlot_mem (c : Nat) (s : State) (line : Nat) : (takeSlot c s line).mem = s.mem := by simp
    [takeSlot]
@[simp] theorem tlbPut_mem (s : State) (t : List TlbEntry) (sets : Nat) (ways : Nat) (e : TlbEntry) : (tlbPut s t
    sets ways e).1.mem = s.mem := by
  unfold tlbPut; grind [draw_mem]
@[simp] theorem l1TlbPut_mem (s : State) (c : Nat) (e : TlbEntry) : (l1TlbPut s c e).mem = s.mem := by simp [l1TlbPut]
@[simp] theorem l2TlbPut_mem (s : State) (k : Nat) (e : TlbEntry) : (l2TlbPut s k e).mem = s.mem := by simp [l2TlbPut]
@[simp] theorem tlbServe_mem (s : State) (ag : Agent) (asid va : Nat) (fits : TlbEntry → Bool) : ∀ x, tlbServe s ag
    asid va fits = some x → x.1.mem = s.mem := by
  intro x; unfold tlbServe; dsimp only
  (repeat' split) <;> intro hx <;> simp_all <;> subst hx <;> simp
@[simp] theorem dropCached_mem (s : State) (core : Option Nat) (k : Nat) (asid : Nat) (va : Nat) : (dropCached s core
    k asid va).mem = s.mem := by
  unfold dropCached
  (repeat' split) <;> simp
@[simp] theorem pwcPut_mem (s : State) (k : Nat) (e : PwcEntry) : (pwcPut s k e).mem = s.mem := by simp [pwcPut]
@[simp] theorem walkKeep_mem (s : State) (k : Option Nat) (asid : Nat) (va : Nat) (level : Nat) (next : Nat) :
    (walkKeep s k asid va level next).mem = s.mem := by
  unfold walkKeep; split <;> simp
@[simp] theorem peerAnswer_mem (s : State) (cls : AccClass) (pa : Nat) (lvl : Nat) (va : Nat) : (peerAnswer s cls pa
    lvl va).1.mem = s.mem := by
  unfold peerAnswer; dsimp only
  (repeat' split) <;> simp
@[simp] theorem readLine_mem (s : State) (pa : Nat) (n : Nat) : (readLine s pa n).1.mem = s.mem := by
  unfold readLine; dsimp only
  (repeat' split) <;> simp
@[simp] theorem readLines_mem (a0 : Nat) (a1 : Nat) (a2 : Nat) (a3 : State) : (readLines a0 a1 a2 a3).1.mem = a3.mem
    := by
  fun_induction readLines a0 a1 a2 a3 <;> grind [readLine_mem]
@[simp] theorem noteEligible_mem (s : State) (c : Nat) : (noteEligible s c).mem = s.mem := (rfl)
@[simp] theorem modWv_mem (s : State) (w : Nat) (f : Wave → Wave) : (modWv s w f).mem = s.mem := (rfl)
@[simp] theorem completeOp_mem (s : State) (w : Nat) (id : Nat) (m : Lanes) (k : Nat) : (completeOp s w id m k).mem =
    s.mem := (rfl)
@[simp] theorem takeOffer_mem (s : State) (c : Nat) (q : Nat) : (takeOffer s c q).mem = s.mem := by
  unfold takeOffer; grind [modQu_mem, modCx_mem, completeOp_mem]
@[simp] theorem logEntry_mem (s : State) (c : Nat) (e : LogSlot) : (logEntry s c e).mem = s.mem := by
  unfold logEntry; dsimp only
  split <;> simp
@[simp] theorem signalQueue_mem (s : State) (q : Nat) : (signalQueue s q).mem = s.mem := by simp [signalQueue]
@[simp] theorem refreshWindow_mem (s : State) (w : Nat) (a2 : Nat) : (refreshWindow s w a2).mem = s.mem := by simp
    [refreshWindow]
@[simp] theorem dropAcc_mem (s : State) (a : Acc) : (dropAcc s a).mem = s.mem := by simp [dropAcc]
@[simp] theorem completeAcc_mem (s : State) (a : Acc) : (completeAcc s a).mem = s.mem := by simp [completeAcc]
@[simp] theorem failLanes_mem (s : State) (w : Nat) (id : Nat) (cls : Nat) (fs : List (Nat × Nat × Nat)) : (failLanes
    s w id cls fs).mem = s.mem := by
  unfold failLanes
  (repeat' split) <;> simp
@[simp] theorem failAll_mem (s : State) (w : Nat) (id : Nat) (cls : Nat) (code : Nat) (addr : Nat) : (failAll s w id
    cls code addr).mem = s.mem := by
  unfold failAll
  (repeat' split) <;> simp
@[simp] theorem matFault_mem (s : State) (p : Nat) (m : MatOp) (cls : Nat) (code : Nat) (addr : Nat) : (matFault s p
    m cls code addr).mem = s.mem := by simp [matFault]
@[simp] theorem failDrain_mem (s : State) (w : Nat) (m : MatOp) (ps : List EngPart) (st : Nat) : (failDrain s w m ps
    st).mem = s.mem := by simp [failDrain]
@[simp] theorem parkFault_mem (s : State) (w : Nat) (a2 : Nat) (c : Nat) (m : Lanes) (st : Nat) (e : LogSlot) :
    (parkFault s w a2 c m st e).mem = s.mem := by simp [parkFault]
@[simp] theorem parkEng_mem (s : State) (c : Nat) (tag : Nat) (code : Nat) (cls : Nat) (st : Nat) (words : List (Nat
    × Nat)) : (parkEng s c tag code cls st words).mem = s.mem := by
  unfold parkEng
  (repeat' split) <;> simp
@[simp] theorem failEng_mem (s : State) (core : Nat) (tag : Nat) (ps : List EngPart) (add : Bool) (code : Nat) :
    (failEng s core tag ps add code).mem = s.mem := by
  unfold failEng
  (repeat' split) <;> simp
@[simp] theorem putAcc_mem (s : State) (a : Acc) : (putAcc s a).mem = s.mem := by simp [putAcc]
@[simp] theorem failAcc_mem (s : State) (a : Acc) (cls : Nat) (status : Nat) : (failAcc s a cls status).mem = s.mem
    := by
  unfold failAcc
  (repeat' split) <;> simp
@[simp] theorem parkRed_mem (s : State) (a : Acc) (cls : Nat) (status : Nat) : (parkRed s a cls status).mem = s.mem
    := by
  unfold parkRed
  (repeat' split) <;> simp
@[simp] theorem failFar_mem (s : State) (a : Acc) (code : Nat) (cls : Nat) : (failFar s a code cls).mem = s.mem := by
  unfold failFar
  (repeat' split) <;> simp
@[simp] theorem entryAcked_mem (s : State) (core : Nat) (e : DafEntry) (code : Nat) (cls : Nat) : (entryAcked s core
    e code cls).mem = s.mem := by
  unfold entryAcked; dsimp only
  rw [foldl_mem (by intro t x; (repeat' split) <;> simp)]
  split <;> simp
@[simp] theorem netDrop_mem (s : State) (id : Nat) : (netDrop s id).mem = s.mem := (rfl)
@[simp] theorem send_mem (s : State) (core : Nat) (dest : Nat) (vc : Nat) (b : MsgBody) : (send s core dest vc b).mem
    = s.mem := (rfl)
@[simp] theorem askHome_mem (s : State) (a : Acc) (pa : Nat) : (askHome s a pa).mem = s.mem := by
  unfold askHome
  (repeat' split) <;> simp
@[simp] theorem dafPush_mem (s : State) (c : Nat) (e : DafEntry) : (dafPush s c e).mem = s.mem := (rfl)
@[simp] theorem joinTwins_mem (s : State) (a : Acc) : (joinTwins s a).1.mem = s.mem := by
  unfold joinTwins; dsimp only
  (repeat' split) <;> simp
@[simp] theorem countHit_mem (s : State) (c : Nat) (line : Nat) (hit : Bool) : (countHit s c line hit).mem = s.mem :=
    by simp
    [countHit]
@[simp] theorem dropCopies_mem (s : State) (c : Nat) (line : Nat) : (dropCopies s c line).mem = s.mem := (rfl)
@[simp] theorem l1Way_mem (s : State) (c : Nat) (line : Nat) : (l1Way s c line).1.mem = s.mem := by
  unfold l1Way; dsimp only
  (repeat' split) <;> simp
@[simp] theorem l1Line_mem (s : State) (c : Nat) (line : Nat) (path : LinePath) : (l1Line s c line path).1.mem =
    s.mem := by
  unfold l1Line; dsimp only
  (repeat' split) <;> simp
@[simp] theorem l1Write_mem (s : State) (c : Nat) (pa : Nat) (path : LinePath) (m : BitVec 32) (d : Nat) (dirty :
    Bool) : (l1Write s c pa path m d dirty).mem = s.mem := by simp [l1Write]
@[simp] theorem leaveRelease_mem (s : State) (a : Acc) : (leaveRelease s a).mem = s.mem := by simp [leaveRelease]
@[simp] theorem wbAhead_mem (s : State) (c : Nat) (pa : Nat) (m : BitVec 32) : (wbAhead s c pa m).mem = s.mem := by
  unfold wbAhead
  (repeat' split) <;> simp
@[simp] theorem routeHomeWrite_mem (s : State) (a : Acc) (k : Nat → DafKind) : (routeHomeWrite s a k).mem = s.mem :=
    by simp [routeHomeWrite]
@[simp] theorem routeAtomic_mem (s : State) (a : Acc) (code : Nat) (d : Nat) (e : Nat) (ret : Bool) : (routeAtomic s
    a code d e ret).mem = s.mem := by
  unfold routeAtomic; dsimp only
  (repeat' split) <;> simp
@[simp] theorem routeImago_mem (s : State) (a : Acc) (a2 : Nat) (g : Nat) : (routeImago s a a2 g).mem = s.mem := by
  unfold routeImago; dsimp only
  (repeat' split) <;> simp
@[simp] theorem routeLoad_mem (s : State) (a : Acc) : (routeLoad s a).mem = s.mem := by
  unfold routeLoad; grind [modCr_mem, putAcc_mem, countHit_mem, askHome_mem]
@[simp] theorem awaitReg_mem (s : State) (a : Acc) (line : Nat) : (awaitReg s a line).mem = s.mem := by
  unfold awaitReg; dsimp only
  (repeat' split) <;> simp
@[simp] theorem regPush_mem (s : State) (c : Nat) (line : Nat) (m : BitVec 128) (acc : Nat) : (regPush s c line m
    acc).mem = s.mem := by simp [regPush]
@[simp] theorem routeStore_mem (s : State) (a : Acc) (d : Nat) : (routeStore s a d).mem = s.mem := by
  unfold routeStore
  (repeat' split) <;> simp
@[simp] theorem route_mem (s : State) (a : Acc) : (route s a).mem = s.mem := by
  unfold route; dsimp only
  (repeat' split) <;> simp
@[simp] theorem reroute_mem (s : State) (c : Nat) : (reroute s c).mem = s.mem := by
  unfold reroute
  exact foldl_mem (by intro t x; split <;> simp) _ _
@[simp] theorem ackMessage_mem (s : State) (core : Nat) (tok : Nat) (code : Nat) (cls : Nat) : (ackMessage s core tok
    code cls).mem = s.mem := by
  unfold ackMessage; grind [modCr_mem, reroute_mem, entryAcked_mem, netDrop_mem]
@[simp] theorem ackTo_mem (s : State) (m : Msg) : (ackTo s m).mem = s.mem := (rfl)
@[simp] theorem selfInvalidate_mem (s : State) (c : Nat) : (selfInvalidate s c).mem = s.mem := (rfl)
@[simp] theorem acquireNow_mem (s : State) (w : Nat) (i : Instr) : (acquireNow s w i).mem = s.mem := by simp
    [acquireNow]
@[simp] theorem addResultIn_mem (n : Nat) (s : State) (w : Nat) (id : Nat) (m : Lanes) (x : Writes) : (addResultIn n
    s w id m x).mem = s.mem := by simp [addResultIn]
@[simp] theorem addResult_mem (s : State) (w : Nat) (id : Nat) (m : Lanes) (x : Writes) : (addResult s w id m x).mem
    = s.mem := by simp [addResult]
@[simp] theorem addThr_mem (s : State) (k : Nat) (n : Nat) : (addThr s k n).mem = s.mem := (rfl)
@[simp] theorem addWaiter_mem (s : State) (w : Nat) (o : Opr) (space : Nat) (home : Nat) (addr : Nat) (arg : Nat)
    (dst : Nat) (deadline : Nat) (sl : Nat → Sleep) : (addWaiter s w o space home addr arg dst deadline sl).mem =
    s.mem := (rfl)
@[simp] theorem modRgn_mem (s : State) (r : Nat) (f : Region → Region) : (modRgn s r f).mem = s.mem := (rfl)
@[simp] theorem gddrLine_mem (s : State) (line : Nat) (write : Bool) (core : Nat) (flush : Nat) (die : Bool) :
    (gddrLine s line write core flush die).mem = s.mem := (rfl)
@[simp] theorem hpNote_mem (s : State) (r : MsReq) (hit : Bool) : (hpNote s r hit).mem = s.mem := by simp [hpNote]
@[simp] theorem msWriteBack_mem (s : State) (line : Nat) (flush : Nat) : (msWriteBack s line flush).mem = s.mem :=
    (rfl)
@[simp] theorem msPut_mem (s : State) (line : Nat) (dirty : Bool) : (msPut s line dirty).mem = s.mem := by
  unfold msPut; grind [fresh_mem, msWriteBack_mem]
@[simp] theorem fillPrefetch_mem (s : State) (core : Nat) : (fillPrefetch s core).mem = s.mem := (rfl)
@[simp] theorem leavePrefetch_mem (s : State) (core : Nat) (g : Nat) : (leavePrefetch s core g).mem = s.mem := (rfl)
@[simp] theorem countIssue_mem (s : State) (core : Nat) (g : Nat) (w : Nat) : (countIssue s core g w).mem = s.mem :=
    by
  unfold countIssue; dsimp only; split <;> simp
@[simp] theorem debit_mem (s : State) (core : Nat) (c : Nat) (sp : Spec) : (debit s core c sp).mem = s.mem := by
  unfold debit
  (repeat' split) <;> simp
@[simp] theorem advance_mem (sp : Spec) (s : State) : (advance sp s).mem = s.mem := by simp [advance]
@[simp] theorem endQuad_mem (s : State) (q : Nat) (issued : Bool) : (endQuad s q issued).mem = s.mem := by simp
    [endQuad]
@[simp] theorem pushRest_mem (s : State) (q : Nat) (rest : List (Issue × Bool)) (lanes : Nat) (unis : Nat) (chosen :
    Option Nat) : (pushRest s q rest lanes unis chosen).mem = s.mem := by simp [pushRest]
@[simp] theorem stall_mem (s : State) (k : Nat) : (stall s k).mem = s.mem := (rfl)
@[simp] theorem afterIssue_mem (i : Instr) (q : Nat) (cands : List (Issue × Bool)) (lanes : Nat) (unis : Nat) (chosen
    : Option Nat) (w : Nat) (before : Nat) (s : State) : (afterIssue i q cands lanes unis chosen w before s).mem =
    s.mem := by simp [afterIssue]
@[simp] theorem aheadOf_mem (s : State) (c ctx va : Nat) (x : Bool) (fill : State → Nat → Nat → LinePath → State) (h
    : ∀ t a b p, (fill t a b p).mem = t.mem) : (aheadOf s c ctx va x fill).mem = s.mem := by
  unfold aheadOf; dsimp only
  (repeat' split) <;> first | rfl | simp [h]
@[simp] theorem openOp_mem (i : Instr) (sp : Spec) (m : Lanes) (parts : Nat) (words : List (List Word)) (s : State) :
    (openOp i sp m parts words s).2.mem = s.mem := (rfl)
@[simp] theorem wakeWords_mem (s : State) (p : Nat) (a : Nat) (n : Nat) : (wakeWords s p a n).mem = s.mem := (rfl)
@[simp] theorem scrWrite_mem (s : State) (g : Group) (o : Nat) (n : Nat) (v : Nat) : (scrWrite s g o n v).mem = s.mem
    := (rfl)
@[simp] theorem scrPut_mem (s : State) (g : Group) (o : Nat) (bs : List Byte) : (scrPut s g o bs).mem = s.mem := (rfl)
@[simp] theorem takeTrap_mem (s : State) (w : Nat) (imp : Bool) (t : Trap) : (takeTrap s w imp t).mem = s.mem := by
    simp [takeTrap]
@[simp] theorem raiseTrap_mem (s : State) (w : Nat) (t : Trap) : (raiseTrap s w t).mem = s.mem := by simp [raiseTrap]
@[simp] theorem raisePrecise_mem (s : State) (t : Trap) : (raisePrecise s t).mem = s.mem := by simp [raisePrecise]
@[simp] theorem aluEff_mem (i : Instr) (sp : Spec) (a : Alu) (m : Lanes) (s : State) : (aluEff i sp a m s).mem =
    s.mem := by simp [aluEff]
@[simp] theorem takePage_mem (s : State) (a : Acc) (e : TlbEntry) (lvl : Nat) : (takePage s a e lvl).mem = s.mem := by
  unfold takePage; grind [route_mem, putAcc_mem, failAcc_mem]
@[simp] theorem sendData_mem (s : State) (a : Acc) : (sendData s a).mem = s.mem := (rfl)
@[simp] theorem waitAtHome_mem (s : State) (a : Acc) (pa : Nat) (p : Nat) : (waitAtHome s a pa p).mem = s.mem := by
  unfold waitAtHome
  (repeat' split) <;> simp
@[simp] theorem performLoad_mem (s : State) (a : Acc) : (performLoad s a).mem = s.mem := by
  unfold performLoad
  (repeat' split) <;> simp
@[simp] theorem unpark_mem (s : State) (line : Nat) (id : Nat) : (unpark s line id).mem = s.mem := (rfl)
@[simp] theorem rastLaneDone_mem (s : State) (w : Nat) (a2 : Nat) (l : Nat) : (rastLaneDone s w a2 l).mem = s.mem :=
    by simp [rastLaneDone]
@[simp] theorem waitFrag_mem (s : State) (f : Fragment) (held : Nat) : (waitFrag s f held).mem = s.mem := by
  unfold waitFrag; dsimp only
  (repeat' split) <;> simp
@[simp] theorem applyOpen_mem (s : State) (f : Fragment) (b : List Byte) : (applyOpen s f b).mem = s.mem := by simp
    [applyOpen]
@[simp] theorem farWaiter_mem (s : State) (dev : Nat) (pa : Nat) (p : Nat) (kind : Nat) : (farWaiter s dev pa p
    kind).mem = s.mem := (rfl)
@[simp] theorem wakeCell_mem (s : State) (pa : Nat) (st : Nat) (g : Nat) (v : Nat) : (wakeCell s pa st g v).mem =
    s.mem := by simp [wakeCell]
@[simp] theorem shareFrames_mem (s : State) (pa : Nat) (n : Nat) : (shareFrames s pa n).mem = s.mem := by simp
    [shareFrames]
@[simp] theorem bindErr_mem (s : State) (c : Nat) (e : Nat) : (bindErr s c e).mem = s.mem := (rfl)
@[simp] theorem bindSlot_mem (s : State) (c : Nat) : (bindSlot s c).mem = s.mem := by simp [bindSlot]
@[simp] theorem bindCmd_mem (s : State) (src : Nat) (c : Nat) : (bindCmd s src c).mem = s.mem := by
  unfold bindCmd; grind [bindSlot_mem, bindErr_mem]
@[simp] theorem guardedCmd_mem (s : State) (src c : Nat) (f : State → State) (h : ∀ t, (f t).mem = t.mem) :
    (guardedCmd s src c f).mem = s.mem := by
  unfold guardedCmd; dsimp only
  (repeat' split) <;> simp [h]
@[simp] theorem fenceCmd_mem (s : State) (src : Nat) (c : Nat) : (fenceCmd s src c).mem = s.mem := by
  unfold fenceCmd
  exact guardedCmd_mem _ _ _ _ fun t => by dsimp only; split <;> simp
@[simp] theorem modGp_mem (s : State) (g : Nat) (f : Group → Group) : (modGp s g f).mem = s.mem := (rfl)
@[simp] theorem requestOne_mem (s : State) (g : Nat) : (requestOne s g).mem = s.mem := by simp [requestOne]
@[simp] theorem requestGroup_mem (s : State) (g : Nat) : (requestGroup s g).mem = s.mem := by simp [requestGroup]
@[simp] theorem preemptCtx_mem (s : State) (c : Nat) : (preemptCtx s c).mem = s.mem := by simp [preemptCtx]
@[simp] theorem preemptCmd_mem (s : State) (c : Nat) : (preemptCmd s c).mem = s.mem := by simp [preemptCmd]
@[simp] theorem dropAsid_mem (s : State) (a : Nat) : (dropAsid s a).mem = s.mem := (rfl)
@[simp] theorem endContract_mem (s : State) (q : Nat) : (endContract s q).mem = s.mem := (rfl)
@[simp] theorem settleContract_mem (s : State) (q : Nat) : (settleContract s q).mem = s.mem := by simp
    [settleContract]
@[simp] theorem stopQueuesOf_mem (s : State) (c : Nat) : (stopQueuesOf s c).mem = s.mem := by simp [stopQueuesOf]
@[simp] theorem endBinding_mem (s : State) (c : Nat) : (endBinding s c).mem = s.mem := by simp [endBinding]
@[simp] theorem unbindSlot_mem (s : State) (c : Nat) : (unbindSlot s c).mem = s.mem := by simp [unbindSlot]
@[simp] theorem unbindCmd_mem (s : State) (src : Nat) (c : Nat) : (unbindCmd s src c).mem = s.mem := by
  unfold unbindCmd
  exact guardedCmd_mem _ _ _ _ fun t => by simp
@[simp] theorem runBcmd_mem (s : State) (src : Nat) (c : Nat) (a3 : Nat) : (runBcmd s src c a3).mem = s.mem := by
  unfold runBcmd
  (repeat' split) <;> simp
@[simp] theorem writeBind_mem (s : State) (src : Nat) (c : Nat) (o : Nat) (m : Nat) (v : Nat) : (writeBind s src c o
    m v).mem = s.mem := by
  unfold writeBind
  (repeat' split) <;> simp
@[simp] theorem writeHpctl_mem (s : State) (k : Nat) (v : Nat) : (writeHpctl s k v).mem = s.mem := by simp
    [writeHpctl]
@[simp] theorem writeCounter_mem (s : State) (k : Nat) (o : Nat) (m : Nat) (v : Nat) : (writeCounter s k o m v).mem =
    s.mem := by
  unfold writeCounter
  (repeat' split) <;> simp
@[simp] theorem modMgmt_mem (s : State) (f : Mgmt → Mgmt) : (modMgmt s f).mem = s.mem := (rfl)
@[simp] theorem refuse_mem (s : State) (src : Nat) (err : Nat) (reg : Nat) : (refuse s src err reg).mem = s.mem := by
    simp [refuse]
@[simp] theorem writeDevid_mem (s : State) (src : Nat) (v : Nat) : (writeDevid s src v).mem = s.mem := by simp
    [writeDevid]
@[simp] theorem writeError_mem (s : State) (k : Nat) (o : Nat) (m : Nat) (v : Nat) : (writeError s k o m v).mem =
    s.mem := by
  unfold writeError
  (repeat' split) <;> simp
@[simp] theorem writeHsemCmd_mem (s : State) (src : Nat) (v : Nat) : (writeHsemCmd s src v).mem = s.mem := by
  unfold writeHsemCmd
  (repeat' split) <;> simp
@[simp] theorem writeIssue_mem (s : State) (c : Nat) (o : Nat) (m : Nat) (v : Nat) : (writeIssue s c o m v).mem =
    s.mem := by simp [writeIssue]
@[simp] theorem setLogSlot_mem (s : State) (c : Nat) (k : Nat) (e : LogSlot) : (setLogSlot s c k e).mem = s.mem :=
    (rfl)
@[simp] theorem retryDone_mem (s : State) (c : Nat) (k : Nat) : (retryDone s c k).mem = s.mem := (rfl)
@[simp] theorem freeReport_mem (s : State) (c : Nat) (k : Nat) : (freeReport s c k).mem = s.mem := by
  unfold freeReport
  (repeat' split) <;> simp
@[simp] theorem ownCopy_mem (s : State) (core : Nat) (pa : Nat) (n : Nat) (v : Nat) : (ownCopy s core pa n v).mem =
    s.mem := by simp [ownCopy]
@[simp] theorem retryFailed_mem (s : State) (c : Nat) (k : Nat) (e : LogSlot) : (retryFailed s c k e).mem = s.mem :=
    (rfl)
@[simp] theorem dropColl_mem (s : State) (c : Coll) : (dropColl s c).mem = s.mem := (rfl)
@[simp] theorem putColl_mem (s : State) (c : Coll) : (putColl s c).mem = s.mem := (rfl)
@[simp] theorem retryCopy_mem (s : State) (c : Nat) (k : Nat) (e : LogSlot) (y : Copy) : (retryCopy s c k e y).mem =
    s.mem := (rfl)
@[simp] theorem completeParked_mem (s : State) (c : Nat) (w : Nat) (a3 : Nat) (m : Lanes) : (completeParked s c w a3
    m).mem = s.mem := (rfl)
@[simp] theorem startReport_mem (s : State) (p : Nat) : (startReport s p).mem = s.mem := by simp [startReport]
@[simp] theorem writeMailbox_mem (s : State) (p : Nat) (o : Nat) (m : Nat) (v : Nat) : (writeMailbox s p o m v).mem =
    s.mem := by simp [writeMailbox]
@[simp] theorem startExtend_mem (s : State) (src : Nat) (k : Nat) : (startExtend s src k).mem = s.mem := by simp
    [startExtend]
@[simp] theorem writeMeasure_mem (s : State) (src : Nat) (o : Nat) (m : Nat) (v : Nat) : (writeMeasure s src o m
    v).mem = s.mem := by simp [writeMeasure]
@[simp] theorem writePlimit_mem (s : State) (src : Nat) (v : Nat) : (writePlimit s src v).mem = s.mem := by simp
    [writePlimit]
@[simp] theorem guardRefused_mem (s : State) (src : Nat) (q : Nat) : (guardRefused s src q).mem = s.mem := by simp
    [guardRefused]
@[simp] theorem disableQueue_mem (s : State) (src : Nat) (q : Nat) (v : Nat) : (disableQueue s src q v).mem = s.mem
    := by simp [disableQueue]
@[simp] theorem enableQueue_mem (s : State) (src : Nat) (q : Nat) (v : Nat) : (enableQueue s src q v).mem = s.mem :=
    by
  unfold enableQueue; dsimp only
  (repeat' split) <;> first | rfl | simp
@[simp] theorem guardedQueue_mem (s : State) (src : Nat) (q : Nat) (f : Queue → Queue) : (guardedQueue s src q f).mem
    = s.mem := by simp [guardedQueue]
@[simp] theorem writeQueue_mem (s : State) (src : Nat) (q : Nat) (o : Nat) (m : Nat) (v : Nat) : (writeQueue s src q
    o m v).mem = s.mem := by
  unfold writeQueue; dsimp only
  split
  · simp
  · simp
  · split <;> simp
  · simp
  · simp
  · simp
  · simp
  · simp
  · rfl
@[simp] theorem writeRoute_mem (s : State) (src : Nat) (d : Nat) (v : Nat) : (writeRoute s src d v).mem = s.mem := by
    simp [writeRoute]
@[simp] theorem writeRoutes_mem (s : State) (src : Nat) (d : Nat) (m : Nat) (v : Nat) : (writeRoutes s src d m v).mem
    = s.mem := by simp [writeRoutes]
@[simp] theorem modTm_mem (s : State) (p : Nat) (f : TmBlock → TmBlock) : (modTm s p f).mem = s.mem := (rfl)
@[simp] theorem dropEntries_mem (s : State) (p : Nat) : (dropEntries s p).mem = s.mem := (rfl)
@[simp] theorem invalidateNow_mem (s : State) (p : Nat) : (invalidateNow s p).mem = s.mem := (rfl)
@[simp] theorem tmRefuse_mem (s : State) (p : Nat) (err : Nat) : (tmRefuse s p err).mem = s.mem := (rfl)
@[simp] theorem tmCommand_mem (s : State) (p op : Nat) (f : State → State) (h : ∀ t, (f t).mem = t.mem) : (tmCommand
    s p op f).mem = s.mem := by
  unfold tmCommand; split <;> simp [h]
@[simp] theorem tmStart_mem (s : State) (p : Nat) (a2 : Nat) (waits : List Nat) : (tmStart s p a2 waits).mem = s.mem
    := (rfl)
@[simp] theorem invalidate_mem (s : State) (p : Nat) (a2 : Nat) : (invalidate s p a2).mem = s.mem := by
  unfold invalidate
  exact tmCommand_mem _ _ _ _ fun t => by simp
@[simp] theorem invAll_mem (s : State) (p : Nat) : (invAll s p).mem = s.mem := by simp [invAll]
@[simp] theorem invAsid_mem (s : State) (p : Nat) : (invAsid s p).mem = s.mem := by simp [invAsid]
@[simp] theorem invVa_mem (s : State) (p : Nat) : (invVa s p).mem = s.mem := by simp [invVa]
@[simp] theorem startRecall_mem (s : State) (f : Nat) (waiters : List Nat) : (startRecall s f waiters).mem = s.mem :=
    by
  unfold startRecall; dsimp only
  (repeat' split) <;> simp
@[simp] theorem hostKeeps_mem (s : State) (pa : Nat) (n : Nat) (a3 : Nat) : (hostKeeps s pa n a3).mem = s.mem := by
    simp [hostKeeps]
@[simp] theorem orWait_mem (s t : State) (h : t.mem = s.mem) : (orWait s t).mem = s.mem := by
  unfold orWait; split <;> simp [h]
@[simp] theorem arrive_mem (s : State) (m : Lanes) : (arrive s m).mem = s.mem := (rfl)
@[simp] theorem formicaReport_mem (s : State) (c : Nat) (opk : Nat) (e : EngFault) : (formicaReport s c opk e).mem =
    s.mem := by simp [formicaReport]
@[simp] theorem badMaterial_mem (s : State) (c : Nat) (a : Nat) : (badMaterial s c a).mem = s.mem := by simp
    [badMaterial]
@[simp] theorem putBin_mem (s : State) (b : Bin) : (putBin s b).mem = s.mem := (rfl)
@[simp] theorem codeWord_mem (s : State) (pa : Nat) (w : Nat) : (codeWord s pa w).1.mem = s.mem := by
  unfold codeWord; dsimp only
  (repeat' split) <;> simp
@[simp] theorem l1Install_mem (s : State) (c : Nat) (pa : Nat) (path : LinePath) (got : BitVec 32) (d : Nat) :
    (l1Install s c pa path got d).mem = s.mem := by simp [l1Install]
@[simp] theorem awaitSlot_mem (s : State) : (awaitSlot s).mem = s.mem := (rfl)
@[simp] theorem markEligible_mem (s : State) (g : Group) : (markEligible s g).mem = s.mem := (rfl)
@[simp] theorem backToSave_mem (s : State) (g : Nat) : (backToSave s g).mem = s.mem := by
  unfold backToSave; dsimp only
  split
  · rw [foldl_mem (by intro t x; simp)]; simp
  · rw [markEligible_mem, foldl_mem (by intro t x; simp), foldl_mem (by intro t x; simp)]; simp
@[simp] theorem newAcc_mem (s : State) (w : Nat) (o : Opr) (lanes : Lanes) (parts : List (Nat × Nat)) (n : Nat) (va :
    Nat) (mask : BitVec 32) (cls : AccClass) (act : Act) : (newAcc s w o lanes parts n va mask cls act).1.mem = s.mem
    := (rfl)
@[simp] theorem badAccs_mem (w : Nat) (o : Opr) (n : Nat) (cls : AccClass) (act : Act) (a5 : List (Lanes × Nat)) (a6
    : State) : (badAccs w o n cls act a5 a6).1.mem = a6.mem := by
  fun_induction badAccs w o n cls act a5 a6 <;> grind [newAcc_mem]
@[simp] theorem bankAcross_mem (s : State) (c : Nat) (d : Nat) : (bankAcross s c d).mem = s.mem := by
  unfold bankAcross
  (repeat' split) <;> simp
@[simp] theorem fenceBound_mem (s : State) (c : Nat) : (fenceBound s c).mem = s.mem := by simp [fenceBound]
@[simp] theorem l1Error_mem (s : State) (p : Nat) (k : Nat) (sec : Nat) : (l1Error s p k sec).mem = s.mem := by
  unfold l1Error; grind [modCr_mem, poisonWords_mem]
@[simp] theorem bankError_mem (s : State) (p : Nat) (k : Nat) (sec : Nat) : (bankError s p k sec).mem = s.mem := by
  unfold bankError
  (repeat' split) <;> simp
@[simp] theorem bankFromReserve_mem (s : State) (c : Nat) : (bankFromReserve s c).mem = s.mem := by
  unfold bankFromReserve
  (repeat' split) <;> simp
@[simp] theorem deferScr_mem (s : State) (replay : Bool) (w : Nat) (o : Opr) (m : Lanes) (k : State → State) (h : ∀
    t, (k t).mem = t.mem) : (deferScr s replay w o m k).mem = s.mem := by
  unfold deferScr; grind [newAcc_mem, putAcc_mem, dafPush_mem, refreshWindow_mem]
@[simp] theorem setFifo_mem (s : State) (p : Nat) (b : Nat) (f : List (BitVec 256)) : (setFifo s p b f).mem = s.mem
    := (rfl)
@[simp] theorem fifoLoad_mem (s : State) (w : Nat) (o : Opr) (m : Lanes) : (fifoLoad s w o m).mem = s.mem := by
  unfold fifoLoad
  (repeat' split) <;> simp
@[simp] theorem scrLoad_mem (s : State) (w : Nat) (o : Opr) (xs : List (Nat × Int)) : (scrLoad s w o xs).mem = s.mem
    := by
  unfold scrLoad; grind [addResultIn_mem, failAll_mem, failLanes_mem]
@[simp] theorem fifoStore_mem (s : State) (w : Nat) (o : Opr) (m : Lanes) : (fifoStore s w o m).mem = s.mem := by
  unfold fifoStore; grind [setFifo_mem, failAll_mem, completeOp_mem]
@[simp] theorem scrStore_mem (s : State) (w : Nat) (o : Opr) (f : Nat → Nat) (xs : List (Nat × Int)) : (scrStore s w
    o f xs).mem = s.mem := by
  unfold scrStore; dsimp only
  (repeat' split) <;> simp
@[simp] theorem setTile_mem (s : State) (c : Nat) (t : Nat) (x : AccTile) : (setTile s c t x).mem = s.mem := (rfl)
@[simp] theorem tileStore_mem (s : State) (w : Nat) (o : Opr) (t : Nat) (m : Lanes) : (tileStore s w o t m).mem =
    s.mem := by simp [tileStore]
@[simp] theorem scrPerform_mem (s : State) (w : Nat) (o : Opr) (m : Lanes) : (scrPerform s w o m).mem = s.mem := by
  unfold scrPerform; grind [tileStore_mem, scrStore_mem, fifoStore_mem]
@[simp] theorem tryTranslate_mem (s : State) (a : Acc) : (tryTranslate s a).mem = s.mem := by
  unfold tryTranslate; grind [l1TlbPut_mem, takePage_mem, putAcc_mem, failAcc_mem]
@[simp] theorem beginAccs_mem (s : State) (replay : Bool) (as : List Acc) : (beginAccs s replay as).mem = s.mem := by
  unfold beginAccs; dsimp only
  rw [foldl_mem (by intro t x; (repeat' split) <;> simp), foldl_mem (by intro t x; (repeat' split) <;> simp)]
@[simp] theorem listAccs_mem (w : Nat) (o : Opr) (n : Nat) (cls : AccClass) (a4 : List (Lanes × Nat × Act)) (a5 :
    State) : (listAccs w o n cls a4 a5).1.mem = a5.mem := by
  induction a4 generalizing a5 with
  | nil => rfl
  | cons x r ih => rw [listAccs]; simp [ih]
@[simp] theorem startAtomics_mem (s : State) (replay : Bool) (w : Nat) (o : Opr) (n : Nat) (cls : AccClass) (xs :
    List (Lanes × Nat × Act)) : (startAtomics s replay w o n cls xs).mem = s.mem := by simp [startAtomics]
@[simp] theorem startImago_mem (s : State) (replay : Bool) (w : Nat) (o : Opr) (m : Lanes) : (startImago s replay w o
    m).mem = s.mem := by simp [startImago]
@[simp] theorem sectorAccs_mem (w : Nat) (o : Opr) (n : Nat) (cls : AccClass) (data : Option (Nat → Nat)) (ps : List
    (Nat × Nat)) (a6 : List Nat) (a7 : State) : (sectorAccs w o n cls data ps a6 a7).1.mem = a7.mem := by
  induction a6 generalizing a7 with
  | nil => rfl
  | cons x r ih => unfold sectorAccs; simp [ih]
@[simp] theorem startSectors_mem (s : State) (replay : Bool) (w : Nat) (o : Opr) (n : Nat) (cls : AccClass) (data :
    Option (Nat → Nat)) (ps : List (Nat × Nat)) : (startSectors s replay w o n cls data ps).mem = s.mem := by simp
    [startSectors]
@[simp] theorem tileLoad_mem (s : State) (w : Nat) (o : Opr) (t : Nat) (m : Lanes) : (tileLoad s w o t m).mem = s.mem
    := by simp [tileLoad]
@[simp] theorem startMem_mem (s : State) (replay : Bool) (w : Nat) (id : Nat) (m : Lanes) : (startMem s replay w id
    m).mem = s.mem := by
  unfold startMem; grind [scrLoad_mem, tileLoad_mem, startSectors_mem, startImago_mem, refreshWindow_mem,
      startAtomics_mem, fifoLoad_mem, acquireNow_mem, scrPerform_mem, deferScr_mem]
@[simp] theorem bankPerform_mem (s : State) (w : Nat) (o : Opr) (m : Lanes) : (bankPerform s w o m).mem = s.mem := by
  unfold bankPerform
  (repeat' split) <;> simp
@[simp] theorem bankResume_mem (s : State) (id : Nat) : (bankResume s id).mem = s.mem := by
  unfold bankResume
  (repeat' split) <;> simp
@[simp] theorem bankResumeAll_mem (s : State) : (bankResumeAll s).mem = s.mem := by simp [bankResumeAll]
@[simp] theorem bankToReserve_mem (s : State) (c : Nat) : (bankToReserve s c).mem = s.mem := by
  unfold bankToReserve
  (repeat' split) <;> simp
@[simp] theorem barAccess_mem (s : State) (replay : Bool) (w : Nat) (o : Opr) : (barAccess s replay w o).mem = s.mem
    := by
  unfold barAccess
  (repeat' split) <;> simp
@[simp] theorem opened_mem (i : Instr) (parts : Nat) (s : State) : (opened i parts s).mem = s.mem := by simp [opened]
@[simp] theorem wakeLater_mem (s : State) (c : Nat) (p : Nat) (a : Nat) (t : Nat) : (wakeLater s c p a t).mem = s.mem
    := (rfl)
@[simp] theorem barPerform_mem (s : State) (w : Nat) (o : Opr) : (barPerform s w o).mem = s.mem := by
  unfold barPerform; dsimp only
  (repeat' split) <;> simp
@[simp] theorem startWaddr_mem (s : State) (w : Nat) (o : Opr) : (startWaddr s w o).mem = s.mem := by
  unfold startWaddr; grind [addWaiter_mem, selfInvalidate_mem, failAll_mem, addResult_mem]
@[simp] theorem startBar_mem (s : State) (replay : Bool) (w : Nat) (id : Nat) (m : Lanes) : (startBar s replay w id
    m).mem = s.mem := by
  unfold startBar; grind [barAccess_mem, refreshWindow_mem, barPerform_mem, startWaddr_mem, deferScr_mem,
      startMem_mem]
@[simp] theorem barIssued_mem (i : Instr) (s : State) : (barIssued i s).mem = s.mem := by simp [barIssued]
@[simp] theorem batonTake_mem (s : State) (w : Nat) (m : Lanes) : (batonTake s w m).mem = s.mem := by simp [batonTake]
@[simp] theorem beginRefresh_mem (s : State) (g : Nat) : (beginRefresh s g).mem = s.mem := (rfl)
@[simp] theorem writeRecord_mem (s : State) (g : Group) (x : FfWalk) (status : Nat) (last : Option (Nat × Nat)) :
    (writeRecord s g x status last).mem = s.mem := by
  unfold writeRecord
  (repeat' split) <;> simp
@[simp] theorem reportWalk_mem (s : State) (x : FfWalk) (status : Nat) (idx : Nat) (e : Option Entered) : (reportWalk
    s x status idx e).mem = s.mem := by
  unfold reportWalk; grind [writeRecord_mem, failLanes_mem, draw_mem, addResult_mem]
@[simp] theorem beginWalk_mem (s : State) (w : Nat) (x : FfWalk) (done : Bool) : (beginWalk s w x done).mem = s.mem
    := by simp [beginWalk]
@[simp] theorem begun_mem (i : Instr) (f : State → State) (s : State) (h : ∀ t, (f t).mem = t.mem) : (begun i f
    s).mem = s.mem := by
  unfold begun; split <;> simp [h]
@[simp] theorem boot_mem (s : State) : (boot s).mem = s.mem := (rfl)
@[simp] theorem busyQuads_mem (s : State) (ws : List Nat) : (busyQuads s ws).mem = s.mem := by
  unfold busyQuads
  exact foldl_mem (fun t x => by rw [modCr_eq, setCr_mem]) _ _
@[simp] theorem carveOut_mem (s : State) (p : Nat) : (carveOut s p).mem = s.mem := by simp [carveOut]
@[simp] theorem setClass_mem (s : State) (c : Nat) (asid : Nat) (va : Nat) (f : Nat) (st : FrameState) : (setClass s
    c asid va f st).mem = s.mem := (rfl)
@[simp] theorem classified_mem (s : State) (a : Acc) (st : FrameState) : (classified s a st).mem = s.mem := by simp
    [classified]
@[simp] theorem collFault_mem (s : State) (c : Coll) (e : EngFault) : (collFault s c e).mem = s.mem := by simp
    [collFault]
@[simp] theorem skipDraws_mem (s : State) (n : Nat) : (skipDraws s n).mem = s.mem := (rfl)
@[simp] theorem moveChunks_mem (s : State) (n : Nat) (own : List (Nat × Coll × Nat × Nat)) (far : List (Nat × Nat)) :
    (moveChunks s n own far).mem = s.mem := by
  unfold moveChunks; dsimp only
  rw [foldl_mem (by intro t x; simp), foldl_mem (by intro t x; simp), foldl_mem_fst (by intro t x; split <;> simp),
    foldl_mem_fst (by intro t x; simp)]
@[simp] theorem dropCopy_mem (s : State) (c : Copy) : (dropCopy s c).mem = s.mem := (rfl)
@[simp] theorem copyEnd_mem (s : State) (c : Copy) : (copyEnd s c).mem = s.mem := by simp [copyEnd]
@[simp] theorem putCopy_mem (s : State) (c : Copy) : (putCopy s c).mem = s.mem := (rfl)
@[simp] theorem copyFault_mem (s : State) (c : Copy) (hold : Nat) (cls : Nat) (code : Nat) (addr : Nat) : (copyFault
    s c hold cls code addr).mem = s.mem := by simp [copyFault]
@[simp] theorem creditApply_mem (s : State) (c : Copy) (n : Nat) : (creditApply s c n).1.mem = s.mem := by
  unfold creditApply; grind [scrWrite_mem]
@[simp] theorem copyCredit_mem (s : State) (c : Copy) : (copyCredit s c).mem = s.mem := by
  unfold copyCredit; grind [copyFault_mem, putCopy_mem, creditApply_mem, copyEnd_mem, scrWrite_mem]
@[simp] theorem nextPiece_mem (s : State) (c : Copy) : (nextPiece s c).1.mem = s.mem := by
  unfold nextPiece; dsimp only
  (repeat' split) <;> simp
@[simp] theorem pieceDone_mem (s : State) (c : Copy) (n : Nat) : (pieceDone s c n).mem = s.mem := by simp [pieceDone]
@[simp] theorem copyRoom_mem (s : State) (c : Nat) (line : Nat) : (copyRoom s c line).1.mem = s.mem := by
  unfold copyRoom
  (repeat' split) <;> simp
@[simp] theorem countUe_mem (s : State) (k : Nat) : (countUe s k).mem = s.mem := (rfl)
@[simp] theorem cutOff_mem (s : State) (gone : Nat → Bool) : (cutOff s gone).mem = s.mem := by
  unfold cutOff; dsimp only
  rw [foldl_mem (by intro t x; simp), foldl_mem (by intro t x; simp), foldl_mem (by intro t x; (repeat' split) <;>
      simp)]
@[simp] theorem dataCome_mem (s : State) (id : Nat) : (dataCome s id).mem = s.mem := (rfl)
@[simp] theorem deliver_mem (s : State) (a : Acc) (xs : List (Nat × Nat)) : (deliver s a xs).mem = s.mem := by
  unfold deliver
  (repeat' split) <;> simp
@[simp] theorem dieRequest_mem (s : State) (line : Nat) (core : Nat) : (dieRequest s line core).mem = s.mem := (rfl)
@[simp] theorem drainScr_mem (s : State) (g : Group) (add : Bool) (x : Nat × Nat × Nat) : (drainScr s g add x).1.mem
    = s.mem := by
  unfold drainScr
  (repeat' split) <;> simp
@[simp] theorem drainBanks_mem (s : State) (g : Group) (add : Bool) (a3 : List (Nat × Nat × Nat)) : (drainBanks s g
    add a3).1.mem = s.mem := by
  fun_induction drainBanks s g add a3 <;> grind [drainScr_mem]
@[simp] theorem msDrain_mem (s : State) (line : Nat) : (msDrain s line).mem = s.mem := by simp [msDrain]
@[simp] theorem drainNext_mem (s : State) (g : Nat) (line : Nat) (rest : List Nat) : (drainNext s g line rest).mem =
    s.mem := by simp [drainNext]
@[simp] theorem drainStale_mem (s : State) (core : Nat) (x : EngPart) : (drainStale s core x).mem = s.mem := by simp
    [drainStale]
@[simp] theorem drainSend_mem (s : State) (core : Nat) (tag : Nat) (add : Bool) (a4 : List (List EngPart)) :
    (drainSend s core tag add a4).1.mem = s.mem := by
  fun_induction drainSend s core tag add a4 <;> simp_all
@[simp] theorem drawn_mem (rm : BitVec 3) (s t : State) : (drawn rm s t).mem = t.mem := by
  unfold drawn; split <;> rfl
@[simp] theorem modLaunch_mem (s : State) (c : Nat) (id : Nat) (f : Launch → Launch) : (modLaunch s c id f).mem =
    s.mem := (rfl)
@[simp] theorem dropLaunch_mem (s : State) (c : Nat) (id : Nat) : (dropLaunch s c id).mem = s.mem := (rfl)
@[simp] theorem dropHeld_mem (s : State) (w : Nat) (id : Nat) : (dropHeld s w id).mem = s.mem := by
  unfold dropHeld; dsimp only
  (repeat' split) <;> simp
@[simp] theorem dropWalk_mem (s : State) (core : Nat) (x : FfWalk) : (dropWalk s core x).mem = s.mem := (rfl)
@[simp] theorem endAccs_mem (s : State) (w : Nat) : (endAccs s w).mem = s.mem := by
  unfold endAccs
  exact foldl_mem (by intro t x; (repeat' split) <;> simp) _ _
@[simp] theorem endGroup_mem (s : State) (g : Nat) : (endGroup s g).mem = s.mem := by simp [endGroup]
@[simp] theorem endIfOver_mem (a0 : Nat) (a1 : State) (a2 : Nat) : (endIfOver a0 a1 a2).mem = a1.mem := by
  induction a0 generalizing a1 a2 with
  | zero => rfl
  | succ n ih =>
    rw [endIfOver]; dsimp only
    (repeat' split) <;> simp [ih]
@[simp] theorem endWait_mem (s : State) (x : Waiter) : (endWait s x).mem = s.mem := (rfl)
@[simp] theorem grant_mem (s : State) (w : Nat) (k : Nat) (m : Lanes) : (grant s w k m).mem = s.mem := (rfl)
@[simp] theorem serveQueue_mem (g : Nat) (q : Nat) (a2 : Nat) (a3 : State) : (serveQueue g q a2 a3).mem = a3.mem := by
  induction a2 generalizing a3 with
  | zero => rfl
  | succ n ih =>
    rw [serveQueue]
    (repeat' split) <;> simp [ih]
@[simp] theorem toPool_mem (s : State) (g : Nat) (q : Nat) (k : Nat) : (toPool s g q k).mem = s.mem := by simp
    [toPool]
@[simp] theorem endWave_mem (s : State) (w : Nat) : (endWave s w).mem = s.mem := by simp [endWave]
@[simp] theorem energyFill_mem (s : State) : (energyFill s).mem = s.mem := by simp [energyFill]
@[simp] theorem enterBypass_mem (s : State) (g : Nat) : (enterBypass s g).mem = s.mem := by simp [enterBypass]
@[simp] theorem formTask_mem (s : State) (k : Nat) (c : Nat) (e : Nat) : (formTask s k c e).mem = s.mem := by
  unfold formTask; grind [fresh_mem, modCx_mem]
@[simp] theorem enterHive_mem (s : State) (k : Nat) (t : Task) : (enterHive s k t).mem = s.mem := by simp [enterHive]
@[simp] theorem sendRecs_mem (s : State) (rs : List BinRec) : (sendRecs s rs).mem = s.mem := by simp [sendRecs]
@[simp] theorem execHitbin_startHits_mem (s : State) (w : Nat) (id : Nat) (m : Lanes) : (execHitbin.startHits s w id
    m).mem = s.mem := by simp [execHitbin.startHits]
@[simp] theorem execRast_startRast_mem (s : State) (w : Nat) (id : Nat) (m : Lanes) : (execRast.startRast s w id
    m).mem = s.mem := by simp [execRast.startRast]
@[simp] theorem execRflush_startRflush_mem (s : State) (w : Nat) (id : Nat) : (execRflush.startRflush s w id).mem =
    s.mem := by
  unfold execRflush.startRflush; grind [fresh_mem, failAll_mem]
@[simp] theorem exitLanes_mem (s : State) (w : Nat) (m : Lanes) : (exitLanes s w m).mem = s.mem := by simp [exitLanes]
@[simp] theorem fetchCopy_mem (s : State) (c : Copy) : (fetchCopy s c).mem = s.mem := by
  unfold fetchCopy; grind [copyFault_mem, putCopy_mem]
@[simp] theorem fillDist_mem (s : State) (a : Acc) (line : Nat) : (fillDist s a line).mem = s.mem := by simp
    [fillDist]
@[simp] theorem park_mem (s : State) (line : Nat) (m : Msg) (n : Need) : (park s line m n).mem = s.mem := (rfl)
@[simp] theorem fillFor_mem (s : State) (msg : Msg) (line : Nat) (m : BitVec 128) : ∀ t, fillFor s msg line m = some
    t → t.mem = s.mem := by
  unfold fillFor
  (repeat' split) <;> simp
@[simp] theorem flushLine_mem (id : Nat) (s : State) (l : Nat) : (flushLine id s l).mem = s.mem := by simp [flushLine]
@[simp] theorem flushOver_mem (s : State) (id : Nat) : (flushOver s id).mem = s.mem := by
  unfold flushOver; grind [completeOp_mem, modCx_mem]
@[simp] theorem flushStack_mem (s : State) (k : Nat) (id : Nat) : (flushStack s k id).mem = s.mem := by simp
    [flushStack]
@[simp] theorem forgetFar_mem (s : State) (id : Nat) : (forgetFar s id).mem = s.mem := (rfl)
@[simp] theorem hostFor_mem (s : State) (msg : Msg) (line : Nat) (own : Bool) (fill : Bool) : ∀ t, hostFor s msg line
    own fill = some t → t.mem = s.mem := by
  unfold hostFor; dsimp only
  (repeat' split) <;> simp
@[simp] theorem shareRing_mem (s : State) (base : Nat) (size : Nat) (k : Nat) : (shareRing s base size k).mem = s.mem
    := by simp [shareRing]
@[simp] theorem hpTake_mem (s : State) (r : MsReq) : (hpTake s r).1.mem = s.mem := by
  unfold hpTake; dsimp only
  (repeat' split) <;> simp
@[simp] theorem setRes_mem (s : State) (src : Nat) (r : Nat) : (setRes s src r).mem = s.mem := (rfl)
@[simp] theorem hsemRelease_mem (s : State) (src : Nat) : (hsemRelease s src).mem = s.mem := by simp [hsemRelease]
@[simp] theorem hsemTake_mem (s : State) (src : Nat) (lease : Nat) : (hsemTake s src lease).mem = s.mem := by simp
    [hsemTake]
@[simp] theorem imagoCopies_mem (s : State) (a : Acc) (a2 : Nat) (st : Nat) (g : Nat) (v : Nat) : (imagoCopies s a a2
    st g v).mem = s.mem := by simp [imagoCopies]
@[simp] theorem imagoDeliver_mem (s : State) (a : Acc) (val : Nat) : (imagoDeliver s a val).mem = s.mem := by
  unfold imagoDeliver; grind [addResultIn_mem, selfInvalidate_mem, dropAcc_mem, imagoCopies_mem, modWv_mem]
@[simp] theorem inSlotOrder_mem (i : Instr) (sp : Spec) (bad : Bool) (busy : Bool) (full : Bool) (s : State) :
    (inSlotOrder i sp bad busy full s).mem = s.mem := by simp [inSlotOrder]
@[simp] theorem installFill_mem (s : State) (a : Acc) (v : Nat) : (installFill s a v).mem = s.mem := by
  unfold installFill
  (repeat' split) <;> simp
@[simp] theorem issuedWith_mem (i : Instr) (ws : Writes) (s : State) : (issuedWith i ws s).mem = s.mem := by simp
    [issuedWith]
@[simp] theorem l1Fill_mem (s : State) (c : Nat) (pa : Nat) (path : LinePath) (d : Nat) : (l1Fill s c pa path d).mem
    = s.mem := by simp [l1Fill]
@[simp] theorem leaseTick_mem (s : State) : (leaseTick s).mem = s.mem := by simp [leaseTick]
@[simp] theorem leaveBypass_mem (s : State) (g : Nat) : (leaveBypass s g).mem = s.mem := by simp [leaveBypass]
@[simp] theorem linked_mem (s : State) (m : Lanes) (ws : Writes) (t : State) : (linked s m ws t).mem = t.mem := by
  unfold linked; split <;> simp
@[simp] theorem loadBack_mem (s : State) (a : Acc) (v : Nat) : (loadBack s a v).mem = s.mem := by simp [loadBack]
@[simp] theorem matDone_mem (s : State) (p : Nat) (m : MatOp) : (matDone s p m).mem = s.mem := (rfl)
@[simp] theorem setPairTile_mem (s : State) (core : Nat) (t : Nat) (w : Nat) (f : Nat → Nat → Nat) : (setPairTile s
    core t w f).mem = s.mem := (rfl)
@[simp] theorem multiply_mem (s : State) (core : Nat) (t : Nat) (n : Nat) (k : Nat) (a : List (List (List Val))) (b :
    List (List Val)) : (multiply s core t n k a b).mem = s.mem := (rfl)
@[simp] theorem noteFerr_mem (s : State) (w : Nat) (e : Bool) : (noteFerr s w e).mem = s.mem := by simp [noteFerr]
@[simp] theorem matMultiply_mem (s : State) (p : Nat) (m : MatOp) (shape : Nat) (xs : List Nat) : (matMultiply s p m
    shape xs).mem = s.mem := by
  unfold matMultiply
  (repeat' split) <;> simp
@[simp] theorem matTileOp_mem (s : State) (p : Nat) (m : MatOp) : (matTileOp s p m).mem = s.mem := by
  unfold matTileOp
  (repeat' split) <;> simp
@[simp] theorem skipHelpers_mem (s : State) (w : Nat) (id : Nat) (m : Lanes) : (skipHelpers s w id m).mem = s.mem :=
    by
  unfold skipHelpers
  (repeat' split) <;> simp
@[simp] theorem memIssued_mem (i : Instr) (s : State) : (memIssued i s).mem = s.mem := by simp [memIssued]
@[simp] theorem moveCopies_mem (s : State) (p : Nat) (g : Nat) : (moveCopies s p g).mem = s.mem := by simp
    [moveCopies]
@[simp] theorem nodeFault_mem (s : State) (core : Nat) (x : FfWalk) (a : Nat) : (nodeFault s core x a).mem = s.mem :=
    by
  unfold nodeFault; grind [dropWalk_mem, writeRecord_mem, failLanes_mem]
@[simp] theorem noteWakes_mem (s : State) : (noteWakes s).mem = s.mem := by simp [noteWakes]
@[simp] theorem openTurn_mem (s : State) : (openTurn s).mem = s.mem := by
  unfold openTurn; grind
@[simp] theorem orStall_mem (s t : State) (h : t.mem = s.mem) : (orStall s t).mem = s.mem := by
  unfold orStall; split <;> simp [h, orWait_mem]
@[simp] theorem parkBehind_mem (s : State) (m : Msg) : (parkBehind s m).mem = s.mem := (rfl)
@[simp] theorem parkWalk_mem (s : State) (g : Group) (x : FfWalk) : (parkWalk s g x).mem = s.mem := by simp [parkWalk]
@[simp] theorem recallFrom_mem (s : State) (line : Nat) (kind : Nat) (cs : List (Nat × BitVec 32)) : (recallFrom s
    line kind cs).mem = s.mem := by simp [recallFrom]
@[simp] theorem recallFor_mem (s : State) (msg : Msg) (line : Nat) (m : BitVec 128) (but : Option Nat) (load : Bool)
    : ∀ t, recallFor s msg line m but load = some t → t.mem = s.mem := by
  unfold recallFor
  (repeat' split) <;> simp
@[simp] theorem partWaits_mem (msg : Msg) (add : Bool) (s : State) (x : EngPart) : ∀ t, partWaits msg add s x = some
    t → t.mem = s.mem := by
  intro t ht; unfold partWaits at ht; dsimp only at ht
  obtain ⟨u, hu, rfl⟩ := Option.map_eq_some_iff.1 ht
  show u.mem = s.mem
  rcases Option.or_eq_some_iff.1 hu with hu | ⟨_, hu⟩
  · exact hostFor_mem _ _ _ _ _ _ hu
  · rcases Option.or_eq_some_iff.1 hu with hu | ⟨_, hu⟩
    · split at hu
      · exact fillFor_mem _ _ _ _ _ hu
      · cases hu
    · exact recallFor_mem _ _ _ _ _ _ _ hu
@[simp] theorem pcieAnswer_mem (s : State) (a : Acc) (v : Nat) : (pcieAnswer s a v).mem = s.mem := by
  unfold pcieAnswer
  (repeat' split) <;> simp
@[simp] theorem pcieEngine_mem (s : State) (req : Nat) : (pcieEngine s req).mem = s.mem := by
  unfold pcieEngine
  (repeat' split) <;> simp
@[simp] theorem pieceAcked_mem (s : State) (c : Copy) : (pieceAcked s c).mem = s.mem := by simp [pieceAcked]
@[simp] theorem topUp_mem (p : Nat) (lo : Nat) (a2 : Nat) (a3 : State) : (topUp p lo a2 a3).mem = a3.mem := by
  induction a2 generalizing a3 with
  | zero => rfl
  | succ n ih =>
    rw [topUp]
    (repeat' split) <;> simp [ih]
@[simp] theorem takeBanks_mem (s : State) (p : Nat) (g : Nat) (k : Kernel) (b0 : Nat) : (takeBanks s p g k b0).mem =
    s.mem := by simp [takeBanks]
@[simp] theorem restoreAlloc_mem (s : State) (p : Nat) (g : Nat) (x : Saved) (f : Fit) : (restoreAlloc s p g x f).mem
    = s.mem := by simp [restoreAlloc]
@[simp] theorem startLane_mem (w : Nat) (id : Nat) (s : State) (l : Nat) : (startLane w id s l).mem = s.mem := by
  unfold startLane; grind [beginWalk_mem, failLanes_mem]
@[simp] theorem reloadWalk_mem (w : Nat) (s : State) (x : Nat × Nat × Bool × Bool) : (reloadWalk w s x).mem = s.mem
    := by
  unfold reloadWalk; grind [failLanes_mem, beginWalk_mem, startLane_mem]
@[simp] theorem placeWaves_mem (l : Launch) (k : Kernel) (g : Nat) (a3 : List Nat) (a4 : Nat) (a5 : State) :
    (placeWaves l k g a3 a4 a5).1.mem = a5.mem := by
  induction a3 generalizing a5 a4 with
  | nil => rfl
  | cons x r ih => rw [placeWaves]; dsimp only; split <;> simp [ih]
@[simp] theorem startGroup_mem (s : State) (p : Nat) (l : Launch) (k : Kernel) (st : Nat) (lin : Nat) (up : Nat)
    (prio : Nat) (f : Fit) : (startGroup s p l k st lin up prio f).mem = s.mem := by simp [startGroup]
@[simp] theorem privAtomicBack_mem (s : State) (a : Acc) (v : Nat) : (privAtomicBack s a v).mem = s.mem := by simp
    [privAtomicBack]
@[simp] theorem pubAgain_mem (s : State) (p : PubOp) : (pubAgain s p).mem = s.mem := by simp [pubAgain]
@[simp] theorem pubSwapPage_mem (s : State) (p : Nat × Nat) : (pubSwapPage s p).mem = s.mem := (rfl)
@[simp] theorem putFlush_mem (s : State) (f : Flush) : (putFlush s f).mem = s.mem := (rfl)
@[simp] theorem putSaved_mem (s : State) (c : Nat) (x : Saved) : (putSaved s c x).mem = s.mem := (rfl)
@[simp] theorem putWalk_mem (s : State) (core : Nat) (x : FfWalk) : (putWalk s core x).mem = s.mem := (rfl)
@[simp] theorem queueMat_mem (s : State) (w : Nat) (id : Nat) (i : Instr) (args : List Nat) : (queueMat s w id i
    args).mem = s.mem := (rfl)
@[simp] theorem replyAt_mem (s : State) (core : Nat) (line : Nat) (ws : BitVec 32) (keep : Bool) (merge : Bool) :
    (replyAt s core line ws keep merge).mem = s.mem := by simp [replyAt]
@[simp] theorem shareFrame_mem (s : State) (c : Nat) (f : Nat) : (shareFrame s c f).mem = s.mem := (rfl)
@[simp] theorem reclassify_mem (s : State) (r : Recall) : (reclassify s r).mem = s.mem := by simp [reclassify]
@[simp] theorem relComplete_mem (s : State) (a : Acc) : (relComplete s a).mem = s.mem := by
  unfold relComplete
  (repeat' split) <;> simp
@[simp] theorem releaseRef_mem (s : State) (pa : Nat) (w : Nat) : (releaseRef s pa w).mem = s.mem := by simp
    [releaseRef]
@[simp] theorem startKick_mem (s : State) (w : Nat) (id : Nat) : (startKick s w id).mem = s.mem := by
  unfold startKick; dsimp only
  (repeat' split) <;> simp
@[simp] theorem resumeKick_mem (s : State) (w : Nat) (id : Nat) : (resumeKick s w id).mem = s.mem := by simp
    [resumeKick]
@[simp] theorem resumeMat_mem (s : State) (w : Nat) (id : Nat) (same : Bool) : (resumeMat s w id same).mem = s.mem :=
    by
  unfold resumeMat; grind [failAll_mem, modWv_mem, modPr_mem]
@[simp] theorem resumeWalks_mem (s : State) (w : Nat) (id : Nat) (m : Lanes) (words : List (List Word)) :
    (resumeWalks s w id m words).mem = s.mem := by
  unfold resumeWalks
  (repeat' split) <;> simp
@[simp] theorem replayHeld_mem (s : State) (w : Nat) (id : Nat) (e : Entry) : (replayHeld s w id e).mem = s.mem := by
  unfold replayHeld
  (repeat' split) <;> simp
@[simp] theorem resumeRast_mem (s : State) (w : Nat) (id : Nat) (m : Lanes) : (resumeRast s w id m).mem = s.mem := by
  unfold resumeRast; dsimp only
  split
  · rfl
  · rw [foldl_mem (by intro t x; (repeat' split) <;> simp)]; simp
@[simp] theorem startBank_mem (s : State) (w : Nat) (id : Nat) (m : Lanes) : (startBank s w id m).mem = s.mem := by
  unfold startBank; dsimp only
  (repeat' split) <;> simp
@[simp] theorem startFence_mem (s : State) (w : Nat) (id : Nat) : (startFence s w id).mem = s.mem := by
  unfold startFence; grind [newAcc_mem, putAcc_mem, dafPush_mem]
@[simp] theorem startFlushRange_mem (s : State) (w : Nat) (id : Nat) : (startFlushRange s w id).mem = s.mem := by
  unfold startFlushRange; dsimp only
  (repeat' split) <;> simp
@[simp] theorem startLaunch_mem (s : State) (w : Nat) (id : Nat) : (startLaunch s w id).mem = s.mem := by
  unfold startLaunch; grind [failAll_mem, modCx_mem]
@[simp] theorem startPgload_mem (s : State) (w : Nat) (k : Nat) (id : Nat) : (startPgload s w k id).mem = s.mem :=
    (rfl)
@[simp] theorem rerouteAll_mem (s : State) : (rerouteAll s).mem = s.mem := by simp [rerouteAll]
@[simp] theorem retireGroups_mem (s : State) (gs : List Nat) : (retireGroups s gs).mem = s.mem := by simp
    [retireGroups]
@[simp] theorem retireReport_mem (s : State) (c : Nat) (core : Nat) : (retireReport s c core).mem = s.mem := by simp
    [retireReport]
@[simp] theorem retireSlices_mem (s : State) (core : Nat) : (retireSlices s core).mem = s.mem := by simp
    [retireSlices]
@[simp] theorem saveGroup_mem (s : State) (g : Nat) : (saveGroup s g).mem = s.mem := by simp [saveGroup]
@[simp] theorem sbankApply_mem (s : State) (gid : Nat) (g : Group) (k : Nat) (new : BankMode) : (sbankApply s gid g k
    new).mem = s.mem := by simp [sbankApply]
@[simp] theorem sectorError_mem (s : State) (sec : Nat) (level : Nat) : (sectorError s sec level).mem = s.mem := by
  unfold sectorError
  (repeat' split) <;> simp
@[simp] theorem sendEng_mem (s : State) (d : Nat) (id : Nat) (add : Bool) (x : EngPart) : (sendEng s d id add x).mem
    = s.mem := by simp [sendEng]
@[simp] theorem sendOut_mem (s : State) (d : Nat) (id : Nat) (e : DafEntry) : (sendOut s d id e).mem = s.mem := by
  unfold sendOut
  (repeat' split) <;> simp
@[simp] theorem sendHead_mem (s : State) (core : Nat) (e : DafEntry) (r : List DafEntry) : (sendHead s core e r).mem
    = s.mem := by
  unfold sendHead; grind [fresh_mem, sendOut_mem, modCr_mem]
@[simp] theorem serveLoad_mem (s : State) (msg : Msg) (a : Acc) : (serveLoad s msg a).mem = s.mem := by
  unfold serveLoad; grind [fillDist_mem, fillFor_mem, hostFor_mem, performLoad_mem, recallFor_mem, regTouch_mem]
@[simp] theorem setPcs_mem (s : State) (w : Nat) (m : Lanes) (f : Nat → Nat) : (setPcs s w m f).mem = s.mem := (rfl)
@[simp] theorem settled_mem (s : State) : (settled s).mem = s.mem := by simp [settled]
@[simp] theorem stopQueue_mem (s : State) (q : Nat) (err : Nat) (fcode : Nat) : (stopQueue s q err fcode).mem = s.mem
    := (rfl)
@[simp] theorem tagError_mem (s : State) (_k : Nat) : (tagError s _k).mem = s.mem := by simp [tagError]
@[simp] theorem takeBaton_mem (s : State) (p : Nat) (u : Nat) : (takeBaton s p u).mem = s.mem := (rfl)
@[simp] theorem takeRequest_mem (s : State) (id : Nat) : (takeRequest s id).1.mem = s.mem := by
  unfold takeRequest; dsimp only
  (repeat' split) <;> simp
@[simp] theorem takeWriteback_mem (s : State) (id : Nat) : (takeWriteback s id).1.mem = s.mem := by
  unfold takeWriteback; dsimp only
  (repeat' split) <;> simp
@[simp] theorem tickWave_mem (s : State) (now : Nat) (w : Nat) : (tickWave s now w).mem = s.mem := by simp [tickWave]
@[simp] theorem tileError_mem (s : State) (c : Nat) (t : Nat) : (tileError s c t).mem = s.mem := by simp [tileError]
@[simp] theorem tmFinish_mem (s : State) (p : Nat) : (tmFinish s p).mem = s.mem := (rfl)
@[simp] theorem valueBack_mem (s : State) (a : Acc) (v : Nat) : (valueBack s a v).mem = s.mem := by
  unfold valueBack
  (repeat' split) <;> simp
@[simp] theorem waddrReturn_mem (s : State) (x : Waiter) : (waddrReturn s x).mem = s.mem := by
  unfold waddrReturn; grind [selfInvalidate_mem, endWait_mem, addResult_mem]
@[simp] theorem whenDue_mem (i : Instr) (s : State) (f : State → State) (h : ∀ t, (f t).mem = t.mem) : (whenDue i s
    f).mem = s.mem := by
  unfold whenDue; split <;> simp [h]
@[simp] theorem whenUp_mem (s : State) (f : State → State) (h : ∀ t, (f t).mem = t.mem) : (whenUp s f).mem = s.mem :=
    by
  unfold whenUp
  (repeat' split) <;> simp_all

end Sys2Proof.Machine
end

