-- ==== Sys2Proof/Laws/MemoryForm.lean ====
section
/-! SUPPORT. The operations that may store to memory keep its canonical form: `f_memOk` says that a canonical memory is
canonical after `f`, and `f_memOk_of` says it of the state a named answer of `f` holds (for a `match` on that
answer). -/

namespace Sys2Proof.Machine
open Sys2Proof.Machine.State

theorem foldl_memOk {β : Type} {f : State → β → State} (h : ∀ s x, memWf s.mem = true → memWf (f s x).mem = true) : ∀
    (l : List β) (s : State), memWf s.mem = true → memWf (l.foldl f s).mem = true
  | [], _, hs => hs
  | x :: r, s, hs => by rw [List.foldl_cons]; exact foldl_memOk h r _ (h s x hs)
theorem foldl_memOk_fst {β γ : Type} {f : State × γ → β → State × γ} (h : ∀ s x, memWf s.1.mem = true → memWf (f s
    x).1.mem = true) : ∀ (l : List β) (s : State × γ), memWf s.1.mem = true → memWf (l.foldl f s).1.mem = true
  | [], _, hs => hs
  | x :: r, s, hs => by rw [List.foldl_cons]; exact foldl_memOk_fst h r _ (h s x hs)
theorem ite_memOk {c : Prop} [Decidable c] {a b : State} (ha : memWf a.mem = true) (hb : memWf b.mem = true) :
    memWf (if c then a else b).mem = true := by split <;> assumption
@[simp] theorem orWait_memOk {s t : State} (hs : memWf s.mem = true) (ht : memWf t.mem = true) : memWf (orWait s
    t).mem = true := by
  unfold orWait; split <;> simp [hs, ht]
@[simp] theorem orStall_memOk {s t : State} (hs : memWf s.mem = true) (ht : memWf t.mem = true) : memWf (orStall s
    t).mem = true := by
  unfold orStall; split <;> simp [ht, orWait_memOk hs ht]
@[simp] theorem whenDue_memOk {i : Instr} {s : State} {f : State → State} (h : memWf s.mem = true)
    (hf : ∀ t, memWf t.mem = true → memWf (f t).mem = true) : memWf (whenDue i s f).mem = true := by
  unfold whenDue; split
  · exact hf _ h
  · exact h
@[simp] theorem whenUp_memOk {s : State} {f : State → State} (h : memWf s.mem = true)
    (hf : ∀ t, memWf t.mem = true → memWf (f t).mem = true) : memWf (whenUp s f).mem = true := by
  unfold whenUp; split
  · exact hf _ h
  · exact h
theorem tmCommand_memOk {s : State} {p op : Nat} {f : State → State} (h : memWf s.mem = true)
    (hf : ∀ t, memWf t.mem = true → memWf (f t).mem = true) : memWf (tmCommand s p op f).mem = true := by
  unfold tmCommand; split
  · exact hf _ h
  · simp [h]
theorem aheadOf_memOk {s : State} {c ctx va : Nat} {x : Bool} {fill : State → Nat → Nat → LinePath → State} (h :
    memWf s.mem = true)
    (hf : ∀ t a b p, memWf t.mem = true → memWf (fill t a b p).mem = true) : memWf (aheadOf s c ctx va x fill).mem =
        true := by
  unfold aheadOf; dsimp only
  (repeat' split) <;> first | exact h | exact hf _ _ _ _ (by simpa using h)
theorem fresh_mem_of (s : State) {tt : State} {aa : Nat} (hh : fresh s = (aa, tt)) : tt.mem = s.mem := by
  have := fresh_mem s; simpa only [hh] using this
theorem draw_mem_of (s : State) {tt : State} {aa : Nat} (hh : draw s = (aa, tt)) : tt.mem = s.mem := by
  have := draw_mem s; simpa only [hh] using this
theorem tlbPut_mem_of (s : State) (t : List TlbEntry) (sets : Nat) (ways : Nat) (e : TlbEntry) {tt : State} {aa :
    List TlbEntry} (hh : tlbPut s t sets ways e = (tt, aa)) : tt.mem = s.mem := by
  have := tlbPut_mem s t sets ways e; simpa only [hh] using this
theorem peerAnswer_mem_of (s : State) (cls : AccClass) (pa : Nat) (lvl : Nat) (va : Nat) {tt : State} {aa : Option
    EngFault} (hh : peerAnswer s cls pa lvl va = (tt, aa)) : tt.mem = s.mem := by
  have := peerAnswer_mem s cls pa lvl va; simpa only [hh] using this
theorem readLine_mem_of (s : State) (pa : Nat) (n : Nat) {tt : State} {aa : Nat} (hh : readLine s pa n = (tt, aa)) :
    tt.mem = s.mem := by
  have := readLine_mem s pa n; simpa only [hh] using this
theorem readLines_mem_of (a0 : Nat) (a1 : Nat) (a2 : Nat) (a3 : State) {tt : State} {aa : Nat} (hh : readLines a0 a1
    a2 a3 = (tt, aa)) : tt.mem = a3.mem := by
  have := readLines_mem a0 a1 a2 a3; simpa only [hh] using this
theorem joinTwins_mem_of (s : State) (a : Acc) {tt : State} {aa : Acc} (hh : joinTwins s a = (tt, aa)) : tt.mem =
    s.mem := by
  have := joinTwins_mem s a; simpa only [hh] using this
theorem l1Way_mem_of (s : State) (c : Nat) (line : Nat) {tt : State} {aa : Nat} (hh : l1Way s c line = (tt, aa)) :
    tt.mem = s.mem := by
  have := l1Way_mem s c line; simpa only [hh] using this
theorem l1Line_mem_of (s : State) (c : Nat) (line : Nat) (path : LinePath) {tt : State} {aa : L1Line} (hh : l1Line s
    c line path = (tt, aa)) : tt.mem = s.mem := by
  have := l1Line_mem s c line path; simpa only [hh] using this
theorem openOp_mem_of (i : Instr) (sp : Spec) (m : Lanes) (parts : Nat) (words : List (List Word)) (s : State) {tt :
    State} {aa : Nat} (hh : openOp i sp m parts words s = (aa, tt)) : tt.mem = s.mem := by
  have := openOp_mem i sp m parts words s; simpa only [hh] using this
theorem codeWord_mem_of (s : State) (pa : Nat) (w : Nat) {tt : State} {aa : Nat} (hh : codeWord s pa w = (tt, aa)) :
    tt.mem = s.mem := by
  have := codeWord_mem s pa w; simpa only [hh] using this
theorem newAcc_mem_of (s : State) (w : Nat) (o : Opr) (lanes : Lanes) (parts : List (Nat × Nat)) (n : Nat) (va : Nat)
    (mask : BitVec 32) (cls : AccClass) (act : Act) {tt : State} {aa : Acc} (hh : newAcc s w o lanes parts n va mask
    cls act = (tt, aa)) : tt.mem = s.mem := by
  have := newAcc_mem s w o lanes parts n va mask cls act; simpa only [hh] using this
theorem badAccs_mem_of (w : Nat) (o : Opr) (n : Nat) (cls : AccClass) (act : Act) (a5 : List (Lanes × Nat)) (a6 :
    State) {tt : State} {aa : List Acc} (hh : badAccs w o n cls act a5 a6 = (tt, aa)) : tt.mem = a6.mem := by
  have := badAccs_mem w o n cls act a5 a6; simpa only [hh] using this
theorem listAccs_mem_of (w : Nat) (o : Opr) (n : Nat) (cls : AccClass) (a4 : List (Lanes × Nat × Act)) (a5 : State)
    {tt : State} {aa : List Acc} (hh : listAccs w o n cls a4 a5 = (tt, aa)) : tt.mem = a5.mem := by
  have := listAccs_mem w o n cls a4 a5; simpa only [hh] using this
theorem sectorAccs_mem_of (w : Nat) (o : Opr) (n : Nat) (cls : AccClass) (data : Option (Nat → Nat)) (ps : List (Nat
    × Nat)) (a6 : List Nat) (a7 : State) {tt : State} {aa : List Acc} (hh : sectorAccs w o n cls data ps a6 a7 = (tt,
    aa)) : tt.mem = a7.mem := by
  have := sectorAccs_mem w o n cls data ps a6 a7; simpa only [hh] using this
theorem creditApply_mem_of (s : State) (c : Copy) (n : Nat) {tt : State} {aa : Option (Nat × Nat)} (hh : creditApply
    s c n = (tt, aa)) : tt.mem = s.mem := by
  have := creditApply_mem s c n; simpa only [hh] using this
theorem nextPiece_mem_of (s : State) (c : Copy) {tt : State} {aa : Nat} (hh : nextPiece s c = (tt, aa)) : tt.mem =
    s.mem := by
  have := nextPiece_mem s c; simpa only [hh] using this
theorem copyRoom_mem_of (s : State) (c : Nat) (line : Nat) {tt : State} {aa : Nat} (hh : copyRoom s c line = (tt,
    aa)) : tt.mem = s.mem := by
  have := copyRoom_mem s c line; simpa only [hh] using this
theorem drainScr_mem_of (s : State) (g : Group) (add : Bool) (x : Nat × Nat × Nat) {tt : State} {aa : Except EngFault
    Unit} (hh : drainScr s g add x = (tt, aa)) : tt.mem = s.mem := by
  have := drainScr_mem s g add x; simpa only [hh] using this
theorem drainBanks_mem_of (s : State) (g : Group) (add : Bool) (a3 : List (Nat × Nat × Nat)) {tt : State} {aa : List
    (Nat × Nat × Nat) × Option EngFault} (hh : drainBanks s g add a3 = (tt, aa)) : tt.mem = s.mem := by
  have := drainBanks_mem s g add a3; simpa only [hh] using this
theorem drainSend_mem_of (s : State) (core : Nat) (tag : Nat) (add : Bool) (a4 : List (List EngPart)) {tt : State}
    {aa : List EngPart} (hh : drainSend s core tag add a4 = (tt, aa)) : tt.mem = s.mem := by
  have := drainSend_mem s core tag add a4; simpa only [hh] using this
theorem hpTake_mem_of (s : State) (r : MsReq) {tt : State} {aa : MsReq} (hh : hpTake s r = (tt, aa)) : tt.mem = s.mem
    := by
  have := hpTake_mem s r; simpa only [hh] using this
theorem placeWaves_mem_of (l : Launch) (k : Kernel) (g : Nat) (a3 : List Nat) (a4 : Nat) (a5 : State) {tt : State}
    {aa : List Nat} (hh : placeWaves l k g a3 a4 a5 = (tt, aa)) : tt.mem = a5.mem := by
  have := placeWaves_mem l k g a3 a4 a5; simpa only [hh] using this
theorem takeRequest_mem_of (s : State) (id : Nat) {tt : State} {aa : Option Msg} (hh : takeRequest s id = (tt, aa)) :
    tt.mem = s.mem := by
  have := takeRequest_mem s id; simpa only [hh] using this
theorem takeWriteback_mem_of (s : State) (id : Nat) {tt : State} {aa : Option Msg} (hh : takeWriteback s id = (tt,
    aa)) : tt.mem = s.mem := by
  have := takeWriteback_mem s id; simpa only [hh] using this
@[simp] theorem setHomeByte_memOk (s : State) (pa : Nat) (b : Byte) (h : memWf s.mem = true) : memWf (setHomeByte s
    pa b).mem = true := by
  unfold setHomeByte
  (repeat' split) <;> simp [h]
@[simp] theorem homeLine_memOk (s : State) (line : Nat) (m : BitVec 128) (d : BitVec 1024) (h : memWf s.mem = true) :
    memWf (homeLine s line m d).mem = true := by
  unfold homeLine
  exact foldl_memOk (by intro t x ht; (repeat' split) <;> simp [ht]) _ _ h
@[simp] theorem bringCopy_memOk (line : Nat) (held : BitVec 32) (x : Option L1Line) (a : State × BitVec 128) (h :
    memWf a.1.mem = true) : memWf (bringCopy line held x a).1.mem = true := by
  unfold bringCopy
  split <;> simp [h]
@[simp] theorem bringEntry_memOk (line : Nat) (k : BitVec 128) (a : State × BitVec 128) (e : DafEntry) (h : memWf
    a.1.mem = true) : memWf (bringEntry line k a e).1.mem = true := by
  unfold bringEntry
  (repeat' split) <;> simp [h]
@[simp] theorem pull_memOk (line : Nat) (take : Bool) (a : State × BitVec 128) (cw : Nat × BitVec 32) (h : memWf
    a.1.mem = true) : memWf (pull line take a cw).1.mem = true := by
  have hf : ∀ (l : List Msg) (b : State × BitVec 128), memWf b.1.mem = true →
      memWf (l.foldl (onEntry cw.1 (bringEntry line (maskOfWords cw.2))) b).1.mem = true :=
    fun l b hb => foldl_memOk_fst (fun b m hb => by unfold onEntry; (repeat' split) <;> simp [hb]) l b hb
  have hg : ∀ (l : List DafEntry) (b : State × BitVec 128), memWf b.1.mem = true →
      memWf (l.foldl (bringEntry line (maskOfWords cw.2)) b).1.mem = true :=
    fun l b hb => foldl_memOk_fst (fun b m hb => by simp [hb]) l b hb
  unfold pull; dsimp only
  split
  · simp [h]
  · simp only [modCr_mem]
    split
    · simp only [stopFills_mem, spendSent_mem]
      exact bringCopy_memOk _ _ _ _ (hg _ _ (hf _ _ (hf _ _ h)))
    · simp only [spendSent_mem]
      exact bringCopy_memOk _ _ _ _ (hg _ _ (hf _ _ (hf _ _ h)))
@[simp] theorem gather_memOk (s : State) (line : Nat) (m : BitVec 128) (take : Bool) (h : memWf s.mem = true) : memWf
    (gather s line m take).1.mem = true := by
  have hf : ∀ t b l (x : State), memWf x.mem = true → memWf (List.foldl (pull line b) (x, t) l).1.mem = true :=
    fun t b l x hx => foldl_memOk_fst (fun s y hs => pull_memOk _ _ _ _ hs) l (x, t) hx
  unfold gather; split
  · exact h
  · split
    · dsimp only
      (repeat' split) <;> simp only [regDrop_mem] <;> exact hf _ _ _ _ (by simpa using h)
    · split
      · simp only [regDrop_mem]; exact hf _ _ _ _ h
      · exact h
theorem gather_memOk_of (s : State) (line : Nat) (m : BitVec 128) (take : Bool) (h : memWf s.mem = true) {tt : State}
    {aa : BitVec 128} (hh : gather s line m take = (tt, aa)) : memWf tt.mem = true := by
  have := gather_memOk s line m take h; simpa only [hh] using this
@[simp] theorem l2Evict_memOk (s : State) (line : Nat) (h : memWf s.mem = true) : memWf (l2Evict s line).mem = true
    := by
  unfold l2Evict; dsimp only
  (repeat' split) <;> simp [h]
@[simp] theorem l2Room_memOk (s : State) (line : Nat) (h : memWf s.mem = true) : memWf (l2Room s line).mem = true :=
    by
  unfold l2Room; dsimp only
  (repeat' split) <;> simp [h]
@[simp] theorem l2Write_memOk (s : State) (line : Nat) (m : BitVec 128) (h : memWf s.mem = true) : memWf (l2Write s
    line m).mem = true := by
  unfold l2Write; dsimp only
  (repeat' split) <;> simp [h]
@[simp] theorem homePut_memOk (s : State) (line : Nat) (m : BitVec 128) (d : BitVec 1024) (h : memWf s.mem = true) :
    memWf (homePut s line m d).mem = true := by simp [homePut, h]
@[simp] theorem putEntry_memOk (line : Nat) (s : State) (e : DafEntry) (h : memWf s.mem = true) : memWf (putEntry
    line s e).mem = true := by
  unfold putEntry
  (repeat' split) <;> simp [h]
@[simp] theorem pullOwn_memOk (c : Nat) (line : Nat) (s : State) (h : memWf s.mem = true) : memWf (pullOwn c line
    s).mem = true := by
  have hf : ∀ (l : List Msg) (b : State), memWf b.mem = true → memWf (l.foldl (onEntry c (putEntry line)) b).mem =
      true :=
    fun l b hb => foldl_memOk (fun b m hb => by unfold onEntry; (repeat' split) <;> simp [hb]) l b hb
  have hg : ∀ (l : List DafEntry) (b : State), memWf b.mem = true → memWf (l.foldl (putEntry line) b).mem = true :=
    fun l b hb => foldl_memOk (fun b m hb => by simp [hb]) l b hb
  unfold pullOwn; dsimp only
  simp only [modCr_mem]
  split
  · exact homePut_memOk _ _ _ _ (hg _ _ (hf _ _ h))
  · exact hg _ _ (hf _ _ h)
@[simp] theorem ownHost_memOk (s : State) (line : Nat) (h : memWf s.mem = true) : memWf (ownHost s line).mem = true
    := by
  unfold ownHost; dsimp only
  (repeat' split) <;> simp [h]
@[simp] theorem settleLine_memOk (s : State) (line : Nat) (m : BitVec 128) (take : Bool) (h : memWf s.mem = true) :
    memWf (settleLine s line m take).mem = true := by simp [settleLine, h]
@[simp] theorem snoopHost_memOk (s : State) (line : Nat) (take : Bool) (h : memWf s.mem = true) : memWf (snoopHost s
    line take).mem = true := by
  unfold snoopHost
  dsimp only
  (repeat' split) <;> simp [h]
@[simp] theorem reach_memOk (s : State) (pa : Nat) (n : Nat) (take : Bool) (core : Nat) (h : memWf s.mem = true) :
    memWf (reach s pa n take core).mem = true := by
  unfold reach
  exact foldl_memOk (by intro t x ht; (repeat' split) <;> simp [ht]) _ _ h
@[simp] theorem putBytes_memOk (a0 : Nat) (a1 : Nat) (a2 : Nat) (a3 : Nat) (a4 : State) (h : memWf a4.mem = true) :
    memWf (putBytes a0 a1 a2 a3 a4).mem = true := by
  revert h
  fun_induction putBytes a0 a1 a2 a3 a4 <;> intro h <;> grind [homePut_memOk]
@[simp] theorem walkerReach_memOk (s : State) (c : Option Nat) (a : Nat) (n : Nat) (h : memWf s.mem = true) : memWf
    (walkerReach s c a n).mem = true := by
  unfold walkerReach; dsimp only
  (repeat' split) <;> simp [h]
@[simp] theorem setAD_memOk (s : State) (ptes : List Nat) (wr : Bool) (h : memWf s.mem = true) : memWf (setAD s ptes
    wr).mem = true := by
  unfold setAD
  dsimp only
  refine foldl_memOk (by intro t x ht; (repeat' split) <;> simp [ht]) _ _ ?_
  simp [h]
@[simp] theorem walkEntry_memOk (c : Option Nat) (asid : Nat) (va : Nat) (level : Nat) (t : Nat) (s : State) (h :
    memWf s.mem = true) : memWf (walkEntry c asid va level t s).1.mem = true := by
  unfold walkEntry; dsimp only
  (repeat' split) <;> simp [h]
theorem walkEntry_memOk_of (c : Option Nat) (asid : Nat) (va : Nat) (level : Nat) (t : Nat) (s : State) (h : memWf
    s.mem = true) {tt : State} {aa : Except WalkRes Nat} (hh : walkEntry c asid va level t s = (tt, aa)) : memWf
    tt.mem = true := by
  have := walkEntry_memOk c asid va level t s h; simpa only [hh] using this
@[simp] theorem walkFrom_memOk (c : Option Nat) (k : Option Nat) (asid : Nat) (va : Nat) (a4 : Nat) (a5 : Nat) (a6 :
    State) (h : memWf a6.mem = true) : memWf (walkFrom c k asid va a4 a5 a6).1.mem = true := by
  induction a4 generalizing a5 a6 with
  | zero =>
    simp only [walkFrom]; split <;> (rename_i hv; exact walkEntry_memOk_of (h := h) (hh := hv))
  | succ n ih =>
    simp only [walkFrom]; split
    · rename_i hv; exact walkEntry_memOk_of (h := h) (hh := hv)
    · rename_i hv; exact ih _ _ (by rw [walkKeep_mem]; exact walkEntry_memOk_of (h := h) (hh := hv))
theorem walkFrom_memOk_of (c : Option Nat) (k : Option Nat) (asid : Nat) (va : Nat) (a4 : Nat) (a5 : Nat) (a6 :
    State) (h : memWf a6.mem = true) {tt : State} {aa : WalkRes} (hh : walkFrom c k asid va a4 a5 a6 = (tt, aa)) :
    memWf tt.mem = true := by
  have := walkFrom_memOk c k asid va a4 a5 a6 h; simpa only [hh] using this
@[simp] theorem walkBy_memOk (s : State) (core : Option Nat) (k : Nat) (asid : Nat) (root : Nat) (va : Nat) (bad :
    State → TlbEntry → Option Nat) (h : memWf s.mem = true) : memWf (walkBy s core k asid root va bad).1.mem = true
    := by
  unfold walkBy; dsimp only
  (repeat' split) <;> simp [h]
theorem walkBy_memOk_of (s : State) (core : Option Nat) (k : Nat) (asid : Nat) (root : Nat) (va : Nat) (bad : State →
    TlbEntry → Option Nat) (h : memWf s.mem = true) {tt : State} {aa : WalkRes} (hh : walkBy s core k asid root va
    bad = (tt, aa)) : memWf tt.mem = true := by
  have := walkBy_memOk s core k asid root va bad h; simpa only [hh] using this
@[simp] theorem translateBy_memOk (s : State) (ag : Agent) (c : Nat) (cn : Nat) (wr : Bool) (va : Nat) (bad : State →
    TlbEntry → Option Nat) (h : memWf s.mem = true) : memWf (translateBy s ag c cn wr va bad).1.mem = true := by
  unfold translateBy; dsimp only
  split
  · exact h
  split
  · exact h
  split
  · rename_i hq; have := tlbServe_mem _ _ _ _ _ _ hq; simp only at this; rw [this]; exact h
  split
  · simp [h]
  split
  · rename_i hv; exact walkBy_memOk_of (h := h) (hh := hv)
  · rename_i hq
    have hv := walkBy_memOk_of (h := h) (hh := hq)
    clear hq
    split
    · exact hv
    split
    · exact hv
    · split <;> simp_all
theorem translateBy_memOk_of (s : State) (ag : Agent) (c : Nat) (cn : Nat) (wr : Bool) (va : Nat) (bad : State →
    TlbEntry → Option Nat) (h : memWf s.mem = true) {tt : State} {aa : Except Nat TlbEntry} (hh : translateBy s ag c
    cn wr va bad = (tt, aa)) : memWf tt.mem = true := by
  have := translateBy_memOk s ag c cn wr va bad h; simpa only [hh] using this
@[simp] theorem translate_memOk (s : State) (ag : Agent) (c : Nat) (cls : AccClass) (im : Bool) (va : Nat) (n : Nat)
    (h : memWf s.mem = true) : memWf (translate s ag c cls im va n).1.mem = true := by simp [translate, h]
theorem translate_memOk_of (s : State) (ag : Agent) (c : Nat) (cls : AccClass) (im : Bool) (va : Nat) (n : Nat) (h :
    memWf s.mem = true) {tt : State} {aa : Except Nat TlbEntry} (hh : translate s ag c cls im va n = (tt, aa)) :
    memWf tt.mem = true := by
  have := translate_memOk s ag c cls im va n h; simpa only [hh] using this
@[simp] theorem demandAt_memOk (s : State) (ag : Agent) (c : Nat) (cls : AccClass) (va : Nat) (n : Nat) (h : memWf
    s.mem = true) : memWf (demandAt s ag c cls va n).1.mem = true := by
  unfold demandAt
  split
  · rename_i hv; exact translate_memOk_of (h := h) (hh := hv)
  · rename_i t e hq
    have hv := translate_memOk_of (h := h) (hh := hq)
    clear hq
    dsimp only
    generalize hu : (if e.kind = .normal then classify t (frameOf (physOf t e cls va)) ag.core? else t) = u
    have hc : memWf u.mem = true := by rw [← hu]; split <;> simp [hv]
    clear hu
    split
    · exact hc
    split
    · simpa using hc
    split
    · simpa using hc
    · cases ag <;> dsimp only <;> (repeat' split) <;>
        first | (simp [hc]; done) | exact foldl_memOk (fun t l ht => by simp [ht]) _ _ (by simp [hc])
theorem demandAt_memOk_of (s : State) (ag : Agent) (c : Nat) (cls : AccClass) (va : Nat) (n : Nat) (h : memWf s.mem =
    true) {tt : State} {aa : Except Nat (Nat × Nat)} (hh : demandAt s ag c cls va n = (tt, aa)) : memWf tt.mem = true
    := by
  have := demandAt_memOk s ag c cls va n h; simpa only [hh] using this
@[simp] theorem engReadPage_memOk (s : State) (ag : Agent) (c : Nat) (cls : AccClass) (va : Nat) (n : Nat) (h : memWf
    s.mem = true) : memWf (engReadPage s ag c cls va n).1.mem = true := by
  unfold engReadPage
  (repeat' split) <;> simp_all <;> grind [demandAt_memOk, → demandAt_memOk_of, → peerAnswer_mem_of, →
      readLines_mem_of]
theorem engReadPage_memOk_of (s : State) (ag : Agent) (c : Nat) (cls : AccClass) (va : Nat) (n : Nat) (h : memWf
    s.mem = true) {tt : State} {aa : Except EngFault Nat} (hh : engReadPage s ag c cls va n = (tt, aa)) : memWf
    tt.mem = true := by
  have := engReadPage_memOk s ag c cls va n h; simpa only [hh] using this
@[simp] theorem engReadFrom_memOk (ag : Agent) (c : Nat) (cls : AccClass) (a3 : Nat) (a4 : Nat) (a5 : Nat) (a6 :
    State) (h : memWf a6.mem = true) : memWf (engReadFrom ag c cls a3 a4 a5 a6).1.mem = true := by
  revert h
  fun_induction engReadFrom ag c cls a3 a4 a5 a6 <;> intro h <;> grind [engReadPage_memOk, → engReadPage_memOk_of]
theorem engReadFrom_memOk_of (ag : Agent) (c : Nat) (cls : AccClass) (a3 : Nat) (a4 : Nat) (a5 : Nat) (a6 : State) (h
    : memWf a6.mem = true) {tt : State} {aa : Except EngFault Nat} (hh : engReadFrom ag c cls a3 a4 a5 a6 = (tt, aa))
    : memWf tt.mem = true := by
  have := engReadFrom_memOk ag c cls a3 a4 a5 a6 h; simpa only [hh] using this
@[simp] theorem engRead_memOk (s : State) (ag : Agent) (c : Nat) (cls : AccClass) (va : Nat) (n : Nat) (h : memWf
    s.mem = true) : memWf (engRead s ag c cls va n).1.mem = true := by simp [engRead, h]
theorem engRead_memOk_of (s : State) (ag : Agent) (c : Nat) (cls : AccClass) (va : Nat) (n : Nat) (h : memWf s.mem =
    true) {tt : State} {aa : Except EngFault Nat} (hh : engRead s ag c cls va n = (tt, aa)) : memWf tt.mem = true :=
    by
  have := engRead_memOk s ag c cls va n h; simpa only [hh] using this
@[simp] theorem engBytes_memOk (s : State) (ag : Agent) (c : Nat) (cls : AccClass) (va : Nat) (n : Nat) (h : memWf
    s.mem = true) : memWf (engBytes s ag c cls va n).1.mem = true := by
  unfold engBytes; grind [engRead_memOk, → engRead_memOk_of]
theorem engBytes_memOk_of (s : State) (ag : Agent) (c : Nat) (cls : AccClass) (va : Nat) (n : Nat) (h : memWf s.mem =
    true) {tt : State} {aa : Except EngFault (List Byte)} (hh : engBytes s ag c cls va n = (tt, aa)) : memWf tt.mem =
    true := by
  have := engBytes_memOk s ag c cls va n h; simpa only [hh] using this
@[simp] theorem kernelAt_memOk (s : State) (ag : Agent) (c : Nat) (a : Nat) (h : memWf s.mem = true) : memWf
    (kernelAt s ag c a).1.mem = true := by
  unfold kernelAt; grind [engBytes_memOk, → engBytes_memOk_of]
theorem kernelAt_memOk_of (s : State) (ag : Agent) (c : Nat) (a : Nat) (h : memWf s.mem = true) {tt : State} {aa :
    Except EngFault (Option Kernel)} (hh : kernelAt s ag c a = (tt, aa)) : memWf tt.mem = true := by
  have := kernelAt_memOk s ag c a h; simpa only [hh] using this
@[simp] theorem readKernels_memOk (c : Nat) (a1 : Nat) (a2 : List Nat) (a3 : State) (h : memWf a3.mem = true) : memWf
    (readKernels c a1 a2 a3).1.mem = true := by
  revert h
  fun_induction readKernels c a1 a2 a3 <;> intro h <;> grind [kernelAt_memOk, → kernelAt_memOk_of]
theorem readKernels_memOk_of (c : Nat) (a1 : Nat) (a2 : List Nat) (a3 : State) (h : memWf a3.mem = true) {tt : State}
    {aa : Except Nat (List Kernel × Option Nat)} (hh : readKernels c a1 a2 a3 = (tt, aa)) : memWf tt.mem = true := by
  have := readKernels_memOk c a1 a2 a3 h; simpa only [hh] using this
@[simp] theorem stageDescs_memOk (s : State) (c : Nat) (b : List Byte) (h : memWf s.mem = true) : memWf (stageDescs s
    c b).1.mem = true := by
  unfold stageDescs; grind [engRead_memOk, → engRead_memOk_of]
theorem stageDescs_memOk_of (s : State) (c : Nat) (b : List Byte) (h : memWf s.mem = true) {tt : State} {aa : Except
    Nat (List Nat × Option Nat)} (hh : stageDescs s c b = (tt, aa)) : memWf tt.mem = true := by
  have := stageDescs_memOk s c b h; simpa only [hh] using this
@[simp] theorem checkRecord_memOk (s : State) (c : Nat) (q : Nat) (id : Nat) (seq : Nat) (b : List Byte) (h : memWf
    s.mem = true) : memWf (checkRecord s c q id seq b).1.mem = true := by
  unfold checkRecord; grind [readKernels_memOk, → readKernels_memOk_of, stageDescs_memOk, → stageDescs_memOk_of]
theorem checkRecord_memOk_of (s : State) (c : Nat) (q : Nat) (id : Nat) (seq : Nat) (b : List Byte) (h : memWf s.mem
    = true) {tt : State} {aa : Except Nat Launch} (hh : checkRecord s c q id seq b = (tt, aa)) : memWf tt.mem = true
    := by
  have := checkRecord_memOk s c q id seq b h; simpa only [hh] using this
@[simp] theorem engWritePage_memOk (s : State) (ag : Agent) (c : Nat) (cls : AccClass) (va : Nat) (n : Nat) (v : Nat)
    (h : memWf s.mem = true) : memWf (engWritePage s ag c cls va n v).1.mem = true := by
  unfold engWritePage
  split
  · rename_i hv; exact demandAt_memOk_of (h := h) (hh := hv)
  · rename_i t pa lvl hv
    have ht := demandAt_memOk_of (h := h) (hh := hv)
    dsimp only
    split
    · split
      · rename_i hq; rw [peerAnswer_mem_of (hh := hq)]; simpa using ht
      · rename_i hq; rw [peerAnswer_mem_of (hh := hq)]; simpa using ht
    · simp [ht]
theorem engWritePage_memOk_of (s : State) (ag : Agent) (c : Nat) (cls : AccClass) (va : Nat) (n : Nat) (v : Nat) (h :
    memWf s.mem = true) {tt : State} {aa : Except EngFault Unit} (hh : engWritePage s ag c cls va n v = (tt, aa)) :
    memWf tt.mem = true := by
  have := engWritePage_memOk s ag c cls va n v h; simpa only [hh] using this
@[simp] theorem engWriteFrom_memOk (ag : Agent) (c : Nat) (cls : AccClass) (a3 : Nat) (a4 : Nat) (a5 : Nat) (a6 :
    Nat) (a7 : State) (h : memWf a7.mem = true) : memWf (engWriteFrom ag c cls a3 a4 a5 a6 a7).1.mem = true := by
  revert h
  fun_induction engWriteFrom ag c cls a3 a4 a5 a6 a7 <;> intro h <;> grind [engWritePage_memOk, →
      engWritePage_memOk_of]
theorem engWriteFrom_memOk_of (ag : Agent) (c : Nat) (cls : AccClass) (a3 : Nat) (a4 : Nat) (a5 : Nat) (a6 : Nat) (a7
    : State) (h : memWf a7.mem = true) {tt : State} {aa : Except EngFault Unit} (hh : engWriteFrom ag c cls a3 a4 a5
    a6 a7 = (tt, aa)) : memWf tt.mem = true := by
  have := engWriteFrom_memOk ag c cls a3 a4 a5 a6 a7 h; simpa only [hh] using this
@[simp] theorem engWrite_memOk (s : State) (ag : Agent) (c : Nat) (cls : AccClass) (va : Nat) (n : Nat) (v : Nat) (h
    : memWf s.mem = true) : memWf (engWrite s ag c cls va n v).1.mem = true := by simp [engWrite, h]
theorem engWrite_memOk_of (s : State) (ag : Agent) (c : Nat) (cls : AccClass) (va : Nat) (n : Nat) (v : Nat) (h :
    memWf s.mem = true) {tt : State} {aa : Except EngFault Unit} (hh : engWrite s ag c cls va n v = (tt, aa)) : memWf
    tt.mem = true := by
  have := engWrite_memOk s ag c cls va n v h; simpa only [hh] using this
@[simp] theorem writeEvent_memOk (s : State) (c : Nat) (a : Nat) (x : Nat) (q : Nat) (irq : Bool) (h : memWf s.mem =
    true) : memWf (writeEvent s c a x q irq).mem = true := by
  unfold writeEvent
  (repeat' split) <;> simp_all <;> grind [engWrite_memOk, → engWrite_memOk_of]
@[simp] theorem acceptOffer_memOk (s : State) (c : Nat) (h : memWf s.mem = true) : memWf (acceptOffer s c).mem = true
    := by
  unfold acceptOffer; dsimp only
  have hf : memWf (fresh s).2.mem = true := by simpa using h
  (repeat' split) <;> first | (simp [h]; done) | skip
  all_goals
    have hv := checkRecord_memOk_of (h := hf) (hh := by assumption)
    simp [hv]
@[simp] theorem fillDone_memOk (s : State) (line : Nat) (h : memWf s.mem = true) : memWf (fillDone s line).mem = true
    := by
  unfold fillDone; dsimp only
  (repeat' split) <;> simp [h]
@[simp] theorem msServe_memOk (s : State) (r : MsReq) (h : memWf s.mem = true) : memWf (msServe s r).mem = true := by
  unfold msServe; dsimp only
  (repeat' split) <;> simp [h]
@[simp] theorem msAdmit_memOk (s : State) (r : MsReq) (h : memWf s.mem = true) : memWf (msAdmit s r).mem = true := by
    simp [msAdmit, h]
@[simp] theorem admitAll_memOk (s : State) (g : Nat) (h : memWf s.mem = true) : memWf (admitAll s g).mem = true := by
  unfold admitAll; dsimp only
  split
  · exact h
  · exact foldl_memOk (fun t x ht => msAdmit_memOk _ _ ht) _ _ (by simp [h])
@[simp] theorem admitNext_memOk (s : State) (g : Nat) (r : MsReq) (rest : List MsReq) (h : memWf s.mem = true) :
    memWf (admitNext s g r rest).mem = true := by simp [admitNext, h]
@[simp] theorem tileLine_memOk (s : State) (k : Nat) (c : Nat) (va : Nat) (h : memWf s.mem = true) : memWf (tileLine
    s k c va).1.mem = true := by
  unfold tileLine
  split
  · rename_i hv; exact translateBy_memOk_of (h := h) (hh := hv)
  · rename_i hv
    have hv := translateBy_memOk_of (h := h) (hh := hv)
    dsimp only; split <;> simp [hv]
theorem tileLine_memOk_of (s : State) (k : Nat) (c : Nat) (va : Nat) (h : memWf s.mem = true) {tt : State} {aa :
    Except EngFault Nat} (hh : tileLine s k c va = (tt, aa)) : memWf tt.mem = true := by
  have := tileLine_memOk s k c va h; simpa only [hh] using this
@[simp] theorem tileLines_memOk (k : Nat) (c : Nat) (a2 : Nat) (a3 : Nat) (a4 : State) (h : memWf a4.mem = true) :
    memWf (tileLines k c a2 a3 a4).1.mem = true := by
  revert h
  fun_induction tileLines k c a2 a3 a4 <;> intro h <;> grind [tileLine_memOk, → tileLine_memOk_of]
theorem tileLines_memOk_of (k : Nat) (c : Nat) (a2 : Nat) (a3 : Nat) (a4 : State) (h : memWf a4.mem = true) {tt :
    State} {aa : Except EngFault (List Nat)} (hh : tileLines k c a2 a3 a4 = (tt, aa)) : memWf tt.mem = true := by
  have := tileLines_memOk k c a2 a3 a4 h; simpa only [hh] using this
@[simp] theorem tileFrags_memOk (f : Fragment) (view : Nat) (b : List Byte) (ident : Nat) (s : State) (t : Nat × List
    (Nat × Nat)) (h : memWf s.mem = true) : memWf (tileFrags f view b ident s t).1.mem = true := by
  unfold tileFrags
  split
  · rename_i hv; exact tileLines_memOk_of (h := h) (hh := hv)
  · rename_i t ls ht
    have ht := tileLines_memOk_of (h := h) (hh := ht)
    dsimp only
    rw [foldl_mem_fst (by intro t x; simp)]
    exact ht
theorem tileFrags_memOk_of (f : Fragment) (view : Nat) (b : List Byte) (ident : Nat) (s : State) (t : Nat × List (Nat
    × Nat)) (h : memWf s.mem = true) {tt : State} {aa : Except EngFault (List Fragment)} (hh : tileFrags f view b
    ident s t = (tt, aa)) : memWf tt.mem = true := by
  have := tileFrags_memOk f view b ident s t h; simpa only [hh] using this
@[simp] theorem allFrags_memOk (f : Fragment) (view : Nat) (b : List Byte) (ident : Nat) (ts : List (Nat × List (Nat
    × Nat))) (s : State) (h : memWf s.mem = true) : memWf (allFrags f view b ident ts s).1.mem = true := by
  unfold allFrags
  exact foldl_memOk_fst (by
    intro t x ht
    dsimp only
    split <;> grind [→ tileFrags_memOk_of]) _ _ h
theorem allFrags_memOk_of (f : Fragment) (view : Nat) (b : List Byte) (ident : Nat) (ts : List (Nat × List (Nat ×
    Nat))) (s : State) (h : memWf s.mem = true) {tt : State} {aa : List Fragment × List Nat × Option EngFault} (hh :
    allFrags f view b ident ts s = (tt, aa)) : memWf tt.mem = true := by
  have := allFrags_memOk f view b ident ts s h; simpa only [hh] using this
@[simp] theorem confirmWalk_memOk (s : State) (a : Acc) (h : memWf s.mem = true) : memWf (confirmWalk s a).mem = true
    := by
  have hd : memWf (dropCached s (some a.core) (coreStack a.core) (accAsid s a) a.va).mem = true := by simp [h]
  unfold confirmWalk; dsimp only
  split
  · rename_i hv; have hv := walkFrom_memOk_of (h := hd) (hh := hv); simp [hv]
  · rename_i hv; have hv := walkFrom_memOk_of (h := hd) (hh := hv); split <;> simp [hv]
@[simp] theorem walkAnswer_memOk (w : Walk) (s : State) (id : Nat) (h : memWf s.mem = true) : memWf (walkAnswer w s
    id).mem = true := by
  unfold walkAnswer; dsimp only
  (repeat' split) <;> simp [h]
@[simp] theorem answerWalk_memOk (s : State) (w : Walk) (h : memWf s.mem = true) : memWf (answerWalk s w).mem = true
    := by
  unfold answerWalk; dsimp only
  rw [foldl_mem (by intro t x; simp)]
  exact foldl_memOk (fun t x ht => by simp [ht]) _ _ h
@[simp] theorem gatherAll_memOk (s : State) (line : Nat) (h : memWf s.mem = true) : memWf (gatherAll s line).mem =
    true := by simp [gatherAll, h]
@[simp] theorem regPut_memOk (s : State) (line : Nat) (f : RegForm) (h : memWf s.mem = true) : memWf (regPut s line
    f).mem = true := by
  unfold regPut
  dsimp only
  (repeat' split) <;> simp [h]
@[simp] theorem disown_memOk (s : State) (line : Nat) (c : Nat) (own : BitVec 32) (h : memWf s.mem = true) : memWf
    (disown s line c own).mem = true := by
  unfold disown
  dsimp only
  (repeat' split) <;> simp [h]
@[simp] theorem ownersDone_memOk (s : State) (p : Parked) (h : memWf s.mem = true) : memWf (ownersDone s p).mem =
    true := by
  unfold ownersDone
  (repeat' split) <;> simp [h]
@[simp] theorem answered_memOk (s : State) (line : Nat) (c : Nat) (h : memWf s.mem = true) : memWf (answered s line
    c).mem = true := by
  unfold answered
  dsimp only
  (repeat' split) <;> simp [h]
@[simp] theorem farAtomic_memOk (s : State) (dev : Nat) (pa : Nat) (n : Nat) (code : Nat) (d : Nat) (e : Nat) (h :
    memWf s.mem = true) : memWf (farAtomic s dev pa n code d e).mem = true := by
  unfold farAtomic
  dsimp only
  (repeat' split) <;> simp [h]
@[simp] theorem farBarrier_memOk (s : State) (dev : Nat) (pa : Nat) (act : Act) (h : memWf s.mem = true) : memWf
    (farBarrier s dev pa act).mem = true := by simp [farBarrier, h]
@[simp] theorem imagoHome_memOk (s : State) (pa : Nat) (a2 : Nat) (g : Nat) (v : Nat) (h : memWf s.mem = true) :
    memWf (imagoHome s pa a2 g v).1.mem = true := by
  unfold imagoHome; dsimp only
  (repeat' split) <;> simp [h]
theorem imagoHome_memOk_of (s : State) (pa : Nat) (a2 : Nat) (g : Nat) (v : Nat) (h : memWf s.mem = true) {tt :
    State} {aa : Option (Nat × Nat × Nat)} (hh : imagoHome s pa a2 g v = (tt, aa)) : memWf tt.mem = true := by
  have := imagoHome_memOk s pa a2 g v h; simpa only [hh] using this
@[simp] theorem farImago_memOk (s : State) (dev : Nat) (pa : Nat) (a3 : Nat) (g : Nat) (v : Nat) (h : memWf s.mem =
    true) : memWf (farImago s dev pa a3 g v).mem = true := by
  unfold farImago
  (repeat' split) <;> simp_all <;> grind [imagoHome_memOk, → imagoHome_memOk_of]
@[simp] theorem farStore_memOk (s : State) (pa : Nat) (d : Nat) (m : Nat) (h : memWf s.mem = true) : memWf (farStore
    s pa d m).mem = true := by simp [farStore, h]
@[simp] theorem farPerform_memOk (s : State) (dev : Nat) (pa : Nat) (n : Nat) (a4 : Nat) (d : Nat) (e : Nat) (h :
    memWf s.mem = true) : memWf (farPerform s dev pa n a4 d e).mem = true := by
  unfold farPerform
  dsimp only
  (repeat' split) <;> simp [h]
@[simp] theorem performEng_memOk (s : State) (c : Nat) (pa : Nat) (n : Nat) (v : Nat) (add : Bool) (h : memWf s.mem =
    true) : memWf (performEng s c pa n v add).mem = true := by
  unfold performEng; dsimp only
  (repeat' split) <;> simp [h]
@[simp] theorem retryAdd_memOk (core : Nat) (s : State) (x : Nat × Nat) (h : memWf s.mem = true) : memWf (retryAdd
    core s x).mem = true := by
  unfold retryAdd; dsimp only
  (repeat' split) <;> simp [h]
@[simp] theorem retryAdds_memOk (s : State) (c : Nat) (k : Nat) (e : LogSlot) (h : memWf s.mem = true) : memWf
    (retryAdds s c k e).mem = true := by
  have hf : ∀ l : List (Nat × Nat), memWf (l.foldl (retryAdd e.core) s).mem = true :=
    fun l => foldl_memOk (fun t x ht => by simp [ht]) _ _ h
  unfold retryAdds; dsimp only
  split <;> simp [hf]
@[simp] theorem collWrites_memOk (s : State) (c : Coll) (h : memWf s.mem = true) : memWf (collWrites s c).1.mem =
    true := by
  unfold collWrites; dsimp only
  (repeat' split) <;> first | (simp; done) | grind [→ engWrite_memOk_of, scrWrite_mem]
theorem collWrites_memOk_of (s : State) (c : Coll) (h : memWf s.mem = true) {tt : State} {aa : Option EngFault} (hh :
    collWrites s c = (tt, aa)) : memWf tt.mem = true := by
  have := collWrites_memOk s c h; simpa only [hh] using this
@[simp] theorem collFinish_memOk (s : State) (c : Coll) (h : memWf s.mem = true) : memWf (collFinish s c).1.mem =
    true := by
  unfold collFinish
  (repeat' split) <;> simp_all <;> grind [collWrites_memOk, → collWrites_memOk_of]
theorem collFinish_memOk_of (s : State) (c : Coll) (h : memWf s.mem = true) {tt : State} {aa : Option EngFault} (hh :
    collFinish s c = (tt, aa)) : memWf tt.mem = true := by
  have := collFinish_memOk s c h; simpa only [hh] using this
@[simp] theorem collRanks_memOk (s : State) (c : Coll) (h : memWf s.mem = true) : memWf (collRanks s c).1.mem = true
    := by
  unfold collRanks; grind [engRead_memOk, → engRead_memOk_of]
theorem collRanks_memOk_of (s : State) (c : Coll) (h : memWf s.mem = true) {tt : State} {aa : Except EngFault (List
    Nat)} (hh : collRanks s c = (tt, aa)) : memWf tt.mem = true := by
  have := collRanks_memOk s c h; simpa only [hh] using this
@[simp] theorem collReads_memOk (s : State) (c : Coll) (h : memWf s.mem = true) : memWf (collReads s c).1.mem = true
    := by
  unfold collReads; grind [engRead_memOk, → engRead_memOk_of]
theorem collReads_memOk_of (s : State) (c : Coll) (h : memWf s.mem = true) {tt : State} {aa : Except EngFault (Nat ×
    Nat)} (hh : collReads s c = (tt, aa)) : memWf tt.mem = true := by
  have := collReads_memOk s c h; simpa only [hh] using this
@[simp] theorem collRetry_memOk (s : State) (c : Coll) (h : memWf s.mem = true) : memWf (collRetry s c).1.mem = true
    := by
  unfold collRetry; dsimp only
  (repeat' split) <;> first | (simp [h]; done) | grind [→ collRanks_memOk_of, → collReads_memOk_of, putColl_mem]
theorem collRetry_memOk_of (s : State) (c : Coll) (h : memWf s.mem = true) {tt : State} {aa : Option EngFault} (hh :
    collRetry s c = (tt, aa)) : memWf tt.mem = true := by
  have := collRetry_memOk s c h; simpa only [hh] using this
@[simp] theorem retryColl_memOk (s : State) (c : Nat) (k : Nat) (e : LogSlot) (h : memWf s.mem = true) : memWf
    (retryColl s c k e).mem = true := by
  unfold retryColl
  (repeat' split) <;> simp_all <;> grind [collRetry_memOk, → collRetry_memOk_of]
@[simp] theorem retryEvent_memOk (s : State) (c : Nat) (k : Nat) (e : LogSlot) (h : memWf s.mem = true) : memWf
    (retryEvent s c k e).mem = true := by
  unfold retryEvent
  (repeat' split) <;> simp_all <;> grind [engWrite_memOk, → engWrite_memOk_of]
@[simp] theorem demand_memOk (s : State) (ag : Agent) (c : Nat) (cls : AccClass) (va : Nat) (n : Nat) (h : memWf
    s.mem = true) : memWf (demand s ag c cls va n).1.mem = true := by
  unfold demand
  split
  · rename_i hv; exact demandAt_memOk_of (h := h) (hh := hv)
  · rename_i hv; exact demandAt_memOk_of (h := h) (hh := hv)
theorem demand_memOk_of (s : State) (ag : Agent) (c : Nat) (cls : AccClass) (va : Nat) (n : Nat) (h : memWf s.mem =
    true) {tt : State} {aa : Except Nat Nat} (hh : demand s ag c cls va n = (tt, aa)) : memWf tt.mem = true := by
  have := demand_memOk s ag c cls va n h; simpa only [hh] using this
@[simp] theorem retryRed_memOk (s : State) (c : Nat) (k : Nat) (e : LogSlot) (a : Acc) (h : memWf s.mem = true) :
    memWf (retryRed s c k e a).mem = true := by
  unfold retryRed
  split
  · split
    · rename_i hv; simp [demand_memOk_of (h := h) (hh := hv)]
    · rename_i hv
      have ht := demand_memOk_of (h := h) (hh := hv)
      dsimp only
      split
      · simp [ht]
      split
      · simp [ht]
      · simp [ht]
  · simp [h]
@[simp] theorem retrySlot_memOk (s : State) (c : Nat) (k : Nat) (h : memWf s.mem = true) : memWf (retrySlot s c
    k).mem = true := by
  unfold retrySlot
  dsimp only
  (repeat' split) <;> simp [h]
@[simp] theorem runFlcmd_memOk (s : State) (c : Nat) (v : Nat) (h : memWf s.mem = true) : memWf (runFlcmd s c v).mem
    = true := by
  unfold runFlcmd
  dsimp only
  (repeat' split) <;> simp [h]
@[simp] theorem writeLog_memOk (s : State) (c : Nat) (o : Nat) (v : Nat) (h : memWf s.mem = true) : memWf (writeLog s
    c o v).mem = true := by
  unfold writeLog
  (repeat' split) <;> simp [h]
@[simp] theorem releaseOne_memOk (s : State) (f : Nat) (h : memWf s.mem = true) : memWf (releaseOne s f).mem = true
    := by
  unfold releaseOne
  exact foldl_memOk (by intro t x ht; (repeat' split) <;> simp [ht]) _ _ h
@[simp] theorem releaseFrom_memOk (a0 : Nat) (a1 : Nat) (a2 : Nat) (a3 : State) (h : memWf a3.mem = true) : memWf
    (releaseFrom a0 a1 a2 a3).1.mem = true := by
  revert h
  fun_induction releaseFrom a0 a1 a2 a3 <;> intro h <;> simp_all
theorem releaseFrom_memOk_of (a0 : Nat) (a1 : Nat) (a2 : Nat) (a3 : State) (h : memWf a3.mem = true) {tt : State} {aa
    : List Nat} (hh : releaseFrom a0 a1 a2 a3 = (tt, aa)) : memWf tt.mem = true := by
  have := releaseFrom_memOk a0 a1 a2 a3 h; simpa only [hh] using this
@[simp] theorem releaseStep_memOk (s : State) (p : Nat) (h : memWf s.mem = true) : memWf (releaseStep s p).mem = true
    := by simp [releaseStep, h]
@[simp] theorem releaseFrames_memOk (s : State) (p : Nat) (h : memWf s.mem = true) : memWf (releaseFrames s p).mem =
    true := by
  unfold releaseFrames
  exact tmCommand_memOk h fun t ht => by dsimp only; exact releaseStep_memOk _ _ (by simpa using ht)
@[simp] theorem tmRun_memOk (s : State) (p : Nat) (a2 : Nat) (h : memWf s.mem = true) : memWf (tmRun s p a2).mem =
    true := by
  unfold tmRun
  (repeat' split) <;> simp [h]
@[simp] theorem writeTm_memOk (s : State) (p : Nat) (o : Nat) (m : Nat) (v : Nat) (h : memWf s.mem = true) : memWf
    (writeTm s p o m v).mem = true := by
  unfold writeTm
  (repeat' split) <;> simp [h]
@[simp] theorem writeWord_memOk (s : State) (src : Nat) (o : Nat) (m : Nat) (v : Nat) (h : memWf s.mem = true) :
    memWf (writeWord s src o m v).mem = true := by
  unfold writeWord
  repeat' (refine ite_memOk ?_ ?_)
  all_goals first | with_reducible assumption | (simp [h]; done)
@[simp] theorem writeWords_memOk (src : Nat) (a1 : Nat) (a2 : Nat) (a3 : Nat) (a4 : Nat) (a5 : State) (h : memWf
    a5.mem = true) : memWf (writeWords src a1 a2 a3 a4 a5).mem = true := by
  revert h
  fun_induction writeWords src a1 a2 a3 a4 a5 <;> intro h <;> grind [writeWord_memOk]
@[simp] theorem mmioWrite_memOk (s : State) (src : Nat) (o : Nat) (n : Nat) (v : Nat) (h : memWf s.mem = true) :
    memWf (mmioWrite s src o n v).mem = true := by simp [mmioWrite, h]
@[simp] theorem portAccess_memOk (s : State) (pa : Nat) (n : Nat) (take : Bool) (fill : Bool) (h : memWf s.mem =
    true) : memWf (portAccess s pa n take fill).mem = true := by
  unfold portAccess; dsimp only
  refine foldl_memOk (by intro t x ht; simp [ht]) _ _ ?_
  exact foldl_memOk (by intro t x ht; simp [ht]) _ _ h
@[simp] theorem portRead_memOk (s : State) (p : Nat) (pa : Nat) (n : Nat) (a4 : Nat) (h : memWf s.mem = true) : memWf
    (portRead s p pa n a4).mem = true := by
  simp [portRead, h]
@[simp] theorem portWrite_memOk (s : State) (pa : Nat) (n : Nat) (v : Nat) (h : memWf s.mem = true) : memWf
    (portWrite s pa n v).mem = true := by simp [portWrite, h]
@[simp] theorem hostPerform_memOk (s : State) (e : Arrival) (h : memWf s.mem = true) : memWf (hostPerform s e).mem =
    true := by
  unfold hostPerform; dsimp only
  (repeat' split) <;> simp [h]
@[simp] theorem arrivalPerform_memOk (s : State) (e : Arrival) (h : memWf s.mem = true) : memWf (arrivalPerform s
    e).mem = true := by
  unfold arrivalPerform
  (repeat' split) <;> simp [h]
@[simp] theorem arrivalsFrom_memOk (kept : List Arrival) (a1 : List Arrival) (a2 : State) (h : memWf a2.mem = true) :
    memWf (arrivalsFrom kept a1 a2).mem = true := by
  induction a1 generalizing kept a2 with
  | nil => exact h
  | cons e r ih =>
    rw [arrivalsFrom]; split
    · exact ih _ _ h
    · exact ih _ _ (orWait_memOk h (by simp [h]))
@[simp] theorem arrivalsRun_memOk (s : State) (h : memWf s.mem = true) : memWf (arrivalsRun s).mem = true := by simp
    [arrivalsRun, h]
@[simp] theorem pinLine_memOk (s : State) (line : Nat) (p : Nat) (h : memWf s.mem = true) : memWf (pinLine s line
    p).mem = true := by
  unfold pinLine; dsimp only
  (repeat' split) <;> simp [h]
@[simp] theorem openTile_memOk (s : State) (f : Fragment) (b : List Byte) (h : memWf s.mem = true) : memWf (openTile
    s f b).mem = true := by
  unfold openTile; dsimp only
  refine foldl_memOk (fun t x ht => by simp [ht]) _ _ ?_
  exact foldl_memOk (fun t x ht => by simp [ht]) _ _ h
@[simp] theorem viewOf_memOk (s : State) (ag : Agent) (c : Nat) (v : Nat) (h : memWf s.mem = true) : memWf (viewOf s
    ag c v).1.mem = true := by
  unfold viewOf; dsimp only
  (repeat' split) <;> first | (simp [h]; done) | (simp_all; done) | grind [→ engBytes_memOk_of, modCx_mem]
theorem viewOf_memOk_of (s : State) (ag : Agent) (c : Nat) (v : Nat) (h : memWf s.mem = true) {tt : State} {aa :
    Except EngFault (List Byte)} (hh : viewOf s ag c v = (tt, aa)) : memWf tt.mem = true := by
  have := viewOf_memOk s ag c v h; simpa only [hh] using this
@[simp] theorem arriveFrag_memOk (s : State) (f : Fragment) (h : memWf s.mem = true) : memWf (arriveFrag s f).mem =
    true := by
  unfold arriveFrag
  (repeat' split) <;> simp_all <;> grind [openTile_memOk, viewOf_memOk, → viewOf_memOk_of]
@[simp] theorem matRecord_memOk (s : State) (ag : Agent) (c : Nat) (b : List Byte) (m : Nat) (h : memWf s.mem = true)
    : memWf (matRecord s ag c b m).1.mem = true := by simp [matRecord, h]
theorem matRecord_memOk_of (s : State) (ag : Agent) (c : Nat) (b : List Byte) (m : Nat) (h : memWf s.mem = true) {tt
    : State} {aa : Except EngFault (List Byte)} (hh : matRecord s ag c b m = (tt, aa)) : memWf tt.mem = true := by
  have := matRecord_memOk s ag c b m h; simpa only [hh] using this
@[simp] theorem binKernel_memOk (s : State) (b : Bin) (h : memWf s.mem = true) : memWf (binKernel s b).1.mem = true
    := by
  unfold binKernel; grind [kernelAt_memOk, → kernelAt_memOk_of, viewOf_memOk, → viewOf_memOk_of, matRecord_memOk, →
      matRecord_memOk_of]
theorem binKernel_memOk_of (s : State) (b : Bin) (h : memWf s.mem = true) {tt : State} {aa : Except EngFault (List
    Byte × Kernel)} (hh : binKernel s b = (tt, aa)) : memWf tt.mem = true := by
  have := binKernel_memOk s b h; simpa only [hh] using this
@[simp] theorem formWave_memOk (s : State) (b : Bin) (h : memWf s.mem = true) : memWf (formWave s b).mem = true := by
  unfold formWave; dsimp only
  split
  · rename_i hb
    have hb := binKernel_memOk_of _ _ (by simp [h]) hb
    split <;> simp [hb]
  · rename_i hb
    have hb := binKernel_memOk_of _ _ (by simp [h]) hb
    simp [hb]
@[simp] theorem formWaves_memOk (id : Nat) (least : Nat) (a2 : Nat) (a3 : State) (h : memWf a3.mem = true) : memWf
    (formWaves id least a2 a3).mem = true := by
  revert h
  fun_induction formWaves id least a2 a3 <;> intro h <;> grind [formWave_memOk]
@[simp] theorem enterBin_memOk (s : State) (r : BinRec) (h : memWf s.mem = true) : memWf (enterBin s r).mem = true :=
    by
  unfold enterBin
  dsimp only
  (repeat' split) <;> simp [h]
@[simp] theorem materialOf_memOk (s : State) (ag : Agent) (c : Nat) (b : List Byte) (cluster : Nat) (h : memWf s.mem
    = true) : memWf (materialOf s ag c b cluster).1.mem = true := by simp [materialOf, h]
theorem materialOf_memOk_of (s : State) (ag : Agent) (c : Nat) (b : List Byte) (cluster : Nat) (h : memWf s.mem =
    true) {tt : State} {aa : Except EngFault Nat} (hh : materialOf s ag c b cluster = (tt, aa)) : memWf tt.mem = true
    := by
  have := materialOf_memOk s ag c b cluster h; simpa only [hh] using this
@[simp] theorem arriveHit_memOk (s : State) (r : BinRec) (h : memWf s.mem = true) : memWf (arriveHit s r).mem = true
    := by
  unfold arriveHit; dsimp only
  (repeat' split) <;> first | (simp [h]; done) | skip
  all_goals
    have hv := viewOf_memOk_of (h := h) (hh := by assumption)
    first
    | (simp [hv]; done)
    | simp [materialOf_memOk_of (h := hv) (hh := by assumption)]
@[simp] theorem beginFetch_memOk (s : State) (c : Nat) (ctx : Nat) (pc : Nat) (h : memWf s.mem = true) : memWf
    (beginFetch s c ctx pc).mem = true := by
  unfold beginFetch; dsimp only
  (repeat' split) <;> simp [h]
@[simp] theorem fetchReach_memOk (s : State) (c : Nat) (pa : Nat) (mine : Bool) (h : memWf s.mem = true) : memWf
    (fetchReach s c pa mine).mem = true := by
  unfold fetchReach; dsimp only
  (repeat' split) <;> simp [h]
@[simp] theorem prefetchL1_memOk (s : State) (c : Nat) (line : Nat) (p : LinePath) (h : memWf s.mem = true) : memWf
    (prefetchL1 s c line p).mem = true := by
  unfold prefetchL1; dsimp only
  (repeat' split) <;> simp [h]
@[simp] theorem runAhead_memOk (s : State) (c : Nat) (ctx : Nat) (va : Nat) (x : Bool) (h : memWf s.mem = true) :
    memWf (runAhead s c ctx va x).mem = true := by
  unfold runAhead; dsimp only
  split
  · simp [h]
  · exact aheadOf_memOk (by simp [h]) fun t a b p ht => by simp [ht]
@[simp] theorem fetchWord_memOk (s : State) (c : Nat) (ctx : Nat) (va : Nat) (held : Bool) (h : memWf s.mem = true) :
    memWf (fetchWord s c ctx va held).1.mem = true := by
  unfold fetchWord
  split
  · rename_i hv; exact translate_memOk_of (h := h) (hh := hv)
  · rename_i t e hq
    have hv := translate_memOk_of (h := h) (hh := hq)
    clear hq
    dsimp only
    have hu : memWf (classify t (frameOf (physOf t e .instrFetch va)) (some c)).mem = true := by simp [hv]
    generalize classify t (frameOf (physOf t e .instrFetch va)) (some c) = u at *
    split
    · dsimp only
      rw [codeWord_mem]
      split <;> simp [hu]
    split
    · simp [hu]
    split
    · simp [hu]
    split
    · simp [hu]
    · simp [hu]
theorem fetchWord_memOk_of (s : State) (c : Nat) (ctx : Nat) (va : Nat) (held : Bool) (h : memWf s.mem = true) {tt :
    State} {aa : Except (Nat × Nat) Nat} (hh : fetchWord s c ctx va held = (tt, aa)) : memWf tt.mem = true := by
  have := fetchWord_memOk s c ctx va held h; simpa only [hh] using this
@[simp] theorem fetchCur_memOk (s : State) (h : memWf s.mem = true) : memWf (fetchCur s).1.mem = true := by
  unfold fetchCur; dsimp only
  (repeat' split) <;> first | (simp; done) | (simp; grind [→ fetchWord_memOk_of])
theorem fetchCur_memOk_of (s : State) (h : memWf s.mem = true) {tt : State} {aa : Option Instr} (hh : fetchCur s =
    (tt, aa)) : memWf tt.mem = true := by
  have := fetchCur_memOk s h; simpa only [hh] using this
@[simp] theorem attempt_memOk (s : State) (q : Nat) (cands : List (Issue × Bool)) (lanes : Nat) (unis : Nat) (chosen
    : Option Nat) (h : memWf s.mem = true) : memWf (attempt s q cands lanes unis chosen).1.mem = true := by
  unfold attempt; dsimp only
  split
  · simp [h]
  split
  · simp [h]
  generalize hu : ({ s with cur := _ } : State) = u
  have hu : memWf u.mem = true := by rw [← hu]; exact h
  have hf := fetchCur_memOk u hu
  split
  · simp [orWait_memOk hu hf]
  split
  · rename_i hv; rw [hv] at hf; simpa using hf
  · rename_i hv; rw [hv] at hf; (repeat' split) <;> simpa using hf
theorem attempt_memOk_of (s : State) (q : Nat) (cands : List (Issue × Bool)) (lanes : Nat) (unis : Nat) (chosen :
    Option Nat) (h : memWf s.mem = true) {tt : State} {aa : Option Instr} (hh : attempt s q cands lanes unis chosen =
    (tt, aa)) : memWf tt.mem = true := by
  have := attempt_memOk s q cands lanes unis chosen h; simpa only [hh] using this
@[simp] theorem readEach_memOk (ag : Agent) (c : Nat) (a2 : List (Nat × Nat)) (a3 : State) (h : memWf a3.mem = true)
    : memWf (readEach ag c a2 a3).1.mem = true := by
  revert h
  fun_induction readEach ag c a2 a3 <;> intro h <;> grind [engRead_memOk, → engRead_memOk_of]
theorem readEach_memOk_of (ag : Agent) (c : Nat) (a2 : List (Nat × Nat)) (a3 : State) (h : memWf a3.mem = true) {tt :
    State} {aa : Except EngFault (List Nat)} (hh : readEach ag c a2 a3 = (tt, aa)) : memWf tt.mem = true := by
  have := readEach_memOk ag c a2 a3 h; simpa only [hh] using this
@[simp] theorem attrLane_memOk (s : State) (ag : Agent) (c : Nat) (q : AttrReq) (h : memWf s.mem = true) : memWf
    (attrLane s ag c q).1.mem = true := by
  unfold attrLane; grind [engBytes_memOk, → engBytes_memOk_of, readEach_memOk, → readEach_memOk_of, viewOf_memOk, →
      viewOf_memOk_of]
theorem attrLane_memOk_of (s : State) (ag : Agent) (c : Nat) (q : AttrReq) (h : memWf s.mem = true) {tt : State} {aa
    : Except EngFault (List Nat)} (hh : attrLane s ag c q = (tt, aa)) : memWf tt.mem = true := by
  have := attrLane_memOk s ag c q h; simpa only [hh] using this
@[simp] theorem attrLanes_memOk (w : Nat) (n : NExt) (o : Opr) (a3 : List Nat) (a4 : State) (h : memWf a4.mem = true)
    : memWf (attrLanes w n o a3 a4).mem = true := by
  induction a3 generalizing a4 with
  | nil => exact h
  | cons l r ih =>
    unfold attrLanes; dsimp only
    split <;> (apply ih; simp; grind [→ attrLane_memOk_of])
@[simp] theorem writeBack_memOk (s : State) (line : Nat) (c : Nat) (k : BitVec 128) (d : BitVec 1024) (own : BitVec
    32) (h : memWf s.mem = true) : memWf (writeBack s line c k d own).mem = true := by simp [writeBack, h]
@[simp] theorem bringParked_memOk (s : State) (line : Nat) (c : Nat) (h : memWf s.mem = true) : memWf (bringParked s
    line c).mem = true := by
  unfold bringParked; dsimp only
  simp only [spendSent_mem]
  exact foldl_memOk (fun t m ht => by
    unfold onEntry; dsimp only
    split
    · split
      · split
        · split <;> simp [ht]
        · exact ht
      · exact ht
    · exact ht) _ _ h
@[simp] theorem checkTarget_memOk (s : State) (core : Nat) (ctx : Nat) (t : Nat) (lnd : Bool) (h : memWf s.mem =
    true) : memWf (checkTarget s core ctx t lnd).1.mem = true := by
  unfold checkTarget; grind [demand_memOk, → demand_memOk_of, translate_memOk, → translate_memOk_of]
theorem checkTarget_memOk_of (s : State) (core : Nat) (ctx : Nat) (t : Nat) (lnd : Bool) (h : memWf s.mem = true) {tt
    : State} {aa : Nat × Nat} (hh : checkTarget s core ctx t lnd = (tt, aa)) : memWf tt.mem = true := by
  have := checkTarget_memOk s core ctx t lnd h; simpa only [hh] using this
@[simp] theorem checkTargets_memOk (core : Nat) (ctx : Nat) (lnd : Bool) (a3 : List (Nat × Nat)) (a4 : State) (h :
    memWf a4.mem = true) : memWf (checkTargets core ctx lnd a3 a4).1.mem = true := by
  revert h
  fun_induction checkTargets core ctx lnd a3 a4 <;> intro h <;> grind [checkTarget_memOk, → checkTarget_memOk_of]
theorem checkTargets_memOk_of (core : Nat) (ctx : Nat) (lnd : Bool) (a3 : List (Nat × Nat)) (a4 : State) (h : memWf
    a4.mem = true) {tt : State} {aa : List (Nat × Nat × Nat × Nat)} (hh : checkTargets core ctx lnd a3 a4 = (tt, aa))
    : memWf tt.mem = true := by
  have := checkTargets_memOk core ctx lnd a3 a4 h; simpa only [hh] using this
@[simp] theorem claimTrap_memOk (s : State) (w : Nat) (h : memWf s.mem = true) : memWf (claimTrap s w).mem = true :=
    by
  unfold claimTrap; dsimp only
  split
  · exact h
  · generalize hx : modWv s w _ = x
    have hx : memWf x.mem = true := by rw [← hx]; simp [h]
    have hw : ∀ (t : State) (c x a : Nat), memWf t.mem = true →
        memWf (match fetchWord t c x a true with | (s, .ok x) => (s, x) | (s, .error _) => (s, 0) : State ×
            Nat).1.mem = true := by
      intro t c x a ht
      split <;> (rename_i hv; exact fetchWord_memOk_of (h := ht) (hh := hv))
    rw [raiseTrap_mem]; exact hw _ _ _ _ (hw _ _ _ _ hx)
@[simp] theorem spoil_memOk (s : State) (core : Nat) (ctx : Nat) (b : List Byte) (h : memWf s.mem = true) : memWf
    (spoil s core ctx b).mem = true := by
  unfold spoil
  dsimp only
  (repeat' split) <;> simp [h]
@[simp] theorem collPeer_memOk (s : State) (c : Coll) (h : memWf s.mem = true) : memWf (collPeer s c).mem = true :=
    by simp [collPeer, h]
@[simp] theorem readAll_memOk (a0 : List (Nat × Coll)) (a1 : State) (h : memWf a1.mem = true) : memWf (readAll a0
    a1).1.mem = true := by
  revert h
  fun_induction readAll a0 a1 <;> intro h <;> grind [collReads_memOk, → collReads_memOk_of]
theorem readAll_memOk_of (a0 : List (Nat × Coll)) (a1 : State) (h : memWf a1.mem = true) {tt : State} {aa : Except
    (Coll × EngFault) (List (Nat × Coll × Nat × Nat))} (hh : readAll a0 a1 = (tt, aa)) : memWf tt.mem = true := by
  have := readAll_memOk a0 a1 h; simpa only [hh] using this
@[simp] theorem collBegin_memOk (s : State) (c : Coll) (far : Nat) (h : memWf s.mem = true) : memWf (collBegin s c
    far).mem = true := by
  unfold collBegin; dsimp only
  split
  · rename_i hv; simp [collRanks_memOk_of (h := h) (hh := hv)]
  · rename_i hv
    have hv := collRanks_memOk_of (h := h) (hh := hv)
    (repeat' split)
    · exact foldl_memOk (by intro t x ht; simp [ht]) _ _ hv
    · exact hv
    · rename_i hw; simp [readAll_memOk_of (h := hv) (hh := hw)]
    · rename_i hw; simp [readAll_memOk_of (h := hv) (hh := hw)]
@[simp] theorem launchEvent_memOk (s : State) (l : Launch) (status : Nat) (detail : Nat) (stack : Nat) (h : memWf
    s.mem = true) : memWf (launchEvent s l status detail stack).mem = true := by
  unfold launchEvent
  (repeat' split) <;> simp [h]
@[simp] theorem completeFenced_memOk (s : State) (c : Nat) (h : memWf s.mem = true) : memWf (completeFenced s c).mem
    = true := by
  unfold completeFenced; dsimp only
  refine foldl_memOk (by intro t x ht; simp [ht]) _ _ ?_
  simp only [modCx_mem]
  exact foldl_memOk (by intro t x ht; simp [ht]) _ _ h
@[simp] theorem pieceData_memOk (s : State) (c : Copy) (r : Nat) (off : Nat) (n : Nat) (h : memWf s.mem = true) :
    memWf (pieceData s c r off n).1.mem = true := by
  unfold pieceData; grind [engRead_memOk, → engRead_memOk_of]
theorem pieceData_memOk_of (s : State) (c : Copy) (r : Nat) (off : Nat) (n : Nat) (h : memWf s.mem = true) {tt :
    State} {aa : Except EngFault Nat} (hh : pieceData s c r off n = (tt, aa)) : memWf tt.mem = true := by
  have := pieceData_memOk s c r off n h; simpa only [hh] using this
@[simp] theorem engQueuePage_memOk (s : State) (core : Nat) (c : Nat) (cls : AccClass) (va : Nat) (n : Nat) (v : Nat)
    (tag : Nat) (add : Bool) (h : memWf s.mem = true) : memWf (engQueuePage s core c cls va n v tag add).1.mem = true
    := by
  unfold engQueuePage; dsimp only
  (repeat' split) <;> first | (simp; done) | (simp_all; done) | (simp; grind [translate_memOk, →
      translate_memOk_of])
theorem engQueuePage_memOk_of (s : State) (core : Nat) (c : Nat) (cls : AccClass) (va : Nat) (n : Nat) (v : Nat) (tag
    : Nat) (add : Bool) (h : memWf s.mem = true) {tt : State} {aa : Except EngFault Unit} (hh : engQueuePage s core c
    cls va n v tag add = (tt, aa)) : memWf tt.mem = true := by
  have := engQueuePage_memOk s core c cls va n v tag add h; simpa only [hh] using this
@[simp] theorem engQueueFrom_memOk (core : Nat) (c : Nat) (cls : AccClass) (tag : Nat) (add : Bool) (a5 : Nat) (a6 :
    Nat) (a7 : Nat) (a8 : Nat) (a9 : State) (h : memWf a9.mem = true) : memWf (engQueueFrom core c cls tag add a5 a6
    a7 a8 a9).1.mem = true := by
  revert h
  fun_induction engQueueFrom core c cls tag add a5 a6 a7 a8 a9 <;> intro h <;> grind [engQueuePage_memOk, →
      engQueuePage_memOk_of]
theorem engQueueFrom_memOk_of (core : Nat) (c : Nat) (cls : AccClass) (tag : Nat) (add : Bool) (a5 : Nat) (a6 : Nat)
    (a7 : Nat) (a8 : Nat) (a9 : State) (h : memWf a9.mem = true) {tt : State} {aa : Except EngFault Unit} (hh :
    engQueueFrom core c cls tag add a5 a6 a7 a8 a9 = (tt, aa)) : memWf tt.mem = true := by
  have := engQueueFrom_memOk core c cls tag add a5 a6 a7 a8 a9 h; simpa only [hh] using this
@[simp] theorem engQueue_memOk (s : State) (core : Nat) (c : Nat) (cls : AccClass) (va : Nat) (n : Nat) (v : Nat)
    (tag : Nat) (add : Bool) (h : memWf s.mem = true) : memWf (engQueue s core c cls va n v tag add).1.mem = true :=
    by simp [engQueue, h]
theorem engQueue_memOk_of (s : State) (core : Nat) (c : Nat) (cls : AccClass) (va : Nat) (n : Nat) (v : Nat) (tag :
    Nat) (add : Bool) (h : memWf s.mem = true) {tt : State} {aa : Except EngFault Unit} (hh : engQueue s core c cls
    va n v tag add = (tt, aa)) : memWf tt.mem = true := by
  have := engQueue_memOk s core c cls va n v tag add h; simpa only [hh] using this
@[simp] theorem pieceWrite_memOk (s : State) (c : Copy) (a : Nat) (n : Nat) (v : Nat) (h : memWf s.mem = true) :
    memWf (pieceWrite s c a n v).1.mem = true := by
  unfold pieceWrite; dsimp only
  (repeat' split) <;> first | (simp [h]; done) | (simp_all; done) | grind [engQueue_memOk, → engQueue_memOk_of]
theorem pieceWrite_memOk_of (s : State) (c : Copy) (a : Nat) (n : Nat) (v : Nat) (h : memWf s.mem = true) {tt :
    State} {aa : Except EngFault Nat} (hh : pieceWrite s c a n v = (tt, aa)) : memWf tt.mem = true := by
  have := pieceWrite_memOk s c a n v h; simpa only [hh] using this
@[simp] theorem copyPiece_memOk (s : State) (c : Copy) (h : memWf s.mem = true) : memWf (copyPiece s c).mem = true :=
    by
  unfold copyPiece; dsimp only
  (repeat' split) <;> first | (simp [h]; done) | (simp_all; done) | (simp; grind [→ nextPiece_mem_of,
      pieceData_memOk, → pieceData_memOk_of, pieceWrite_memOk, → pieceWrite_memOk_of])
@[simp] theorem d2hAnswer_memOk (s : State) (req : Nat) (line : Nat) (kind : Nat) (v : Nat) (h : memWf s.mem = true)
    : memWf (d2hAnswer s req line kind v).mem = true := by
  unfold d2hAnswer
  dsimp only
  (repeat' split) <;> simp [h]
@[simp] theorem drainBin_memOk (s : State) (b : Bin) (h : memWf s.mem = true) : memWf (drainBin s b).mem = true := by
    simp [drainBin, h]
@[simp] theorem drainParts_memOk (s : State) (core : Nat) (ctx : Nat) (add : Bool) (a4 : List (Nat × Nat × Nat)) (h :
    memWf s.mem = true) : memWf (drainParts s core ctx add a4).1.mem = true := by
  induction a4 generalizing s with
  | nil => exact h
  | cons x r ih =>
    obtain ⟨a, n, v⟩ := x
    rw [drainParts]; split
    · rename_i hv; exact ih _ (translate_memOk_of (h := h) (hh := hv))
    · rename_i hv
      have hv := translate_memOk_of (h := h) (hh := hv)
      exact ih _ (by split <;> simp [hv])
theorem drainParts_memOk_of (s : State) (core : Nat) (ctx : Nat) (add : Bool) (a4 : List (Nat × Nat × Nat)) (h :
    memWf s.mem = true) {tt : State} {aa : List EngPart × List (Nat × Nat × Nat) × Option EngFault} (hh : drainParts
    s core ctx add a4 = (tt, aa)) : memWf tt.mem = true := by
  have := drainParts_memOk s core ctx add a4 h; simpa only [hh] using this
@[simp] theorem gridOver_memOk (s : State) (c : Nat) (id : Nat) (h : memWf s.mem = true) : memWf (gridOver s c
    id).mem = true := by
  unfold gridOver
  (repeat' split) <;> simp [h]
@[simp] theorem publishGroup_memOk (s : State) (c : Nat) (id : Nat) (st : Nat) (lin : Nat) (k : Nat) (h : memWf s.mem
    = true) : memWf (publishGroup s c id st lin k).mem = true := by
  unfold publishGroup
  dsimp only
  (repeat' split) <;> simp [h]
@[simp] theorem dropGroup_memOk (s : State) (g : Nat) (h : memWf s.mem = true) : memWf (dropGroup s g).mem = true :=
    by simp [dropGroup, h]
@[simp] theorem entryLost_memOk (c : Nat) (s : State) (e : DafEntry) (h : memWf s.mem = true) : memWf (entryLost c s
    e).mem = true := by
  unfold entryLost; dsimp only
  (repeat' split) <;> simp [h]
@[simp] theorem fenceOver_memOk (s : State) (c : Nat) (h : memWf s.mem = true) : memWf (fenceOver s c).mem = true :=
    by simp [fenceOver, h]
@[simp] theorem homeAtomic_memOk (s : State) (a : Acc) (pa : Nat) (code : Nat) (d : Nat) (e : Nat) (h : memWf s.mem =
    true) : memWf (homeAtomic s a pa code d e).1.mem = true := by simp [homeAtomic, h]
theorem homeAtomic_memOk_of (s : State) (a : Acc) (pa : Nat) (code : Nat) (d : Nat) (e : Nat) (h : memWf s.mem =
    true) {tt : State} {aa : Nat} (hh : homeAtomic s a pa code d e = (tt, aa)) : memWf tt.mem = true := by
  have := homeAtomic_memOk s a pa code d e h; simpa only [hh] using this
@[simp] theorem homeWrite_memOk (s : State) (pa : Nat) (a2 : Nat) (a3 : Nat) (h : memWf s.mem = true) : memWf
    (homeWrite s pa a2 a3).mem = true := by
  revert h
  fun_induction homeWrite s pa a2 a3 <;> intro h <;> grind [setHomeByte_memOk]
@[simp] theorem hostArrive_memOk (s : State) (e : Arrival) (h : memWf s.mem = true) : memWf (hostArrive s e).mem =
    true := by simp [hostArrive, h]
@[simp] theorem hpRecord_memOk (s : State) (k : Nat) (a : Nat) (v : Nat) (rest : List (Nat × Nat)) (h : memWf s.mem =
    true) : memWf (hpRecord s k a v rest).mem = true := by simp [hpRecord, h]
@[simp] theorem imagoPerform_memOk (s : State) (a : Acc) (h : memWf s.mem = true) : memWf (imagoPerform s a).mem =
    true := by
  unfold imagoPerform
  (repeat' split) <;> simp_all <;> grind [imagoHome_memOk, → imagoHome_memOk_of]
@[simp] theorem liveRecord_memOk (s : State) (ag : Agent) (c : Nat) (k : Kernel) (off : Nat) (h : memWf s.mem = true)
    : memWf (liveRecord s ag c k off).1.mem = true := by
  unfold liveRecord; grind [engBytes_memOk, → engBytes_memOk_of]
theorem liveRecord_memOk_of (s : State) (ag : Agent) (c : Nat) (k : Kernel) (off : Nat) (h : memWf s.mem = true) {tt
    : State} {aa : Option (List Byte)} (hh : liveRecord s ag c k off = (tt, aa)) : memWf tt.mem = true := by
  have := liveRecord_memOk s ag c k off h; simpa only [hh] using this
@[simp] theorem matDrain_memOk (s : State) (p : Nat) (m : MatOp) (shape : Nat) (h : memWf s.mem = true) : memWf
    (matDrain s p m shape).mem = true := by
  unfold matDrain; dsimp only
  (repeat' split) <;> first | (simp [h]; done) | (simp_all; done) | (simp; grind [→ drainBanks_mem_of,
      drainParts_memOk, → drainParts_memOk_of, → drainSend_mem_of])
@[simp] theorem readRuns_memOk (core : Nat) (ctx : Nat) (a2 : List (Nat × Nat)) (a3 : State) (h : memWf a3.mem =
    true) : memWf (readRuns core ctx a2 a3).1.mem = true := by
  revert h
  fun_induction readRuns core ctx a2 a3 <;> intro h <;> grind [engRead_memOk, → engRead_memOk_of]
theorem readRuns_memOk_of (core : Nat) (ctx : Nat) (a2 : List (Nat × Nat)) (a3 : State) (h : memWf a3.mem = true) {tt
    : State} {aa : Except EngFault (List Nat)} (hh : readRuns core ctx a2 a3 = (tt, aa)) : memWf tt.mem = true := by
  have := readRuns_memOk core ctx a2 a3 h; simpa only [hh] using this
@[simp] theorem matFill_memOk (s : State) (p : Nat) (m : MatOp) (shape : Nat) (h : memWf s.mem = true) : memWf
    (matFill s p m shape).mem = true := by
  unfold matFill; dsimp only
  split <;> (rename_i hv; simp [readRuns_memOk_of (h := h) (hh := hv)])
@[simp] theorem pinRead_memOk (ctx : Nat) (core : Nat) (a2 : Nat) (s : State) (va : Nat) (h : memWf s.mem = true) :
    memWf (pinRead ctx core a2 s va).mem = true := by
  unfold pinRead
  split
  · rename_i hv; exact translate_memOk_of (h := h) (hh := hv)
  · rename_i hv
    have hv := translate_memOk_of (h := h) (hh := hv)
    dsimp only
    (repeat' split) <;> simp [hv]
@[simp] theorem tileAhead_memOk (s : State) (core : Nat) (ctx : Nat) (m : MatOp) (shape : Nat) (h : memWf s.mem =
    true) : memWf (tileAhead s core ctx m shape).mem = true := by
  unfold tileAhead
  split
  · exact foldl_memOk (fun t x ht => aheadOf_memOk ht fun t a b p ht => by simp [ht]) _ _ h
  · exact h
@[simp] theorem matRead_memOk (s : State) (p : Nat) (m : MatOp) (shape : Nat) (h : memWf s.mem = true) : memWf
    (matRead s p m shape).mem = true := by
  unfold matRead; dsimp only
  split
  · rename_i hv; simp [readRuns_memOk_of (h := h) (hh := hv)]
  · rename_i hv
    have hv := readRuns_memOk_of (h := h) (hh := hv)
    have hp : ∀ l u, memWf u.mem = true → memWf (List.foldl (pinRead (wv s m.wave).ctx (2 * p) m.op) u l).mem = true
        :=
      fun l u hu => foldl_memOk (fun t x ht => by simp [ht]) l u hu
    split <;> simp [hp _ _ hv]
@[simp] theorem matNext_memOk (s : State) (p : Nat) (m : MatOp) (h : memWf s.mem = true) : memWf (matNext s p m).mem
    = true := by
  unfold matNext; dsimp only
  (repeat' split) <;> simp [h]
@[simp] theorem mmioPerform_memOk (s : State) (a : Acc) (h : memWf s.mem = true) : memWf (mmioPerform s a).mem = true
    := by
  unfold mmioPerform; dsimp only
  split
  · simp only [completeAcc_mem]
    exact foldl_memOk (by intro t x ht; simp [ht]) _ _ h
  · split <;> simp [h]
@[simp] theorem performHome_memOk (s : State) (a : Acc) (h : memWf s.mem = true) : memWf (performHome s a).mem = true
    := by
  unfold performHome
  dsimp only
  (repeat' split) <;> simp [h]
@[simp] theorem pixelMat_memOk (s : State) (ag : Agent) (c : Nat) (b : List Byte) (ident : Nat) (h : memWf s.mem =
    true) : memWf (pixelMat s ag c b ident).1.mem = true := by
  unfold pixelMat
  (repeat' split) <;> simp_all <;> grind [materialOf_memOk, → materialOf_memOk_of, matRecord_memOk, →
      matRecord_memOk_of]
theorem pixelMat_memOk_of (s : State) (ag : Agent) (c : Nat) (b : List Byte) (ident : Nat) (h : memWf s.mem = true)
    {tt : State} {aa : Except EngFault (Option (Nat × Bool))} (hh : pixelMat s ag c b ident = (tt, aa)) : memWf
    tt.mem = true := by
  have := pixelMat_memOk s ag c b ident h; simpa only [hh] using this
@[simp] theorem reloadFormat_memOk (core : Nat) (ctx : Nat) (s : State) (f : Option NodeFormat) (h : memWf s.mem =
    true) : memWf (reloadFormat core ctx s f).1.mem = true := by
  unfold reloadFormat; grind [engBytes_memOk, → engBytes_memOk_of]
theorem reloadFormat_memOk_of (core : Nat) (ctx : Nat) (s : State) (f : Option NodeFormat) (h : memWf s.mem = true)
    {tt : State} {aa : Option NodeFormat} (hh : reloadFormat core ctx s f = (tt, aa)) : memWf tt.mem = true := by
  have := reloadFormat_memOk core ctx s f h; simpa only [hh] using this
@[simp] theorem readProgram_memOk (core : Nat) (ctx : Nat) (a2 : Nat) (a3 : Nat) (a4 : State) (h : memWf a4.mem =
    true) : memWf (readProgram core ctx a2 a3 a4).1.mem = true := by
  revert h
  fun_induction readProgram core ctx a2 a3 a4 <;> intro h <;> grind [engRead_memOk, → engRead_memOk_of]
theorem readProgram_memOk_of (core : Nat) (ctx : Nat) (a2 : Nat) (a3 : Nat) (a4 : State) (h : memWf a4.mem = true)
    {tt : State} {aa : Except EngFault (List Word)} (hh : readProgram core ctx a2 a3 a4 = (tt, aa)) : memWf tt.mem =
    true := by
  have := readProgram_memOk core ctx a2 a3 a4 h; simpa only [hh] using this
@[simp] theorem reloadSlot_memOk (core : Nat) (ctx : Nat) (s : State) (b : List Byte) (h : memWf s.mem = true) :
    memWf (reloadSlot core ctx s b).1.mem = true := by
  unfold reloadSlot; grind [readProgram_memOk, → readProgram_memOk_of]
theorem reloadSlot_memOk_of (core : Nat) (ctx : Nat) (s : State) (b : List Byte) (h : memWf s.mem = true) {tt :
    State} {aa : PatSlot} (hh : reloadSlot core ctx s b = (tt, aa)) : memWf tt.mem = true := by
  have := reloadSlot_memOk core ctx s b h; simpa only [hh] using this
@[simp] theorem restoreWave_memOk (g : Nat) (s : State) (x : SavedWave) (q : Nat) (h : memWf s.mem = true) : memWf
    (restoreWave g s x q).mem = true := by
  have h2 : memWf (selfInvalidate s (q / 4)).mem = true := by simp [h]
  have h3 : memWf (x.slots.foldl (fun (a : State × List PatSlot) y =>
      ((reloadSlot (q / 4) x.wave.ctx a.1 y).1, a.2 ++ [(reloadSlot (q / 4) x.wave.ctx a.1 y).2]))
      (selfInvalidate s (q / 4), [])).1.mem = true :=
    foldl_memOk_fst (by intro t y ht; simp [ht]) _ _ h2
  unfold restoreWave; dsimp only
  generalize List.foldl (fun (a : State × List PatSlot) y =>
      ((reloadSlot (q / 4) x.wave.ctx a.1 y).1, a.2 ++ [(reloadSlot (q / 4) x.wave.ctx a.1 y).2]))
      (selfInvalidate s (q / 4), []) x.slots = ps at *
  have h4 := reloadFormat_memOk (q / 4) x.wave.ctx ps.1 x.wave.nfmt h3
  simp only [modPr_mem]
  refine foldl_memOk (fun t y ht => by simp [ht]) _ _ (foldl_memOk (fun t y ht => by simp [ht]) _ _ ?_)
  simpa using h4
@[simp] theorem restoreGroup_memOk (s : State) (p : Nat) (g : Nat) (prio : Nat) (h : memWf s.mem = true) : ∀ t,
    restoreGroup s p g prio = some t → memWf t.mem = true := by
  unfold restoreGroup; dsimp only
  (repeat' split) <;> intro t ht <;> simp at ht
  rw [← ht, foldl_mem (by intro t x; simp)]
  exact foldl_memOk (by intro t x ht; simp [ht]) _ _ (by simp [h])
@[simp] theorem placeAt_memOk (s : State) (k : Nat) (x : Cand) (p : Nat) (h : memWf s.mem = true) : ∀ t, placeAt s k
    x p = some t → memWf t.mem = true := by
  unfold placeAt; dsimp only
  split
  · have hf : ∀ (pr : Nat) (l : List Nat) (o : Option State), (∀ t, o = some t → memWf t.mem = true) →
        ∀ t, l.foldl (fun o y => o.bind fun s => restoreGroup s p y pr) o = some t → memWf t.mem = true := by
      intro pr l; induction l with
      | nil => intro o ho; exact ho
      | cons a r ih =>
        intro o ho; refine ih _ ?_
        intro t ht
        cases o with
        | none => simp at ht
        | some u => exact restoreGroup_memOk u p a _ (ho u rfl) t ht
    exact hf _ _ _ (by intro t ht; simp at ht; rw [← ht]; exact h)
  · (repeat' split) <;> intro t ht <;> simp at ht
    rw [← ht]; simp [h]
@[simp] theorem placement_memOk (s : State) (k : Nat) (h : memWf s.mem = true) : ∀ t, placement s k = some t → memWf
    t.mem = true := by
  unfold placement
  split
  · intro t ht; simp at ht
  · intro t ht
    obtain ⟨l, a, r, -, ha, -⟩ := List.findSome?_eq_some_iff.1 ht
    exact placeAt_memOk _ _ _ _ h t ha
@[simp] theorem postLane_memOk (w : Nat) (id : Nat) (s : State) (l : Nat) (h : memWf s.mem = true) : memWf (postLane
    w id s l).mem = true := by
  unfold postLane; dsimp only
  (repeat' split) <;> first
    | exact h
    | (have hv := kernelAt_memOk_of (h := h) (hh := by assumption); simp [hv])
@[simp] theorem prefetchLane_memOk (core : Nat) (ctx : Nat) (lvl : Nat) (s : State) (va : Nat) (h : memWf s.mem =
    true) : memWf (prefetchLane core ctx lvl s va).mem = true := by
  unfold prefetchLane
  split
  · exact h
  split
  · rename_i hv; exact translate_memOk_of (h := h) (hh := hv)
  · rename_i hv
    have hv := translate_memOk_of (h := h) (hh := hv)
    dsimp only
    (repeat' split) <;> simp [hv]
@[simp] theorem pubPages_memOk (core : Nat) (ctx : Nat) (a2 : Nat) (a3 : Nat) (a4 : Nat) (a5 : State) (h : memWf
    a5.mem = true) : memWf (pubPages core ctx a2 a3 a4 a5).1.mem = true := by
  revert h
  fun_induction pubPages core ctx a2 a3 a4 a5 <;> intro h <;> grind [translate_memOk, → translate_memOk_of]
theorem pubPages_memOk_of (core : Nat) (ctx : Nat) (a2 : Nat) (a3 : Nat) (a4 : Nat) (a5 : State) (h : memWf a5.mem =
    true) {tt : State} {aa : Except EngFault (List (Nat × Nat))} (hh : pubPages core ctx a2 a3 a4 a5 = (tt, aa)) :
    memWf tt.mem = true := by
  have := pubPages_memOk core ctx a2 a3 a4 a5 h; simpa only [hh] using this
@[simp] theorem pubNamed_memOk (s : State) (core : Nat) (ctx : Nat) (c : Nat) (va : Nat) (h : memWf s.mem = true) :
    memWf (pubNamed s core ctx c va).1.mem = true := by
  unfold pubNamed; grind [pubPages_memOk, → pubPages_memOk_of, translate_memOk, → translate_memOk_of]
theorem pubNamed_memOk_of (s : State) (core : Nat) (ctx : Nat) (c : Nat) (va : Nat) (h : memWf s.mem = true) {tt :
    State} {aa : Except EngFault (List (Nat × Nat))} (hh : pubNamed s core ctx c va = (tt, aa)) : memWf tt.mem = true
    := by
  have := pubNamed_memOk s core ctx c va h; simpa only [hh] using this
@[simp] theorem recallAtCore_memOk (s : State) (id : Nat) (kind : Nat) (h : memWf s.mem = true) : memWf (recallAtCore
    s id kind).mem = true := by
  unfold recallAtCore
  dsimp only
  (repeat' split) <;> simp [h]
@[simp] theorem startColl_memOk (s : State) (w : Nat) (id : Nat) (h : memWf s.mem = true) : memWf (startColl s w
    id).mem = true := by
  unfold startColl; dsimp only
  (repeat' split) <;> simp [h]
@[simp] theorem startPost_memOk (s : State) (w : Nat) (id : Nat) (m : Lanes) (h : memWf s.mem = true) : memWf
    (startPost s w id m).mem = true := by
  unfold startPost
  exact foldl_memOk (by intro t x ht; (repeat' split) <;> simp [ht]) _ _ h
@[simp] theorem startPub_memOk (s : State) (replay : Bool) (w : Nat) (id : Nat) (h : memWf s.mem = true) : memWf
    (startPub s replay w id).mem = true := by
  unfold startPub; dsimp only
  (repeat' split) <;> first | (simp [h]; done) | (simp_all; done) | (simp; grind [→ fresh_mem_of, → newAcc_mem_of,
      pubNamed_memOk, → pubNamed_memOk_of])
@[simp] theorem startReplay_memOk (i : Instr) (s : State) (w : Nat) (id : Nat) (m : Lanes) (h : memWf s.mem = true) :
    memWf (startReplay i s w id m).mem = true := by
  unfold startReplay
  (repeat' split) <;> simp [h]
@[simp] theorem replayNew_memOk (s : State) (w : Nat) (e : Entry) (h : memWf s.mem = true) : memWf (replayNew s w
    e).mem = true := by
  unfold replayNew
  dsimp only
  (repeat' split) <;> simp [h]
@[simp] theorem replayEntry_memOk (s : State) (w : Nat) (id : Nat) (e : Entry) (h : memWf s.mem = true) : memWf
    (replayEntry s w id e).mem = true := by
  unfold replayEntry
  (repeat' split) <;> simp [h]
@[simp] theorem retireCore_memOk (s : State) (c : Nat) (h : memWf s.mem = true) : memWf (retireCore s c).mem = true
    := by
  unfold retireCore
  exact foldl_memOk (by intro t x ht; (repeat' split) <;> simp [ht]) _ _ h
@[simp] theorem retireUnit_memOk (s : State) (c : Nat) (whole : Bool) (h : memWf s.mem = true) : memWf (retireUnit s
    c whole).mem = true := by
  unfold retireUnit; dsimp only
  (repeat' split) <;> simp [h]
@[simp] theorem runWalk_memOk (core : Nat) (a1 : Nat) (a2 : Bool) (a3 : FfWalk) (a4 : State) (h : memWf a4.mem =
    true) : memWf (runWalk core a1 a2 a3 a4).mem = true := by
  induction a1 generalizing a2 a3 a4 with
  | zero => rw [runWalk]; simp [h]
  | succ n ih =>
    rw [runWalk]
    (repeat' split) <;> first | (simp [h]; done) | (exact ih _ _ _ h) | skip
    all_goals rename_i hv
    · exact ih _ _ _ (by simp [engBytes_memOk_of (h := h) (hh := hv)])
    · simp [engBytes_memOk_of (h := h) (hh := hv)]
@[simp] theorem sampleRegion_memOk (s : State) (g : Nat) (h : memWf s.mem = true) : memWf (sampleRegion s g).mem =
    true := by
  unfold sampleRegion; dsimp only
  (repeat' split) <;> simp [h]
@[simp] theorem saveWave_memOk (s : State) (w : Nat) (pc : Nat) (grp : Lanes) (h : memWf s.mem = true) : memWf
    (saveWave s w pc grp).mem = true := by
  unfold saveWave
  dsimp only
  (repeat' split) <;> simp [h]
@[simp] theorem scanPixel_memOk (s : State) (ag : Agent) (t : Tile) (b : List Byte) (k : Nat) (h : memWf s.mem =
    true) : memWf (scanPixel s ag t b k).1.mem = true := by
  unfold scanPixel
  (repeat' split) <;> simp_all <;> grind [engRead_memOk, → engRead_memOk_of, pixelMat_memOk, → pixelMat_memOk_of]
theorem scanPixel_memOk_of (s : State) (ag : Agent) (t : Tile) (b : List Byte) (k : Nat) (h : memWf s.mem = true) {tt
    : State} {aa : Pixel} (hh : scanPixel s ag t b k = (tt, aa)) : memWf tt.mem = true := by
  have := scanPixel_memOk s ag t b k h; simpa only [hh] using this
@[simp] theorem scanPixels_memOk (s : State) (ag : Agent) (t : Tile) (b : List Byte) (h : memWf s.mem = true) : memWf
    (scanPixels s ag t b).1.mem = true := by
  unfold scanPixels
  exact foldl_memOk_fst (by intro t x ht; simp [ht]) _ _ h
theorem scanPixels_memOk_of (s : State) (ag : Agent) (t : Tile) (b : List Byte) (h : memWf s.mem = true) {tt : State}
    {aa : List Pixel} (hh : scanPixels s ag t b = (tt, aa)) : memWf tt.mem = true := by
  have := scanPixels_memOk s ag t b h; simpa only [hh] using this
@[simp] theorem serveEng_memOk (s : State) (msg : Msg) (tag : Nat) (ps : List EngPart) (add : Bool) (h : memWf s.mem
    = true) : memWf (serveEng s msg tag ps add).mem = true := by
  unfold serveEng; dsimp only
  split
  · rename_i hq
    obtain ⟨x, -, hx⟩ := List.exists_of_findSome?_eq_some hq
    rw [partWaits_mem _ _ _ _ _ hx]; exact h
  · simp only [ackTo_mem, parkEng_mem]
    exact foldl_memOk (fun t x ht => by simp [ht]) _ _ (foldl_memOk (fun t x ht => by simp [ht]) _ _ h)
@[simp] theorem serveHome_memOk (s : State) (msg : Msg) (a : Acc) (h : memWf s.mem = true) : memWf (serveHome s msg
    a).mem = true := by
  have hx : ∀ (r : Bool) (t : State), (if r then fillFor s msg (lineOf (accPa s a)) (lineMask (accPa s a) a.mask)
      else none) = some t →
      memWf t.mem = true := by
    intro r t ht
    cases r
    · simp at ht
    · rw [fillFor_mem _ _ _ _ _ ht]; exact h
  unfold serveHome; dsimp only
  split
  · rename_i hv; simp [hostFor_mem _ _ _ _ _ _ hv, h]
  · split
    · rename_i hv; exact hx _ _ hv
    · split
      · rename_i hv; simp [recallFor_mem _ _ _ _ _ _ _ hv, h]
      · simp [h]
@[simp] theorem serveImago_memOk (s : State) (msg : Msg) (a : Acc) (ack : Bool) (h : memWf s.mem = true) : memWf
    (serveImago s msg a ack).mem = true := by
  unfold serveImago; dsimp only
  split
  · rename_i t hq
    rcases Option.or_eq_some_iff.1 hq with hq | ⟨_, hq⟩
    · rw [hostFor_mem _ _ _ _ _ _ hq]; exact h
    · rw [fillFor_mem _ _ _ _ _ hq]; exact h
  split
  · rename_i hq; rw [recallFor_mem _ _ _ _ _ _ _ hq]; exact h
  · split <;> simp [h]
@[simp] theorem serveReg_memOk (s : State) (msg : Msg) (line : Nat) (m : BitVec 128) (h : memWf s.mem = true) : memWf
    (serveReg s msg line m).mem = true := by
  unfold serveReg; dsimp only
  (repeat' split) <;> first | (simp [h]; done) | (rename_i hv; simp [hostFor_mem _ _ _ _ _ _ hv, h]; done) | skip
  cases hr : recallFor s msg line m (some msg.core) false with
  | none => exact h
  | some t => simpa [recallFor_mem _ _ _ _ _ _ _ hr] using h
@[simp] theorem setupFrag_memOk (s : State) (f : Fragment) (h : memWf s.mem = true) : memWf (setupFrag s f).mem =
    true := by
  unfold setupFrag; dsimp only
  (repeat' split) <;> first | (simp [h]; done) | skip
  all_goals
    have hv := viewOf_memOk_of (h := h) (hh := by assumption)
    simp [hv]
@[simp] theorem snoopReply_memOk (s : State) (p : Nat) (line : Nat) (h : memWf s.mem = true) : memWf (snoopReply s p
    line).mem = true := by simp [snoopReply, h]
@[simp] theorem walkNow_memOk (s : State) (a : Acc) (h : memWf s.mem = true) : memWf (walkNow s a).1.mem = true := by
    simp [walkNow, h]
theorem walkNow_memOk_of (s : State) (a : Acc) (h : memWf s.mem = true) {tt : State} {aa : WalkRes} (hh : walkNow s a
    = (tt, aa)) : memWf tt.mem = true := by
  have := walkNow_memOk s a h; simpa only [hh] using this
@[simp] theorem startWalk_memOk (s : State) (a : Acc) (h : memWf s.mem = true) : memWf (startWalk s a).mem = true :=
    by
  unfold startWalk; dsimp only
  (repeat' split) <;> simp [h]
@[simp] theorem tmAdvance_memOk (s : State) (p : Nat) (h : memWf s.mem = true) : memWf (tmAdvance s p).mem = true :=
    by
  unfold tmAdvance; dsimp only
  (repeat' split) <;> simp [h]
theorem noteReady_mem (run : Instr → State → Host.Outcome State Fault Refusal) (s : State) (w : Nat) :
    (noteReady run s w).mem = s.mem := by
  unfold noteReady; dsimp only
  (repeat' split) <;> simp
theorem tick_memOk (run : Instr → State → Host.Outcome State Fault Refusal) (k : Nat) (s : State)
    (h : memWf s.mem = true) : memWf (tick run k s).mem = true := by
  unfold tick; dsimp only
  rw [foldl_mem (by intro t w; simp)]
  simpa [foldl_mem (fun t w => noteReady_mem run t w)] using h
theorem guardedCmd_memOk (s : State) (src c : Nat) (f : State → State) (h : memWf s.mem = true)
    (hf : ∀ t, memWf t.mem = true → memWf (f t).mem = true) : memWf (guardedCmd s src c f).mem = true := by
  unfold guardedCmd; dsimp only
  (repeat' split) <;> first | (simp [h]; done) | exact hf _ (by simp [h])
theorem replayEntries_memOk (w : Nat) (replay : State → Nat → Nat → Entry → State) (held : List Opr)
    (hf : ∀ t x y e, memWf t.mem = true → memWf (replay t x y e).mem = true) (ids : List Nat) (es : List Entry) (s :
        State)
    (h : memWf s.mem = true) : memWf (replayEntries w replay held ids es s).mem = true := by
  induction es generalizing ids s with
  | nil => rw [replayEntries]; exact h
  | cons e r ih =>
    rw [replayEntries]
    split
    · exact ih _ _ h
    · dsimp only
      split
      · exact ih _ _ (hf _ _ _ _ (by simp [h]))
      · exact ih _ _ h
    · exact ih _ _ (hf _ _ _ _ h)
theorem returnTrap_memOk (s : State) (w : Nat) (replay : State → Nat → Nat → Entry → State)
    (hf : ∀ t x y e, memWf t.mem = true → memWf (replay t x y e).mem = true)
    (h : memWf s.mem = true) : memWf (returnTrap s w replay).mem = true := by
  unfold returnTrap; dsimp only
  split
  · simp [h]
  · rw [modWv_mem]
    exact replayEntries_memOk _ _ _ hf _ _ _ (by simpa using h)
theorem returnTrap_memOk_replay (s : State) (w : Nat) (h : memWf s.mem = true) :
    memWf (returnTrap s w replayEntry).mem = true :=
  returnTrap_memOk s w _ (fun t x y e ht => by simp [ht]) h

end Sys2Proof.Machine
end

