-- ==== Sys2Proof/Laws/Arms.lean ====
section
/-! SUPPORT. What an instruction may do to memory. `execX_mem`: an arm that stores nothing when it runs answers a state
with the memory it was given; `execX_memOk`: an arm that may store keeps the canonical form. The shared operations come
first, one lemma each. -/

namespace Sys2Proof.Machine
open Sys2Proof.Machine.State

theorem runOp_mem {i : Instr} {sp : Spec} {bad busy full : Bool} {eff : Lanes → State → State} {s t : State}
    (hf : ∀ m u, (eff m u).mem = u.mem) (h : runOp i sp bad busy full eff s = .next t) : t.mem = s.mem := by
  unfold runOp at h
  split at h <;> cases h
  · simp
  · simp
  · split <;> simp [hf]
theorem runOp_memOk {i : Instr} {sp : Spec} {bad busy full : Bool} {eff : Lanes → State → State} {s t : State}
    (hf : ∀ m u, memWf u.mem = true → memWf (eff m u).mem = true) (hs : memWf s.mem = true)
    (h : runOp i sp bad busy full eff s = .next t) : memWf t.mem = true := by
  unfold runOp at h
  split at h <;> cases h
  · simp [hs]
  · simp [hs]
  · split <;> simp [hf, hs]
theorem alu_mem {i : Instr} {sp : Spec} {f : Wave → Lanes → Alu} {s t : State} (h : alu i sp f s = .next t) :
    t.mem = s.mem := by
  unfold alu at h
  exact runOp_mem (by intro m u; simp) h
theorem laneAlu_mem {i : Instr} {f : Wave → Nat → List Nat → LaneOut} {s t : State} (h : laneAlu i f s = .next t) :
    t.mem = s.mem := by
  unfold laneAlu at h
  exact alu_mem h
theorem uniAlu_mem {i : Instr} {f : Wave → List Nat → Nat} {s t : State} (h : uniAlu i f s = .next t) :
    t.mem = s.mem := by
  unfold uniAlu at h
  exact alu_mem h
theorem uniPred_mem {i : Instr} {k : Nat} {f : Wave → List Nat → Bool} {s t : State} (h : uniPred i k f s = .next t) :
    t.mem = s.mem := by
  unfold uniPred at h
  exact alu_mem h
theorem exchange_mem {i : Instr} {f : Wave → Lanes → Nat → LaneOut} {s t : State} (h : exchange i f s = .next t) :
    t.mem = s.mem := by
  unfold exchange at h
  exact alu_mem h
theorem bumpDraws_mem {rm : BitVec 3} {s u t : State} {o : Host.Outcome State Fault Refusal}
    (ho : ∀ u, o = .next u → u.mem = s.mem) (h : bumpDraws rm u o = .next t) : t.mem = s.mem := by
  unfold bumpDraws at h
  cases o with
  | next x => cases h; split <;> exact ho x rfl
  | fault x => cases h
  | refused x => cases h
theorem fpAlu_mem {i : Instr} {g : GExt} {f : Fmt → Rnd → List Nat → FRes} {s t : State} (h : fpAlu i g f s = .next
    t) :
    t.mem = s.mem := by
  unfold fpAlu at h
  exact bumpDraws_mem (fun _ hu => laneAlu_mem hu) h
theorem fp8Alu_mem {i : Instr} {g : GExt} {f : Fmt → Rnd → List Nat → FRes} {s t : State} (h : fp8Alu i g f s = .next
    t) :
    t.mem = s.mem := by
  unfold fp8Alu at h
  exact bumpDraws_mem (fun _ hu => laneAlu_mem hu) h
theorem control_mem {i : Instr} {eff : Lanes → State → State} {s t : State}
    (hf : ∀ m u, (eff m u).mem = u.mem) (h : control i eff s = .next t) : t.mem = s.mem := by
  unfold control at h
  exact runOp_mem (by intro m u; exact orStall_mem _ _ (by simp [hf])) h
theorem control_memOk {i : Instr} {eff : Lanes → State → State} {s t : State} (hs : memWf s.mem = true)
    (hf : ∀ m u, memWf u.mem = true → memWf (eff m u).mem = true) (h : control i eff s = .next t) : memWf t.mem =
        true := by
  unfold control at h
  exact runOp_memOk (fun m u hu => orStall_memOk hu (hf _ _ (by simp [hu]))) hs h
theorem memOp_mem {i : Instr} {bad busy full : Bool} {late : Option (Nat × Nat)} {s t : State}
    (h : memOp i bad busy full late s = .next t) : t.mem = s.mem := by
  unfold memOp at h
  refine (runOp_mem ?_ h).trans (inSlotOrder_mem ..)
  intro m u; dsimp only
  (repeat' split) <;> simp
theorem barOp_mem {i : Instr} {s t : State} (h : barOp i s = .next t) : t.mem = s.mem := by
  unfold barOp at h
  refine (runOp_mem ?_ h).trans (inSlotOrder_mem ..)
  intro m u; dsimp only
  (repeat' split) <;> simp
theorem matOp_mem {i : Instr} {s t : State} (h : matOp i s = .next t) : t.mem = s.mem := by
  unfold matOp at h
  refine runOp_mem ?_ h
  intro m u; dsimp only
  (repeat' split) <;> simp
theorem travOp_mem {i : Instr} {wait : Wave → Bool} {s t : State} (h : travOp i wait s = .next t) : t.mem = s.mem :=
    by
  unfold travOp at h
  refine runOp_mem ?_ h
  intro m u; dsimp only
  split
  · simp
  · rw [foldl_mem (by intro t x; simp)]; simp
theorem fragEvent_mem {p : State → Fragment → Bool} {f : State → Fragment → State} {s t : State}
    (hf : ∀ u x, (f u x).mem = u.mem) (h : fragEvent p f s = .next t) : t.mem = s.mem := by
  unfold fragEvent at h; cases h
  (repeat' split) <;> simp [hf]
theorem fragEvent_memOk {p : State → Fragment → Bool} {f : State → Fragment → State} {s t : State}
    (hf : ∀ u x, memWf u.mem = true → memWf (f u x).mem = true) (hs : memWf s.mem = true)
    (h : fragEvent p f s = .next t) : memWf t.mem = true := by
  unfold fragEvent at h; cases h
  split
  · split
    · exact orWait_memOk hs (hf _ _ hs)
    · exact hs
  · exact hs
theorem registerJump_memOk {i : Instr} {lnd : Bool} {ts : Wave → Lanes → List (Nat × Nat)} {link : Lanes → Writes} {s
    t : State}
    (hs : memWf s.mem = true) (h : registerJump i lnd ts link s = .next t) : memWf t.mem = true := by
  unfold registerJump at h
  refine control_memOk hs (fun m u hu => ?_) h
  dsimp only
  (repeat' split) <;> simp [hu]
theorem yieldOp_memOk {i : Instr} {s t : State} (hs : memWf s.mem = true) (h : yieldOp i s = .next t) : memWf t.mem =
    true := by
  unfold yieldOp at h
  refine runOp_memOk ?_ ?_ h
  · intro m u hu; dsimp only
    split
    · simp [hu]
    · exact orStall_memOk hu (by simp [hu])
  · split <;> simp [hs]
theorem execAbandon_mem (s : State) : ∀ t, execAbandon s = .next t → t.mem = s.mem := by
  intro t h; simp [execAbandon] at h; rw [← h]; simp
theorem execAckReceived_mem (s : State) : ∀ t, execAckReceived s = .next t → t.mem = s.mem := by
  intro t h; simp [execAckReceived] at h; rw [← h]; simp
theorem execAtom_mem (a0 : Head) (m : MExt) (s : State) : ∀ t, execAtom a0 m s = .next t → t.mem = s.mem := by
  intro t h; unfold execAtom at h; exact memOp_mem h
theorem execAtoml_mem (a0 : Head) (m : MExt) (s : State) : ∀ t, execAtoml a0 m s = .next t → t.mem = s.mem := by
  intro t h; unfold execAtoml at h; exact memOp_mem h
theorem execAttr_mem (a0 : Head) (n : NExt) (s : State) : ∀ t, execAttr a0 n s = .next t → t.mem = s.mem := by
  intro t h; unfold execAttr at h; refine runOp_mem ?_ h; intro m u; dsimp only; (repeat' split) <;> simp
theorem execBararr_mem (a0 : Head) (m : MExt) (s : State) : ∀ t, execBararr a0 m s = .next t → t.mem = s.mem := by
  intro t h; unfold execBararr at h; exact barOp_mem h
theorem execBarexp_mem (a0 : Head) (m : MExt) (s : State) : ∀ t, execBarexp a0 m s = .next t → t.mem = s.mem := by
  intro t h; unfold execBarexp at h; exact barOp_mem h
theorem execBarinit_mem (a0 : Head) (m : MExt) (s : State) : ∀ t, execBarinit a0 m s = .next t → t.mem = s.mem := by
  intro t h; unfold execBarinit at h; exact barOp_mem h
theorem execBarrierWake_mem (s : State) : ∀ t, execBarrierWake s = .next t → t.mem = s.mem := by
  intro t h; unfold execBarrierWake at h; cases h
  split
  · split <;> simp
  · rfl
theorem execBarwait_mem (a0 : Head) (m : MExt) (s : State) : ∀ t, execBarwait a0 m s = .next t → t.mem = s.mem := by
  intro t h; unfold execBarwait at h; exact barOp_mem h
theorem execBatonHandover_mem (s : State) : ∀ t, execBatonHandover s = .next t → t.mem = s.mem := by
  intro t h; unfold execBatonHandover at h; dsimp only at h; (repeat' split at h) <;> cases h <;> simp
theorem execBinAgeDrain_memOk (s : State) (hs : memWf s.mem = true) : ∀ t, execBinAgeDrain s = .next t → memWf t.mem
    = true := by
  intro t h; unfold execBinAgeDrain at h; cases h
  (repeat' split) <;> first | exact hs | (simp [hs]; done)
theorem execBinRecordArrive_memOk (s : State) (hs : memWf s.mem = true) : ∀ t, execBinRecordArrive s = .next t →
    memWf t.mem = true := by
  intro t h; unfold execBinRecordArrive at h; dsimp only at h; (repeat' split at h) <;> cases h <;> simp [hs]
theorem execBindCtx_mem (s : State) : ∀ t, execBindCtx s = .next t → t.mem = s.mem := by
  intro t h; simp [execBindCtx] at h; rw [← h]; simp
theorem execBisnpResponse_memOk (s : State) (hs : memWf s.mem = true) : ∀ t, execBisnpResponse s = .next t → memWf
    t.mem = true := by
  intro t h; unfold execBisnpResponse at h; dsimp only at h; (repeat' split at h) <;> cases h <;> simp [hs]
theorem execBr_mem (a0 : Head) (a1 : BExt) (s : State) : ∀ t, execBr a0 a1 s = .next t → t.mem = s.mem := by
  intro t h; unfold execBr at h
  exact control_mem (by intro m u; first | rfl | (split <;> simp) | simp) h
theorem execCallDirect_mem (a0 : Head) (a1 : BExt) (s : State) : ∀ t, execCallDirect a0 a1 s = .next t → t.mem =
    s.mem := by
  intro t h; unfold execCallDirect at h; refine control_mem ?_ h; intro m u; dsimp only; (repeat' split) <;> simp
theorem execCallRegister_memOk (a0 : Head) (a1 : BExt) (s : State) (hs : memWf s.mem = true) : ∀ t, execCallRegister
    a0 a1 s = .next t → memWf t.mem = true := by
  intro t h; unfold execCallRegister at h; exact registerJump_memOk hs h
theorem execCarveOut_mem (s : State) : ∀ t, execCarveOut s = .next t → t.mem = s.mem := by
  intro t h; simp [execCarveOut] at h; rw [← h]; simp
theorem execCget_mem (a0 : Head) (m : MExt) (s : State) : ∀ t, execCget a0 m s = .next t → t.mem = s.mem := by
  intro t h; unfold execCget at h; exact memOp_mem h
theorem execCgetTimeout_mem (s : State) : ∀ t, execCgetTimeout s = .next t → t.mem = s.mem := by
  intro t h; unfold execCgetTimeout at h; dsimp only at h; (repeat' split at h) <;> cases h <;> simp
theorem execCgetWake_mem (s : State) : ∀ t, execCgetWake s = .next t → t.mem = s.mem := by
  intro t h; unfold execCgetWake at h; cases h
  (repeat' split) <;> first | rfl | simp
theorem execClaimDeadlock_memOk (s : State) (hs : memWf s.mem = true) : ∀ t, execClaimDeadlock s = .next t → memWf
    t.mem = true := by
  intro t h; unfold execClaimDeadlock at h; cases h
  dsimp only
  split
  · exact orWait_memOk hs (foldl_memOk (fun t x ht => by simp [ht]) _ _ (by simp [hs]))
  · exact hs
theorem execColl_memOk (a0 : Head) (n : NExt) (s : State) (hs : memWf s.mem = true) : ∀ t, execColl a0 n s = .next t
    → memWf t.mem = true := by
  intro t h; unfold execColl at h; refine runOp_memOk ?_ hs h; intro m u hu; dsimp only; (repeat' split) <;> simp [hu]
theorem execCollComplete_memOk (s : State) (hs : memWf s.mem = true) : ∀ t, execCollComplete s = .next t → memWf
    t.mem = true := by
  intro t h; unfold execCollComplete at h; cases h
  split
  · exact hs
  split
  · exact hs
  split
  · simp [hs]
  split
  · exact hs
  · refine orWait_memOk hs ?_
    split <;> (rename_i hv; have hv := collFinish_memOk_of (h := hs) (hh := hv); simp [hv])
theorem execCollStart_memOk (s : State) (hs : memWf s.mem = true) : ∀ t, execCollStart s = .next t → memWf t.mem =
    true := by
  intro t h; unfold execCollStart at h; cases h
  (repeat' split) <;> first | exact hs | (simp [hs]; done)
theorem execContractOverrun_memOk (s : State) (hs : memWf s.mem = true) : ∀ t, execContractOverrun s = .next t →
    memWf t.mem = true := by
  intro t h; unfold execContractOverrun at h; dsimp only at h; (repeat' split at h) <;> cases h <;> simp [hs]
theorem execContractRelease_mem (s : State) : ∀ t, execContractRelease s = .next t → t.mem = s.mem := by
  intro t h; unfold execContractRelease at h; dsimp only at h; (repeat' split at h) <;> cases h <;> simp
theorem execCopyPiece_memOk (s : State) (hs : memWf s.mem = true) : ∀ t, execCopyPiece s = .next t → memWf t.mem =
    true := by
  intro t h; unfold execCopyPiece at h; cases h
  (repeat' split) <;> first | exact hs | (simp [hs]; done)
theorem execCorrectedSoftError_mem (s : State) : ∀ t, execCorrectedSoftError s = .next t → t.mem = s.mem := by
  intro t h; simp [execCorrectedSoftError] at h; rw [← h]; simp
theorem execCprobe_mem (a0 : Head) (m : MExt) (s : State) : ∀ t, execCprobe a0 m s = .next t → t.mem = s.mem := by
  intro t h; unfold execCprobe at h; exact memOp_mem h
theorem execCprop_mem (a0 : Head) (m : MExt) (s : State) : ∀ t, execCprop a0 m s = .next t → t.mem = s.mem := by
  intro t h; unfold execCprop at h; exact memOp_mem h
theorem execCrecyc_mem (a0 : Head) (m : MExt) (s : State) : ∀ t, execCrecyc a0 m s = .next t → t.mem = s.mem := by
  intro t h; unfold execCrecyc at h; exact memOp_mem h
theorem execCxlCacheNegotiated_mem (s : State) : ∀ t, execCxlCacheNegotiated s = .next t → t.mem = s.mem := by
  intro t h; simp [execCxlCacheNegotiated] at h; rw [← h]; simp
theorem execDafHeadSend_mem (s : State) : ∀ t, execDafHeadSend s = .next t → t.mem = s.mem := by
  intro t h; unfold execDafHeadSend at h; dsimp only at h; (repeat' split at h) <;> cases h <;> simp
theorem execDevidWrite_mem (s : State) : ∀ t, execDevidWrite s = .next t → t.mem = s.mem := by
  intro t h; simp [execDevidWrite] at h; rw [← h]; simp
theorem execDieSensorSample_mem (s : State) : ∀ t, execDieSensorSample s = .next t → t.mem = s.mem := by
  intro t h; simp [execDieSensorSample] at h; rw [← h]; simp
theorem execDirectoryRequest_mem (s : State) : ∀ t, execDirectoryRequest s = .next t → t.mem = s.mem := by
  intro t h; unfold execDirectoryRequest at h; dsimp only at h; (repeat' split at h) <;> cases h <;> simp
theorem execEbudFill_mem (s : State) : ∀ t, execEbudFill s = .next t → t.mem = s.mem := by
  intro t h; simp [execEbudFill] at h; rw [← h]; simp
theorem execElect_mem (a0 : Head) (g : GExt) (s : State) : ∀ t, execElect a0 g s = .next t → t.mem = s.mem := by
  intro t h; unfold execElect at h; refine runOp_mem ?_ h; intro m u; dsimp only; (repeat' split) <;> simp
theorem execEndShort_mem (a0 : Head) (s : State) : ∀ t, execEndShort a0 s = .next t → t.mem = s.mem := by
  intro t h; unfold execEndShort at h
  exact control_mem (by intro m u; first | rfl | (split <;> simp) | simp) h
theorem execEndW_mem (a0 : Head) (a1 : BExt) (s : State) : ∀ t, execEndW a0 a1 s = .next t → t.mem = s.mem := by
  intro t h; unfold execEndW at h
  exact control_mem (by intro m u; first | rfl | (split <;> simp) | simp) h
theorem execExitL_mem (a0 : Head) (a1 : BExt) (s : State) : ∀ t, execExitL a0 a1 s = .next t → t.mem = s.mem := by
  intro t h; unfold execExitL at h
  exact control_mem (by intro m u; first | rfl | (split <;> simp) | simp) h
theorem execExitShort_mem (a0 : Head) (s : State) : ∀ t, execExitShort a0 s = .next t → t.mem = s.mem := by
  intro t h; unfold execExitShort at h
  exact control_mem (by intro m u; first | rfl | (split <;> simp) | simp) h
theorem execFabricPortFail_mem (s : State) : ∀ t, execFabricPortFail s = .next t → t.mem = s.mem := by
  intro t h; simp [execFabricPortFail] at h; rw [← h]; simp
theorem execFarOperation_memOk (s : State) (hs : memWf s.mem = true) : ∀ t, execFarOperation s = .next t → memWf
    t.mem = true := by
  intro t h; unfold execFarOperation at h; cases h; (repeat' split) <;> first | exact hs | (simp [hs]; done)
theorem execFence_mem (a0 : Head) (m : MExt) (s : State) : ∀ t, execFence a0 m s = .next t → t.mem = s.mem := by
  intro t h; unfold execFence at h; refine runOp_mem ?_ h; intro m u; dsimp only; (repeat' split) <;> simp
theorem execFenceCommand_mem (s : State) : ∀ t, execFenceCommand s = .next t → t.mem = s.mem := by
  intro t h; simp [execFenceCommand] at h; rw [← h]; simp
theorem execFenceComplete_memOk (s : State) (hs : memWf s.mem = true) : ∀ t, execFenceComplete s = .next t → memWf
    t.mem = true := by
  intro t h; unfold execFenceComplete at h; cases h
  (repeat' split) <;> first | exact hs | (simp [hs]; done)
theorem execFetchWord_memOk (s : State) (hs : memWf s.mem = true) : ∀ t, execFetchWord s = .next t → memWf t.mem =
    true := by
  intro t h; simp [execFetchWord] at h; rw [← h]; simp [hs]
theorem execFireflyNodeRead_memOk (s : State) (hs : memWf s.mem = true) : ∀ t, execFireflyNodeRead s = .next t →
    memWf t.mem = true := by
  intro t h; unfold execFireflyNodeRead at h; cases h
  (repeat' split) <;> first | exact hs | (simp [hs]; done)
theorem execFreeSlot_mem (s : State) : ∀ t, execFreeSlot s = .next t → t.mem = s.mem := by
  intro t h; simp [execFreeSlot] at h; rw [← h]; simp
theorem execGddr7Complete_memOk (s : State) (hs : memWf s.mem = true) : ∀ t, execGddr7Complete s = .next t → memWf
    t.mem = true := by
  intro t h; unfold execGddr7Complete at h; dsimp only at h; (repeat' split at h) <;> cases h <;> simp [hs]
theorem execGddr7RequestIssue_mem (s : State) : ∀ t, execGddr7RequestIssue s = .next t → t.mem = s.mem := by
  intro t h; unfold execGddr7RequestIssue at h; dsimp only at h; (repeat' split at h) <;> cases h <;> simp
theorem execGroupComplete_memOk (s : State) (hs : memWf s.mem = true) : ∀ t, execGroupComplete s = .next t → memWf
    t.mem = true := by
  intro t h; unfold execGroupComplete at h; dsimp only at h; (repeat' split at h) <;> cases h <;> simp [hs]
theorem execGroupPlace_memOk (s : State) (hs : memWf s.mem = true) : ∀ t, execGroupPlace s = .next t → memWf t.mem =
    true := by
  intro t h; unfold execGroupPlace at h; cases h
  refine orWait_memOk hs ?_
  cases hp : placement s (arg s 0) with
  | none => exact hs
  | some u => exact placement_memOk _ _ hs u hp
theorem execGuardW_mem (a0 : Head) (g : GExt) (s : State) : ∀ t, execGuardW a0 g s = .next t → t.mem = s.mem := by
  intro t h; unfold execGuardW at h; refine runOp_mem ?_ h; intro m u; dsimp only; (repeat' split) <;> simp
theorem execHitbin_mem (a0 : Head) (n : NExt) (s : State) : ∀ t, execHitbin a0 n s = .next t → t.mem = s.mem := by
  intro t h; unfold execHitbin at h; refine runOp_mem ?_ h; intro m u; dsimp only; (repeat' split) <;> simp
theorem execHiveTaskTimeout_mem (s : State) : ∀ t, execHiveTaskTimeout s = .next t → t.mem = s.mem := by
  intro t h; unfold execHiveTaskTimeout at h; cases h
  (repeat' split) <;> first | rfl | simp
theorem execHomeAtomic_memOk (s : State) (hs : memWf s.mem = true) : ∀ t, execHomeAtomic s = .next t → memWf t.mem =
    true := by
  intro t h; unfold execHomeAtomic at h; cases h
  split
  · simp [takeRequest_mem_of (hh := by assumption), hs]
  · have hv := takeRequest_mem_of (hh := by assumption)
    (repeat' split) <;> simp [hv, hs]
theorem execHomeLoad_mem (s : State) : ∀ t, execHomeLoad s = .next t → t.mem = s.mem := by
  intro t h; unfold execHomeLoad at h; cases h
  split
  · simp [takeRequest_mem_of (hh := by assumption)]
  · have hv := takeRequest_mem_of (hh := by assumption)
    (repeat' split) <;> simp [hv]
theorem execHomeReg_memOk (s : State) (hs : memWf s.mem = true) : ∀ t, execHomeReg s = .next t → memWf t.mem = true
    := by
  intro t h; unfold execHomeReg at h; cases h
  split
  · simp [takeRequest_mem_of (hh := by assumption), hs]
  · have hv := takeRequest_mem_of (hh := by assumption)
    (repeat' split) <;> simp [hv, hs]
theorem execHomeWriteback_memOk (s : State) (hs : memWf s.mem = true) : ∀ t, execHomeWriteback s = .next t → memWf
    t.mem = true := by
  intro t h; unfold execHomeWriteback at h; cases h
  split
  · rename_i hv; rw [takeWriteback_mem_of (hh := hv)]; exact hs
  · rename_i hv
    have hv := takeWriteback_mem_of (hh := hv)
    (repeat' split) <;> simp [hv, hs]
theorem execHostLinkDown_mem (s : State) : ∀ t, execHostLinkDown s = .next t → t.mem = s.mem := by
  intro t h; simp [execHostLinkDown] at h; rw [← h]; simp
theorem execHostLinkUp_mem (s : State) : ∀ t, execHostLinkUp s = .next t → t.mem = s.mem := by
  intro t h; simp [execHostLinkUp] at h; rw [← h]; simp
theorem execHostMemwr_memOk (s : State) (hs : memWf s.mem = true) : ∀ t, execHostMemwr s = .next t → memWf t.mem =
    true := by
  intro t h; unfold execHostMemwr at h
  (repeat' split at h) <;> cases h <;> simp [hs]
theorem execHostPostedWrite_memOk (s : State) (hs : memWf s.mem = true) : ∀ t, execHostPostedWrite s = .next t →
    memWf t.mem = true := by
  intro t h; unfold execHostPostedWrite at h
  (repeat' split at h) <;> cases h <;> simp [hs]
theorem execHostRead_memOk (s : State) (hs : memWf s.mem = true) : ∀ t, execHostRead s = .next t → memWf t.mem = true
    := by
  intro t h; unfold execHostRead at h
  (repeat' split at h) <;> cases h <;> simp [hs]
theorem execHostResponse_memOk (s : State) (hs : memWf s.mem = true) : ∀ t, execHostResponse s = .next t → memWf
    t.mem = true := by
  intro t h; unfold execHostResponse at h; dsimp only at h; (repeat' split at h) <;> cases h <;> simp [hs]
theorem execHotPageRecordDone_memOk (s : State) (hs : memWf s.mem = true) : ∀ t, execHotPageRecordDone s = .next t →
    memWf t.mem = true := by
  intro t h; unfold execHotPageRecordDone at h; cases h; (repeat' split) <;> first | exact hs | (simp [hs]; done)
theorem execHpctlWrite_mem (s : State) : ∀ t, execHpctlWrite s = .next t → t.mem = s.mem := by
  intro t h; simp [execHpctlWrite] at h; rw [← h]; simp
theorem execHsemLeaseTick_mem (s : State) : ∀ t, execHsemLeaseTick s = .next t → t.mem = s.mem := by
  intro t h; simp [execHsemLeaseTick] at h; rw [← h]; simp
theorem execHsemRelease_mem (s : State) : ∀ t, execHsemRelease s = .next t → t.mem = s.mem := by
  intro t h; simp [execHsemRelease] at h; rw [← h]; simp
theorem execHsemTake_mem (s : State) : ∀ t, execHsemTake s = .next t → t.mem = s.mem := by
  intro t h; simp [execHsemTake] at h; rw [← h]; simp
theorem execHvpost_memOk (a0 : Head) (n : NExt) (s : State) (hs : memWf s.mem = true) : ∀ t, execHvpost a0 n s =
    .next t → memWf t.mem = true := by
  intro t h; unfold execHvpost at h; refine runOp_memOk ?_ hs h; intro m u hu; dsimp only; (repeat' split) <;> simp
      [hu]
theorem execImagoHomeOp_memOk (s : State) (hs : memWf s.mem = true) : ∀ t, execImagoHomeOp s = .next t → memWf t.mem
    = true := by
  intro t h; unfold execImagoHomeOp at h; cases h
  split
  · simp [takeRequest_mem_of (hh := by assumption), hs]
  · have hv := takeRequest_mem_of (hh := by assumption)
    (repeat' split) <;> simp [hv, hs]
theorem execImagoResult_mem (s : State) : ∀ t, execImagoResult s = .next t → t.mem = s.mem := by
  intro t h; unfold execImagoResult at h; cases h
  (repeat' split) <;> first | rfl | simp
theorem execImpreciseFault_mem (s : State) : ∀ t, execImpreciseFault s = .next t → t.mem = s.mem := by
  intro t h; simp [execImpreciseFault] at h; rw [← h]; simp
theorem execInvAll_mem (s : State) : ∀ t, execInvAll s = .next t → t.mem = s.mem := by
  intro t h; simp [execInvAll] at h; rw [← h]; simp
theorem execInvAsid_mem (s : State) : ∀ t, execInvAsid s = .next t → t.mem = s.mem := by
  intro t h; simp [execInvAsid] at h; rw [← h]; simp
theorem execInvVa_mem (s : State) : ∀ t, execInvVa s = .next t → t.mem = s.mem := by
  intro t h; simp [execInvVa] at h; rw [← h]; simp
theorem execIssueStarvation_mem (s : State) : ∀ t, execIssueStarvation s = .next t → t.mem = s.mem := by
  intro t h; simp [execIssueStarvation] at h; rw [← h]; simp
theorem execJmp_memOk (a0 : Head) (a1 : BExt) (s : State) (hs : memWf s.mem = true) : ∀ t, execJmp a0 a1 s = .next t
    → memWf t.mem = true := by
  intro t h; unfold execJmp at h; exact registerJump_memOk hs h
theorem execKick_mem (a0 : Head) (m : MExt) (s : State) : ∀ t, execKick a0 m s = .next t → t.mem = s.mem := by
  intro t h; unfold execKick at h; refine runOp_mem ?_ h; intro m u; dsimp only; (repeat' split) <;> simp
theorem execLand_mem (a0 : Head) (s : State) : ∀ t, execLand a0 s = .next t → t.mem = s.mem := by
  intro t h; unfold execLand at h
  exact control_mem (by intro m u; first | rfl | (split <;> simp) | simp) h
theorem execLaunchAccept_memOk (s : State) (hs : memWf s.mem = true) : ∀ t, execLaunchAccept s = .next t → memWf
    t.mem = true := by
  intro t h; simp [execLaunchAccept] at h; rw [← h]; simp [hs]
theorem execLaunchDev_mem (a0 : Head) (n : NExt) (s : State) : ∀ t, execLaunchDev a0 n s = .next t → t.mem = s.mem :=
    by
  intro t h; unfold execLaunchDev at h; refine runOp_mem ?_ h; intro m u; dsimp only; (repeat' split) <;> simp
theorem execLd_mem (a0 : Head) (m : MExt) (s : State) : ∀ t, execLd a0 m s = .next t → t.mem = s.mem := by
  intro t h; unfold execLd at h; exact memOp_mem h
theorem execLda_mem (a0 : Head) (m : MExt) (s : State) : ∀ t, execLda a0 m s = .next t → t.mem = s.mem := by
  intro t h; unfold execLda at h; exact memOp_mem h
theorem execLdl_mem (a0 : Head) (m : MExt) (s : State) : ∀ t, execLdl a0 m s = .next t → t.mem = s.mem := by
  intro t h; unfold execLdl at h; exact memOp_mem h
theorem execLdq_mem (a0 : Head) (m : MExt) (s : State) : ∀ t, execLdq a0 m s = .next t → t.mem = s.mem := by
  intro t h; unfold execLdq at h; exact memOp_mem h
theorem execLinkReplay_mem (s : State) : ∀ t, execLinkReplay s = .next t → t.mem = s.mem := by
  intro t h; simp [execLinkReplay] at h; rw [← h]; simp
theorem execLoadReturn_memOk (s : State) (hs : memWf s.mem = true) : ∀ t, execLoadReturn s = .next t → memWf t.mem =
    true := by
  intro t h; unfold execLoadReturn at h; dsimp only at h; (repeat' split at h) <;> cases h <;> simp [hs]
theorem execMatrixRetire_memOk (s : State) (hs : memWf s.mem = true) : ∀ t, execMatrixRetire s = .next t → memWf
    t.mem = true := by
  intro t h; unfold execMatrixRetire at h; dsimp only at h; (repeat' split at h) <;> cases h <;> simp [hs]
theorem execMbpass_mem (a0 : Head) (n : NExt) (s : State) : ∀ t, execMbpass a0 n s = .next t → t.mem = s.mem := by
  intro t h; unfold execMbpass at h; refine runOp_mem ?_ h; intro m u; dsimp only; (repeat' split) <;> simp
theorem execMbpassNone_mem (a0 : Head) (n : NExt) (s : State) : ∀ t, execMbpassNone a0 n s = .next t → t.mem = s.mem
    := by
  intro t h; unfold execMbpassNone at h; refine runOp_mem ?_ h; intro m u; dsimp only; (repeat' split) <;> simp
theorem execMbtake_mem (a0 : Head) (n : NExt) (s : State) : ∀ t, execMbtake a0 n s = .next t → t.mem = s.mem := by
  intro t h; unfold execMbtake at h; refine runOp_mem ?_ h; intro m u; dsimp only; (repeat' split) <;> simp
theorem execMdrain_mem (a0 : Head) (n : NExt) (s : State) : ∀ t, execMdrain a0 n s = .next t → t.mem = s.mem := by
  intro t h; unfold execMdrain at h; exact matOp_mem h
theorem execMergeComplete_mem (s : State) : ∀ t, execMergeComplete s = .next t → t.mem = s.mem := by
  intro t h; unfold execMergeComplete at h; dsimp only at h; (repeat' split at h) <;> cases h <;> simp
theorem execMergeLine_memOk (s : State) (hs : memWf s.mem = true) : ∀ t, execMergeLine s = .next t → memWf t.mem =
    true := by
  intro t h; simp [execMergeLine] at h; rw [← h]; simp [hs]
theorem execMextend_mem (s : State) : ∀ t, execMextend s = .next t → t.mem = s.mem := by
  intro t h; simp [execMextend] at h; rw [← h]; simp
theorem execMextendDone_mem (s : State) : ∀ t, execMextendDone s = .next t → t.mem = s.mem := by
  intro t h; simp [execMextendDone] at h; rw [← h]; simp
theorem execMfill_mem (a0 : Head) (n : NExt) (s : State) : ∀ t, execMfill a0 n s = .next t → t.mem = s.mem := by
  intro t h; unfold execMfill at h; exact matOp_mem h
theorem execMma_mem (a0 : Head) (n : NExt) (s : State) : ∀ t, execMma a0 n s = .next t → t.mem = s.mem := by
  intro t h; unfold execMma at h; exact matOp_mem h
theorem execMmap_mem (a0 : Head) (n : NExt) (s : State) : ∀ t, execMmap a0 n s = .next t → t.mem = s.mem := by
  intro t h; unfold execMmap at h; exact matOp_mem h
theorem execMmas_mem (a0 : Head) (n : NExt) (s : State) : ∀ t, execMmas a0 n s = .next t → t.mem = s.mem := by
  intro t h; unfold execMmas at h; exact matOp_mem h
theorem execMsCacheRequest_memOk (s : State) (hs : memWf s.mem = true) : ∀ t, execMsCacheRequest s = .next t → memWf
    t.mem = true := by
  intro t h; unfold execMsCacheRequest at h; dsimp only at h; (repeat' split at h) <;> cases h <;> simp [hs]
theorem execMsFlushComplete_mem (s : State) : ∀ t, execMsFlushComplete s = .next t → t.mem = s.mem := by
  intro t h; unfold execMsFlushComplete at h; dsimp only at h; (repeat' split at h) <;> cases h <;> simp
theorem execMscale_mem (a0 : Head) (n : NExt) (s : State) : ∀ t, execMscale a0 n s = .next t → t.mem = s.mem := by
  intro t h; unfold execMscale at h; exact matOp_mem h
theorem execMsflushRange_mem (a0 : Head) (m : MExt) (s : State) : ∀ t, execMsflushRange a0 m s = .next t → t.mem =
    s.mem := by
  intro t h; unfold execMsflushRange at h; refine runOp_mem ?_ h; intro m u; dsimp only; (repeat' split) <;> simp
theorem execMsflushStack_mem (a0 : Head) (m : MExt) (s : State) : ∀ t, execMsflushStack a0 m s = .next t → t.mem =
    s.mem := by
  intro t h; unfold execMsflushStack at h; refine runOp_mem ?_ h; intro m u; dsimp only; (repeat' split) <;> simp
theorem execMzero_mem (a0 : Head) (n : NExt) (s : State) : ∀ t, execMzero a0 n s = .next t → t.mem = s.mem := by
  intro t h; unfold execMzero at h; exact matOp_mem h
theorem execNfmt_mem (a0 : Head) (n : NExt) (s : State) : ∀ t, execNfmt a0 n s = .next t → t.mem = s.mem := by
  intro t h; unfold execNfmt at h; refine runOp_mem ?_ h; intro m u; dsimp only; (repeat' split) <;> simp
theorem execNfmtLoaded_memOk (s : State) (hs : memWf s.mem = true) : ∀ t, execNfmtLoaded s = .next t → memWf t.mem =
    true := by
  intro t h; unfold execNfmtLoaded at h; cases h
  dsimp only
  split
  · exact hs
  split
  · exact hs
  · refine orWait_memOk hs ?_
    split
    · rename_i hv; simp [engBytes_memOk_of (h := hs) (hh := hv)]
    · rename_i hv; split <;> simp [engBytes_memOk_of (h := hs) (hh := hv)]
theorem execNop_mem (a0 : Head) (s : State) : ∀ t, execNop a0 s = .next t → t.mem = s.mem := by
  intro t h; unfold execNop at h
  exact control_mem (by intro m u; first | rfl | (split <;> simp) | simp) h
theorem execOwnerReply_memOk (s : State) (hs : memWf s.mem = true) : ∀ t, execOwnerReply s = .next t → memWf t.mem =
    true := by
  intro t h; unfold execOwnerReply at h; cases h
  (repeat' split) <;> first
    | exact hs
    | (simp only [ackTo_mem]
       exact answered_memOk _ _ _ (homePut_memOk _ _ _ _ (bringParked_memOk _ _ _ (by simpa using hs))))
theorem execPacketReflected_mem (s : State) : ∀ t, execPacketReflected s = .next t → t.mem = s.mem := by
  intro t h; unfold execPacketReflected at h; cases h; rfl
theorem execPageWalk_memOk (s : State) (hs : memWf s.mem = true) : ∀ t, execPageWalk s = .next t → memWf t.mem = true
    := by
  intro t h; unfold execPageWalk at h; cases h; (repeat' split) <;> first | exact hs | (simp [hs]; done)
theorem execPfx_memOk (a0 : Head) (m : MExt) (s : State) (hs : memWf s.mem = true) : ∀ t, execPfx a0 m s = .next t →
    memWf t.mem = true := by
  intro t h; unfold execPfx at h
  refine runOp_memOk (fun m u hu => orStall_memOk hu ?_) hs h
  exact foldl_memOk (fun t x ht => by simp [ht]) _ _ (by simp [hu])
theorem execPgctx_mem (a0 : Head) (n : NExt) (s : State) : ∀ t, execPgctx a0 n s = .next t → t.mem = s.mem := by
  intro t h; unfold execPgctx at h; refine runOp_mem ?_ h; intro m u; dsimp only; (repeat' split) <;> simp
theorem execPgemit_mem (a0 : Head) (n : NExt) (s : State) : ∀ t, execPgemit a0 n s = .next t → t.mem = s.mem := by
  intro t h; unfold execPgemit at h; refine runOp_mem ?_ h; intro m u; dsimp only; (repeat' split) <;> simp
theorem execPgload_mem (a0 : Head) (n : NExt) (s : State) : ∀ t, execPgload a0 n s = .next t → t.mem = s.mem := by
  intro t h; unfold execPgload at h; refine runOp_mem ?_ h; intro m u; dsimp only; (repeat' split) <;> simp
theorem execPgloadComplete_memOk (s : State) (hs : memWf s.mem = true) : ∀ t, execPgloadComplete s = .next t → memWf
    t.mem = true := by
  intro t h; unfold execPgloadComplete at h; cases h
  refine orWait_memOk hs ?_
  split
  · exact hs
  split
  · exact hs
  dsimp only
  split
  · simp [hs]
  split
  · rename_i hv; simp [readProgram_memOk_of (h := hs) (hh := hv)]
  · rename_i hv; split <;> simp [readProgram_memOk_of (h := hs) (hh := hv)]
theorem execPinGranted_memOk (s : State) (hs : memWf s.mem = true) : ∀ t, execPinGranted s = .next t → memWf t.mem =
    true := by
  intro t h; unfold execPinGranted at h; cases h; (repeat' split) <;> first | exact hs | (simp [hs]; done)
theorem execPinLimitResume_memOk (s : State) (hs : memWf s.mem = true) : ∀ t, execPinLimitResume s = .next t → memWf
    t.mem = true := by
  intro t h; unfold execPinLimitResume at h
  exact fragEvent_memOk (by intro u x hu; first | (split <;> simp [hu]) | simp [hu]) hs h
theorem execPlimitWrite_mem (s : State) : ∀ t, execPlimitWrite s = .next t → t.mem = s.mem := by
  intro t h; simp [execPlimitWrite] at h; rw [← h]; simp
theorem execPowerAverage_mem (s : State) : ∀ t, execPowerAverage s = .next t → t.mem = s.mem := by
  intro t h; simp [execPowerAverage] at h; rw [← h]; simp
theorem execPreempt_mem (s : State) : ∀ t, execPreempt s = .next t → t.mem = s.mem := by
  intro t h; simp [execPreempt] at h; rw [← h]; simp
theorem execPriorityGroup_mem (s : State) : ∀ t, execPriorityGroup s = .next t → t.mem = s.mem := by
  intro t h; unfold execPriorityGroup at h; dsimp only at h; (repeat' split at h) <;> cases h <;> simp
theorem execPub_memOk (a0 : Head) (m : MExt) (s : State) (hs : memWf s.mem = true) : ∀ t, execPub a0 m s = .next t →
    memWf t.mem = true := by
  intro t h; unfold execPub at h; refine runOp_memOk ?_ hs h; intro m u hu; dsimp only; (repeat' split) <;> simp [hu]
theorem execPubSwap_mem (s : State) : ∀ t, execPubSwap s = .next t → t.mem = s.mem := by
  intro t h; unfold execPubSwap at h; dsimp only at h; (repeat' split at h) <;> cases h <;> simp
theorem execQctlDisable_mem (s : State) : ∀ t, execQctlDisable s = .next t → t.mem = s.mem := by
  intro t h; simp [execQctlDisable] at h; rw [← h]; simp
theorem execQctlEnable_mem (s : State) : ∀ t, execQctlEnable s = .next t → t.mem = s.mem := by
  intro t h; simp [execQctlEnable] at h; rw [← h]; simp
theorem execQueueRecordRead_memOk (s : State) (hs : memWf s.mem = true) : ∀ t, execQueueRecordRead s = .next t →
    memWf t.mem = true := by
  intro t h; unfold execQueueRecordRead at h; cases h
  refine orWait_memOk hs ?_
  split
  · exact hs
  split
  · simp [hs]
  split
  · rename_i hv; simp [engBytes_memOk_of (h := hs) (hh := hv)]
  · rename_i hv; simp [engBytes_memOk_of (h := hs) (hh := hv)]
theorem execRast_mem (a0 : Head) (n : NExt) (s : State) : ∀ t, execRast a0 n s = .next t → t.mem = s.mem := by
  intro t h; unfold execRast at h; refine runOp_mem ?_ h; intro m u; dsimp only; (repeat' split) <;> simp
theorem execRastFragment_memOk (s : State) (hs : memWf s.mem = true) : ∀ t, execRastFragment s = .next t → memWf
    t.mem = true := by
  intro t h; unfold execRastFragment at h
  exact fragEvent_memOk (by intro u x hu; first | (split <;> simp [hu]) | simp [hu]) hs h
theorem execRclaim_mem (a0 : Head) (e : IExt) (s : State) : ∀ t, execRclaim a0 e s = .next t → t.mem = s.mem := by
  intro t h; unfold execRclaim at h; refine runOp_mem ?_ h; intro m u; dsimp only; (repeat' split) <;> simp
theorem execRecallAck_mem (s : State) : ∀ t, execRecallAck s = .next t → t.mem = s.mem := by
  intro t h; unfold execRecallAck at h; cases h
  split
  · rfl
  · split
    · rfl
    · dsimp only
      rw [foldl_mem (by intro t x; (repeat' split) <;> simp)]
theorem execReclassify_mem (s : State) : ∀ t, execReclassify s = .next t → t.mem = s.mem := by
  intro t h; unfold execReclassify at h; cases h; (repeat' split) <;> first | rfl | (simp; done)
theorem execRed_mem (a0 : Head) (m : MExt) (s : State) : ∀ t, execRed a0 m s = .next t → t.mem = s.mem := by
  intro t h; unfold execRed at h; exact memOp_mem h
theorem execRefreshEnd_memOk (s : State) (hs : memWf s.mem = true) : ∀ t, execRefreshEnd s = .next t → memWf t.mem =
    true := by
  intro t h; unfold execRefreshEnd at h; cases h
  dsimp only
  split
  · exact hs
  split
  · simp [hs]
  · exact foldl_memOk (fun t x ht => msAdmit_memOk _ _ ht) _ _ (by simp [hs])
theorem execRefreshStart_mem (s : State) : ∀ t, execRefreshStart s = .next t → t.mem = s.mem := by
  intro t h; simp [execRefreshStart] at h; rw [← h]; simp
theorem execRegionSample_memOk (s : State) (hs : memWf s.mem = true) : ∀ t, execRegionSample s = .next t → memWf
    t.mem = true := by
  intro t h; unfold execRegionSample at h; cases h; exact whenDue_memOk hs (fun u hu => by simp [hu])
theorem execRegisterWrite_memOk (s : State) (hs : memWf s.mem = true) : ∀ t, execRegisterWrite s = .next t → memWf
    t.mem = true := by
  intro t h; unfold execRegisterWrite at h; dsimp only at h; (repeat' split at h) <;> cases h <;> simp [hs]
theorem execRelSend_mem (s : State) : ∀ t, execRelSend s = .next t → t.mem = s.mem := by
  intro t h; unfold execRelSend at h; dsimp only at h; (repeat' split at h) <;> cases h <;> simp
theorem execReleaseFrame_memOk (s : State) (hs : memWf s.mem = true) : ∀ t, execReleaseFrame s = .next t → memWf
    t.mem = true := by
  intro t h; unfold execReleaseFrame at h; cases h
  exact whenUp_memOk hs fun u hu => releaseFrames_memOk _ _ hu
theorem execReport_mem (s : State) : ∀ t, execReport s = .next t → t.mem = s.mem := by
  intro t h; simp [execReport] at h; rw [← h]; simp
theorem execReportDone_mem (s : State) : ∀ t, execReportDone s = .next t → t.mem = s.mem := by
  intro t h; unfold execReportDone at h; cases h
  split
  · split <;> simp
  · rfl
theorem execResetDev_memOk (s : State) (hs : memWf s.mem = true) : ∀ t, execResetDev s = .next t → memWf t.mem = true
    := by
  intro t h; unfold execResetDev at h; cases h
  dsimp only
  split
  · simpa using hs
  · rw [boot_mem]; rfl
theorem execResultWriteback_memOk (s : State) (hs : memWf s.mem = true) : ∀ t, execResultWriteback s = .next t →
    memWf t.mem = true := by
  intro t h; unfold execResultWriteback at h; dsimp only at h; (repeat' split at h) <;> cases h <;> simp [hs]
theorem execRet_memOk (a0 : Head) (a1 : BExt) (s : State) (hs : memWf s.mem = true) : ∀ t, execRet a0 a1 s = .next t
    → memWf t.mem = true := by
  intro t h; unfold execRet at h; exact registerJump_memOk hs h
theorem execRetShort_memOk (a0 : Head) (s : State) (hs : memWf s.mem = true) : ∀ t, execRetShort a0 s = .next t →
    memWf t.mem = true := by
  intro t h; unfold execRetShort at h; exact registerJump_memOk hs h
theorem execRetry_memOk (s : State) (hs : memWf s.mem = true) : ∀ t, execRetry s = .next t → memWf t.mem = true := by
  intro t h; unfold execRetry at h; cases h
  exact whenUp_memOk hs fun u hu => orWait_memOk hu (by simp [hu])
theorem execRevokeWord_memOk (s : State) (hs : memWf s.mem = true) : ∀ t, execRevokeWord s = .next t → memWf t.mem =
    true := by
  intro t h; simp [execRevokeWord] at h; rw [← h]; simp [hs]
theorem execRfe_memOk (a0 : Head) (s : State) (hs : memWf s.mem = true) : ∀ t, execRfe a0 s = .next t → memWf t.mem =
    true := by
  intro t h; unfold execRfe at h
  exact runOp_memOk (fun m u hu => orStall_memOk hu (returnTrap_memOk_replay _ _ (by simp [hu]))) hs h
theorem execRflush_mem (a0 : Head) (n : NExt) (s : State) : ∀ t, execRflush a0 n s = .next t → t.mem = s.mem := by
  intro t h; unfold execRflush at h; refine runOp_mem ?_ h; intro m u; dsimp only; (repeat' split) <;> simp
theorem execRflushDrain_memOk (s : State) (hs : memWf s.mem = true) : ∀ t, execRflushDrain s = .next t → memWf t.mem
    = true := by
  intro t h; unfold execRflushDrain at h; cases h
  split
  · exact hs
  split
  · exact hs
  · refine orWait_memOk hs ?_
    rw [flushOver_mem]
    exact foldl_memOk (fun t x ht => by simp [ht]) _ _ (by simp [hs])
theorem execRfree_mem (a0 : Head) (e : IExt) (s : State) : ∀ t, execRfree a0 e s = .next t → t.mem = s.mem := by
  intro t h; unfold execRfree at h; refine runOp_mem ?_ h; intro m u; dsimp only; (repeat' split) <;> simp
theorem execRoutingTableWrite_mem (s : State) : ∀ t, execRoutingTableWrite s = .next t → t.mem = s.mem := by
  intro t h; simp [execRoutingTableWrite] at h; rw [← h]; simp
theorem execSadd_mem (a0 : Head) (g : GExt) (s : State) : ∀ t, execSadd a0 g s = .next t → t.mem = s.mem := by
  intro t h; unfold execSadd at h; exact uniAlu_mem h
theorem execSaddShort_mem (a0 : Head) (s : State) : ∀ t, execSaddShort a0 s = .next t → t.mem = s.mem := by
  intro t h; unfold execSaddShort at h; exact uniAlu_mem h
theorem execSand_mem (a0 : Head) (g : GExt) (s : State) : ∀ t, execSand a0 g s = .next t → t.mem = s.mem := by
  intro t h; unfold execSand at h; exact uniAlu_mem h
theorem execSandShort_mem (a0 : Head) (s : State) : ∀ t, execSandShort a0 s = .next t → t.mem = s.mem := by
  intro t h; unfold execSandShort at h; exact uniAlu_mem h
theorem execSatom_mem (a0 : Head) (m : MExt) (s : State) : ∀ t, execSatom a0 m s = .next t → t.mem = s.mem := by
  intro t h; unfold execSatom at h; exact memOp_mem h
theorem execSbank_mem (a0 : Head) (m : MExt) (s : State) : ∀ t, execSbank a0 m s = .next t → t.mem = s.mem := by
  intro t h; unfold execSbank at h; refine runOp_mem ?_ h; intro m u; dsimp only; (repeat' split) <;> simp
theorem execSbfe_mem (a0 : Head) (g : GExt) (s : State) : ∀ t, execSbfe a0 g s = .next t → t.mem = s.mem := by
  intro t h; unfold execSbfe at h; exact uniAlu_mem h
theorem execScarabFetch_mem (s : State) : ∀ t, execScarabFetch s = .next t → t.mem = s.mem := by
  intro t h; unfold execScarabFetch at h; cases h
  (repeat' split) <;> first | rfl | simp
theorem execScarabFifoResume_memOk (s : State) (hs : memWf s.mem = true) : ∀ t, execScarabFifoResume s = .next t →
    memWf t.mem = true := by
  intro t h; unfold execScarabFifoResume at h; cases h
  (repeat' split) <;> first | exact hs | (simp [hs]; done)
theorem execSclz_mem (a0 : Head) (g : GExt) (s : State) : ∀ t, execSclz a0 g s = .next t → t.mem = s.mem := by
  intro t h; unfold execSclz at h; exact uniAlu_mem h
theorem execSclzShort_mem (a0 : Head) (s : State) : ∀ t, execSclzShort a0 s = .next t → t.mem = s.mem := by
  intro t h; unfold execSclzShort at h; exact uniAlu_mem h
theorem execScmp_mem (a0 : Head) (g : GExt) (s : State) : ∀ t, execScmp a0 g s = .next t → t.mem = s.mem := by
  intro t h; unfold execScmp at h; exact uniPred_mem h
theorem execSgetr_mem (a0 : Head) (e : IExt) (s : State) : ∀ t, execSgetr a0 e s = .next t → t.mem = s.mem := by
  intro t h; unfold execSgetr at h; refine runOp_mem ?_ h; intro m u; dsimp only; (repeat' split) <;> simp
theorem execSidx_mem (a0 : Head) (e : IExt) (s : State) : ∀ t, execSidx a0 e s = .next t → t.mem = s.mem := by
  intro t h; unfold execSidx at h; exact uniAlu_mem h
theorem execSld_mem (a0 : Head) (m : MExt) (s : State) : ∀ t, execSld a0 m s = .next t → t.mem = s.mem := by
  intro t h; unfold execSld at h; exact memOp_mem h
theorem execSlea_mem (a0 : Head) (g : GExt) (s : State) : ∀ t, execSlea a0 g s = .next t → t.mem = s.mem := by
  intro t h; unfold execSlea at h; exact uniAlu_mem h
theorem execSmax_mem (a0 : Head) (g : GExt) (s : State) : ∀ t, execSmax a0 g s = .next t → t.mem = s.mem := by
  intro t h; unfold execSmax at h; exact uniAlu_mem h
theorem execSmaxShort_mem (a0 : Head) (s : State) : ∀ t, execSmaxShort a0 s = .next t → t.mem = s.mem := by
  intro t h; unfold execSmaxShort at h; exact uniAlu_mem h
theorem execSmin_mem (a0 : Head) (g : GExt) (s : State) : ∀ t, execSmin a0 g s = .next t → t.mem = s.mem := by
  intro t h; unfold execSmin at h; exact uniAlu_mem h
theorem execSminShort_mem (a0 : Head) (s : State) : ∀ t, execSminShort a0 s = .next t → t.mem = s.mem := by
  intro t h; unfold execSminShort at h; exact uniAlu_mem h
theorem execSmov_mem (a0 : Head) (g : GExt) (s : State) : ∀ t, execSmov a0 g s = .next t → t.mem = s.mem := by
  intro t h; unfold execSmov at h; exact uniAlu_mem h
theorem execSmovShort_mem (a0 : Head) (s : State) : ∀ t, execSmovShort a0 s = .next t → t.mem = s.mem := by
  intro t h; unfold execSmovShort at h; exact uniAlu_mem h
theorem execSmovi_mem (a0 : Head) (l : BitVec 32) (s : State) : ∀ t, execSmovi a0 l s = .next t → t.mem = s.mem := by
  intro t h; unfold execSmovi at h; exact uniAlu_mem h
theorem execSmul_mem (a0 : Head) (g : GExt) (s : State) : ∀ t, execSmul a0 g s = .next t → t.mem = s.mem := by
  intro t h; unfold execSmul at h; exact uniAlu_mem h
theorem execSmulShort_mem (a0 : Head) (s : State) : ∀ t, execSmulShort a0 s = .next t → t.mem = s.mem := by
  intro t h; unfold execSmulShort at h; exact uniAlu_mem h
theorem execSmulh_mem (a0 : Head) (g : GExt) (s : State) : ∀ t, execSmulh a0 g s = .next t → t.mem = s.mem := by
  intro t h; unfold execSmulh at h; exact uniAlu_mem h
theorem execSmulhShort_mem (a0 : Head) (s : State) : ∀ t, execSmulhShort a0 s = .next t → t.mem = s.mem := by
  intro t h; unfold execSmulhShort at h; exact uniAlu_mem h
theorem execSnpcur_memOk (s : State) (hs : memWf s.mem = true) : ∀ t, execSnpcur s = .next t → memWf t.mem = true :=
    by
  intro t h; unfold execSnpcur at h; dsimp only at h; (repeat' split at h) <;> cases h <;> simp [hs]
theorem execSnpdata_memOk (s : State) (hs : memWf s.mem = true) : ∀ t, execSnpdata s = .next t → memWf t.mem = true
    := by
  intro t h; unfold execSnpdata at h; dsimp only at h; (repeat' split at h) <;> cases h <;> simp [hs]
theorem execSnpinv_memOk (s : State) (hs : memWf s.mem = true) : ∀ t, execSnpinv s = .next t → memWf t.mem = true :=
    by
  intro t h; unfold execSnpinv at h; dsimp only at h; (repeat' split at h) <;> cases h <;> simp [hs]
theorem execSoftError_mem (s : State) : ∀ t, execSoftError s = .next t → t.mem = s.mem := by
  intro t h; unfold execSoftError at h; dsimp only at h; (repeat' split at h) <;> cases h <;> simp
theorem execSor_mem (a0 : Head) (g : GExt) (s : State) : ∀ t, execSor a0 g s = .next t → t.mem = s.mem := by
  intro t h; unfold execSor at h; exact uniAlu_mem h
theorem execSorShort_mem (a0 : Head) (s : State) : ∀ t, execSorShort a0 s = .next t → t.mem = s.mem := by
  intro t h; unfold execSorShort at h; exact uniAlu_mem h
theorem execSpopc_mem (a0 : Head) (g : GExt) (s : State) : ∀ t, execSpopc a0 g s = .next t → t.mem = s.mem := by
  intro t h; unfold execSpopc at h; exact uniAlu_mem h
theorem execSpopcShort_mem (a0 : Head) (s : State) : ∀ t, execSpopcShort a0 s = .next t → t.mem = s.mem := by
  intro t h; unfold execSpopcShort at h; exact uniAlu_mem h
theorem execSqlog_mem (a0 : Head) (g : GExt) (s : State) : ∀ t, execSqlog a0 g s = .next t → t.mem = s.mem := by
  intro t h; unfold execSqlog at h; exact uniPred_mem h
theorem execSsar_mem (a0 : Head) (g : GExt) (s : State) : ∀ t, execSsar a0 g s = .next t → t.mem = s.mem := by
  intro t h; unfold execSsar at h; exact uniAlu_mem h
theorem execSsarShort_mem (a0 : Head) (s : State) : ∀ t, execSsarShort a0 s = .next t → t.mem = s.mem := by
  intro t h; unfold execSsarShort at h; exact uniAlu_mem h
theorem execSsel_mem (a0 : Head) (g : GExt) (s : State) : ∀ t, execSsel a0 g s = .next t → t.mem = s.mem := by
  intro t h; unfold execSsel at h; exact uniAlu_mem h
theorem execSsetr_mem (a0 : Head) (e : IExt) (s : State) : ∀ t, execSsetr a0 e s = .next t → t.mem = s.mem := by
  intro t h; unfold execSsetr at h; refine runOp_mem ?_ h; intro m u; dsimp only; (repeat' split) <;> simp
theorem execSshl_mem (a0 : Head) (g : GExt) (s : State) : ∀ t, execSshl a0 g s = .next t → t.mem = s.mem := by
  intro t h; unfold execSshl at h; exact uniAlu_mem h
theorem execSshlShort_mem (a0 : Head) (s : State) : ∀ t, execSshlShort a0 s = .next t → t.mem = s.mem := by
  intro t h; unfold execSshlShort at h; exact uniAlu_mem h
theorem execSshr_mem (a0 : Head) (g : GExt) (s : State) : ∀ t, execSshr a0 g s = .next t → t.mem = s.mem := by
  intro t h; unfold execSshr at h; exact uniAlu_mem h
theorem execSshrShort_mem (a0 : Head) (s : State) : ∀ t, execSshrShort a0 s = .next t → t.mem = s.mem := by
  intro t h; unfold execSshrShort at h; exact uniAlu_mem h
theorem execSst_mem (a0 : Head) (m : MExt) (s : State) : ∀ t, execSst a0 m s = .next t → t.mem = s.mem := by
  intro t h; unfold execSst at h; exact memOp_mem h
theorem execSsub_mem (a0 : Head) (g : GExt) (s : State) : ∀ t, execSsub a0 g s = .next t → t.mem = s.mem := by
  intro t h; unfold execSsub at h; exact uniAlu_mem h
theorem execSsubShort_mem (a0 : Head) (s : State) : ∀ t, execSsubShort a0 s = .next t → t.mem = s.mem := by
  intro t h; unfold execSsubShort at h; exact uniAlu_mem h
theorem execSt_mem (a0 : Head) (m : MExt) (s : State) : ∀ t, execSt a0 m s = .next t → t.mem = s.mem := by
  intro t h; unfold execSt at h; exact memOp_mem h
theorem execSta_mem (a0 : Head) (m : MExt) (s : State) : ∀ t, execSta a0 m s = .next t → t.mem = s.mem := by
  intro t h; unfold execSta at h; exact memOp_mem h
theorem execStl_mem (a0 : Head) (m : MExt) (s : State) : ∀ t, execStl a0 m s = .next t → t.mem = s.mem := by
  intro t h; unfold execStl at h; exact memOp_mem h
theorem execStq_mem (a0 : Head) (m : MExt) (s : State) : ∀ t, execStq a0 m s = .next t → t.mem = s.mem := by
  intro t h; unfold execStq at h; exact memOp_mem h
theorem execSxor_mem (a0 : Head) (g : GExt) (s : State) : ∀ t, execSxor a0 g s = .next t → t.mem = s.mem := by
  intro t h; unfold execSxor at h; exact uniAlu_mem h
theorem execSxorShort_mem (a0 : Head) (s : State) : ∀ t, execSxorShort a0 s = .next t → t.mem = s.mem := by
  intro t h; unfold execSxorShort at h; exact uniAlu_mem h
theorem execThrottledAdmission_memOk (s : State) (hs : memWf s.mem = true) : ∀ t, execThrottledAdmission s = .next t
    → memWf t.mem = true := by
  intro t h; unfold execThrottledAdmission at h; dsimp only at h; (repeat' split at h) <;> cases h <;> simp [hs]
theorem execTileClassifyEnd_mem (s : State) : ∀ t, execTileClassifyEnd s = .next t → t.mem = s.mem := by
  intro t h; simp [execTileClassifyEnd] at h; rw [← h]; simp
theorem execTileClose_mem (s : State) : ∀ t, execTileClose s = .next t → t.mem = s.mem := by
  intro t h; unfold execTileClose at h; dsimp only at h; (repeat' split at h) <;> cases h <;> simp
theorem execTileFragmentResume_memOk (s : State) (hs : memWf s.mem = true) : ∀ t, execTileFragmentResume s = .next t
    → memWf t.mem = true := by
  intro t h; unfold execTileFragmentResume at h
  exact fragEvent_memOk (by intro u x hu; first | (split <;> simp [hu]) | simp [hu]) hs h
theorem execTileReferenceRelease_mem (s : State) : ∀ t, execTileReferenceRelease s = .next t → t.mem = s.mem := by
  intro t h; simp [execTileReferenceRelease] at h; rw [← h]; simp
theorem execTileScan_memOk (s : State) (hs : memWf s.mem = true) : ∀ t, execTileScan s = .next t → memWf t.mem = true
    := by
  intro t h; unfold execTileScan at h; cases h
  dsimp only
  split
  · exact hs
  · refine orWait_memOk hs ?_
    split
    · rename_i hv; simp [viewOf_memOk_of (h := by exact hs) (hh := hv)]
    · rename_i hv
      have hv := viewOf_memOk_of (h := by exact hs) (hh := hv)
      split <;> simp [hv]
theorem execTmCommandDone_memOk (s : State) (hs : memWf s.mem = true) : ∀ t, execTmCommandDone s = .next t → memWf
    t.mem = true := by
  intro t h; unfold execTmCommandDone at h; cases h; (repeat' split) <;> first | exact hs | (simp [hs]; done)
theorem execTrapDelivery_mem (s : State) : ∀ t, execTrapDelivery s = .next t → t.mem = s.mem := by
  intro t h; unfold execTrapDelivery at h; dsimp only at h; (repeat' split at h) <;> cases h <;> simp
theorem execTrapSw_mem (a0 : Head) (e : IExt) (s : State) : ∀ t, execTrapSw a0 e s = .next t → t.mem = s.mem := by
  intro t h; unfold execTrapSw at h; refine control_mem ?_ h; intro m u; dsimp only; (repeat' split) <;> simp
theorem execTravr_mem (a0 : Head) (n : NExt) (s : State) : ∀ t, execTravr a0 n s = .next t → t.mem = s.mem := by
  intro t h; unfold execTravr at h; exact travOp_mem h
theorem execTravs_mem (a0 : Head) (n : NExt) (s : State) : ∀ t, execTravs a0 n s = .next t → t.mem = s.mem := by
  intro t h; unfold execTravs at h; exact travOp_mem h
theorem execTvrel_mem (a0 : Head) (n : NExt) (s : State) : ∀ t, execTvrel a0 n s = .next t → t.mem = s.mem := by
  intro t h; unfold execTvrel at h; refine runOp_mem ?_ h; intro m u; dsimp only; (repeat' split) <;> simp
theorem execUbr_mem (a0 : Head) (a1 : BExt) (s : State) : ∀ t, execUbr a0 a1 s = .next t → t.mem = s.mem := by
  intro t h; unfold execUbr at h
  exact control_mem (by intro m u; first | rfl | (split <;> simp) | simp) h
theorem execUcall_mem (a0 : Head) (a1 : BExt) (s : State) : ∀ t, execUcall a0 a1 s = .next t → t.mem = s.mem := by
  intro t h; unfold execUcall at h; refine control_mem ?_ h; intro m u; dsimp only; (repeat' split) <;> simp
theorem execUjmp_memOk (a0 : Head) (a1 : BExt) (s : State) (hs : memWf s.mem = true) : ∀ t, execUjmp a0 a1 s = .next
    t → memWf t.mem = true := by
  intro t h; unfold execUjmp at h; exact registerJump_memOk hs h
theorem execUnbindCtx_mem (s : State) : ∀ t, execUnbindCtx s = .next t → t.mem = s.mem := by
  intro t h; simp [execUnbindCtx] at h; rw [← h]; simp
theorem execUnitRetire_memOk (s : State) (hs : memWf s.mem = true) : ∀ t, execUnitRetire s = .next t → memWf t.mem =
    true := by
  intro t h; unfold execUnitRetire at h; cases h; split <;> simp [hs]
theorem execUret_memOk (a0 : Head) (a1 : BExt) (s : State) (hs : memWf s.mem = true) : ∀ t, execUret a0 a1 s = .next
    t → memWf t.mem = true := by
  intro t h; unfold execUret at h; exact registerJump_memOk hs h
theorem execUretShort_memOk (a0 : Head) (s : State) (hs : memWf s.mem = true) : ∀ t, execUretShort a0 s = .next t →
    memWf t.mem = true := by
  intro t h; unfold execUretShort at h; exact registerJump_memOk hs h
theorem execVabsd_mem (a0 : Head) (g : GExt) (s : State) : ∀ t, execVabsd a0 g s = .next t → t.mem = s.mem := by
  intro t h; unfold execVabsd at h; exact laneAlu_mem h
theorem execVabsdShort_mem (a0 : Head) (s : State) : ∀ t, execVabsdShort a0 s = .next t → t.mem = s.mem := by
  intro t h; unfold execVabsdShort at h; exact laneAlu_mem h
theorem execVadd_mem (a0 : Head) (g : GExt) (s : State) : ∀ t, execVadd a0 g s = .next t → t.mem = s.mem := by
  intro t h; unfold execVadd at h; exact laneAlu_mem h
theorem execVaddShort_mem (a0 : Head) (s : State) : ∀ t, execVaddShort a0 s = .next t → t.mem = s.mem := by
  intro t h; unfold execVaddShort at h; exact laneAlu_mem h
theorem execVaddi_mem (a0 : Head) (e : IExt) (s : State) : ∀ t, execVaddi a0 e s = .next t → t.mem = s.mem := by
  intro t h; unfold execVaddi at h; exact laneAlu_mem h
theorem execVand_mem (a0 : Head) (g : GExt) (s : State) : ∀ t, execVand a0 g s = .next t → t.mem = s.mem := by
  intro t h; unfold execVand at h; exact laneAlu_mem h
theorem execVandShort_mem (a0 : Head) (s : State) : ∀ t, execVandShort a0 s = .next t → t.mem = s.mem := by
  intro t h; unfold execVandShort at h; exact laneAlu_mem h
theorem execVandn_mem (a0 : Head) (g : GExt) (s : State) : ∀ t, execVandn a0 g s = .next t → t.mem = s.mem := by
  intro t h; unfold execVandn at h; exact laneAlu_mem h
theorem execVandnShort_mem (a0 : Head) (s : State) : ∀ t, execVandnShort a0 s = .next t → t.mem = s.mem := by
  intro t h; unfold execVandnShort at h; exact laneAlu_mem h
theorem execVbcst_mem (a0 : Head) (g : GExt) (s : State) : ∀ t, execVbcst a0 g s = .next t → t.mem = s.mem := by
  intro t h; unfold execVbcst at h; exact exchange_mem h
theorem execVbfe_mem (a0 : Head) (g : GExt) (s : State) : ∀ t, execVbfe a0 g s = .next t → t.mem = s.mem := by
  intro t h; unfold execVbfe at h; exact laneAlu_mem h
theorem execVbfi_mem (a0 : Head) (g : GExt) (s : State) : ∀ t, execVbfi a0 g s = .next t → t.mem = s.mem := by
  intro t h; unfold execVbfi at h; exact laneAlu_mem h
theorem execVbrev_mem (a0 : Head) (g : GExt) (s : State) : ∀ t, execVbrev a0 g s = .next t → t.mem = s.mem := by
  intro t h; unfold execVbrev at h; exact laneAlu_mem h
theorem execVbrevShort_mem (a0 : Head) (s : State) : ∀ t, execVbrevShort a0 s = .next t → t.mem = s.mem := by
  intro t h; unfold execVbrevShort at h; exact laneAlu_mem h
theorem execVclz_mem (a0 : Head) (g : GExt) (s : State) : ∀ t, execVclz a0 g s = .next t → t.mem = s.mem := by
  intro t h; unfold execVclz at h; exact laneAlu_mem h
theorem execVclzShort_mem (a0 : Head) (s : State) : ∀ t, execVclzShort a0 s = .next t → t.mem = s.mem := by
  intro t h; unfold execVclzShort at h; exact laneAlu_mem h
theorem execVcmp_mem (a0 : Head) (g : GExt) (s : State) : ∀ t, execVcmp a0 g s = .next t → t.mem = s.mem := by
  intro t h; unfold execVcmp at h; exact laneAlu_mem h
theorem execVcmpi_mem (a0 : Head) (e : IExt) (s : State) : ∀ t, execVcmpi a0 e s = .next t → t.mem = s.mem := by
  intro t h; unfold execVcmpi at h; exact laneAlu_mem h
theorem execVcompact_mem (a0 : Head) (g : GExt) (s : State) : ∀ t, execVcompact a0 g s = .next t → t.mem = s.mem := by
  intro t h; unfold execVcompact at h; exact exchange_mem h
theorem execVcompactRow_mem (a0 : Head) (g : GExt) (s : State) : ∀ t, execVcompactRow a0 g s = .next t → t.mem =
    s.mem := by
  intro t h; unfold execVcompactRow at h; refine runOp_mem ?_ h; intro m u; dsimp only; (repeat' split) <;> simp
theorem execVcosp_mem (a0 : Head) (g : GExt) (s : State) : ∀ t, execVcosp a0 g s = .next t → t.mem = s.mem := by
  intro t h; unfold execVcosp at h; exact fpAlu_mem h
theorem execVcospShort_mem (a0 : Head) (s : State) : ∀ t, execVcospShort a0 s = .next t → t.mem = s.mem := by
  intro t h; unfold execVcospShort at h; exact fpAlu_mem h
theorem execVcvt_mem (a0 : Head) (g : GExt) (s : State) : ∀ t, execVcvt a0 g s = .next t → t.mem = s.mem := by
  intro t h; unfold execVcvt at h; exact bumpDraws_mem (fun _ hu => laneAlu_mem hu) h
theorem execVdot4_mem (a0 : Head) (g : GExt) (s : State) : ∀ t, execVdot4 a0 g s = .next t → t.mem = s.mem := by
  intro t h; unfold execVdot4 at h; exact laneAlu_mem h
theorem execVdot8_mem (a0 : Head) (g : GExt) (s : State) : ∀ t, execVdot8 a0 g s = .next t → t.mem = s.mem := by
  intro t h; unfold execVdot8 at h; exact laneAlu_mem h
theorem execVexp2_mem (a0 : Head) (g : GExt) (s : State) : ∀ t, execVexp2 a0 g s = .next t → t.mem = s.mem := by
  intro t h; unfold execVexp2 at h; exact fpAlu_mem h
theorem execVexp2Short_mem (a0 : Head) (s : State) : ∀ t, execVexp2Short a0 s = .next t → t.mem = s.mem := by
  intro t h; unfold execVexp2Short at h; exact fpAlu_mem h
theorem execVexpand_mem (a0 : Head) (g : GExt) (s : State) : ∀ t, execVexpand a0 g s = .next t → t.mem = s.mem := by
  intro t h; unfold execVexpand at h; exact exchange_mem h
theorem execVfadd_mem (a0 : Head) (g : GExt) (s : State) : ∀ t, execVfadd a0 g s = .next t → t.mem = s.mem := by
  intro t h; unfold execVfadd at h; exact fpAlu_mem h
theorem execVfaddShort_mem (a0 : Head) (s : State) : ∀ t, execVfaddShort a0 s = .next t → t.mem = s.mem := by
  intro t h; unfold execVfaddShort at h; exact fpAlu_mem h
theorem execVfclass_mem (a0 : Head) (g : GExt) (s : State) : ∀ t, execVfclass a0 g s = .next t → t.mem = s.mem := by
  intro t h; unfold execVfclass at h; exact laneAlu_mem h
theorem execVfcmp_mem (a0 : Head) (g : GExt) (s : State) : ∀ t, execVfcmp a0 g s = .next t → t.mem = s.mem := by
  intro t h; unfold execVfcmp at h; exact laneAlu_mem h
theorem execVfdiv_mem (a0 : Head) (g : GExt) (s : State) : ∀ t, execVfdiv a0 g s = .next t → t.mem = s.mem := by
  intro t h; unfold execVfdiv at h; exact fpAlu_mem h
theorem execVfdivShort_mem (a0 : Head) (s : State) : ∀ t, execVfdivShort a0 s = .next t → t.mem = s.mem := by
  intro t h; unfold execVfdivShort at h; exact fpAlu_mem h
theorem execVfdot2_mem (a0 : Head) (g : GExt) (s : State) : ∀ t, execVfdot2 a0 g s = .next t → t.mem = s.mem := by
  intro t h; unfold execVfdot2 at h; exact bumpDraws_mem (fun _ hu => laneAlu_mem hu) h
theorem execVfma_mem (a0 : Head) (g : GExt) (s : State) : ∀ t, execVfma a0 g s = .next t → t.mem = s.mem := by
  intro t h; unfold execVfma at h; exact fpAlu_mem h
theorem execVfmax_mem (a0 : Head) (g : GExt) (s : State) : ∀ t, execVfmax a0 g s = .next t → t.mem = s.mem := by
  intro t h; unfold execVfmax at h; exact fpAlu_mem h
theorem execVfmaxShort_mem (a0 : Head) (s : State) : ∀ t, execVfmaxShort a0 s = .next t → t.mem = s.mem := by
  intro t h; unfold execVfmaxShort at h; exact fpAlu_mem h
theorem execVfmin_mem (a0 : Head) (g : GExt) (s : State) : ∀ t, execVfmin a0 g s = .next t → t.mem = s.mem := by
  intro t h; unfold execVfmin at h; exact fpAlu_mem h
theorem execVfminShort_mem (a0 : Head) (s : State) : ∀ t, execVfminShort a0 s = .next t → t.mem = s.mem := by
  intro t h; unfold execVfminShort at h; exact fpAlu_mem h
theorem execVfmul_mem (a0 : Head) (g : GExt) (s : State) : ∀ t, execVfmul a0 g s = .next t → t.mem = s.mem := by
  intro t h; unfold execVfmul at h; exact fpAlu_mem h
theorem execVfmulShort_mem (a0 : Head) (s : State) : ∀ t, execVfmulShort a0 s = .next t → t.mem = s.mem := by
  intro t h; unfold execVfmulShort at h; exact fpAlu_mem h
theorem execVfract_mem (a0 : Head) (g : GExt) (s : State) : ∀ t, execVfract a0 g s = .next t → t.mem = s.mem := by
  intro t h; unfold execVfract at h; exact fpAlu_mem h
theorem execVfractShort_mem (a0 : Head) (s : State) : ∀ t, execVfractShort a0 s = .next t → t.mem = s.mem := by
  intro t h; unfold execVfractShort at h; exact fpAlu_mem h
theorem execVfrnd_mem (a0 : Head) (g : GExt) (s : State) : ∀ t, execVfrnd a0 g s = .next t → t.mem = s.mem := by
  intro t h; unfold execVfrnd at h; exact fpAlu_mem h
theorem execVfrndShort_mem (a0 : Head) (s : State) : ∀ t, execVfrndShort a0 s = .next t → t.mem = s.mem := by
  intro t h; unfold execVfrndShort at h; exact fpAlu_mem h
theorem execVfsub_mem (a0 : Head) (g : GExt) (s : State) : ∀ t, execVfsub a0 g s = .next t → t.mem = s.mem := by
  intro t h; unfold execVfsub at h; exact fpAlu_mem h
theorem execVfsubShort_mem (a0 : Head) (s : State) : ∀ t, execVfsubShort a0 s = .next t → t.mem = s.mem := by
  intro t h; unfold execVfsubShort at h; exact fpAlu_mem h
theorem execVftag_mem (a0 : Head) (g : GExt) (s : State) : ∀ t, execVftag a0 g s = .next t → t.mem = s.mem := by
  intro t h; unfold execVftag at h; exact laneAlu_mem h
theorem execVidx_mem (a0 : Head) (e : IExt) (s : State) : ∀ t, execVidx a0 e s = .next t → t.mem = s.mem := by
  intro t h; unfold execVidx at h; exact laneAlu_mem h
theorem execVlea_mem (a0 : Head) (g : GExt) (s : State) : ∀ t, execVlea a0 g s = .next t → t.mem = s.mem := by
  intro t h; unfold execVlea at h; exact laneAlu_mem h
theorem execVlog2_mem (a0 : Head) (g : GExt) (s : State) : ∀ t, execVlog2 a0 g s = .next t → t.mem = s.mem := by
  intro t h; unfold execVlog2 at h; exact fpAlu_mem h
theorem execVlog2Short_mem (a0 : Head) (s : State) : ∀ t, execVlog2Short a0 s = .next t → t.mem = s.mem := by
  intro t h; unfold execVlog2Short at h; exact fpAlu_mem h
theorem execVmad_mem (a0 : Head) (g : GExt) (s : State) : ∀ t, execVmad a0 g s = .next t → t.mem = s.mem := by
  intro t h; unfold execVmad at h; exact laneAlu_mem h
theorem execVmadw_mem (a0 : Head) (g : GExt) (s : State) : ∀ t, execVmadw a0 g s = .next t → t.mem = s.mem := by
  intro t h; unfold execVmadw at h; exact laneAlu_mem h
theorem execVmatch_mem (a0 : Head) (g : GExt) (s : State) : ∀ t, execVmatch a0 g s = .next t → t.mem = s.mem := by
  intro t h; unfold execVmatch at h; exact exchange_mem h
theorem execVmax_mem (a0 : Head) (g : GExt) (s : State) : ∀ t, execVmax a0 g s = .next t → t.mem = s.mem := by
  intro t h; unfold execVmax at h; exact laneAlu_mem h
theorem execVmaxShort_mem (a0 : Head) (s : State) : ∀ t, execVmaxShort a0 s = .next t → t.mem = s.mem := by
  intro t h; unfold execVmaxShort at h; exact laneAlu_mem h
theorem execVmin_mem (a0 : Head) (g : GExt) (s : State) : ∀ t, execVmin a0 g s = .next t → t.mem = s.mem := by
  intro t h; unfold execVmin at h; exact laneAlu_mem h
theorem execVminShort_mem (a0 : Head) (s : State) : ∀ t, execVminShort a0 s = .next t → t.mem = s.mem := by
  intro t h; unfold execVminShort at h; exact laneAlu_mem h
theorem execVmov_mem (a0 : Head) (g : GExt) (s : State) : ∀ t, execVmov a0 g s = .next t → t.mem = s.mem := by
  intro t h; unfold execVmov at h; exact laneAlu_mem h
theorem execVmovShort_mem (a0 : Head) (s : State) : ∀ t, execVmovShort a0 s = .next t → t.mem = s.mem := by
  intro t h; unfold execVmovShort at h; exact laneAlu_mem h
theorem execVmovh_mem (a0 : Head) (e : IExt) (s : State) : ∀ t, execVmovh a0 e s = .next t → t.mem = s.mem := by
  intro t h; unfold execVmovh at h; exact laneAlu_mem h
theorem execVmovi_mem (a0 : Head) (e : IExt) (s : State) : ∀ t, execVmovi a0 e s = .next t → t.mem = s.mem := by
  intro t h; unfold execVmovi at h; exact laneAlu_mem h
theorem execVmul_mem (a0 : Head) (g : GExt) (s : State) : ∀ t, execVmul a0 g s = .next t → t.mem = s.mem := by
  intro t h; unfold execVmul at h; exact laneAlu_mem h
theorem execVmulShort_mem (a0 : Head) (s : State) : ∀ t, execVmulShort a0 s = .next t → t.mem = s.mem := by
  intro t h; unfold execVmulShort at h; exact laneAlu_mem h
theorem execVmulh_mem (a0 : Head) (g : GExt) (s : State) : ∀ t, execVmulh a0 g s = .next t → t.mem = s.mem := by
  intro t h; unfold execVmulh at h; exact laneAlu_mem h
theorem execVmulhShort_mem (a0 : Head) (s : State) : ∀ t, execVmulhShort a0 s = .next t → t.mem = s.mem := by
  intro t h; unfold execVmulhShort at h; exact laneAlu_mem h
theorem execVor_mem (a0 : Head) (g : GExt) (s : State) : ∀ t, execVor a0 g s = .next t → t.mem = s.mem := by
  intro t h; unfold execVor at h; exact laneAlu_mem h
theorem execVorShort_mem (a0 : Head) (s : State) : ∀ t, execVorShort a0 s = .next t → t.mem = s.mem := by
  intro t h; unfold execVorShort at h; exact laneAlu_mem h
theorem execVpack_mem (a0 : Head) (g : GExt) (s : State) : ∀ t, execVpack a0 g s = .next t → t.mem = s.mem := by
  intro t h; unfold execVpack at h; exact bumpDraws_mem (fun _ hu => laneAlu_mem hu) h
theorem execVperm_mem (a0 : Head) (g : GExt) (s : State) : ∀ t, execVperm a0 g s = .next t → t.mem = s.mem := by
  intro t h; unfold execVperm at h; exact laneAlu_mem h
theorem execVpfadd_mem (a0 : Head) (g : GExt) (s : State) : ∀ t, execVpfadd a0 g s = .next t → t.mem = s.mem := by
  intro t h; unfold execVpfadd at h; exact fp8Alu_mem h
theorem execVpfma_mem (a0 : Head) (g : GExt) (s : State) : ∀ t, execVpfma a0 g s = .next t → t.mem = s.mem := by
  intro t h; unfold execVpfma at h; exact fp8Alu_mem h
theorem execVpfmul_mem (a0 : Head) (g : GExt) (s : State) : ∀ t, execVpfmul a0 g s = .next t → t.mem = s.mem := by
  intro t h; unfold execVpfmul at h; exact fp8Alu_mem h
theorem execVplog_mem (a0 : Head) (g : GExt) (s : State) : ∀ t, execVplog a0 g s = .next t → t.mem = s.mem := by
  intro t h; unfold execVplog at h; exact laneAlu_mem h
theorem execVpmov_mem (a0 : Head) (g : GExt) (s : State) : ∀ t, execVpmov a0 g s = .next t → t.mem = s.mem := by
  intro t h; unfold execVpmov at h; exact laneAlu_mem h
theorem execVpopc_mem (a0 : Head) (g : GExt) (s : State) : ∀ t, execVpopc a0 g s = .next t → t.mem = s.mem := by
  intro t h; unfold execVpopc at h; exact laneAlu_mem h
theorem execVpopcShort_mem (a0 : Head) (s : State) : ∀ t, execVpopcShort a0 s = .next t → t.mem = s.mem := by
  intro t h; unfold execVpopcShort at h; exact laneAlu_mem h
theorem execVrcp_mem (a0 : Head) (g : GExt) (s : State) : ∀ t, execVrcp a0 g s = .next t → t.mem = s.mem := by
  intro t h; unfold execVrcp at h; exact fpAlu_mem h
theorem execVrcpShort_mem (a0 : Head) (s : State) : ∀ t, execVrcpShort a0 s = .next t → t.mem = s.mem := by
  intro t h; unfold execVrcpShort at h; exact fpAlu_mem h
theorem execVrdln_mem (a0 : Head) (g : GExt) (s : State) : ∀ t, execVrdln a0 g s = .next t → t.mem = s.mem := by
  intro t h; unfold execVrdln at h; dsimp only at h
  split at h
  · cases h; simp
  · exact runOp_mem (fun m u => by simp) h
theorem execVredu_mem (a0 : Head) (g : GExt) (s : State) : ∀ t, execVredu a0 g s = .next t → t.mem = s.mem := by
  intro t h; unfold execVredu at h; exact bumpDraws_mem (fun _ hu => exchange_mem hu) h
theorem execVrot_mem (a0 : Head) (g : GExt) (s : State) : ∀ t, execVrot a0 g s = .next t → t.mem = s.mem := by
  intro t h; unfold execVrot at h; exact laneAlu_mem h
theorem execVrotShort_mem (a0 : Head) (s : State) : ∀ t, execVrotShort a0 s = .next t → t.mem = s.mem := by
  intro t h; unfold execVrotShort at h; exact laneAlu_mem h
theorem execVrsq_mem (a0 : Head) (g : GExt) (s : State) : ∀ t, execVrsq a0 g s = .next t → t.mem = s.mem := by
  intro t h; unfold execVrsq at h; exact fpAlu_mem h
theorem execVrsqShort_mem (a0 : Head) (s : State) : ∀ t, execVrsqShort a0 s = .next t → t.mem = s.mem := by
  intro t h; unfold execVrsqShort at h; exact fpAlu_mem h
theorem execVsar_mem (a0 : Head) (g : GExt) (s : State) : ∀ t, execVsar a0 g s = .next t → t.mem = s.mem := by
  intro t h; unfold execVsar at h; exact laneAlu_mem h
theorem execVsarShort_mem (a0 : Head) (s : State) : ∀ t, execVsarShort a0 s = .next t → t.mem = s.mem := by
  intro t h; unfold execVsarShort at h; exact laneAlu_mem h
theorem execVscan_mem (a0 : Head) (g : GExt) (s : State) : ∀ t, execVscan a0 g s = .next t → t.mem = s.mem := by
  intro t h; unfold execVscan at h; exact bumpDraws_mem (fun _ hu => alu_mem hu) h
theorem execVscl_mem (a0 : Head) (g : GExt) (s : State) : ∀ t, execVscl a0 g s = .next t → t.mem = s.mem := by
  intro t h; unfold execVscl at h; exact bumpDraws_mem (fun _ hu => laneAlu_mem hu) h
theorem execVsel_mem (a0 : Head) (g : GExt) (s : State) : ∀ t, execVsel a0 g s = .next t → t.mem = s.mem := by
  intro t h; unfold execVsel at h; exact laneAlu_mem h
theorem execVshfl_mem (a0 : Head) (g : GExt) (s : State) : ∀ t, execVshfl a0 g s = .next t → t.mem = s.mem := by
  intro t h; unfold execVshfl at h; exact exchange_mem h
theorem execVshl_mem (a0 : Head) (g : GExt) (s : State) : ∀ t, execVshl a0 g s = .next t → t.mem = s.mem := by
  intro t h; unfold execVshl at h; exact laneAlu_mem h
theorem execVshlShort_mem (a0 : Head) (s : State) : ∀ t, execVshlShort a0 s = .next t → t.mem = s.mem := by
  intro t h; unfold execVshlShort at h; exact laneAlu_mem h
theorem execVshr_mem (a0 : Head) (g : GExt) (s : State) : ∀ t, execVshr a0 g s = .next t → t.mem = s.mem := by
  intro t h; unfold execVshr at h; exact laneAlu_mem h
theorem execVshrShort_mem (a0 : Head) (s : State) : ∀ t, execVshrShort a0 s = .next t → t.mem = s.mem := by
  intro t h; unfold execVshrShort at h; exact laneAlu_mem h
theorem execVsinp_mem (a0 : Head) (g : GExt) (s : State) : ∀ t, execVsinp a0 g s = .next t → t.mem = s.mem := by
  intro t h; unfold execVsinp at h; exact fpAlu_mem h
theorem execVsinpShort_mem (a0 : Head) (s : State) : ∀ t, execVsinpShort a0 s = .next t → t.mem = s.mem := by
  intro t h; unfold execVsinpShort at h; exact fpAlu_mem h
theorem execVsqrt_mem (a0 : Head) (g : GExt) (s : State) : ∀ t, execVsqrt a0 g s = .next t → t.mem = s.mem := by
  intro t h; unfold execVsqrt at h; exact fpAlu_mem h
theorem execVsqrtShort_mem (a0 : Head) (s : State) : ∀ t, execVsqrtShort a0 s = .next t → t.mem = s.mem := by
  intro t h; unfold execVsqrtShort at h; exact fpAlu_mem h
theorem execVsub_mem (a0 : Head) (g : GExt) (s : State) : ∀ t, execVsub a0 g s = .next t → t.mem = s.mem := by
  intro t h; unfold execVsub at h; exact laneAlu_mem h
theorem execVsubShort_mem (a0 : Head) (s : State) : ∀ t, execVsubShort a0 s = .next t → t.mem = s.mem := by
  intro t h; unfold execVsubShort at h; exact laneAlu_mem h
theorem execVunpk_mem (a0 : Head) (g : GExt) (s : State) : ∀ t, execVunpk a0 g s = .next t → t.mem = s.mem := by
  intro t h; unfold execVunpk at h; exact laneAlu_mem h
theorem execVvote_mem (a0 : Head) (g : GExt) (s : State) : ∀ t, execVvote a0 g s = .next t → t.mem = s.mem := by
  intro t h; unfold execVvote at h; exact exchange_mem h
theorem execVwrln_mem (a0 : Head) (g : GExt) (s : State) : ∀ t, execVwrln a0 g s = .next t → t.mem = s.mem := by
  intro t h; unfold execVwrln at h; refine runOp_mem ?_ h; intro m u; dsimp only; (repeat' split) <;> simp
theorem execVxor_mem (a0 : Head) (g : GExt) (s : State) : ∀ t, execVxor a0 g s = .next t → t.mem = s.mem := by
  intro t h; unfold execVxor at h; exact laneAlu_mem h
theorem execVxorShort_mem (a0 : Head) (s : State) : ∀ t, execVxorShort a0 s = .next t → t.mem = s.mem := by
  intro t h; unfold execVxorShort at h; exact laneAlu_mem h
theorem execWaddr_mem (a0 : Head) (m : MExt) (s : State) : ∀ t, execWaddr a0 m s = .next t → t.mem = s.mem := by
  intro t h; unfold execWaddr at h; exact barOp_mem h
theorem execWaddrTimeout_mem (s : State) : ∀ t, execWaddrTimeout s = .next t → t.mem = s.mem := by
  intro t h; unfold execWaddrTimeout at h; cases h
  (repeat' split) <;> first | rfl | simp
theorem execWaddrWake_mem (s : State) : ∀ t, execWaddrWake s = .next t → t.mem = s.mem := by
  intro t h; unfold execWaddrWake at h; cases h
  (repeat' split) <;> first | rfl | simp
theorem execWalkComplete_memOk (s : State) (hs : memWf s.mem = true) : ∀ t, execWalkComplete s = .next t → memWf
    t.mem = true := by
  intro t h; unfold execWalkComplete at h; cases h; (repeat' split) <;> first | exact hs | (simp [hs]; done)
theorem execWsync_mem (a0 : Head) (m : MExt) (s : State) : ∀ t, execWsync a0 m s = .next t → t.mem = s.mem := by
  intro t h; unfold execWsync at h
  exact runOp_mem (by intro m u; simp) h
theorem execWsyncShort_mem (a0 : Head) (s : State) : ∀ t, execWsyncShort a0 s = .next t → t.mem = s.mem := by
  intro t h; unfold execWsyncShort at h
  exact runOp_mem (by intro m u; simp) h
theorem execYieldShort_memOk (a0 : Head) (s : State) (hs : memWf s.mem = true) : ∀ t, execYieldShort a0 s = .next t →
    memWf t.mem = true := by
  intro t h; unfold execYieldShort at h; exact yieldOp_memOk hs h
theorem execYieldW_memOk (a0 : Head) (e : IExt) (s : State) (hs : memWf s.mem = true) : ∀ t, execYieldW a0 e s =
    .next t → memWf t.mem = true := by
  intro t h; unfold execYieldW at h; exact yieldOp_memOk hs h
theorem execYieldmaxExpiry_memOk (s : State) (hs : memWf s.mem = true) : ∀ t, execYieldmaxExpiry s = .next t → memWf
    t.mem = true := by
  intro t h; unfold execYieldmaxExpiry at h; cases h
  refine orWait_memOk hs ?_
  split
  · exact hs
  dsimp only
  rw [endIfOver_mem]
  have hd : memWf (dropGroup s (wv s (arg s 0)).group).mem = true := by simp [hs]
  split
  · exact hd
  split
  · exact hd
  · exact foldl_memOk (fun t x ht => by simp [ht]) _ _ hd

end Sys2Proof.Machine
end

