-- ==== Sys2Proof/Laws/Issue.lean ====
section
/-! SUPPORT. What the conditions of issue decide, and what an instruction that meets them does: one lemma for each shape of
instruction. -/

namespace Sys2Proof.Machine

open Sys2Proof.Machine.State

/-- With no empty source the sources decide nothing. -/
theorem srcVerdict_go {v : Wave} {m : Lanes} : ∀ {l : List Src}, (∀ x ∈ l, srcEmpty v m x = false) → srcVerdict v m l = .go
  | [], _ => rfl
  | x :: r, h => by
    rw [srcVerdict, h x (List.mem_cons_self ..)]
    exact srcVerdict_go fun y hy => h y (List.mem_cons_of_mem _ hy)

/-- The first empty source decides: its trap bit makes it a trap, otherwise the instruction waits. -/
theorem srcVerdict_first {v : Wave} {m : Lanes} {x : Src} {b : List Src} (hx : srcEmpty v m x = true) :
    ∀ {a : List Src}, (∀ y ∈ a, srcEmpty v m y = false) →
      srcVerdict v m (a ++ x :: b) = if x.trap then .trap 2 0 else .wait 3
  | [], _ => by simp only [List.nil_append, srcVerdict, hx, if_true]
  | y :: r, h => by
    rw [List.cons_append, srcVerdict, h y (List.mem_cons_self ..)]
    exact srcVerdict_first hx fun z hz => h z (List.mem_cons_of_mem _ hz)

/-- A register run beyond what the wave holds is an illegal instruction. -/
theorem gate_illegal {sp : Spec} {s : State} {busy full : Bool} (h : runsIn (curWave s) sp = false) : gate sp false busy full s = .trap 1 0 := by
  simp only [curWave] at h
  simp only [gate, gateSrc, h, Bool.not_false, Bool.or_true, if_true]

/-- The first condition: the distance. -/
theorem gate_distance {sp : Spec} {s : State} {busy full : Bool} (h : runsIn (curWave s) sp = true)
    (hd : distOk (curWave s) (cycAt s (curWave s).core) s.cur.lanes sp.d = false) : gate sp false busy full s = .wait 1 := by
  simp only [curWave] at h hd
  simp only [gate, gateSrc, h, hd, Bool.not_true, Bool.not_false, Bool.or_false, Bool.false_eq_true, if_false, if_true]

/-- The second: the wait mask. -/
theorem gate_mask {sp : Spec} {s : State} {busy full : Bool} (h : runsIn (curWave s) sp = true)
    (hd : distOk (curWave s) (cycAt s (curWave s).core) s.cur.lanes sp.d = true) (hw : flagsClear (curWave s) sp.w = false) :
    gate sp false busy full s = .wait 2 := by
  simp only [curWave] at h hd hw
  simp only [gate, gateSrc, h, hd, hw, Bool.not_true, Bool.not_false, Bool.or_false, Bool.false_eq_true, if_false, if_true]

/-- Past the first two conditions the guard's predicate and the sources decide. -/
theorem gateSrc_past {sp : Spec} {s : State} (h : runsIn (curWave s) sp = true)
    (hd : distOk (curWave s) (cycAt s (curWave s).core) s.cur.lanes sp.d = true) (hw : flagsClear (curWave s) sp.w = true) :
    gateSrc sp false s =
      if guardWait (curWave s) sp s.cur.lanes then .wait 3 else srcVerdict (curWave s) (active sp s) sp.srcs := by
  simp only [curWave] at h hd hw
  simp only [curWave, gateSrc, h, hd, hw, Bool.not_true, Bool.or_false, Bool.false_eq_true, if_false]
  rfl

/-- Where the sources let it go, the others decide in their order. -/
theorem gate_past {sp : Spec} {s : State} {full : Bool} (h : gateSrc sp false s = .go) : gate sp false false full s =
    let v := curWave s
    let m := active sp s
    if sp.dsts.any (dstEmpty v m) || predWait v sp m then .wait 3
    else if decide (sp.g ≠ 0) && slotPending v sp.g then .wait 4
    else if (match sp.ec with | some e => !(ebudOk s v.core v.ctx e) | none => false) then .wait 5
    else if sp.mat && decide ((pr s (corePair v.core)).baton ≠ some s.cur.wave) then .trap 5 0
    else if full || decide (63 ≤ v.flags.getD sp.flag 0) || (sp.win && decide (16 ≤ windowUsed v)) then .wait 7
    else if sp.srcs.all (tagsOk v m) then .go else .trap 3 0 := by
  simp only [gate, h, curWave, Bool.or_false]
  rfl

/-- An instruction that meets the conditions of issue, and has no wait and no illegal case of its own, goes. -/
theorem gate_go {i : Instr} {s : State} (h : Issuable i s) : gate (specOf i) false false false s = .go := by
  have hr := h.runs; have ha := h.apart; have hw := h.waited; have hp := h.preds; have hq := h.guard
  simp only [curWave] at hr ha hw hp hq
  have hs : srcVerdict (wv s s.cur.wave) (active (specOf i) s) (specOf i).srcs = .go := srcVerdict_go h.sources
  have hd : ((specOf i).dsts.any (dstEmpty (wv s s.cur.wave) (active (specOf i) s))) = false := by
    rw [List.any_eq_false]; intro d hm; simpa [curWave] using h.dests d hm
  have ht : ((specOf i).srcs.all (tagsOk (wv s s.cur.wave) (active (specOf i) s))) = true := by
    rw [List.all_eq_true]; exact h.tags
  have hg : (decide ((specOf i).g ≠ 0) && slotPending (wv s s.cur.wave) (specOf i).g) = false := by
    rcases h.slot with hz | hz
    · simp [hz]
    · simp only [curWave] at hz; simp [hz]
  have hb : ((specOf i).mat && decide ((pr s (corePair (wv s s.cur.wave).core)).baton ≠ some s.cur.wave)) = false := by
    cases hm : (specOf i).mat with
    | false => rfl
    | true => have := h.baton hm; simp only [curWave] at this; simp [this]
  have hf : decide (63 ≤ (wv s s.cur.wave).flags.getD (specOf i).flag 0) = false := by
    have := h.flag; simp only [curWave] at this; exact decide_eq_false (by omega)
  have hn : ((specOf i).win && decide (16 ≤ windowUsed (wv s s.cur.wave))) = false := by
    cases hm : (specOf i).win with
    | false => rfl
    | true =>
      have := h.window hm; simp only [curWave] at this
      rw [Bool.true_and]; exact decide_eq_false (by omega)
  have hsrc : gateSrc (specOf i) false s = .go := by
    simp only [gateSrc, hr, ha, hw, hq, hs, Bool.not_true, Bool.or_false, Bool.false_eq_true, if_false]
  unfold gate
  rw [hsrc]
  have he := h.energy
  cases hc : (specOf i).ec with
  | none =>
    simp only [hd, hp, hg, hb, hf, hn, ht, Bool.or_false, Bool.false_eq_true, if_false, if_true]
  | some e =>
    have he := he e hc; simp only [curWave] at he
    simp only [hd, hp, hg, he, hb, hf, hn, ht, Bool.not_true, Bool.or_false, Bool.false_eq_true, if_false, if_true]

/-- What such an instruction does is its effect on the active lanes. -/
theorem runOp_go {i : Instr} {s : State} (h : Issuable i s) (eff : Lanes → State → State) :
    runOp i (specOf i) false false false eff s = .next (eff (active (specOf i) s) s) := by
  have hk := h.kept; simp only [curWave] at hk
  simp only [runOp, gate_go h, hk, Bool.false_eq_true, if_false]

/-- The same where its own conditions are false by what the state holds. -/
theorem runOp_go_of {i : Instr} {s : State} {bad busy full : Bool} (h : Issuable i s) (hb : bad = false) (hy : busy = false)
    (hf : full = false) (eff : Lanes → State → State) :
    runOp i (specOf i) bad busy full eff s = .next (eff (active (specOf i) s) s) := by
  subst hb hy hf; exact runOp_go h eff

/-- A wait changes nothing but the note of it. -/
theorem runOp_wait {i : Instr} {sp : Spec} {bad busy full : Bool} {s : State} {k : Nat} (h : gate sp bad busy full s = .wait k)
    (eff : Lanes → State → State) : runOp i sp bad busy full eff s = .next (stall s k) := by
  simp only [runOp, h]

/-- A precise trap found at issue, and the condition noted. -/
theorem runOp_trap {i : Instr} {sp : Spec} {bad busy full : Bool} {s : State} {c k : Nat} (h : gate sp bad busy full s = .trap c k)
    (eff : Lanes → State → State) :
    runOp i sp bad busy full eff s = .next (raisePrecise (stall s (trapCondition c)) (trapOf i c k s.cur.lanes)) := by
  simp only [runOp, h]

/-! ### Arithmetic -/

/-- No trap enable, no cause. -/
theorem arithCause_of_off {v : Wave} (h : noArithTraps v) (x : Word) : arithCause v.fmode x = 0 := by
  obtain ⟨h0, h1, h2⟩ := h
  simp only [arithCause, h0, h1, h2, Bool.and_false, b2n, Bool.false_eq_true, if_false]

/-- No flag raised, no cause. -/
theorem arithCause_zero (f : Word) : arithCause f 0 = 0 := by simp [arithCause, b2n]

theorem word_or_zero (z : Word) : z ||| 0 = z := by simp

theorem flags_foldl_zero : ∀ (l : List (Nat × Word)) (z : Word), (∀ x ∈ l, x.2 = 0) → l.foldl (fun a y => a ||| y.2) z = z
  | [], _, _ => rfl
  | x :: r, z, h => by
    have hx : x.2 = 0 := h x (List.mem_cons_self ..)
    rw [List.foldl_cons, hx, word_or_zero]
    exact flags_foldl_zero r z fun y hy => h y (List.mem_cons_of_mem _ hy)

/-- Lanes that raise nothing raise nothing together. -/
theorem flags_zero {a : Alu} (h : ∀ x ∈ a.raised, x.2 = 0) : a.flags = 0 := flags_foldl_zero a.raised 0 h

/-- The effect of a computed result of which no enabled exception came. -/
theorem aluEff_issuedWith {i : Instr} {a : Alu} {s : State} (h : arithCause (curWave s).fmode a.flags = 0) :
    aluEff i (specOf i) a (active (specOf i) s) s =
      issuedWith i { a.writes with sticky := a.writes.sticky ||| a.flags } s := by
  simp only [curWave] at h
  unfold aluEff issuedWith
  simp only [h, ne_eq, not_true_eq_false, if_false]
  cases hv : (specOf i).var <;> simp

/-- An arithmetic instruction that raises no flag. -/
theorem alu_quiet {i : Instr} {f : Wave → Lanes → Alu} {s : State} (h : Issuable i s)
    (hq : ∀ x ∈ (f (curWave s) (active (specOf i) s)).raised, x.2 = 0) :
    alu i (specOf i) f s = .next (issuedWith i (f (curWave s) (active (specOf i) s)).writes s) := by
  have hf := flags_zero hq
  simp only [alu, runOp_go h]
  rw [show wv s s.cur.wave = curWave s from rfl, aluEff_issuedWith (by rw [hf]; exact arithCause_zero _), hf, word_or_zero]

/-- An arithmetic instruction of a wave with no trap enable. -/
theorem alu_untrapped {i : Instr} {f : Wave → Lanes → Alu} {s : State} (h : Issuable i s) (ht : noArithTraps (curWave s)) :
    alu i (specOf i) f s =
      .next (issuedWith i { (f (curWave s) (active (specOf i) s)).writes with
        sticky := (f (curWave s) (active (specOf i) s)).writes.sticky ||| (f (curWave s) (active (specOf i) s)).flags } s) := by
  simp only [alu, runOp_go h]
  rw [show wv s s.cur.wave = curWave s from rfl, aluEff_issuedWith (arithCause_of_off ht _)]

theorem mem_map_lane {f : Nat → LaneOut} {l : List Nat} {x : Nat × Word}
    (hx : x ∈ (l.map fun k => (k, f k)).map fun y => (y.1, y.2.raised)) (h : ∀ k, (f k).raised = 0) : x.2 = 0 := by
  simp only [List.map_map, List.mem_map, Function.comp] at hx
  obtain ⟨k, _, rfl⟩ := hx
  exact h k

/-- A lane instruction whose lanes each compute words and raise nothing. -/
theorem laneAlu_words {i : Instr} {f : Wave → Nat → List Nat → LaneOut} {s : State} (h : Issuable i s)
    (hr : ∀ v l xs, (f v l xs).raised = 0) (hp : ∀ v l xs, (f v l xs).preds = []) :
    laneAlu i f s =
      .next (issuedWith i (laneResult i s fun l => (f (curWave s) l ((specOf i).srcs.map (srcVal (curWave s) l))).regs) s) := by
  unfold laneAlu
  rw [alu_quiet h]
  · simp only [laneWrites, laneResult, List.flatMap_map, hp, List.map_nil]
    have : ∀ l : List Nat, (l.flatMap fun _ => ([] : List (Nat × Nat × Bool))) = [] := by intro l; induction l <;> simp_all
    simp [this, noWrites]
  · intro x hx; exact mem_map_lane hx fun k => hr _ _ _

/-- A lane instruction whose lanes each decide one predicate. -/
theorem laneAlu_pred {i : Instr} {f : Wave → Nat → List Nat → LaneOut} {s : State} (h : Issuable i s) (k : Nat)
    (b : Wave → Nat → List Nat → Bool) (hf : ∀ v l xs, f v l xs = outPred k (b v l xs)) :
    laneAlu i f s =
      .next (issuedWith i (laneDecides i s k fun l => b (curWave s) l ((specOf i).srcs.map (srcVal (curWave s) l))) s) := by
  unfold laneAlu
  rw [alu_quiet h]
  · simp only [laneWrites, laneDecides, List.flatMap_map, hf, outPred, List.zip_nil_right, List.map_nil, List.map_cons]
    have h1 : ∀ l : List Nat, (l.flatMap fun _ => ([] : List (Nat × Nat × Word × Tag))) = [] := by intro l; induction l <;> simp_all
    have h2 : ∀ (l : List Nat) (g : Nat → Nat × Nat × Bool), (l.flatMap fun x => [g x]) = l.map g := by
      intro l g; induction l <;> simp_all
    simp [h1, h2, noWrites]
  · intro x hx; refine mem_map_lane hx fun k => ?_; simp [hf, outPred]

/-- A uniform instruction with a register result. -/
theorem uniAlu_result {i : Instr} {f : Wave → List Nat → Nat} {s : State} (h : Issuable i s) :
    uniAlu i f s = .next (issuedWith i (uniResult i s (f (curWave s) ((specOf i).srcs.map (srcVal (curWave s) 0)))) s) := by
  unfold uniAlu
  rw [alu_quiet h (by simp)]
  rfl

/-! ### What an issue leaves alone -/

@[simp] theorem wv_setWv_same (s : State) (w : Nat) (v : Wave) : wv (setWv s w v) w = v := tget_tset_same ..
theorem wv_setWv_other (s : State) {w u : Nat} (h : u ≠ w) (v : Wave) : wv (setWv s w v) u = wv s u := tget_tset_other _ h ..
@[simp] theorem wv_modWv_same (s : State) (w : Nat) (f : Wave → Wave) : wv (modWv s w f) w = f (wv s w) := tget_tset_same ..
theorem wv_modWv_other (s : State) {w u : Nat} (h : u ≠ w) (f : Wave → Wave) : wv (modWv s w f) u = wv s u := tget_tset_other _ h ..
@[simp] theorem pr_modPr_same (s : State) (p : Nat) (f : Pair → Pair) : pr (modPr s p f) p = f (pr s p) := tget_tset_same ..
theorem pr_modPr_other (s : State) {p q : Nat} (h : q ≠ p) (f : Pair → Pair) : pr (modPr s p f) q = pr s q := tget_tset_other _ h ..
@[simp] theorem cr_modCr_same (s : State) (c : Nat) (f : Core → Core) : cr (modCr s c f) c = f (cr s c) := tget_tset_same ..
theorem cr_modCr_other (s : State) {c d : Nat} (h : d ≠ c) (f : Core → Core) : cr (modCr s c f) d = cr s d := tget_tset_other _ h ..

/-- The debit changes nothing but the cores. -/
theorem debit_cores (s : State) (c k : Nat) (sp : Spec) : debit s c k sp = { s with cores := (debit s c k sp).cores } := by
  unfold debit; split
  · rfl
  · split <;> rfl

/-- The count of an issue changes nothing but the cores. -/
theorem countIssue_cores (s : State) (c g w : Nat) : countIssue s c g w = { s with cores := (countIssue s c g w).cores } := by
  unfold countIssue; dsimp only; split <;> rfl

/-- An issue changes its wave and the cores, and nothing else. -/
theorem advance_frame (sp : Spec) (s : State) : advance sp s =
    { setWv s s.cur.wave (issueWave sp s.cur (cycAt s (wv s s.cur.wave).core) (wv s s.cur.wave)) with
      cores := (advance sp s).cores } := by
  unfold advance
  dsimp only
  rw [debit_cores, countIssue_cores]

@[simp] theorem advance_nextId (sp : Spec) (s : State) : (advance sp s).nextId = s.nextId := by rw [advance_frame]; rfl
@[simp] theorem advance_blocked (sp : Spec) (s : State) : (advance sp s).blocked = s.blocked := by rw [advance_frame]; rfl
@[simp] theorem advance_cur (sp : Spec) (s : State) : (advance sp s).cur = s.cur := by rw [advance_frame]; rfl
@[simp] theorem advance_pairs (sp : Spec) (s : State) : (advance sp s).pairs = s.pairs := by rw [advance_frame]; rfl
@[simp] theorem advance_groups (sp : Spec) (s : State) : (advance sp s).groups = s.groups := by rw [advance_frame]; rfl
@[simp] theorem advance_cyc (sp : Spec) (s : State) : (advance sp s).cyc = s.cyc := by rw [advance_frame]; rfl
@[simp] theorem advance_accs (sp : Spec) (s : State) : (advance sp s).accs = s.accs := by rw [advance_frame]; rfl

/-- The wave that issues, after it. -/
theorem wv_advance (sp : Spec) (s : State) :
    wv (advance sp s) s.cur.wave = issueWave sp s.cur (cycAt s (wv s s.cur.wave).core) (wv s s.cur.wave) := by
  rw [advance_frame]; exact wv_setWv_same ..

/-- Every other wave, after it. -/
theorem wv_advance_other (sp : Spec) (s : State) {w : Nat} (h : w ≠ s.cur.wave) : wv (advance sp s) w = wv s w := by
  rw [advance_frame]; exact wv_setWv_other s h _

/-- What every step of a fold keeps, the fold keeps. -/
theorem foldl_keeps {α β γ : Type} (k : β → γ) {f : β → α → β} (h : ∀ x a, k (f x a) = k x) : ∀ (l : List α) (x : β), k (l.foldl f x) = k x
  | [], _ => rfl
  | a :: r, x => by rw [List.foldl_cons, foldl_keeps k h r, h]

/-- The wave but for its registers, pending marks and lanes. -/
def restOfWave (v : Wave) : Wave := { v with vregs := [], sregs := [], qPend := 0, lanes := [] }

/-- Making destinations empty changes registers' full bits and pending marks only. -/
theorem emptyDsts_rest (v : Wave) (sp : Spec) (m : Lanes) : restOfWave (emptyDsts v sp m) = restOfWave v := by
  unfold emptyDsts
  split
  · rfl
  · dsimp only
    have hd : restOfWave (sp.dsts.foldl (fun v d =>
        if d.uni then (List.range d.n).foldl (fun v k => setSreg v (d.base + k) { sreg v (d.base + k) with full := false }) v
        else (lanesOf m).foldl (fun v l =>
          (List.range d.n).foldl (fun v k => setVreg v l (d.base + k) { vreg v l (d.base + k) with full := false }) v) v) v) =
        restOfWave v := by
      refine foldl_keeps restOfWave (fun x d => ?_) _ _
      split
      · refine foldl_keeps restOfWave (fun _ _ => ?_) _ _; rfl
      · refine foldl_keeps restOfWave (fun _ _ => ?_) _ _; refine foldl_keeps restOfWave (fun _ _ => ?_) _ _; rfl
    split
    · exact hd
    · exact hd

theorem emptyDsts_helpers (v : Wave) (sp : Spec) (m : Lanes) : (emptyDsts v sp m).helpers = v.helpers :=
  (congrArg Wave.helpers (emptyDsts_rest v sp m) : (restOfWave _).helpers = (restOfWave _).helpers)

/-- The name of an operation is the next one. -/
@[simp] theorem openOp_fst (i : Instr) (sp : Spec) (m : Lanes) (n : Nat) (ws : List (List Word)) (s : State) :
    (openOp i sp m n ws s).1 = s.nextId := (rfl)

/-- Opening an operation changes its wave and the counter of names, and nothing else. -/
theorem openOp_snd (i : Instr) (sp : Spec) (m : Lanes) (n : Nat) (ws : List (List Word)) (s : State) :
    (openOp i sp m n ws s).2 = { s with nextId := s.nextId + 1, waves := (openOp i sp m n ws s).2.waves } := (rfl)

/-- The helper lanes of a wave that has issued a memory instruction. -/
theorem opened_helpers (i : Instr) (n : Nat) (s : State) : (wv (opened i n s) s.cur.wave).helpers = (curWave s).helpers := by
  have hc : (fresh (advance (specOf i) s)).2.cur.wave = s.cur.wave := congrArg Issue.wave (advance_cur _ _)
  unfold opened openOp
  dsimp only
  rw [hc, wv_modWv_same]
  unfold flagUp
  dsimp only
  rw [emptyDsts_helpers]
  show (wv (advance (specOf i) s) s.cur.wave).helpers = _
  rw [wv_advance]; rfl

/-- An instruction that goes takes no place among those that wait for a slot. -/
theorem inSlotOrder_go {i : Instr} {s : State} (h : Issuable i s) : inSlotOrder i (specOf i) false false false s = s := by
  simp [inSlotOrder, gate_go h]

/-- A memory instruction that waits for nothing issues. -/
theorem memOp_go {i : Instr} {s : State} {full : Bool} (h : Issuable i s) (hw : memWaits i s = false) (hf : full = false) :
    memOp i false false full none s = .next (memIssued i s) := by
  unfold memOp
  dsimp only
  rw [hw, hf, Bool.or_false, inSlotOrder_go h, runOp_go h]
  unfold memIssued
  by_cases hm : active (specOf i) s = 0
  · simp [hm]
  · have hk : ∀ m, workLanes i (wv (opened i 0 s) s.cur.wave) m = workLanes i (curWave s) m := by
      intro m; unfold workLanes; rw [opened_helpers]
    have ho : (openOp i (specOf i) (active (specOf i) s) 0 (capture (wv s s.cur.wave) (specOf i)) (advance (specOf i) s)).2 =
      opened i 0 s := rfl
    simp only [hm, if_false, openOp_fst, advance_nextId, ho, hk]

/-- A barrier instruction that waits for nothing issues. -/
theorem barOp_go {i : Instr} {s : State} (h : Issuable i s) (hw : memWaits i s = false) : barOp i s = .next (barIssued i s) := by
  unfold barOp
  dsimp only
  rw [hw, inSlotOrder_go h, runOp_go h]
  have ho : (openOp i (specOf i) (active (specOf i) s) 0 (capture (wv s s.cur.wave) (specOf i)) (advance (specOf i) s)).2 =
    opened i 0 s := rfl
  simp only [barIssued, openOp_fst, advance_nextId, ho]

/-- An effect in which nothing had to wait stands. -/
theorem orStall_go {s t : State} (h : t.blocked = none) : orStall s t = t := by simp [orStall, h]

/-- A control instruction issues and acts, where nothing has to wait. -/
theorem control_go {i : Instr} {eff : Lanes → State → State} {s : State} (h : Issuable i s)
    (hb : (eff (active (specOf i) s) (advance (specOf i) s)).blocked = none) :
    control i eff s = .next (eff (active (specOf i) s) (advance (specOf i) s)) :=
  (runOp_go h fun m s => orStall s (eff m (advance (specOf i) s))).trans (by rw [orStall_go hb])

end Sys2Proof.Machine
end

