-- ==== Sys2Proof/Laws/PerInstr.lean ====
section
/-! SUPPORT. Facts about each instruction as syntax, one lemma per constructor: an instruction's words fill exactly the bytes by which
its issue advances the PC (R219, R222). -/

namespace Sys2Proof.Laws.EncodedLength

open Sys2Proof.Machine

/-- An instruction word encodes in as many bytes as the PC passes over. -/
def Statement (i : Instr) : Prop := isEvent i = false → 4 * (encode i).length = instrLen (specOf i)

theorem vmov (h : Head) (g : GExt) : Statement (.vmov h g) := fun _ => rfl
theorem vmovShort (h : Head) : Statement (.vmovShort h) := fun _ => rfl
theorem vmovi (h : Head) (e : IExt) : Statement (.vmovi h e) := fun _ => rfl
theorem vmovh (h : Head) (e : IExt) : Statement (.vmovh h e) := fun _ => rfl
theorem vsel (h : Head) (g : GExt) : Statement (.vsel h g) := fun _ => rfl
theorem vadd (h : Head) (g : GExt) : Statement (.vadd h g) := fun _ => rfl
theorem vaddShort (h : Head) : Statement (.vaddShort h) := fun _ => rfl
theorem vsub (h : Head) (g : GExt) : Statement (.vsub h g) := fun _ => rfl
theorem vsubShort (h : Head) : Statement (.vsubShort h) := fun _ => rfl
theorem vmul (h : Head) (g : GExt) : Statement (.vmul h g) := fun _ => rfl
theorem vmulShort (h : Head) : Statement (.vmulShort h) := fun _ => rfl
theorem vmulh (h : Head) (g : GExt) : Statement (.vmulh h g) := fun _ => rfl
theorem vmulhShort (h : Head) : Statement (.vmulhShort h) := fun _ => rfl
theorem vmad (h : Head) (g : GExt) : Statement (.vmad h g) := fun _ => rfl
theorem vmadw (h : Head) (g : GExt) : Statement (.vmadw h g) := fun _ => rfl
theorem vmin (h : Head) (g : GExt) : Statement (.vmin h g) := fun _ => rfl
theorem vminShort (h : Head) : Statement (.vminShort h) := fun _ => rfl
theorem vmax (h : Head) (g : GExt) : Statement (.vmax h g) := fun _ => rfl
theorem vmaxShort (h : Head) : Statement (.vmaxShort h) := fun _ => rfl
theorem vabsd (h : Head) (g : GExt) : Statement (.vabsd h g) := fun _ => rfl
theorem vabsdShort (h : Head) : Statement (.vabsdShort h) := fun _ => rfl
theorem vaddi (h : Head) (e : IExt) : Statement (.vaddi h e) := fun _ => rfl
theorem vand (h : Head) (g : GExt) : Statement (.vand h g) := fun _ => rfl
theorem vandShort (h : Head) : Statement (.vandShort h) := fun _ => rfl
theorem vor (h : Head) (g : GExt) : Statement (.vor h g) := fun _ => rfl
theorem vorShort (h : Head) : Statement (.vorShort h) := fun _ => rfl
theorem vxor (h : Head) (g : GExt) : Statement (.vxor h g) := fun _ => rfl
theorem vxorShort (h : Head) : Statement (.vxorShort h) := fun _ => rfl
theorem vandn (h : Head) (g : GExt) : Statement (.vandn h g) := fun _ => rfl
theorem vandnShort (h : Head) : Statement (.vandnShort h) := fun _ => rfl
theorem vshl (h : Head) (g : GExt) : Statement (.vshl h g) := fun _ => rfl
theorem vshlShort (h : Head) : Statement (.vshlShort h) := fun _ => rfl
theorem vshr (h : Head) (g : GExt) : Statement (.vshr h g) := fun _ => rfl
theorem vshrShort (h : Head) : Statement (.vshrShort h) := fun _ => rfl
theorem vsar (h : Head) (g : GExt) : Statement (.vsar h g) := fun _ => rfl
theorem vsarShort (h : Head) : Statement (.vsarShort h) := fun _ => rfl
theorem vrot (h : Head) (g : GExt) : Statement (.vrot h g) := fun _ => rfl
theorem vrotShort (h : Head) : Statement (.vrotShort h) := fun _ => rfl
theorem vbfe (h : Head) (g : GExt) : Statement (.vbfe h g) := fun _ => rfl
theorem vbfi (h : Head) (g : GExt) : Statement (.vbfi h g) := fun _ => rfl
theorem vclz (h : Head) (g : GExt) : Statement (.vclz h g) := fun _ => rfl
theorem vclzShort (h : Head) : Statement (.vclzShort h) := fun _ => rfl
theorem vpopc (h : Head) (g : GExt) : Statement (.vpopc h g) := fun _ => rfl
theorem vpopcShort (h : Head) : Statement (.vpopcShort h) := fun _ => rfl
theorem vbrev (h : Head) (g : GExt) : Statement (.vbrev h g) := fun _ => rfl
theorem vbrevShort (h : Head) : Statement (.vbrevShort h) := fun _ => rfl
theorem vperm (h : Head) (g : GExt) : Statement (.vperm h g) := fun _ => rfl
theorem vcmp (h : Head) (g : GExt) : Statement (.vcmp h g) := fun _ => rfl
theorem vcmpi (h : Head) (e : IExt) : Statement (.vcmpi h e) := fun _ => rfl
theorem vplog (h : Head) (g : GExt) : Statement (.vplog h g) := fun _ => rfl
theorem vpmov (h : Head) (g : GExt) : Statement (.vpmov h g) := fun _ => by
  have long : (specLaneG (.vpmov h g)).long = true := by
    unfold specLaneG
    dsimp only
    split <;> rfl
  show 8 = if (specLaneG (.vpmov h g)).long && true then 8 else 4
  rw [long]; rfl
theorem vlea (h : Head) (g : GExt) : Statement (.vlea h g) := fun _ => rfl
theorem vidx (h : Head) (e : IExt) : Statement (.vidx h e) := fun _ => rfl
theorem vfadd (h : Head) (g : GExt) : Statement (.vfadd h g) := fun _ => rfl
theorem vfaddShort (h : Head) : Statement (.vfaddShort h) := fun _ => rfl
theorem vfsub (h : Head) (g : GExt) : Statement (.vfsub h g) := fun _ => rfl
theorem vfsubShort (h : Head) : Statement (.vfsubShort h) := fun _ => rfl
theorem vfmul (h : Head) (g : GExt) : Statement (.vfmul h g) := fun _ => rfl
theorem vfmulShort (h : Head) : Statement (.vfmulShort h) := fun _ => rfl
theorem vfma (h : Head) (g : GExt) : Statement (.vfma h g) := fun _ => rfl
theorem vfmin (h : Head) (g : GExt) : Statement (.vfmin h g) := fun _ => rfl
theorem vfminShort (h : Head) : Statement (.vfminShort h) := fun _ => rfl
theorem vfmax (h : Head) (g : GExt) : Statement (.vfmax h g) := fun _ => rfl
theorem vfmaxShort (h : Head) : Statement (.vfmaxShort h) := fun _ => rfl
theorem vfcmp (h : Head) (g : GExt) : Statement (.vfcmp h g) := fun _ => rfl
theorem vfclass (h : Head) (g : GExt) : Statement (.vfclass h g) := fun _ => rfl
theorem vfrnd (h : Head) (g : GExt) : Statement (.vfrnd h g) := fun _ => rfl
theorem vfrndShort (h : Head) : Statement (.vfrndShort h) := fun _ => rfl
theorem vfract (h : Head) (g : GExt) : Statement (.vfract h g) := fun _ => rfl
theorem vfractShort (h : Head) : Statement (.vfractShort h) := fun _ => rfl
theorem vrcp (h : Head) (g : GExt) : Statement (.vrcp h g) := fun _ => rfl
theorem vrcpShort (h : Head) : Statement (.vrcpShort h) := fun _ => rfl
theorem vrsq (h : Head) (g : GExt) : Statement (.vrsq h g) := fun _ => rfl
theorem vrsqShort (h : Head) : Statement (.vrsqShort h) := fun _ => rfl
theorem vsqrt (h : Head) (g : GExt) : Statement (.vsqrt h g) := fun _ => rfl
theorem vsqrtShort (h : Head) : Statement (.vsqrtShort h) := fun _ => rfl
theorem vexp2 (h : Head) (g : GExt) : Statement (.vexp2 h g) := fun _ => rfl
theorem vexp2Short (h : Head) : Statement (.vexp2Short h) := fun _ => rfl
theorem vlog2 (h : Head) (g : GExt) : Statement (.vlog2 h g) := fun _ => rfl
theorem vlog2Short (h : Head) : Statement (.vlog2Short h) := fun _ => rfl
theorem vsinp (h : Head) (g : GExt) : Statement (.vsinp h g) := fun _ => rfl
theorem vsinpShort (h : Head) : Statement (.vsinpShort h) := fun _ => rfl
theorem vcosp (h : Head) (g : GExt) : Statement (.vcosp h g) := fun _ => rfl
theorem vcospShort (h : Head) : Statement (.vcospShort h) := fun _ => rfl
theorem vfdiv (h : Head) (g : GExt) : Statement (.vfdiv h g) := fun _ => rfl
theorem vfdivShort (h : Head) : Statement (.vfdivShort h) := fun _ => rfl
theorem vpfma (h : Head) (g : GExt) : Statement (.vpfma h g) := fun _ => rfl
theorem vpfadd (h : Head) (g : GExt) : Statement (.vpfadd h g) := fun _ => rfl
theorem vpfmul (h : Head) (g : GExt) : Statement (.vpfmul h g) := fun _ => rfl
theorem vcvt (h : Head) (g : GExt) : Statement (.vcvt h g) := fun _ => rfl
theorem vscl (h : Head) (g : GExt) : Statement (.vscl h g) := fun _ => rfl
theorem vpack (h : Head) (g : GExt) : Statement (.vpack h g) := fun _ => rfl
theorem vunpk (h : Head) (g : GExt) : Statement (.vunpk h g) := fun _ => rfl
theorem vdot4 (h : Head) (g : GExt) : Statement (.vdot4 h g) := fun _ => rfl
theorem vdot8 (h : Head) (g : GExt) : Statement (.vdot8 h g) := fun _ => rfl
theorem vfdot2 (h : Head) (g : GExt) : Statement (.vfdot2 h g) := fun _ => rfl
theorem vftag (h : Head) (g : GExt) : Statement (.vftag h g) := fun _ => rfl
theorem vshfl (h : Head) (g : GExt) : Statement (.vshfl h g) := fun _ => rfl
theorem vbcst (h : Head) (g : GExt) : Statement (.vbcst h g) := fun _ => by
  have long : (specLaneG (.vbcst h g)).long = true := by
    unfold specLaneG
    dsimp only
    split <;> rfl
  show 8 = if (specLaneG (.vbcst h g)).long && true then 8 else 4
  rw [long]; rfl
theorem vvote (h : Head) (g : GExt) : Statement (.vvote h g) := fun _ => by
  have long : (specLaneG (.vvote h g)).long = true := by
    unfold specLaneG
    dsimp only
    split <;> rfl
  show 8 = if (specLaneG (.vvote h g)).long && true then 8 else 4
  rw [long]; rfl
theorem vredu (h : Head) (g : GExt) : Statement (.vredu h g) := fun _ => rfl
theorem vscan (h : Head) (g : GExt) : Statement (.vscan h g) := fun _ => rfl
theorem vrdln (h : Head) (g : GExt) : Statement (.vrdln h g) := fun _ => rfl
theorem vwrln (h : Head) (g : GExt) : Statement (.vwrln h g) := fun _ => rfl
theorem vmatch (h : Head) (g : GExt) : Statement (.vmatch h g) := fun _ => rfl
theorem vcompact (h : Head) (g : GExt) : Statement (.vcompact h g) := fun _ => rfl
theorem vcompactRow (h : Head) (g : GExt) : Statement (.vcompactRow h g) := fun _ => rfl
theorem vexpand (h : Head) (g : GExt) : Statement (.vexpand h g) := fun _ => rfl
theorem ld (h : Head) (m : MExt) : Statement (.ld h m) := fun _ => rfl
theorem st (h : Head) (m : MExt) : Statement (.st h m) := fun _ => rfl
theorem ldl (h : Head) (m : MExt) : Statement (.ldl h m) := fun _ => rfl
theorem stl (h : Head) (m : MExt) : Statement (.stl h m) := fun _ => rfl
theorem ldq (h : Head) (m : MExt) : Statement (.ldq h m) := fun _ => rfl
theorem stq (h : Head) (m : MExt) : Statement (.stq h m) := fun _ => rfl
theorem lda (h : Head) (m : MExt) : Statement (.lda h m) := fun _ => rfl
theorem sta (h : Head) (m : MExt) : Statement (.sta h m) := fun _ => rfl
theorem atom (h : Head) (m : MExt) : Statement (.atom h m) := fun _ => rfl
theorem red (h : Head) (m : MExt) : Statement (.red h m) := fun _ => rfl
theorem atoml (h : Head) (m : MExt) : Statement (.atoml h m) := fun _ => rfl
theorem pfx (h : Head) (m : MExt) : Statement (.pfx h m) := fun _ => rfl
theorem cprop (h : Head) (m : MExt) : Statement (.cprop h m) := fun _ => rfl
theorem cget (h : Head) (m : MExt) : Statement (.cget h m) := fun _ => rfl
theorem crecyc (h : Head) (m : MExt) : Statement (.crecyc h m) := fun _ => rfl
theorem cprobe (h : Head) (m : MExt) : Statement (.cprobe h m) := fun _ => rfl
theorem fence (h : Head) (m : MExt) : Statement (.fence h m) := fun _ => rfl
theorem wsync (h : Head) (m : MExt) : Statement (.wsync h m) := fun _ => rfl
theorem wsyncShort (h : Head) : Statement (.wsyncShort h) := fun _ => rfl
theorem br (h : Head) (t : BExt) : Statement (.br h t) := fun _ => rfl
theorem jmp (h : Head) (t : BExt) : Statement (.jmp h t) := fun _ => rfl
theorem callDirect (h : Head) (t : BExt) : Statement (.callDirect h t) := fun _ => rfl
theorem callRegister (h : Head) (t : BExt) : Statement (.callRegister h t) := fun _ => rfl
theorem ret (h : Head) (t : BExt) : Statement (.ret h t) := fun _ => rfl
theorem retShort (h : Head) : Statement (.retShort h) := fun _ => rfl
theorem land (h : Head) : Statement (.land h) := fun _ => rfl
theorem exitL (h : Head) (t : BExt) : Statement (.exitL h t) := fun _ => rfl
theorem exitShort (h : Head) : Statement (.exitShort h) := fun _ => rfl
theorem rast (h : Head) (n : NExt) : Statement (.rast h n) := fun _ => rfl
theorem hitbin (h : Head) (n : NExt) : Statement (.hitbin h n) := fun _ => rfl
theorem attr (h : Head) (n : NExt) : Statement (.attr h n) := fun _ => rfl
theorem travs (h : Head) (n : NExt) : Statement (.travs h n) := fun _ => rfl
theorem travr (h : Head) (n : NExt) : Statement (.travr h n) := fun _ => rfl
theorem hvpost (h : Head) (n : NExt) : Statement (.hvpost h n) := fun _ => rfl
theorem smov (h : Head) (g : GExt) : Statement (.smov h g) := fun _ => rfl
theorem smovShort (h : Head) : Statement (.smovShort h) := fun _ => rfl
theorem smovi (h : Head) (l : BitVec 32) : Statement (.smovi h l) := fun _ => rfl
theorem ssel (h : Head) (g : GExt) : Statement (.ssel h g) := fun _ => rfl
theorem sadd (h : Head) (g : GExt) : Statement (.sadd h g) := fun _ => rfl
theorem saddShort (h : Head) : Statement (.saddShort h) := fun _ => rfl
theorem ssub (h : Head) (g : GExt) : Statement (.ssub h g) := fun _ => rfl
theorem ssubShort (h : Head) : Statement (.ssubShort h) := fun _ => rfl
theorem smul (h : Head) (g : GExt) : Statement (.smul h g) := fun _ => rfl
theorem smulShort (h : Head) : Statement (.smulShort h) := fun _ => rfl
theorem smulh (h : Head) (g : GExt) : Statement (.smulh h g) := fun _ => rfl
theorem smulhShort (h : Head) : Statement (.smulhShort h) := fun _ => rfl
theorem smin (h : Head) (g : GExt) : Statement (.smin h g) := fun _ => rfl
theorem sminShort (h : Head) : Statement (.sminShort h) := fun _ => rfl
theorem smax (h : Head) (g : GExt) : Statement (.smax h g) := fun _ => rfl
theorem smaxShort (h : Head) : Statement (.smaxShort h) := fun _ => rfl
theorem sand (h : Head) (g : GExt) : Statement (.sand h g) := fun _ => rfl
theorem sandShort (h : Head) : Statement (.sandShort h) := fun _ => rfl
theorem sor (h : Head) (g : GExt) : Statement (.sor h g) := fun _ => rfl
theorem sorShort (h : Head) : Statement (.sorShort h) := fun _ => rfl
theorem sxor (h : Head) (g : GExt) : Statement (.sxor h g) := fun _ => rfl
theorem sxorShort (h : Head) : Statement (.sxorShort h) := fun _ => rfl
theorem sshl (h : Head) (g : GExt) : Statement (.sshl h g) := fun _ => rfl
theorem sshlShort (h : Head) : Statement (.sshlShort h) := fun _ => rfl
theorem sshr (h : Head) (g : GExt) : Statement (.sshr h g) := fun _ => rfl
theorem sshrShort (h : Head) : Statement (.sshrShort h) := fun _ => rfl
theorem ssar (h : Head) (g : GExt) : Statement (.ssar h g) := fun _ => rfl
theorem ssarShort (h : Head) : Statement (.ssarShort h) := fun _ => rfl
theorem sbfe (h : Head) (g : GExt) : Statement (.sbfe h g) := fun _ => rfl
theorem sclz (h : Head) (g : GExt) : Statement (.sclz h g) := fun _ => rfl
theorem sclzShort (h : Head) : Statement (.sclzShort h) := fun _ => rfl
theorem spopc (h : Head) (g : GExt) : Statement (.spopc h g) := fun _ => rfl
theorem spopcShort (h : Head) : Statement (.spopcShort h) := fun _ => rfl
theorem scmp (h : Head) (g : GExt) : Statement (.scmp h g) := fun _ => rfl
theorem sqlog (h : Head) (g : GExt) : Statement (.sqlog h g) := fun _ => rfl
theorem slea (h : Head) (g : GExt) : Statement (.slea h g) := fun _ => rfl
theorem sidx (h : Head) (e : IExt) : Statement (.sidx h e) := fun _ => rfl
theorem sld (h : Head) (m : MExt) : Statement (.sld h m) := fun _ => rfl
theorem sst (h : Head) (m : MExt) : Statement (.sst h m) := fun _ => rfl
theorem satom (h : Head) (m : MExt) : Statement (.satom h m) := fun _ => rfl
theorem barinit (h : Head) (m : MExt) : Statement (.barinit h m) := fun _ => rfl
theorem barexp (h : Head) (m : MExt) : Statement (.barexp h m) := fun _ => rfl
theorem bararr (h : Head) (m : MExt) : Statement (.bararr h m) := fun _ => rfl
theorem barwait (h : Head) (m : MExt) : Statement (.barwait h m) := fun _ => rfl
theorem waddr (h : Head) (m : MExt) : Statement (.waddr h m) := fun _ => rfl
theorem kick (h : Head) (m : MExt) : Statement (.kick h m) := fun _ => rfl
theorem pub (h : Head) (m : MExt) : Statement (.pub h m) := fun _ => rfl
theorem sbank (h : Head) (m : MExt) : Statement (.sbank h m) := fun _ => rfl
theorem msflushRange (h : Head) (m : MExt) : Statement (.msflushRange h m) := fun _ => rfl
theorem msflushStack (h : Head) (m : MExt) : Statement (.msflushStack h m) := fun _ => rfl
theorem nop (h : Head) : Statement (.nop h) := fun _ => rfl
theorem rfe (h : Head) : Statement (.rfe h) := fun _ => rfl
theorem ubr (h : Head) (t : BExt) : Statement (.ubr h t) := fun _ => rfl
theorem ujmp (h : Head) (t : BExt) : Statement (.ujmp h t) := fun _ => rfl
theorem ucall (h : Head) (t : BExt) : Statement (.ucall h t) := fun _ => rfl
theorem uret (h : Head) (t : BExt) : Statement (.uret h t) := fun _ => rfl
theorem uretShort (h : Head) : Statement (.uretShort h) := fun _ => rfl
theorem endW (h : Head) (t : BExt) : Statement (.endW h t) := fun _ => rfl
theorem endShort (h : Head) : Statement (.endShort h) := fun _ => rfl
theorem yieldW (h : Head) (e : IExt) : Statement (.yieldW h e) := fun _ => rfl
theorem yieldShort (h : Head) : Statement (.yieldShort h) := fun _ => rfl
theorem trapSw (h : Head) (e : IExt) : Statement (.trapSw h e) := fun _ => rfl
theorem sgetr (h : Head) (e : IExt) : Statement (.sgetr h e) := fun _ => rfl
theorem ssetr (h : Head) (e : IExt) : Statement (.ssetr h e) := fun _ => rfl
theorem rclaim (h : Head) (e : IExt) : Statement (.rclaim h e) := fun _ => rfl
theorem rfree (h : Head) (e : IExt) : Statement (.rfree h e) := fun _ => rfl
theorem guardW (h : Head) (g : GExt) : Statement (.guardW h g) := fun _ => rfl
theorem elect (h : Head) (g : GExt) : Statement (.elect h g) := fun _ => rfl
theorem mma (h : Head) (n : NExt) : Statement (.mma h n) := fun _ => rfl
theorem mmas (h : Head) (n : NExt) : Statement (.mmas h n) := fun _ => rfl
theorem mmap (h : Head) (n : NExt) : Statement (.mmap h n) := fun _ => rfl
theorem mzero (h : Head) (n : NExt) : Statement (.mzero h n) := fun _ => rfl
theorem mfill (h : Head) (n : NExt) : Statement (.mfill h n) := fun _ => rfl
theorem mdrain (h : Head) (n : NExt) : Statement (.mdrain h n) := fun _ => rfl
theorem mscale (h : Head) (n : NExt) : Statement (.mscale h n) := fun _ => rfl
theorem mbtake (h : Head) (n : NExt) : Statement (.mbtake h n) := fun _ => rfl
theorem mbpass (h : Head) (n : NExt) : Statement (.mbpass h n) := fun _ => rfl
theorem mbpassNone (h : Head) (n : NExt) : Statement (.mbpassNone h n) := fun _ => rfl
theorem pgload (h : Head) (n : NExt) : Statement (.pgload h n) := fun _ => rfl
theorem pgctx (h : Head) (n : NExt) : Statement (.pgctx h n) := fun _ => rfl
theorem pgemit (h : Head) (n : NExt) : Statement (.pgemit h n) := fun _ => rfl
theorem rflush (h : Head) (n : NExt) : Statement (.rflush h n) := fun _ => rfl
theorem tvrel (h : Head) (n : NExt) : Statement (.tvrel h n) := fun _ => rfl
theorem nfmt (h : Head) (n : NExt) : Statement (.nfmt h n) := fun _ => rfl
theorem coll (h : Head) (n : NExt) : Statement (.coll h n) := fun _ => rfl
theorem launchDev (h : Head) (n : NExt) : Statement (.launchDev h n) := fun _ => rfl
theorem resetDev : Statement .resetDev := fun h => nomatch h
theorem registerWrite : Statement .registerWrite := fun h => nomatch h
theorem pageWalk : Statement .pageWalk := fun h => nomatch h
theorem walkComplete : Statement .walkComplete := fun h => nomatch h
theorem directoryRequest : Statement .directoryRequest := fun h => nomatch h
theorem reclassify : Statement .reclassify := fun h => nomatch h
theorem recallAck : Statement .recallAck := fun h => nomatch h
theorem invAll : Statement .invAll := fun h => nomatch h
theorem invAsid : Statement .invAsid := fun h => nomatch h
theorem invVa : Statement .invVa := fun h => nomatch h
theorem releaseFrame : Statement .releaseFrame := fun h => nomatch h
theorem tmCommandDone : Statement .tmCommandDone := fun h => nomatch h
theorem msCacheRequest : Statement .msCacheRequest := fun h => nomatch h
theorem hotPageRecordDone : Statement .hotPageRecordDone := fun h => nomatch h
theorem hpctlWrite : Statement .hpctlWrite := fun h => nomatch h
theorem gddr7RequestIssue : Statement .gddr7RequestIssue := fun h => nomatch h
theorem gddr7Complete : Statement .gddr7Complete := fun h => nomatch h
theorem regionSample : Statement .regionSample := fun h => nomatch h
theorem refreshStart : Statement .refreshStart := fun h => nomatch h
theorem refreshEnd : Statement .refreshEnd := fun h => nomatch h
theorem msFlushComplete : Statement .msFlushComplete := fun h => nomatch h
theorem pinGranted : Statement .pinGranted := fun h => nomatch h
theorem rastFragment : Statement .rastFragment := fun h => nomatch h
theorem tileFragmentResume : Statement .tileFragmentResume := fun h => nomatch h
theorem pinLimitResume : Statement .pinLimitResume := fun h => nomatch h
theorem tileClose : Statement .tileClose := fun h => nomatch h
theorem tileScan : Statement .tileScan := fun h => nomatch h
theorem tileClassifyEnd : Statement .tileClassifyEnd := fun h => nomatch h
theorem tileReferenceRelease : Statement .tileReferenceRelease := fun h => nomatch h
theorem binRecordArrive : Statement .binRecordArrive := fun h => nomatch h
theorem binAgeDrain : Statement .binAgeDrain := fun h => nomatch h
theorem rflushDrain : Statement .rflushDrain := fun h => nomatch h
theorem carveOut : Statement .carveOut := fun h => nomatch h
theorem dafHeadSend : Statement .dafHeadSend := fun h => nomatch h
theorem relSend : Statement .relSend := fun h => nomatch h
theorem ackReceived : Statement .ackReceived := fun h => nomatch h
theorem homeReg : Statement .homeReg := fun h => nomatch h
theorem homeLoad : Statement .homeLoad := fun h => nomatch h
theorem homeWriteback : Statement .homeWriteback := fun h => nomatch h
theorem homeAtomic : Statement .homeAtomic := fun h => nomatch h
theorem ownerReply : Statement .ownerReply := fun h => nomatch h
theorem revokeWord : Statement .revokeWord := fun h => nomatch h
theorem fetchWord : Statement .fetchWord := fun h => nomatch h
theorem mergeLine : Statement .mergeLine := fun h => nomatch h
theorem mergeComplete : Statement .mergeComplete := fun h => nomatch h
theorem loadReturn : Statement .loadReturn := fun h => nomatch h
theorem linkReplay : Statement .linkReplay := fun h => nomatch h
theorem packetReflected : Statement .packetReflected := fun h => nomatch h
theorem hostPostedWrite : Statement .hostPostedWrite := fun h => nomatch h
theorem hostMemwr : Statement .hostMemwr := fun h => nomatch h
theorem hostRead : Statement .hostRead := fun h => nomatch h
theorem bisnpResponse : Statement .bisnpResponse := fun h => nomatch h
theorem snpdata : Statement .snpdata := fun h => nomatch h
theorem snpinv : Statement .snpinv := fun h => nomatch h
theorem snpcur : Statement .snpcur := fun h => nomatch h
theorem hostLinkDown : Statement .hostLinkDown := fun h => nomatch h
theorem cxlCacheNegotiated : Statement .cxlCacheNegotiated := fun h => nomatch h
theorem farOperation : Statement .farOperation := fun h => nomatch h
theorem fabricPortFail : Statement .fabricPortFail := fun h => nomatch h
theorem scarabFetch : Statement .scarabFetch := fun h => nomatch h
theorem copyPiece : Statement .copyPiece := fun h => nomatch h
theorem scarabFifoResume : Statement .scarabFifoResume := fun h => nomatch h
theorem barrierWake : Statement .barrierWake := fun h => nomatch h
theorem pubSwap : Statement .pubSwap := fun h => nomatch h
theorem waddrWake : Statement .waddrWake := fun h => nomatch h
theorem waddrTimeout : Statement .waddrTimeout := fun h => nomatch h
theorem imagoHomeOp : Statement .imagoHomeOp := fun h => nomatch h
theorem imagoResult : Statement .imagoResult := fun h => nomatch h
theorem cgetWake : Statement .cgetWake := fun h => nomatch h
theorem cgetTimeout : Statement .cgetTimeout := fun h => nomatch h
theorem resultWriteback : Statement .resultWriteback := fun h => nomatch h
theorem priorityGroup : Statement .priorityGroup := fun h => nomatch h
theorem issueStarvation : Statement .issueStarvation := fun h => nomatch h
theorem claimDeadlock : Statement .claimDeadlock := fun h => nomatch h
theorem batonHandover : Statement .batonHandover := fun h => nomatch h
theorem qctlEnable : Statement .qctlEnable := fun h => nomatch h
theorem qctlDisable : Statement .qctlDisable := fun h => nomatch h
theorem queueRecordRead : Statement .queueRecordRead := fun h => nomatch h
theorem launchAccept : Statement .launchAccept := fun h => nomatch h
theorem groupPlace : Statement .groupPlace := fun h => nomatch h
theorem groupComplete : Statement .groupComplete := fun h => nomatch h
theorem hiveTaskTimeout : Statement .hiveTaskTimeout := fun h => nomatch h
theorem contractRelease : Statement .contractRelease := fun h => nomatch h
theorem contractOverrun : Statement .contractOverrun := fun h => nomatch h
theorem yieldmaxExpiry : Statement .yieldmaxExpiry := fun h => nomatch h
theorem ebudFill : Statement .ebudFill := fun h => nomatch h
theorem impreciseFault : Statement .impreciseFault := fun h => nomatch h
theorem trapDelivery : Statement .trapDelivery := fun h => nomatch h
theorem retry : Statement .retry := fun h => nomatch h
theorem abandon : Statement .abandon := fun h => nomatch h
theorem freeSlot : Statement .freeSlot := fun h => nomatch h
theorem fenceComplete : Statement .fenceComplete := fun h => nomatch h
theorem softError : Statement .softError := fun h => nomatch h
theorem unitRetire : Statement .unitRetire := fun h => nomatch h
theorem hsemTake : Statement .hsemTake := fun h => nomatch h
theorem hsemRelease : Statement .hsemRelease := fun h => nomatch h
theorem hsemLeaseTick : Statement .hsemLeaseTick := fun h => nomatch h
theorem bindCtx : Statement .bindCtx := fun h => nomatch h
theorem unbindCtx : Statement .unbindCtx := fun h => nomatch h
theorem preempt : Statement .preempt := fun h => nomatch h
theorem fenceCommand : Statement .fenceCommand := fun h => nomatch h
theorem devidWrite : Statement .devidWrite := fun h => nomatch h
theorem routingTableWrite : Statement .routingTableWrite := fun h => nomatch h
theorem plimitWrite : Statement .plimitWrite := fun h => nomatch h
theorem mextend : Statement .mextend := fun h => nomatch h
theorem mextendDone : Statement .mextendDone := fun h => nomatch h
theorem report : Statement .report := fun h => nomatch h
theorem reportDone : Statement .reportDone := fun h => nomatch h
theorem dieSensorSample : Statement .dieSensorSample := fun h => nomatch h
theorem powerAverage : Statement .powerAverage := fun h => nomatch h
theorem fireflyNodeRead : Statement .fireflyNodeRead := fun h => nomatch h
theorem collStart : Statement .collStart := fun h => nomatch h
theorem collComplete : Statement .collComplete := fun h => nomatch h
theorem matrixRetire : Statement .matrixRetire := fun h => nomatch h
theorem pgloadComplete : Statement .pgloadComplete := fun h => nomatch h
theorem nfmtLoaded : Statement .nfmtLoaded := fun h => nomatch h
theorem throttledAdmission : Statement .throttledAdmission := fun h => nomatch h
theorem hostLinkUp : Statement .hostLinkUp := fun h => nomatch h
theorem hostResponse : Statement .hostResponse := fun h => nomatch h
theorem correctedSoftError : Statement .correctedSoftError := fun h => nomatch h

end Sys2Proof.Laws.EncodedLength
end

