-- ==== Sys2Proof/Tests/Slice0.lean ====
section
/-! SUPPORT. Small tests, each of one step or one function on a small state, and for every statement with hypotheses a state and
operands that meet them. -/

namespace Sys2Proof.Tests

open Sys2Proof.Machine Sys2Proof.Machine.State

-- one theorem at a time, so that the checks of this file share one thread's memory
set_option Elab.async false

/-! ### A small state, and the conditions of issue as a Bool -/

/-- The conditions of `Issuable`. -/
def issuableB (i : Instr) (s : State) : Bool :=
  let sp := specOf i
  let v := curWave s
  let m := active sp s
  runsIn v sp && distOk v (cycAt s v.core) s.cur.lanes sp.d && flagsClear v sp.w && sp.srcs.all (fun x => !srcEmpty v m x) &&
  sp.dsts.all (fun x => !dstEmpty v m x) && !guardWait v sp s.cur.lanes && !predWait v sp m && (decide (sp.g = 0) || !slotPending v sp.g) &&
  (match sp.ec with | some e => ebudOk s v.core v.ctx e | none => true) &&
  (!sp.mat || decide ((pr s (corePair v.core)).baton = some s.cur.wave)) &&
  decide (v.flags.getD sp.flag 0 < 63) && (!sp.win || decide (windowUsed v < 16)) && sp.srcs.all (tagsOk v m) && !discarded v sp &&
  s.blocked.isNone

theorem issuable_of {i : Instr} {s : State} (h : issuableB i s = true) : Issuable i s := by
  simp only [issuableB, Bool.and_eq_true, List.all_eq_true, Bool.not_eq_true', Bool.or_eq_true, decide_eq_true_eq] at h
  obtain ⟨⟨⟨⟨⟨⟨⟨⟨⟨⟨⟨⟨⟨⟨h1, h2⟩, h3⟩, h4⟩, h5⟩, h6⟩, hp⟩, h7⟩, h8⟩, h9⟩, h10⟩, h11⟩, h12⟩, h13⟩, hb⟩ := h
  refine ⟨Option.isNone_iff_eq_none.mp hb, h1, h2, h3, h4, h5, h6, hp, h7, ?_, ?_, h10, ?_, h12, h13⟩
  · intro e he; rw [he] at h8; exact h8
  · intro hm; rcases h9 with h | h
    · rw [hm] at h; cases h
    · exact h
  · intro hw; rcases h11 with h | h
    · rw [hw] at h; cases h
    · exact h

/-- Issuable for each instruction of a list. -/
theorem issuable_all {l : List Instr} {s : State} (h : l.all (fun i => issuableB i s) = true) : ∀ i ∈ l, Issuable i s :=
  fun i hi => issuable_of (List.all_eq_true.mp h i hi)

/-- 32 lanes at one PC, whose instruction is in their loop buffer (R166). -/
def lane0 : Lane := { idleLane with pc := 0x1000, exited := false, loopBuf := [0x1000] }

/-- Wave 1 with 48 lane registers and 128 uniform registers, all zero. -/
def wave1 : Wave :=
  { idleWave with live := true, group := 1, h := 6, uregs := 128, lanes := List.replicate 32 lane0, q := 0xFF }

/-- Its group, with banks 4 to 7 as scratch and four accumulator tiles. -/
def group1 : Group :=
  { noGroup with live := true, bank0 := 4, nBanks := 4, kernel := { noKernel with accum := 4 }, waves := [1] }

/-- Pair 0, whose baton the wave holds. -/
def pair0 : Pair :=
  { resetPair with
    banks := (List.range 64).map fun k => if 4 ≤ k ∧ k < 8 then { mode := .scratch, owner := 1, fifo := [] } else resetBank k
    baton := some 1 }

/-- Context 0, bound, with its page table at 0x10000. -/
def ctx0 : Ctx := { resetCtx with bound := true, held := { resetFields with root := 0x10000 } }

/-- Three table entries that map the first 2^30 bytes to themselves (R15: a leaf of level 2 with W and X). -/
def tables : List Host.Cell := 
  [(0x10000, 0x01), (0x10001, 0x10), (0x10002, 0x01), (0x11000, 0x01), (0x11001, 0x20), (0x11002, 0x01), (0x12000, 0x0F)]

/-- The wave alone on core 0, about to issue for all its lanes. -/
def demo : State :=
  { State.reset with
    cur := { wave := 1, pc := 0x1000, lanes := allLanes }, waves := [(1, wave1)], groups := [(1, group1)], pairs := [(0, pair0)],
    ctxs := [(0, ctx0)], mem := tables }

/-- The wave changed. -/
def withWave (f : Wave → Wave) (s : State) : State := modWv s 1 f

/-- An event on the operands `as`. -/
def ev (as : List Nat) (s : State) : State := { s with args := as }

def hd : Head := { d := 0, w := 0, a := 2, b := 4 }
def gx : GExt := { c := 6, e := 8, p := 0, pn := false, tb := false, tc := false, te := false, rm := 0, sat := false, t := 0 }
def ix : IExt := { imm := 5, p := 0, pn := false, tb := false, sub := 0 }
def mx : MExt := { c := 128, imm := 0, f := 15, ord := 0, sz := 2, p := 0 }
/-- The same with a lane register in C. -/
def mc : MExt := { mx with c := 6 }
def bx : BExt := { off := 2, p := 0, pn := false, rsv := 0 }
def nx : NExt := { c := 6, e := 8, f := 0, ec := 0, shape := 0, g := 0, gn := false, rsv := false }

/-- An access of lane 0 that waits for its translation, and its operation. -/
def acc0 : Acc :=
  { id := 7, op := 3, wave := 1, core := 0, ctx := 0, lanes := 1, parts := [(0, 0x5000)], n := 4, mask := 15, cls := .ld, act := .load,
    va := 0x5000, strong := false, acq := false, rel := false, kind := .normal, pa := 0x5000, twin := 0, priv := false, stage := .trans,
    val := 0, got := 0, status := 0, fill := false, deadline := 0, lat := 0, lvl := 0 }
def opr0 (i : Instr) : Opr :=
  { id := 3, instr := i, pc := 0x1000, lanes := 1, todo := 1, window := false, flag := 0, flanes := 0, status := 0, cls := 0, faddr := 0,
    kind := 0, slot := 0, words := [List.replicate 32 0, List.replicate 32 0], left := 0, skid := 0, issuedAt := 0 }

/-- A copy of the wave, its record not fetched. -/
def copy0 : Copy :=
  { id := 6, wave := 1, group := 1, op := 3, core := 0, ctx := 0, pair := 0, recOff := 0, bytes := List.replicate 48 0, fetched := false,
    next := 0, done := [], pos := 0, credited := 0, owed := 0, hold := 0, status := 0, faddr := 0, once := false, retry := 0 }

/-! ### Operands and states that meet the hypotheses of the statements -/

theorem witness_DecodeEncode : WellFormed (.vadd hd { gx with e := 0 }) = true := by decide +kernel

theorem witness_EncodeDecode : (decodeWords 0x00D40000 0).toOption = some (.land ⟨0, 0, 0, 0⟩) := by decide +kernel

theorem witness_UnlistedOpcodesRejected :
    listedOpcode ((0x400E0000#32).getLsbD 31) ((0x400E0000#32).getLsbD 30) ((0x400E0000#32).extractLsb' 16 8).toNat = false := by decide

theorem witness_ShortFormsComputeAOpB :
    (∀ p ∈ shortPairs, Issuable (p.1 hd) demo ∧ Issuable (p.2.1 hd) demo) ∧ ∀ p ∈ shortLanePairs, Issuable (p.1 hd) demo := by
  have h : ((shortPairs.all fun p => issuableB (p.1 hd) demo && issuableB (p.2.1 hd) demo) &&
    shortLanePairs.all fun p => issuableB (p.1 hd) demo) = true := by decide +kernel
  simp only [Bool.and_eq_true, List.all_eq_true] at h
  exact ⟨fun p hp => ⟨issuable_of (h.1 p hp).1, issuable_of (h.1 p hp).2⟩, fun p hp => issuable_of (h.2 p hp)⟩

theorem witness_ShortFormsComputeOpB :
    (∀ p ∈ shortSingles, Issuable (p.1 hd) demo ∧ Issuable (p.2.1 hd) demo) ∧ Issuable (.vbrevShort hd) demo := by
  have h : ((shortSingles.all fun p => issuableB (p.1 hd) demo && issuableB (p.2.1 hd) demo) &&
    issuableB (.vbrevShort hd) demo) = true := by decide +kernel
  simp only [Bool.and_eq_true, List.all_eq_true] at h
  exact ⟨fun p hp => ⟨issuable_of (h.1 p hp).1, issuable_of (h.1 p hp).2⟩, issuable_of h.2⟩

theorem witness_LaneIntegerCompletes : ∀ p ∈ laneTable, Issuable (p.1 hd gx) demo := by
  have h : (laneTable.all fun p => issuableB (p.1 hd gx) demo) = true := by decide +kernel
  exact fun p hp => issuable_of (List.all_eq_true.mp h p hp)

theorem witness_ElementsAreIndependent :
    (0 < elemN (gT gx) ∧ gx.sat = false) ∧ (let g := { gx with sat := true, t := 16 }; 0 < elemN (gT g) ∧ g.sat = true ∧ 16 ≤ gT g) ∧
    (let g := { gx with sat := true, t := 2 }; 1 < elemN (gT g) ∧ g.sat = true ∧ gT g < 16) := by decide

theorem witness_ShiftsAndRotate : (gT gx < 2 ∧ gT gx = 0) ∧ gT { gx with t := 1 } < 2 ∧ gT { gx with t := 1 } = 1 := by decide

theorem witness_LeaAddsScaledIndex : WellFormed (.vlea hd { gx with e := 0 }) = true ∧ Issuable (.vlea hd gx) demo :=
  ⟨by decide +kernel, issuable_of (by decide +kernel)⟩

theorem witness_UniformIntegerCompletes : ∀ p ∈ uniTable, Issuable (p.1 hd gx) demo := by
  have h : (uniTable.all fun p => issuableB (p.1 hd gx) demo) = true := by decide +kernel
  exact fun p hp => issuable_of (List.all_eq_true.mp h p hp)

theorem witness_MovesSelectsAndLiterals :
    ∀ i ∈ [Instr.vmov hd gx, .vmovShort hd, .vsel hd gx, .smovShort hd, .ssel hd gx, .smovi hd 7, .vidx hd ix, .sidx hd ix],
      Issuable i demo := issuable_all (by decide +kernel)

theorem witness_LaneImmediates : ∀ i ∈ [Instr.vmovi hd ix, .vmovh hd ix, .vaddi hd ix], Issuable i demo :=
  issuable_all (by decide +kernel)

theorem witness_PredicatesDecided :
    ∀ i ∈ [Instr.vcmp hd gx, .vcmpi hd ix, .vplog hd gx, .scmp hd gx, .sqlog hd gx], Issuable i demo :=
  issuable_all (by decide +kernel)

theorem witness_PredicateMoves :
    ∀ t ∈ [0, 1, 2, 3], Issuable (.vpmov hd { gx with t := BitVec.ofNat 5 t }) demo ∧ gT { gx with t := BitVec.ofNat 5 t } = t := by
  have h : ([0, 1, 2, 3].all fun t => issuableB (.vpmov hd { gx with t := BitVec.ofNat 5 t }) demo &&
    decide (gT { gx with t := BitVec.ofNat 5 t } = t)) = true := by decide +kernel
  simp only [List.all_eq_true, Bool.and_eq_true, decide_eq_true_eq] at h
  exact fun t ht => ⟨issuable_of (h t ht).1, (h t ht).2⟩

theorem quiet_demo : noArithTraps (curWave demo) := by unfold noArithTraps; decide +kernel

theorem witness_FloatCompletes :
    (∀ p ∈ floatTable, Issuable (p.1 hd gx) demo) ∧ (∀ p ∈ floatShorts, Issuable (p.1 hd) demo) ∧
    (∀ p ∈ fp8Table, Issuable (p.1 hd gx) demo) ∧ noArithTraps (curWave demo) := by
  have h : ((floatTable.all fun p => issuableB (p.1 hd gx) demo) && (floatShorts.all fun p => issuableB (p.1 hd) demo) &&
    fp8Table.all fun p => issuableB (p.1 hd gx) demo) = true := by decide +kernel
  simp only [Bool.and_eq_true, List.all_eq_true] at h
  exact ⟨fun p hp => issuable_of (h.1.1 p hp), fun p hp => issuable_of (h.1.2 p hp), fun p hp => issuable_of (h.2 p hp), quiet_demo⟩

theorem witness_ConversionsComplete :
    noArithTraps (curWave demo) ∧ ∀ i ∈ [Instr.vcvt hd gx, .vpack hd gx, .vscl hd gx, .vfdot2 hd gx, .vunpk hd gx, .vfcmp hd gx,
      .vfclass hd gx, .vftag hd gx], Issuable i demo := ⟨quiet_demo, issuable_all (by decide +kernel)⟩

theorem witness_NanOperandsGiveCanonicalNan :
    F32 ∈ [F64, F32, F16, BF16, E5M2, E4M3] ∧ isNan (readVal F32 0 0x7FC00000) = true ∧ isSig (readVal F32 0 0x7F800001) = true := by
  decide +kernel

theorem witness_ExchangesComplete :
    (∀ i ∈ [Instr.vshfl hd gx, .vbcst hd gx, .vvote hd gx, .vmatch hd gx, .vrdln hd gx, .vwrln hd gx], Issuable i demo) ∧
    hd.b.toNat < 8 * (curWave demo).h ∧ (∀ l ∈ lanesOf (active (specOf (.vrdln hd gx)) demo),
      vEmpty (curWave demo) ((vread (curWave demo) l gx.c.toNat).toNat % 32) hd.b.toNat = false) ∧
    hd.a.toNat < 8 * (curWave demo).h ∧ vEmpty (curWave demo) (gT gx) hd.a.toNat = false :=
  ⟨issuable_all (by decide +kernel), by decide +kernel⟩

theorem witness_ReductionsComplete :
    (∀ i ∈ [Instr.vredu hd gx, .vscan hd gx, .vredu hd { gx with t := 9 }, .vscan hd { gx with t := 8 }], Issuable i demo) ∧
    gT gx % 16 < 8 ∧ 8 ≤ gT { gx with t := 9 } % 16 ∧ noArithTraps (curWave demo) :=
  ⟨issuable_all (by decide +kernel), by decide, by decide, quiet_demo⟩

/-- A descriptor whose count is at its limit. -/
def fullRows : State := withWave (fun v => setVreg { v with fmode := 0x21 } 0 6 { zeroReg with bits := 0xFFFFFFFF }) demo

theorem witness_CompactionCompletes :
    (∀ i ∈ [Instr.vcompact hd gx, .vcompactRow hd gx, .vexpand hd gx], Issuable i demo) ∧ (vread (curWave demo) 0 6).toNat / 65536 ≠ 65535 ∧
    Issuable (.vcompactRow hd gx) fullRows ∧ (vread (curWave fullRows) 0 6).toNat / 65536 = 65535 ∧
    (curWave fullRows).fmode.getLsbD 5 = true ∧ active (specOf (.vcompactRow hd gx)) fullRows ≠ 0 :=
  ⟨issuable_all (by decide +kernel), by decide +kernel, issuable_of (by decide +kernel), by decide +kernel⟩

theorem witness_CompactionKeepsTheLargest : (16 : Nat) ≤ 48 := by decide

theorem witness_ArithmeticFrame : isArithmetic (.vadd hd gx) = true ∧ Issuable (.vadd hd gx) demo ∧ noArithTraps (curWave demo) :=
  ⟨rfl, issuable_of (by decide +kernel), quiet_demo⟩

/-- Lane 0's operands are `x`, and each of the three exceptions is enabled to trap (R209). -/
def trapping (x : Word) : State :=
  withWave (fun v => [4, 6, 8].foldl (fun u r => setVreg u 0 r { zeroReg with bits := x }) { v with fmode := 0x1C001 }) demo

/-- `raisesEnabled` and the conditions of issue as a Bool. -/
def raisesB (i : Instr) (out : Nat → LaneOut) (s : State) : Bool :=
  issuableB i s && decide (arithCause (curWave s).fmode ((lanesOf (active (specOf i) s)).foldl (fun x l => x ||| (out l).raised) 0) ≠ 0)

theorem raises_of {i : Instr} {out : Nat → LaneOut} {s : State} (h : raisesB i out s = true) : Issuable i s ∧ raisesEnabled i out s := by
  simp only [raisesB, Bool.and_eq_true, decide_eq_true_eq] at h
  exact ⟨issuable_of h.1, h.2⟩

/-- FP32 signalling NaNs, an FP8 product and sum that overflow, and an FP16 signalling NaN. -/
theorem witness_EnabledExceptionTraps :
    let s := trapping 0x7F800001
    let big := trapping 0x7E7E7E7E
    let half := trapping 0x7C017C01
    let g := { gx with t := 8 }
    let r := fun l k => rndOf (curWave s) gx.rm gx.sat s.draws l k
    let x := source (.vunpk hd gx) half
    let holds := fun i out s => Issuable i s ∧ raisesEnabled i out s
    (∀ p ∈ floatTable, holds (p.1 hd gx) (floatLane (p.1 hd gx) gx p.2 s) s) ∧
    (∀ p ∈ floatShorts, holds (p.1 hd) (floatLane (p.1 hd) (shortG hd.b) p.2 s) s) ∧
    (∀ p ∈ fp8Table, holds (p.1 hd gx) (fp8Lane (p.1 hd gx) gx p.2 big) big) ∧
    holds (.vcvt hd gx) (fun l => cvtOp 0 (r l) (source (.vcvt hd gx) s l 0)) s ∧
    holds (.vpack hd gx) (fun l => let x := source (.vpack hd gx) s l; packOp 0 (r l) (x 0) (x 1) (x 2)) s ∧
    holds (.vscl hd gx) (fun l => let x := source (.vscl hd gx) s l; sclOp 0 (r l) (x 0) (x 1)) s ∧
    holds (.vfdot2 hd gx) (fun l => let x := source (.vfdot2 hd gx) s l; fdot2Op 0 (r l 0) (x 0) (x 1) (x 2)) s ∧
    holds (.vunpk hd gx) (fun l => unpkOp 0 { rndOf (curWave half) 1 false 0 l 0 with sat := false } (x l 0) (x l 1) (x l 2)) half ∧
    holds (.vfcmp hd gx) (fun l =>
      let x := source (.vfcmp hd gx) s l
      let f := fmtOf 0
      { regs := [], preds := []
        raised := (fcmpOp 0 (readVal f (den (curWave s)) (x 0)) (readVal f (den (curWave s)) (x 1))).2 }) s ∧
    holds (.vredu hd g) (fun _ => reduOut hd g s) s ∧ holds (.vscan hd g) (scanOut hd g s) s := by
  have h : ((floatTable.all fun p => raisesB (p.1 hd gx) (floatLane (p.1 hd gx) gx p.2 (trapping 0x7F800001)) (trapping 0x7F800001)) &&
    (floatShorts.all fun p => raisesB (p.1 hd) (floatLane (p.1 hd) (shortG hd.b) p.2 (trapping 0x7F800001)) (trapping 0x7F800001)) &&
    fp8Table.all fun p => raisesB (p.1 hd gx) (fp8Lane (p.1 hd gx) gx p.2 (trapping 0x7E7E7E7E)) (trapping 0x7E7E7E7E)) = true := by
    decide +kernel
  simp only [Bool.and_eq_true, List.all_eq_true] at h
  refine ⟨fun p hp => raises_of (h.1.1 p hp), fun p hp => raises_of (h.1.2 p hp), fun p hp => raises_of (h.2 p hp), raises_of ?_,
    raises_of ?_, raises_of ?_, raises_of ?_, raises_of ?_, raises_of ?_, raises_of ?_, raises_of ?_⟩ <;> decide +kernel

/-- The conditions of issue before the `k`th of `IllegalRunsTrapAndWaitsHold`: 1 the wait mask, 2 the guard and the sources, 3 the
destinations, 4 the guard slot, 5 the energy, 6 the baton, 7 the flag and the window. -/
def passes (i : Instr) (s : State) (k : Nat) : Bool :=
  let sp := specOf i
  let v := curWave s
  let m := active sp s
  runsIn v sp && distOk v (cycAt s v.core) s.cur.lanes sp.d && (decide (k < 2) || flagsClear v sp.w) &&
  (decide (k < 3) || (!guardWait v sp s.cur.lanes && sp.srcs.all fun x => !srcEmpty v m x)) &&
  (decide (k < 4) || (sp.dsts.all (fun d => !dstEmpty v m d) && !predWait v sp m)) &&
  (decide (k < 5) || decide (sp.g = 0) || !slotPending v sp.g) &&
  (decide (k < 6) || (match sp.ec with | some e => ebudOk s v.core v.ctx e | none => true)) &&
  (decide (k < 7) || !sp.mat || decide ((pr s (corePair v.core)).baton = some s.cur.wave))

theorem witness_IllegalRunsTrapAndWaitsHold :
    let i := Instr.vadd hd gx
    let m := Instr.mzero hd { nx with c := 0, e := 0 }
    isArithmetic i = true ∧ ((curWave demo).core % 2 = 0 ∧ hd.a.toNat < (groupOf demo 1).kernel.accum) ∧
    runsIn (curWave demo) (specOf (.vadd { hd with b := 48 } gx)) = false ∧
    (let s := withWave (fun v => { v with lanes := v.lanes.map fun x => { x with lastIssue := 1 } }) demo
     let i := Instr.vadd { hd with d := 2 } gx
     runsIn (curWave s) (specOf i) = true ∧ distOk (curWave s) (cycAt s (curWave s).core) s.cur.lanes (specOf i).d = false) ∧
    (let s := withWave (fun v => { v with flags := v.flags.map fun _ => 1, masks := List.replicate 16 1 }) demo
     let i := Instr.vadd { hd with w := 1 } gx
     passes i s 1 = true ∧ flagsClear (curWave s) (specOf i).w = false) ∧
    (let s := withWave (fun v => { v with lanes := v.lanes.map fun x => { x with predPend := 0xFF } }) demo
     let i := Instr.vadd hd { gx with p := 1 }
     passes i s 2 = true ∧ guardWait (curWave s) (specOf i) s.cur.lanes = true) ∧
    (let s := withWave (fun v => setVreg v 0 6 { zeroReg with full := false }) demo
     ∀ t ∈ [false, true], let i := Instr.vadd hd { gx with tc := t }
      passes i s 2 = true ∧ guardWait (curWave s) (specOf i) s.cur.lanes = false ∧
        (specOf i).srcs.map (fun y => (srcEmpty (curWave s) (active (specOf i) s) y, y.trap)) = [(false, false), (true, t)]) ∧
    (let s := withWave (fun v => setVreg v 0 2 { zeroReg with full := false }) demo
     passes i s 3 = true ∧ (specOf i).dsts.any (dstEmpty (curWave s) (active (specOf i) s)) = true) ∧
    (let s := withWave (fun v => { v with guards := v.guards.set 1 (.pendS 3 4) }) demo
     let i := Instr.mzero hd { nx with c := 0, e := 0, g := 1 }
     passes i s 4 = true ∧ (specOf i).g ≠ 0 ∧ slotPending (curWave s) (specOf i).g = true) ∧
    (let s := modCx demo 0 fun c => { c with held := { c.held with efill := 1 } }
     passes m s 5 = true ∧ (specOf m).ec.any (fun e => !ebudOk s 0 0 e) = true) ∧
    (let s := modPr demo 0 fun p => { p with baton := none }
     passes m s 6 = true ∧ (specOf m).mat = true ∧ (pr s 0).baton ≠ some s.cur.wave) ∧
    (let s := withWave (fun v => { v with flags := v.flags.map fun _ => 63 }) demo
     passes m s 7 = true ∧ 63 ≤ (curWave s).flags.getD (specOf m).flag 0) := by decide +kernel

theorem witness_FixedResultsLandWhenDue :
    let s := withWave (fun v => { v with pend := [{ due := 4, writes := noWrites }, { due := 6, writes := noWrites }] }) demo
    (∀ p ∈ (wv s 1).pend, 3 < p.due) ∧ (wv s 1).pend.any (fun p => decide (p.due ≤ 4)) = true ∧
    (wv s 1).pend.any (fun p => decide (4 < p.due)) = true := by decide +kernel

theorem witness_LandWritesWhatIsListed :
    let ws : Writes := { noWrites with
      regs := [(0, 2, 5, .untyped), (1, 2, 6, .untyped)], sregs := [(3, 5), (4, 6)], preds := [(0, 7, true), (1, 7, false)]
      qs := [(1, true), (7, false)] }
    ws.sys = [] ∧ (ws.regs.map fun x => vkey x.1 x.2.1).Nodup ∧ (∀ x ∈ ws.regs, vkey x.1 x.2.1 ≠ vkey 2 2) ∧
    (ws.sregs.map Prod.fst).Nodup ∧ (∀ x ∈ ws.sregs, x.1 ≠ 5) ∧ (∀ x ∈ ws.preds, x.1 ≠ 2 ∨ x.2.1 % 8 ≠ 7) ∧
    (∀ x ∈ ws.preds, x.2.1 < 8) ∧ (ws.preds.map fun x => (x.1, x.2.1)).Nodup ∧ (∀ x ∈ ws.preds, x.1 < wave1.lanes.length ∧ 0 < x.2.1) ∧
    (∀ x ∈ ws.qs, x.1 ≠ 2) ∧ (∀ x ∈ ws.qs, x.1 < 8 ∧ 0 < x.1) ∧ (ws.qs.map Prod.fst).Nodup ∧
    ({ noWrites with regs := [(0, 2, 5, .untyped)] } : Writes).sregs = [] := by decide

/-- The wave with its handler enabled. -/
def handled : State := withWave (fun v => { v with tba := 1 }) demo

theorem canTrap_handled : CanTrap handled 1 :=
  ⟨by decide +kernel, by decide +kernel, by decide +kernel, by decide +kernel, by decide +kernel, by decide +kernel⟩

theorem witness_TrapTaken :
    CanTrap handled 1 ∧ (let r := trapOf (.nop hd) 31 255 0; r.cls < 32 ∧ r.code < 256 ∧ r.data < 2 ^ 64 ∧ r.status < 2 ^ 32) :=
  ⟨canTrap_handled, by decide +kernel⟩

theorem witness_TrapWithoutHandlerFences :
    ((wv demo 1).pend = [] ∧ (wv demo 1).tba.getLsbD 0 = false) ∧
    (let s := withWave (fun v => { v with tstat := 0x20 }) handled; (wv s 1).pend = [] ∧ inh (wv s 1) = true) ∧
    (let s := withWave (fun v => { v with tframe := 0x000FFF00 }) handled
     (wv s 1).pend = [] ∧ (wv s 1).tba.getLsbD 0 = true ∧ inh (wv s 1) = false ∧
      scrIn (gp s 1) (wv s 1).tframe.toNat (frameSize s 1) = false) ∧
    (let s := modPr handled 0 fun p => { p with banks := p.banks.set 4 { mode := .fifo, owner := 1, fifo := [] } }
     (wv s 1).pend = [] ∧ (wv s 1).tba.getLsbD 0 = true ∧ inh (wv s 1) = false ∧ 0 < frameSize s 1 ∧
      (bank s (gp s 1).pair (scrBank (gp s 1) ((wv s 1).tframe.toNat + 0))).mode ≠ .scratch) := by decide +kernel

theorem witness_ReturnUndoesEntry :
    CanTrap handled 1 ∧ ∀ l < 32, (ln (wv handled 1) l).exited = false ∧ canonical (ln (wv handled 1) l).pc = true ∧
      (ln (wv handled 1) l).pc % 4 = 0 ∧ (ln (wv handled 1) l).pc < 2 ^ 64 ∧ (ln (wv handled 1) l).sleep ≠ .woken :=
  ⟨canTrap_handled, by decide +kernel⟩

/-! ### The step -/

/-- The state in which the next step runs the `exit` (R317) at address 0x1000, whose sector the L1 holds. -/
def exitNext : State :=
  { modCr demo 0 fun c => { c with l1 := [{ placeLine 0x00D50000 with line := 32 }] } with
    mem := memWrite demo.mem 0x1000 4 0x00D50000, moves := [.issue 0 [({ wave := 1, pc := 0x1000, lanes := allLanes }, false)] 2 1 none] }

theorem witness_StepRunsDecoded :
    let s0 := { exitNext with moves := [] }
    let y := candNow s0 { wave := 1, pc := 0x1000, lanes := allLanes }
    let f := fetchWord { s0 with cur := y } 0 0 y.pc (groupHolds { s0 with cur := y })
    exitNext.moves = [.issue 0 [({ wave := 1, pc := 0x1000, lanes := allLanes }, false)] 2 1 none] ∧ y.lanes ≠ 0 ∧
    mayIssue s0 (wv s0 y.wave) = true ∧ f.2.toOption = some 0x00D50000 ∧ f.1.blocked = none ∧ hasExt 0x00D50000 = false ∧
    (decodeWords 0x00D50000 0).toOption = some (.exitShort ⟨0, 0, 0, 0⟩) := by decide +kernel

theorem witness_StepRunsEvent :
    let s := { demo with moves := [.perform .hsemTake [0, 9]] }
    s.moves = [.perform .hsemTake [0, 9]] ∧ isEvent .hsemTake = true := by decide +kernel

theorem witness_IllegalEncodingTraps :
    let s := { demo with mem := memWrite demo.mem 0x1000 4 0x000E0000 }
    (fetchWord s 0 0 s.cur.pc (groupHolds s)).2.toOption = some 0x000E0000 ∧ hasExt 0x000E0000 = false ∧
    (decodeWords 0x000E0000 0).toOption = none := by decide +kernel

/-! ### Memory instructions and barriers -/

theorem witness_StepKeepsMemoryCanonical :
    let s : State := { demo with moves := [.perform .packetReflected []] }
    memWf s.mem = true ∧ s.blocked = none ∧ ∃ t, step s = .next t := ⟨by decide +kernel, rfl, _, rfl⟩

theorem witness_MemoryReadsBack : memWf tables = true ∧ (tables : List Host.Cell) = tables ∧ 0xFFFF < 0x10000 ∧ 0x10000 + 3 ≤ 0x10003 := by
  decide +kernel

theorem witness_MemoryInstructionsIssue :
    ∀ i ∈ [Instr.ld hd mx, .st hd mx, .sld hd mx, .sst hd mx, .ldl hd mx, .stl hd mx, .atom hd mc, .atoml hd mc, .satom hd mx,
      .red hd mx, .cprop hd mc, .cget hd mc, .crecyc hd mc, .cprobe hd mx],
      isPlainMemory i = true ∧ Issuable i demo ∧ memWaits i demo = false := by
  have h : ([Instr.ld hd mx, .st hd mx, .sld hd mx, .sst hd mx, .ldl hd mx, .stl hd mx, .atom hd mc, .atoml hd mc, .satom hd mx,
      .red hd mx, .cprop hd mc, .cget hd mc, .crecyc hd mc, .cprobe hd mx].all fun i =>
      isPlainMemory i && issuableB i demo && !memWaits i demo) = true := by decide +kernel
  simp only [List.all_eq_true, Bool.and_eq_true, Bool.not_eq_true'] at h
  exact fun i hi => ⟨(h i hi).1.1, issuable_of (h i hi).1.2, (h i hi).2⟩

/-- Tile 1 holds zeros, and bank 4 is a FIFO with the entries of one issue. -/
def fifoTile : State :=
  modPr (modCr demo 0 fun c => { c with tiles := [(1, { empty := false, elems := [] })] }) 0 fun p =>
    { p with banks := p.banks.set 4 { mode := .fifo, owner := 1, fifo := [1, 2, 3, 4] } }

theorem witness_FifoAndTileAccessesIssue :
    let m := { mx with c := 0 }
    let t := { mx with c := 1 }
    (Issuable (.ldq hd m) fifoTile ∧ memWaits (.ldq hd m) fifoTile = false ∧
      fifoWaits (.ldq hd m) (active (specOf (.ldq hd m)) fifoTile) fifoTile = false) ∧
    (Issuable (.stq hd m) fifoTile ∧ memWaits (.stq hd m) fifoTile = false ∧
      fifoWaits (.stq hd m) (workLanes (.stq hd m) (curWave fifoTile) (active (specOf (.stq hd m)) fifoTile)) fifoTile = false) ∧
    (Issuable (.sta hd t) fifoTile ∧ memWaits (.sta hd t) fifoTile = false ∧ t.c.toNat < (groupOf fifoTile 1).kernel.accum ∧
      tileBusy fifoTile t.c.toNat = false) ∧
    (Issuable (.lda hd t) fifoTile ∧ memWaits (.lda hd t) fifoTile = false ∧
      (accTile fifoTile 0 (tileIdx (groupOf fifoTile 1) t.c.toNat)).empty = false) ∧
    (accTile demo 0 (tileIdx (groupOf demo 1) t.c.toNat)).empty = true ∧ active (specOf (.lda hd t)) demo ≠ 0 :=
  ⟨⟨issuable_of (by decide +kernel), by decide +kernel⟩, ⟨issuable_of (by decide +kernel), by decide +kernel⟩,
    ⟨issuable_of (by decide +kernel), by decide +kernel⟩, ⟨issuable_of (by decide +kernel), by decide +kernel⟩, by decide +kernel⟩

/-- Scratch accesses at the last word of the allocation: lane 31 of 32 lanes, four bytes each (65,532 is 4 * 16,384 - 4). -/
def atEnd : State := withWave (fun v => setVreg v 31 4 { zeroReg with bits := 65532 }) demo

theorem witness_ScratchLoadReads :
    WellFormed (.ldl hd mx) = true ∧ Issuable (.ldl hd mx) atEnd ∧ memWaits (.ldl hd mx) atEnd = false ∧
    active (specOf (.ldl hd mx)) atEnd ≠ 0 ∧
    ∀ l ∈ lanesOf (active (specOf (.ldl hd mx)) atEnd), scrFault atEnd (groupOf atEnd 1) (scratchOffset hd mx atEnd l) 4 = none :=
  ⟨by decide +kernel, issuable_of (by decide +kernel), by decide +kernel⟩

theorem witness_ScratchStoreWrites :
    (WellFormed (.stl hd mx) = true ∧ Issuable (.stl hd mx) atEnd ∧ memWaits (.stl hd mx) atEnd = false ∧ mx.ord.toNat < 2 ∧
      ∀ l ∈ lanesOf (active (specOf (.stl hd mx)) atEnd), scrFault atEnd (groupOf atEnd 1) (scratchOffset hd mx atEnd l) 4 = none) ∧
    (let m := { mx with ord := 2 }
     WellFormed (.stl hd m) = true ∧ Issuable (.stl hd m) atEnd ∧ memWaits (.stl hd m) atEnd = false ∧ 2 ≤ m.ord.toNat ∧
      active (specOf (.stl hd m)) atEnd &&& ~~~(curWave atEnd).helpers ≠ 0) ∧
    (let i := Instr.stl hd { mx with ord := 2 }
     let a := { acc0 with act := .scr, rel := true, stage := .queued }
     let o := opr0 i
     let s := withWave (fun v => { v with ops := [o] }) demo
     a.act = .scr ∧ findOp (wv s a.wave) a.op = some o ∧ o.instr = i ∧
      ∀ l ∈ lanesOf a.lanes, scrFault s (groupOf s a.wave) (laneScrOff i o 1 l) 4 = none) :=
  ⟨⟨by decide +kernel, issuable_of (by decide +kernel), by decide +kernel⟩,
    ⟨by decide +kernel, issuable_of (by decide +kernel), by decide +kernel⟩, by decide +kernel⟩

theorem witness_FencesAndSyncComplete :
    (WellFormed (.pfx { hd with a := 0 } mx) = true ∧ Issuable (.pfx { hd with a := 0 } mx) demo) ∧ acquireOut (curWave demo) = false ∧
    ((let i := Instr.pfx { hd with a := 0 } mx
      (lanesOf (active (specOf i) demo)).foldl (fun u _ => prefetchLane 0 0 2 u 0) (advance (specOf i) demo)).blocked = none) ∧
    (Issuable (.fence hd mx) demo ∧ loadsOut (curWave demo) = false ∧ mayFault demo 1 = false ∧
      faultHeld (.fence hd mx) (curWave demo) = false ∧ matPending demo 1 = false ∧ dafRoom demo 0 1 = true) ∧
    (Issuable (.wsync hd mx) demo ∧ Issuable (.wsyncShort hd) demo ∧ arrivalWaits demo 1 = false) :=
  ⟨⟨by decide +kernel, issuable_of (by decide +kernel)⟩, by decide +kernel, by decide +kernel,
    ⟨issuable_of (by decide +kernel), by decide +kernel⟩, issuable_of (by decide +kernel), issuable_of (by decide +kernel),
    by decide +kernel⟩

theorem witness_WsyncEpisode :
    (let v := { wave1 with wsyncArrived := allLanes }; v.wsyncArrived ≠ 0 ∧ inh v = false ∧ wsyncMissing v = 0) ∧
    (let v := { wave1 with wsyncArrived := 1 }; v.wsyncArrived ≠ 0 ∧ inh v = false ∧ wsyncMissing v ≠ 0) := by decide +kernel

theorem witness_BarrierInstructionsIssue :
    ∀ i ∈ [Instr.barinit hd mx, .barexp hd mx, .bararr hd mx, .barwait hd mx, .waddr hd mx], Issuable i demo ∧ memWaits i demo = false := by
  have h : ([Instr.barinit hd mx, .barexp hd mx, .bararr hd mx, .barwait hd mx, .waddr hd mx].all fun i =>
      issuableB i demo && !memWaits i demo) = true := by decide +kernel
  simp only [List.all_eq_true, Bool.and_eq_true, Bool.not_eq_true'] at h
  exact fun i hi => ⟨issuable_of (h i hi).1, (h i hi).2⟩

/-- Each clause at values where its cases meet: no expectation, the last one that fits and the first that does not; and a credit of 5
to an object in scratch that expects 5 bytes and no arrival, and where its bank is a FIFO. -/
theorem witness_BarrierObject :
    ((2 ^ 32 - 1 < 2 ^ 32) ∧ (0 < 2 ^ 16) ∧ (2 ^ 16 - 1 < 2 ^ 16) ∧ (-(2 ^ 31) ≤ (-(2 ^ 31) : Int)) ∧ ((2 ^ 31 - 1 : Int) < 2 ^ 31)) ∧
    ((-1 : Int) ≠ 0 ∧ (2 ^ 31 - 2 : Int) + 1 < 2 ^ 31 ∧ 2 ^ 31 ≤ (2 ^ 31 - 1 : Int) + 1 ∧ -(2 ^ 31 - 1 : Int) - 1 = -(2 ^ 31)) ∧
    (let b := barObject 7 0 0 5 0
     let s := scrWrite demo group1 0 16 b
     scrMode s (gp s copy0.group) (recTarget copy0.bytes) 16 = true ∧ scrRead s (gp s copy0.group) (recTarget copy0.bytes) 16 = b) ∧
    scrMode fifoTile (gp fifoTile copy0.group) (recTarget copy0.bytes) 16 = false := by decide +kernel

/-! ### Control, system registers, the pool, copies, the matrix engine and the other engines -/

theorem witness_BranchesCallsAndEnds :
    ∀ i ∈ [Instr.br hd bx, .ubr hd bx, .callDirect hd bx, .ucall hd bx, .nop hd, .exitShort hd, .exitL hd bx, .endShort hd, .endW hd bx],
      Issuable i demo := issuable_all (by decide +kernel)

/-- The lanes' pairs hold 0x2000 but lane 3's, which holds 2. -/
def jumpers : State :=
  withWave (fun v => { (List.range 32).foldl (fun v l => setVreg v l 4 { zeroReg with bits := if l = 3 then 2 else 0x2000 }) v with
    sregs := [(0, { zeroSReg with bits := 0x2000 }), (4, { zeroSReg with bits := 0x2000 })] }) demo

theorem witness_RegisterTargets :
    (∀ p ∈ registerJumps hd { bx with off := 0 } (curWave jumpers), Issuable p.1 jumpers) ∧
    (let i := Instr.ujmp hd { bx with off := 0 }
     ((checkTargets 0 0 true ((lanesOf (active (specOf i) jumpers)).map fun l => (l, 0x2000)) (advance (specOf i) jumpers)).2.filter
        fun x => decide (x.2.1 ≠ 0)) = []) ∧
    (let i := Instr.jmp hd { bx with off := 0 }
     ((checkTargets 0 0 true ((lanesOf (active (specOf i) jumpers)).map fun l => (l, offsetBy (lanePair (curWave jumpers) l hd.b) 0))
        (advance (specOf i) jumpers)).2.filter fun x => decide (x.2.1 ≠ 0)) = [(3, 0x20, 2, 0x20)]) ∧
    (2 % 4 ≠ 0) ∧ 2 ^ 63 % 4 = 0 ∧ canonical (2 ^ 63) = false := by
  have h : ((registerJumps hd { bx with off := 0 } (curWave jumpers)).all fun p => issuableB p.1 jumpers) = true := by decide +kernel
  exact ⟨fun p hp => issuable_of (List.all_eq_true.mp h p hp), by decide +kernel⟩

theorem witness_LandWords : Issuable (.land hd) demo ∧ (0x40D40000#32).getLsbD 30 = true := ⟨issuable_of (by decide +kernel), by decide⟩

theorem witness_SoftwareTrap :
    WellFormed (.trapSw { hd with a := 0, b := 0 } ix) = true ∧ Issuable (.trapSw hd ix) handled ∧ active (specOf (.trapSw hd ix)) handled ≠ 0 ∧
    CanTrap handled 1 ∧ (ln (wv handled 1) 31).exited = false ∧
    (let s := withWave (fun v => { v with q := 1 }) handled
     Issuable (.trapSw hd { ix with p := 2 }) s ∧ active (specOf (.trapSw hd { ix with p := 2 })) s = 0) :=
  ⟨by decide +kernel, issuable_of (by decide +kernel), by decide +kernel, canTrap_handled, by decide +kernel,
    issuable_of (by decide +kernel), by decide +kernel⟩

theorem witness_SystemRegisters :
    (∀ n ∈ [0, 0x82, 0x83], ∀ i ∈ [Instr.sgetr hd { ix with imm := n }, .ssetr hd { ix with imm := n }], Issuable i demo) ∧
    (sysRead demo 1 0x82).isSome = true ∧ sysRead demo 1 0x83 = none ∧ 0x82 ∈ [0x040, 0x050, 0x080, 0x081, 0x082] ∧
    (0x83 ∉ [0x040, 0x050, 0x080, 0x081, 0x082]) ∧
    (let i := Instr.ssetr { hd with b := 0x81 } { ix with imm := 0x40 }; Issuable i demo ∧ source i demo 0 0 = 1) ∧
    (let i := Instr.ssetr { hd with b := 0x86 } { ix with imm := 0x40 }; Issuable i demo ∧ source i demo 0 0 = 6 ∧
      active (specOf i) demo ≠ 0) := by
  have h : (([0, 0x82, 0x83] : List (BitVec 16)).all fun n => issuableB (.sgetr hd { ix with imm := n }) demo &&
    issuableB (.ssetr hd { ix with imm := n }) demo) = true := by decide +kernel
  simp only [List.all_eq_true, Bool.and_eq_true] at h
  refine ⟨fun n hn i hi => ?_, by decide +kernel, by decide +kernel, by decide, by decide, ⟨issuable_of (by decide +kernel), by decide +kernel⟩,
    issuable_of (by decide +kernel), by decide +kernel⟩
  simp only [List.mem_cons, List.not_mem_nil, or_false] at hi
  rcases hi with rfl | rfl
  · exact issuable_of (h n hn).1
  · exact issuable_of (h n hn).2

/-- The pool of the wave has three granules. -/
def pool3 : State := modGp demo 1 fun g => setPool g { quad := 0, free := 3, queue := [], dlk := false }

theorem witness_PoolGuardsElectionAndYield :
    (∀ b ∈ [0x83, 0x84, 0x9B], Issuable (.rclaim { hd with b := b } ix) pool3) ∧
    (source (.rclaim { hd with b := 0x83 } ix) pool3 0 0 = 3 ∧ (curWave pool3).h + 3 ≤ 32 ∧ (poolOf (gp pool3 1) 0).queue = [] ∧
      3 ≤ (poolOf (gp pool3 1) 0).free) ∧
    (source (.rclaim { hd with b := 0x84 } ix) pool3 0 0 = 4 ∧ (poolOf (gp pool3 1) 0).free < 4) ∧
    (source (.rclaim { hd with b := 0x9B } ix) pool3 0 0 = 27 ∧ 32 < (curWave pool3).h + 27) ∧
    (Issuable (.rfree { hd with b := 0x85 } ix) demo ∧ source (.rfree { hd with b := 0x85 } ix) demo 0 0 = 5 ∧ 5 < (curWave demo).h ∧
      granulesFull (curWave demo) 5 = true) ∧
    (Issuable (.rfree { hd with b := 0x86 } ix) demo ∧ source (.rfree { hd with b := 0x86 } ix) demo 0 0 = 6 ∧ (curWave demo).h ≤ 6) ∧
    (∀ t ∈ [0, 1, 2], Issuable (.guardW hd { gx with t := t }) demo ∧ Issuable (.elect hd { gx with t := t }) demo) ∧
    (hd.b.toNat < (curWave demo).uregs ∧ hd.a.toNat < (curWave demo).guards.length ∧ (gp demo 1).elected = none) ∧
    (Issuable (.rfe hd) demo ∧ inh (curWave demo) = false ∧
      let s := withWave (fun v => { v with tstat := 0x20 }) demo; Issuable (.rfe hd) s ∧ inh (curWave s) = true ∧
        acquireOut (curWave s) = false ∧ (returnTrap (advance (specOf (.rfe hd)) s) 1 replayEntry).blocked = none) ∧
    (Issuable (.yieldShort hd) demo ∧ Issuable (.yieldW hd ix) demo ∧ (curWave demo).request = false ∧
      let s := withWave (fun v => { v with request := true }) demo
      Issuable (.yieldShort hd) s ∧ (curWave s).request = true ∧ active (specOf (.yieldShort hd)) s ≠ 0 ∧ quietWave s 1 = true) := by
  have h : (([0x83, 0x84, 0x9B] : List (BitVec 8)).all fun b => issuableB (.rclaim { hd with b := b } ix) pool3) = true := by decide +kernel
  have k : (([0, 1, 2] : List (BitVec 5)).all fun t => issuableB (.guardW hd { gx with t := t }) demo &&
    issuableB (.elect hd { gx with t := t }) demo) = true := by decide +kernel
  simp only [List.all_eq_true, Bool.and_eq_true] at h k
  exact ⟨fun b hb => issuable_of (h b hb), by decide +kernel, by decide +kernel, by decide +kernel,
    ⟨issuable_of (by decide +kernel), by decide +kernel⟩, ⟨issuable_of (by decide +kernel), by decide +kernel⟩,
    fun t ht => ⟨issuable_of (k t ht).1, issuable_of (k t ht).2⟩, by decide +kernel,
    ⟨issuable_of (by decide +kernel), by decide +kernel, issuable_of (by decide +kernel), by decide +kernel⟩,
    issuable_of (by decide +kernel), issuable_of (by decide +kernel), by decide +kernel, issuable_of (by decide +kernel), by decide +kernel⟩

theorem witness_CopiesBanksAndFlushes :
    let rights := modCx demo 0 fun c => { c with held := { c.held with sflush := true } }
    (∀ i ∈ [Instr.kick hd mx, .pub hd mx, .msflushRange hd mx, .msflushStack hd mx, .sbank hd mx], Issuable i demo) ∧
    Issuable (.msflushStack hd mx) rights ∧ (cx rights 0).held.sflush = true ∧ (cx demo 0).held.sflush = false ∧
    acquireOut (curWave demo) = false ∧ (uniWord (curWave demo) mx.c).toNat ≤ 64 ∧ (cr demo 0).scarab.length + 64 ≤ 256 ∧
    memWaits (.pub hd mx) demo = false ∧ (begun (.pub hd mx) (fun t => startPub t false 1 demo.nextId) demo).blocked = none ∧
    ownScrWaits demo 1 = false ∧ matPending demo 1 = false ∧ active (specOf (.sbank hd mx)) demo ≠ 0 :=
  ⟨issuable_all (by decide +kernel), issuable_of (by decide +kernel), by decide +kernel⟩

/-- Bank `k` of the wave's group is asked to take mode `x`. -/
def banking (k x : Word) (s : State) : State :=
  withWave (fun v => setSreg (setSreg v 4 { zeroSReg with bits := k }) 6 { zeroSReg with bits := x }) s

/-- `sbank` with a state for each of its statuses: a bank out of range, the first unknown mode, a FIFO with entries, a copy from the
bank, a core at its least two banks of L1, and a change that is made. -/
theorem witness_SbankStatuses :
    let i := Instr.sbank hd { mx with c := 6, sz := 0 }
    let ready := fun s => WellFormed i && issuableB i s && !acquireOut (curWave s) && !ownScrWaits s 1 && !matPending s 1 &&
      decide (active (specOf i) s ≠ 0)
    let asks := fun s => (source i s 0 0, source i s 0 1)
    let mode := fun (s : State) => (bank s (gp s 1).pair ((gp s 1).bank0 + source i s 0 0)).mode
    let copying := modCr (banking 0 1 demo) 0 fun c => { c with scarab := [
      { copy0 with fetched := true, bytes := copy0.bytes.set 22 1 |>.set 20 1 |>.set 16 16 }] }
    let cached := modPr (banking 0 0 demo) 0 fun p => { p with banks := p.banks.mapIdx fun k b =>
      if k = 4 then { b with mode := .cacheL } else if k < 4 then { b with mode := .scratch } else b }
    (∀ s ∈ [banking 4 1 demo, banking 3 4 demo, banking 0 0 fifoTile, banking 0 0 demo, copying, cached, banking 0 1 demo], ready s = true) ∧
    (gp demo 1).nBanks ≤ (asks (banking 4 1 demo)).1 ∧ asks (banking 3 4 demo) = (3, 4) ∧
    (asks (banking 0 0 fifoTile) = (0, 0) ∧ mode (banking 0 0 fifoTile) = .fifo ∧ (bank fifoTile 0 4).fifo ≠ []) ∧
    (asks (banking 0 0 demo) = (0, 0) ∧ mode (banking 0 0 demo) = .scratch) ∧
    (asks copying = (0, 1) ∧ mode copying = .scratch ∧ copyInFlight copying (gp copying 1) 1 0 = true) ∧
    (asks cached = (0, 0) ∧ mode cached = .cacheL ∧ (l1Banks cached 0).length < 3 ∧ copyInFlight cached (gp cached 1) 1 0 = false) ∧
    (asks (banking 0 1 demo) = (0, 1) ∧ copyInFlight demo (gp demo 1) 1 0 = false ∧ 4 < (pr demo 0).banks.length) := by decide +kernel

theorem witness_MatrixInstructionsIssue :
    let free := modPr demo 0 fun p => { p with baton := none }
    let other := modPr demo 0 fun p => { p with baton := some 2 }
    (∀ i ∈ [Instr.mma hd nx, .mmas hd nx, .mmap hd nx, .mzero hd nx, .mfill hd nx, .mdrain hd nx, .mscale hd nx, .mbpass hd nx,
      .mbpassNone hd nx], Issuable i demo) ∧ (curWave demo).core % 2 = 0 ∧ hd.a.toNat < (groupOf demo 1).kernel.accum ∧
    (∀ i ∈ [Instr.mma hd nx, .mmas hd nx, .mmap hd nx, .mzero hd nx, .mfill hd nx, .mdrain hd nx, .mscale hd nx], matWaits demo i = false) ∧
    active (specOf (.mma hd nx)) demo ≠ 0 ∧
    (matArgs demo 1 (.mzero hd nx) []).toOption = some [] ∧ (matArgs demo 1 (.mdrain hd nx) [0, 0]).toOption = none ∧
    Issuable (.mbtake hd nx) free ∧ (pr free 0).baton = none ∧ (pr free 0).batonQueue = [] ∧ Issuable (.mbtake hd nx) other ∧
    (pr other 0).baton = some 2 ∧ (pr demo 0).baton = some 1 ∧ (pr demo 0).batonPass = none ∧ passing demo = false :=
  ⟨issuable_all (by decide +kernel), by decide +kernel, by decide +kernel, by decide +kernel, by decide +kernel, by decide +kernel,
    by decide +kernel, issuable_of (by decide +kernel), by decide +kernel, by decide +kernel, issuable_of (by decide +kernel), by decide +kernel⟩

theorem witness_EngineInstructionsIssue :
    let loaded := withWave (fun v => setSlot v 0 { emptySlot with state := .loaded, words := [0] }) demo
    let h := { hd with a := 0 }
    (∀ i ∈ [Instr.pgload h nx, .pgctx h nx, .rast h nx, .hitbin h nx, .rflush h nx, .tvrel h nx, .attr h nx, .nfmt h nx, .travs h nx,
      .travr h nx, .hvpost h nx, .coll h nx, .launchDev h nx], Issuable i demo) ∧
    (Issuable (.pgctx h nx) loaded ∧ Issuable (.pgemit h nx) loaded ∧ WellFormed (.pgemit { h with b := 0 } { nx with c := 0, e := 0 }) = true ∧
      (slotOf (curWave loaded) 0).state = .loaded ∧ nx.shape.getLsbD 0 = false ∧ (0 < (curWave loaded).pats.length)) ∧
    (slotOf (curWave demo) 0).state ≠ .loaded ∧ slotBusy demo 1 0 = false ∧ invertible [BitVec.ofNat 32 (0x2654435761 * 28)] = false ∧
    (begun (.hvpost h nx) (fun t => startPost t 1 demo.nextId (active (specOf (.hvpost h nx)) demo)) demo).blocked.isNone = true ∧
    acquireOut (curWave demo) = false ∧ nfmtOut (curWave demo) = none ∧
    ffRoom demo 0 32 = true ∧ threadBusy demo 1 allLanes = false ∧ hiveFull demo 1 allLanes = false ∧
    scrDescFault demo (groupOf demo 1) 0 64 = none ∧ collOk (scrBytes demo (groupOf demo 1) 0 64) = false ∧
    (raisePrecise (spoil demo 0 0 (scrBytes demo (groupOf demo 1) 0 64))
      { trapOf (.coll h nx) 10 0x47 demo.cur.lanes with data := 0 }).blocked = none ∧
    (scrDescFault demo (groupOf demo 1) 8 64).isSome = true ∧ (cx demo 0).devQueue.length < 64 := by
  refine ⟨issuable_all (by decide +kernel), ⟨issuable_of (by decide +kernel), issuable_of (by decide +kernel), ?_⟩, ?_⟩ <;> decide +kernel

/-! ### Events -/

/-- The state with the controller out of reset and HSEM held by port A (R404, R411). -/
def held : State := { demo with mgmt := { demo.mgmt with boot := .run, owner := 1, lease := 9 } }

theorem witness_ManagementEvents :
    (let s := ev [0, 9] demo; arg s 0 < 2 ∧ arg s 1 % 65536 ≠ 0 ∧ s.mgmt.owner = 0) ∧
    (let s := ev [0, 1] held; arg s 0 < 2 ∧ s.mgmt.owner.toNat = arg s 0 + 1 ∧ s.mgmt.owner ≠ 0 ∧ arg s 1 < 64 ∧ s.mgmt.boot = .run ∧
      (cx s 1).busy = false ∧ (cx s 1).bound = false ∧ bindCause s { (cx s 1).fields with asid := 1 } = 0) ∧
    (let s := ev [0, 1] { held with ctxs := [(1, { resetCtx with fields := { resetFields with asid := 1 } })] }
     bindCause s (cx s 1).fields = 0 ∧ ∀ e ∈ s.ctxs, e.2.bound = false) ∧
    (let s := ev [0, 0] held; (cx s 0).busy = false ∧ (cx s 0).bound = true ∧ arg s 0 < 64) ∧
    (let s := ev [0, 4095, 3] held; arg s 1 < 4096) ∧ (let s := ev [0, 3300] held; 500 ≤ arg s 1 % 4096 ∧ arg s 1 % 4096 ≤ 3300) ∧
    (let s := ev [0, 7] held; s.mgmt.mxBusy = false ∧ 4 ≤ arg s 1 ∧ arg s 1 ≤ 7) ∧
    (let s : State := { held with mgmt := { held.mgmt with mxBusy := true, mbQueue := [(0, 5)] } }
     let s := ev [0] s; s.mgmt.mxBusy = true ∧ s.mgmt.mbQueue = (arg s 0, 5) :: [] ∧ arg s 0 < s.ports.length) ∧
    (let s := ev [1] held; arg s 0 < 2 ∧ (prt s (arg s 0)).mbBusy = false) ∧ (let s := ev [383] demo; arg s 0 < 384) ∧
    (demo.inputs.power ≠ demo.mgmt.plimit.toNat) ∧
    (∀ i ∈ [Instr.hsemLeaseTick, .dieSensorSample, .powerAverage], (ev [0] { demo with due := [(i, [0])] }).due.contains (i, [0]) = true) ∧ held.mgmt.boot ≠ .booting ∧ inMmio (arg (ev [0, mmioBase] demo) 1) = true ∧
    (let s := modCx held 0 fun c => { c with log := [(5, { freeLog with state := 2 })] }
     (logSlot (ev [0, 5] s) 0 5).state ≠ 0 ∧ (logSlot (ev [0, 5] s) 0 5).state ≠ 1) ∧ (cx held 0).bound = true ∧ demo.mgmt.boot ≠ .run ∧
    (let s := ev [0] { demo with fences := [0] }; arg s 0 ∈ s.fences) ∧ (let s := ev [0, 1] demo; arg s 0 = 0 ∧ (wv s (arg s 1)).live = true) ∧
    (let s := ev [3, 1] demo; arg s 0 = 3) ∧ (let s := ev [5] demo; arg s 0 < 6) := by decide +kernel

def walk0 : Walk :=
  { id := 9, stack := 0, asid := 0, page := 5, waiters := [7], stale := false, updated := false, entry := none, code := 1, level := 0, knum := 7, due := 0 }
def req0 : MsReq := { line := 0, sector := 0, write := true, core := 0, arrived := 0, flush := 0, die := false, hp := 0 }

theorem witness_TranslationAndCacheEvents_1 :
    (let s := ev [7] { demo with accs := [acc0], walks := [walk0] }
     findAcc s 7 = some acc0 ∧ acc0.stage = .trans ∧ s.walks.any (sameWalk s acc0) = true) ∧
    (let s := ev [7] { demo with accs := [acc0] }; s.walks.any (sameWalk s acc0) = false ∧ walkerFree s acc0 = true ∧
      (startWalk s acc0).blocked = none) ∧
    (let x := { acc0 with va := 2 ^ 40 }; (match (walkNow { demo with accs := [x] } x).2 with | .fault .. => true | .ok .. => false) = true) ∧
    (let s := ev [9] { demo with walks := [walk0] }; (s.walks.find? fun k => k.id = 9) = some walk0 ∧ walkOver s walk0 = true) ∧
    (let x := { acc0 with stage := .dir }; let s := ev [7] { demo with accs := [x] }
     findAcc s 7 = some x ∧ recalling s (frameOf x.pa) = false ∧ tget .untouched s.dir (frameOf x.pa) = .untouched ∧ coreAgent x = true) ∧
    (let x := { acc0 with stage := .dir, act := .barWait 0 }; coreAgent x = false) ∧
    (let f := frameOf acc0.pa
     (tget .untouched ({ demo with dir := [(f, .shared)] } : State).dir f = .shared) ∧
     (tget .untouched ({ demo with dir := [(f, .privateTo 0)] } : State).dir f = .privateTo acc0.core) ∧
     tget .untouched ({ demo with dir := [(f, .privateTo 383)] } : State).dir f = .privateTo 383 ∧ 383 ≠ acc0.core) ∧
    (let r : Recall := { id := 9, frame := 5, core := 0, told := false, waiters := [7] }; let s := ev [9] { demo with recalls := [r] }
     let m : Msg := { id := 11, core := 0, dest := 0, vc := 3, body := .reclass 9 }
     netFirst ({ s with net := [m] } : State) 11 = some m ∧ m.body = .reclass 9 ∧ (s.recalls.find? fun r => r.id = 9) = some r) ∧
    (let r : Recall := { id := 9, frame := 5, core := 0, told := true, waiters := [7] }; let s := ev [9] { demo with recalls := [r] }
     (s.recalls.find? fun r => r.id = 9) = some r ∧ r.told = true ∧ wbLeft s r.core r.frame = false) := by decide +kernel

theorem witness_TranslationAndCacheEvents_2 :
    held.mgmt.boot = .run ∧
    (let s := modTm demo 0 fun b => { b with busy := true }; tmDone s 0 = true ∧ (tmOf s 0).op ≠ 4 ∧ entriesHeld s 0 = false) ∧
    (let e : TlbEntry := { asid := 0, base := 0, log2 := 12, w := true, x := true, lnd := false, d := true, kind := .normal, dev := 0, frame := 0,
                           lvl := 2, classes := [] }
     let s := modCr (modTm demo 0 fun b => { b with busy := true, op := 1 }) 0 fun c => { c with tlb := [e] }
     tmDone s 0 = true ∧ (tmOf s 0).op ≠ 4 ∧ entriesHeld s 0 = true) ∧
    (let s := modTm { demo with dir := [(1, .privateTo 3)] } 0 fun b => { b with busy := true, op := 4, waits := [0] }
     0 < s.ports.length ∧ tmDone s 0 = true ∧ (tmOf s 0).op = 4 ∧ (releaseFrom 2 0 2 s).2 = [1] ∧ (releaseFrom 2 0 1 s).2 = []) ∧
    (let s := modStk demo 0 fun m => { m with queue := [req0] }
     (stk s 0).queue = req0 :: [] ∧ (rgn (hpTake (modStk s 0 fun m => { m with queue := [] }) req0).1 (regionOf (128 * req0.line))).waiting = []) ∧
    (let s := setRgn (modStk demo 0 fun m => { m with queue := [req0] }) 0 { resetRegion with refreshUntil := 286 }
     (rgn (hpTake (modStk s 0 fun m => { m with queue := [] }) req0).1 (regionOf (128 * req0.line))).refreshUntil ≠ 0) ∧
    (let s := setRgn demo 0 { resetRegion with mode := .throttled, waiting := [req0] }; mayAdmit s 0 = true ∧ (rgn s 0).waiting = req0 :: [] ∧
      (rgn s 0).drains = []) ∧
    (let s := setRgn demo 0 { resetRegion with mode := .throttled, drains := [5] }
     mayAdmit s 0 = true ∧ (rgn s 0).waiting = [] ∧ (rgn s 0).drains = 5 :: []) ∧
    (let s := setRgn demo 0 { resetRegion with mode := .throttled, waiting := [req0], drains := [5] }
     mayAdmit s 0 = true ∧ (rgn s 0).waiting ≠ [] ∧ (rgn s 0).drains ≠ []) ∧
    (let s := modStk demo 0 fun m => { m with held := [req0] }; (stk s 0).held = req0 :: [] ∧ (stk s 0).slots.length < 12288) ∧
    (let s := modStk demo 0 fun m => { m with slots := [req0] }
     (stk s 0).slots[0]? = some req0 ∧ gddrBack s 0 req0 = true ∧ req0.write = true ∧
     (((stk s 0).slots.take 0).any fun x => decide (x.line = req0.line ∧ x.sector = req0.sector)) = false) ∧
    (let s := { setRgn demo 0 { resetRegion with mode := .throttled, refreshUntil := 286 } with cyc := [(0, 286)] }
     refreshOver s 0 = true ∧ throttled (rgn s 0) = true) := by decide +kernel

theorem witness_TranslationAndCacheEvents_3 :
    (let s := { setRgn demo 0 { resetRegion with refreshUntil := 286 } with cyc := [(0, 286)] }
     refreshOver s 0 = true ∧ throttled (rgn s 0) = false ∧ (rgn s 0).waiting = []) ∧
    (let s := modStk (withWave (fun v => { v with ops := [opr0 (.msflushStack hd mx)] }) demo) 0 fun m => { m with flushes := [(5, 1, 3)] }
     findFlush s 5 = some (5, 1, 3) ∧ flushDone s 5 = true ∧ (findOp (wv s 1) 3).isSome = true) ∧
    (let s := modStk demo 0 fun m => { m with hpWriting := [(0x40000, 1)] }; (stk s 0).hpWriting = (0x40000, 1) :: [] ∧ lineBusy s 0x40000 16 = false ∧
     (hpRecord s 0 0x40000 1 []).blocked = none) ∧
    (∀ i ∈ [Instr.regionSample, .refreshStart, .carveOut], (ev [0] { demo with due := [(i, [0])] }).due.contains (i, [0]) = true) ∧
    (arg (ev [5, 0x601] demo) 0 < 6) ∧
    (let s : State := { demo with pinWait := [(3, 1)] }; s.pinWait[0]? = some (3, 1) ∧ pinFree s 3 = true) := by decide +kernel

/-- A message of core 0 to a home. -/
def msg0 (b : MsgBody) : Msg := { id := 11, core := 0, dest := 0, vc := 0, body := b }
def regE : DafEntry := { kind := .reg 5 1, accs := [] }
def wbE : DafEntry := { kind := .wb 5 1 0 0, accs := [] }
def replyE : DafEntry := { kind := .reply 5 1 0 false, accs := [] }
def atmE : DafEntry := { kind := .atm 7, accs := [7] }
def relE (l : List Nat) : DafEntry := { kind := .rel 7, accs := l }
def imagoAcc : Acc := { acc0 with act := .imago 1 0 0, cls := .im }

theorem witness_HomeHostAndFabricEvents_1 :
    (let s : State := { demo with net := [msg0 (.daf regE)] }; (takeRequest s 11).2 = some (msg0 (.daf regE)) ∧ regE.kind = .reg 5 1) ∧
    (let s : State := { demo with net := [msg0 (.load 7)], accs := [acc0] }
     (takeRequest s 11).2 = some (msg0 (.load 7)) ∧ findAcc (takeRequest s 11).1 7 = some acc0) ∧
    (let s : State := { demo with net := [msg0 (.daf wbE)] }; (takeWriteback s 11).2 = some (msg0 (.daf wbE)) ∧ wbE.kind = .wb 5 1 0 0) ∧
    (takeWriteback demo 11).2 = none ∧
    (let s : State := { demo with net := [msg0 (.daf atmE)], accs := [acc0] }
     (takeRequest s 11).2 = some (msg0 (.daf atmE)) ∧ (dafAcc atmE).bind (findAcc (takeRequest s 11).1) = some acc0 ∧ acc0.act = .load) ∧
    (let s : State := { demo with
                      net := [msg0 (.imago 7)], accs := [imagoAcc], l2 := [(lineOf imagoAcc.pa, { noL2 with valid := 15 })] }
     let t := (takeRequest s 11).1
     let l := lineOf imagoAcc.pa
     (takeRequest s 11).2 = some (msg0 (.imago 7)) ∧ findAcc t 7 = some imagoAcc ∧
      hostFor t (msg0 (.imago 7)) l (accWrites imagoAcc) true = none ∧
      fillFor t (msg0 (.imago 7)) l (lineMask imagoAcc.pa imagoAcc.mask) = none ∧
      recallFor t (msg0 (.imago 7)) l (lineMask imagoAcc.pa imagoAcc.mask) none false = none) ∧
    (let e : DafEntry := { atmE with kind := .eng 7 [] false }; let s : State := { demo with net := [msg0 (.daf e)] }
     (takeRequest s 11).2 = some (msg0 (.daf e)) ∧ e.kind = .eng 7 [] false) ∧
    (let s : State := { demo with net := [msg0 (.daf replyE)] }; netFirst s 11 = some (msg0 (.daf replyE)) ∧ replyE.kind = .reply 5 1 0 false) ∧
    (let p : Parked := { line := 5, msg := msg0 (.load 7), need := .members [] }
     firstParked ({ demo with parked := [p] } : State) 5 = some p ∧ p.need = .members []) := by decide +kernel

theorem witness_HomeHostAndFabricEvents_2 :
    (let s := modCr demo 0 fun c => { c with daf := [regE] }; (cr s 0).daf = regE :: [] ∧ headFree s 0 = true) ∧
    (let s := modCr demo 0 fun c => { c with daf := [relE []] }; (cr s 0).daf = relE [] :: [] ∧ relFree s 0 = true ∧ (relE []).accs = []) ∧
    (let x := { acc0 with priv := true }; let s := { modCr demo 0 fun c => { c with daf := [relE [7]] } with accs := [x] }
     (cr s 0).daf = relE [7] :: [] ∧ relFree s 0 = true ∧ (relE [7]).accs = 7 :: [] ∧ (dafAcc (relE [7])).bind (findAcc s) = some x ∧
     x.priv = true) ∧
    (let s := { modCr demo 0 fun c => { c with unacked := [(11, regE)] } with net := [msg0 (.ack [])] }
     netFirst s 11 = some (msg0 (.ack [])) ∧ ((cr s 0).unacked.find? fun u => u.1 = 11) = some (11, regE)) ∧
    (let x := { acc0 with stage := .ret }; let s : State := { demo with accs := [x] }
     findAcc s 7 = some x ∧ x.act = .load ∧ returns s x = true) ∧
    (let e : Arrival := { src := 1, op := 0x62, pa := 0x40000, n := 64, data := 1, cmp := 0 }
     let s : State := { demo with arrivals := [e] }
     s.arrivals = [e] ∧ (arrivalPerform s e).blocked = none ∧ e.src < 2 ∧ inMmio e.pa = false ∧ lineBusy s e.pa e.n = false ∧ e.op = 0x62) ∧
    (let e : Arrival := { src := 0, op := 0x63, pa := mmioBase + 64, n := 8, data := 0, cmp := 0 }
     let w : Arrival := { e with op := 0x60, pa := mmioBase + 4, n := 4 }
     inMmio e.pa = true ∧ writesHsemCmd e = false ∧ writesHsemCmd w = true ∧ inMmio w.pa = true ∧ demo.mgmt.hsemArr = [] ∧
      (arrivalPerform { demo with mgmt := { demo.mgmt with hsemArr := [(0, 5)] } } e).blocked = some 0) ∧
    (let s : State := { demo with parked := [{ line := 0x800, msg := msg0 (.load 7), need := .turn }] }
     (arrivalPerform s { src := 0, op := 0x60, pa := 0x40000, n := 8, data := 1, cmp := 0 }).blocked = some 0) := by decide +kernel

theorem witness_HomeHostAndFabricEvents_3 :
    (arg (ev [0, 0x40000, 4, 1] demo) 1 = 0x40000 ∧ (ev [0, 0x40000, 4, 1] demo).args ≠ [] ∧ (ev [] demo).args = [] ∧
      gddrUsable < 2 ^ 50 + 64) ∧
    (inMemory 0x40000 64 = true ∧ lineBusy demo 0x40000 64 = false ∧ inMmio 0x40000 = false) ∧
    (inMemory (2 ^ 50) 64 = false ∧ inMmio (2 ^ 50) = false ∧ inMmio mmioBase = true) ∧
    (let p : Parked := { line := 5, msg := msg0 (.load 7), need := .bisnp }; snoopedBy ({ demo with parked := [p] } : State) 5 = some p) ∧
    (let l := hostBase / 128; snoopFree demo 0 l = true ∧ let s : State := { demo with hostOwn := [l], d2hWait := [(4, l, 0)] }
     l ∈ (snoopReply s 0 l).hostOwn ∧ (s.d2hWait.find? fun x => x.1 = 4) = some (4, l, 0)) ∧
    (arg (ev [1] demo) 0 < demo.ports.length ∧ arg (ev [1] demo) 0 < 2) ∧ arg (ev [15] demo) 0 < 16 ∧
    (arg (ev [1, 0x40000, 8, 1] demo) 3 ≠ 0x50) := by decide +kernel

def waiter0 (d : Nat) : Waiter :=
  { id := 4, wave := 1, op := 3, lanes := 1, space := 0, home := 0, addr := 0, arg := 0, dst := d, deadline := 0, woken := true }
def frag0 (h : Nat) : Fragment :=
  { id := 8, wave := 1, op := 3, lane := 0, ctx := 0, view := 0, tile := 0, lines := [], pixel := 0, ident := 0, depth := 0, held := h, arrived := 0 }
def flush0 : Flush :=
  { id := 5, wave := 1, op := 3, ctx := 0, view := 0, started := false, toClose := [], closed := [], drained := false }
def tile0 (x : TileState) : Tile := { freeTile with state := x, closedBy := 5, refs := [1] }
def rec0 (o : Nat) : BinRec :=
  { id := 2, ctx := 0, view := 0, material := 0, quad := false, lanes := [], tiles := [], op := o, wave := 1, lane := 0, at_ := 0 }
def bin0 : Bin := { id := 1, ctx := 0, view := 0, material := 0, quads := [], singles := [rec0 0] }

theorem witness_CopyWaitAndTileEvents_1 :
    (let s := modCr demo 0 fun c => { c with scarab := [copy0] }; nextFetch s 0 = some copy0) ∧
    (let c := { copy0 with fetched := true }; let s := modCr demo 0 fun x => { x with scarab := [c] }
     findCopy s 6 = some c ∧ copyOrphan s c = false ∧ pieceGoes s c = true ∧ c.hold ≠ 5 ∧ (copyPiece s c).blocked = none) ∧
    (let c := { copy0 with fetched := true, hold := 5 }; let s := modCr demo 0 fun x => { x with scarab := [c] }
     pieceGoes s c = true ∧ (pieceAcked s c).blocked = none) ∧
    (let c := { copy0 with fetched := true, hold := 4 }; let s := modCr demo 0 fun x => { x with scarab := [c] }
     findCopy s 6 = some c ∧ fifoFree s c = true) ∧
    (let p : PubOp := { id := 2, wave := 1, op := 3, core := 0, pages := [] }; let s : State := { demo with pubs := [p] }
     (s.pubs.find? fun p => p.id = 2) = some p ∧ pubReady s p = true) ∧
    (let s : State := { demo with waiters := [waiter0 0] }; findWaiter s 4 = some (waiter0 0) ∧ wakeDue s (waiter0 0) = true) ∧
    (let s : State := { demo with waiters := [waiter0 1] }
     findWaiter s 4 = some (waiter0 1) ∧ (waiter0 1).dst = 1 ∧ (waiter0 1).woken = true ∧ (waiter0 1).deadline ≤ cycAt s (wv s 1).core) := by decide +kernel

theorem witness_CopyWaitAndTileEvents_2 :
    (let x := { imagoAcc with stage := .ret }; let s : State := { demo with accs := [x] }
     findAcc s 7 = some x ∧ x.act = .imago 1 0 0 ∧ dataTurn s x.id = true) ∧
    (let x := { imagoAcc with stage := .home, pa := 2 ^ 52 }; remoteDest (destOf demo x.pa) = true) ∧
    (let x := { imagoAcc with stage := .parked, status := 1 }; getExpired demo x = true ∧ parkedGet x = true ∧ x.status = 1) ∧
    (let s : State := { demo with frags := [frag0 3] }; (s.frags.find? fun f => f.id = 8) = some (frag0 3) ∧ fragReady s (frag0 3) = true ∧
      (setupFrag s (frag0 3)).blocked = none) ∧
    (let s : State := { demo with frags := [frag0 1] }; fragResumes s (frag0 1) = true) ∧
    (let s : State := { demo with frags := [frag0 2] }; fragUnpinned s (frag0 2) = true) ∧
    (let s : State := { demo with flushes := [flush0], tiles := [(0x300, tile0 .opened)] }
     findFlushOf s 5 = some flush0 ∧ 0x300 ∈ (if flushMayStart s flush0 then startFlush s flush0 else flush0).toClose ∧
     (tget freeTile s.tiles 0x300).state = .opened ∧
     flushMayDrain ({ demo with flushes := [flush0] } : State) flush0 = true) := by decide +kernel

theorem witness_CopyWaitAndTileEvents_3 :
    (let s : State := { modCx demo 0 fun c => { c with views := [(0, List.replicate 64 0)] } with tiles := [(0x300, tile0 .closed)] }
     nextClosed s (homeStack 0x300) = some 0x300 ∧ (viewOf s (.unit 0) 0 0).2.toOption = some (List.replicate 64 0) ∧
     (viewOf demo (.unit 0) 0 1).2.toOption = none ∧
     (cx (scanPixels s (.unit 0) (tile0 .classifying) (List.replicate 64 0)).1 0).fenced = false) ∧
    (let s : State := { demo with tiles := [(0x300, tile0 .classifying)] }
     classified_ s 0x300 = true ∧ (tget freeTile s.tiles 0x300).refs ≠ []) ∧
    (let s : State := { demo with tiles := [(0x300, { tile0 .classifying with refs := [] })] }
     classified_ s 0x300 = true ∧ (tget freeTile s.tiles 0x300).refs = []) ∧
    (let s : State := { demo with tiles := [(0x300, { tile0 .shading with refs := [9] })] }; refOver s 0x300 9 = true) ∧
    (∀ o ∈ [0, 3], let s : State := { demo with binRecs := [rec0 o] }
     (s.binRecs.find? fun r => r.id = 2) = some (rec0 o) ∧ recReady s (rec0 o) = true) ∧
    (let s : State := { demo with bins := [bin0], cyc := (List.range 6).map fun k => (k, 4096) }
     (s.bins.find? fun b => b.id = 1) = some bin0 ∧ binOld s bin0 = true) := by decide +kernel

def launch0 : Launch :=
  { id := 12, ctx := 0, queue := 0, seq := 0, kernels := [noKernel], gx := 1, gy := 1, gz := 1, links := 0, prio := 0, serial := false,
    irq := false, onStacks := 63, args := 0, evaddr := 0, regions := [], placed := [], doneGroups := [], eligibleAt := [], contract := true,
    released := none, overrun := false, yieldFault := false, lastStack := 0, material := none, task := false, parent := 0, posters := [],
    inits := [], refs := [] }
def task0 : Task := { ctx := 0, launch := 12, group := 1, kernel := noKernel, words := [], prio := 0, at_ := 0 }
def mat0 (i : Instr) : MatOp := { wave := 1, op := 3, instr := i, tile := 0, args := [0, 0], drained := false, data := [], reads := none }
def coll0 : Coll :=
  { id := 3, wave := 1, op := 3, ctx := 0, core := 0, group := 1, desc := List.replicate 64 0, started := false, hold := 0, cls := 0,
    code := 0, addr := 0, result := 0, resid := 0 }
/-- A format of 32-byte nodes with one child (R368). -/
def formatBytes : List Byte := [32, 0, 1, 0, 4, 0, 8, 0, 0, 0, 0, 0, 0, 0, 0, 0] ++ List.replicate 48 0

def format0 : NodeFormat :=
  { addr := 0, nodeSz := 32, nChild := 1, test := 0, chOff := 4, bvOff := 8, parOff := 0, order := 0, theta := 0 }
def walker0 : FfWalk :=
  { id := 5, wave := 1, op := 3, lane := 0, recOff := 0, fmt := format0, held := false, started := false, base := 0,
    query := [], point := false, node := 0, depth := 0, stack := [], ovfd := 0, last := 0, lastSt := 0, nodes := [] }

theorem witness_LaunchWaveAndEngineEvents_1 :
    held.mgmt.boot = .run ∧
    (let s := modQu demo 0 fun x => { x with en := true, run := true, tail := 1, base := 0x40000 }
     queueReads (qu s 0) = true ∧ ((qu s 0).tail - (qu s 0).head).toNat ≤ 2 ^ (qu s 0).size.toNat ∧
     (engBytes s (ctxUnit s 0) 0 .ld 0x40000 128).2.toOption.isSome = true ∧ (engBytes s (ctxUnit s 0) 0 .ld 0x40000 128).1.blocked = none) := by decide +kernel

theorem witness_LaunchWaveAndEngineEvents_2 :
    (let s := modQu demo 0 fun x => { x with en := true, run := true, tail := 2 }
     queueReads (qu s 0) = true ∧ 2 ^ (qu s 0).size.toNat < ((qu s 0).tail - (qu s 0).head).toNat) := by decide +kernel

theorem witness_LaunchWaveAndEngineEvents_3 :
    (let s := withWave (fun v => { v with live := false }) demo; workDone s 1 = true) := by decide +kernel

theorem witness_LaunchWaveAndEngineEvents_4 :
    (let s := withWave (fun v => { v with saved := true }) demo; workDone s 1 = false ∧ saveDue s 1 = true) := by decide +kernel

theorem witness_LaunchWaveAndEngineEvents_5 :
    (let s := modQu (modCx demo 0 fun c => { c with launches := [launch0] }) 0 fun x => { x with contract := true, period := 1000 }
     releaseDue s 0 = some launch0) := by decide +kernel

theorem witness_LaunchWaveAndEngineEvents_6 :
    (let l := { launch0 with released := some 0 }; let s := { modCx demo 0 fun c => { c with launches := [l] } with cyc := [(0, 24096)] }
     findLaunch s 12 = some l ∧ overrunDue s l = true ∧ (launchEvent s l 2 0 (eventStack s l)).blocked = none) := by decide +kernel

theorem witness_LaunchWaveAndEngineEvents_7 :
    (let s := { withWave (fun v => { v with request := true }) (modGp demo 1 fun g => { g with kernel := { g.kernel with yieldMax := 9 } }) with
       cyc := [(0, 10)] }
     yieldLate s 1 = true ∧ findLaunch s (gp s 1).launch = none) := by decide +kernel

theorem witness_LaunchWaveAndEngineEvents_8 :
    (let s : State := { demo with hives := [(0, [task0])], cyc := [(0, 256)] }; oldTask s 0 = some task0) := by decide +kernel

theorem witness_LaunchWaveAndEngineEvents_9 :
    (let r : Result := { id := 2, op := 3, lanes := 1, due := 0, writes := noWrites }; let s := withWave (fun v => { v with results := [r] }) demo
     ((wv s 1).results.find? fun r => r.id = 2) = some r ∧ resultReady s 1 r = true ∧ attrOf (wv s 1) r = none) := by decide +kernel

theorem witness_LaunchWaveAndEngineEvents_10 :
    (let s := { withWave (fun v => { v with lanes := v.lanes.map fun x => { x with since := 1 } }) demo with cyc := [(0, 5000)] }
     priorityPc s 1 = some 0x1000 ∧ (ln (wv s 1) 0).pc = 0x1000) := by decide +kernel

theorem witness_LaunchWaveAndEngineEvents_11 :
    (let s := { withWave (fun v => { v with readySince := 1 }) demo with cyc := [(0, 4096)] }; starving s 1 = true) := by decide +kernel

theorem witness_LaunchWaveAndEngineEvents_12 :
    (let s := withWave (fun v => { v with lanes := v.lanes.map fun x => { x with sleep := .rclaim 1, lastIssue := 1 } }) demo
     claimDead s 1 = true) := by decide +kernel

theorem witness_LaunchWaveAndEngineEvents_13 :
    (let s := modPr (setWv demo 2 wave1) 0 fun p => { p with batonPass := some (some 2) }
     (pr s 0).batonPass = some (some 2) ∧ holderBusy s (pr s 0) = false ∧ (wv s 2).live = true ∧ (wv s 2).saved = false) := by decide +kernel

theorem witness_LaunchWaveAndEngineEvents_14 :
    (let s := modPr demo 0 fun p => { p with batonPass := some none }
     (pr s 0).batonPass = some none ∧ holderBusy s (pr s 0) = false ∧ (pr s 0).batonQueue = []) := by decide +kernel

theorem witness_LaunchWaveAndEngineEvents_15 :
    (let o := { opr0 (.ld hd mx) with flanes := 1 }
     let s := withWave (fun v => { v with ops := [o] }) demo; faultNews (wv s 1) = true ∧
     let s := withWave (fun v => { v with ops := [o], faulting := true }) demo
     trapDue s 1 = true ∧ (wv s 1).trap = none ∧ (impreciseTrap (wv s 1)).isSome = true) := by decide +kernel

theorem witness_LaunchWaveAndEngineEvents_16 :
    (let r := trapOf (.nop hd) 1 0 1; let s := withWave (fun v => { v with trap := some r }) demo; trapDue s 1 = true ∧ (wv s 1).trap = some r) := by decide +kernel

theorem witness_LaunchWaveAndEngineEvents_17 :
    (let s := modCx demo 0 fun c => { c with held := { c.held with efill := 0xFFFFFFFF } }
     (0, cx s 0) ∈ s.ctxs ∧ (s.ctxs.map Prod.fst).Nodup ∧ (cx s 0).bound = true ∧ (cx s 0).held.efill ≠ 0 ∧
     (ev [0] { s with due := [(.ebudFill, [0])] }).due.contains (Instr.ebudFill, [0]) = true) := by decide +kernel

theorem witness_LaunchWaveAndEngineEvents_18 :
    (∀ i ∈ [Instr.mma hd nx, .mfill hd nx, .mdrain hd nx, .mzero hd nx], let s := modPr demo 0 fun p => { p with mats := [mat0 i] }
     matReady s 0 = some (mat0 i) ∧ (mat0 i).instr = i ∧ matRetired (mat0 i) = false ∧ (mat0 i).reads = none) ∧
    (let m := { mat0 (.mma hd nx) with reads := some [] }
     let s := { withWave (fun v => { v with ops := [opr0 (.mma hd nx)] }) (modPr demo 0 fun p => { p with mats := [m] }) with cyc := [(0, 5000)] }
     matReady s 0 = some m ∧ matRetired m = false) ∧
    (let m := { mat0 (.mdrain hd nx) with drained := true }; let s := modPr demo 0 fun p => { p with mats := [m] }
     matReady s 0 = some m ∧ matRetired m = true) := by decide +kernel

theorem witness_LaunchWaveAndEngineEvents_19 :
    (let s := { withWave (fun v => setSlot { v with ops := [opr0 (.pgload hd nx)] } 0 { emptySlot with loading := [3] }) demo with
       mem := memWrite tables 0 12 0x17FFC002080FC07E }
     (slotOf (wv s 1) 0).loading = 3 :: [] ∧ findOp (wv s 1) 3 = some (opr0 (.pgload hd nx)) ∧ readHeld s 1 3 = false ∧
     opVal (specOf (.pgload hd nx)) (opr0 (.pgload hd nx)).words 0 0 = 0 ∧
     (match (readProgram 0 0 32 0 s).2 with | .ok ws => (loadedSlot 0 ws).toOption.isSome | .error _ => false) = true) := by decide +kernel

theorem witness_LaunchWaveAndEngineEvents_20 :
    (let o := opr0 (.nfmt hd nx)
     let s := { withWave (fun v => { v with ops := [o] }) demo with mem := memWrite tables 0 64 (leNat formatBytes) }
     nfmtOut (wv s 1) = some o ∧ readsMayGo s 1 3 = true ∧ opVal (specOf o.instr) o.words 0 0 = 0 ∧
     (match (engBytes s (.core 0) 0 .ld 0 64).2 with | .ok b => (formatOf 0 b).isSome | .error _ => false) = true) := by decide +kernel

theorem witness_LaunchWaveAndEngineEvents_21 :
    (let x := walker0
     let s := modCr demo 0 fun c => { c with walkers := [x] }; findWalk s 5 = some (0, x) ∧ walkGoes s x = true) := by decide +kernel

theorem witness_LaunchWaveAndEngineEvents_22 :
    (let s : State := { demo with colls := [coll0] }; findColl s 3 = some coll0 ∧ collOrphan s coll0 = false ∧ coll0.started = false ∧
     let c := { coll0 with started := true }; c.hold = 0 ∧ (collFinish ({ demo with colls := [c] } : State) c).2 = none) := by decide +kernel

/-! ### Words of the manual's examples -/

/-- Words that the examples of spec/10 to spec/22 print, with the statement each stands for. -/
def laneExamples : List (BitVec 32 × BitVec 32 × Instr) :=
  [-- (p3) vfma.f32 v4, v5, v6, v7! d3 w2
   (0x72430405, 0x06076200, .vfma ⟨3, 2, 4, 5⟩ ⟨6, 7, 3, false, false, false, true, 0, false, 0⟩),
   -- vadd.sat v3, v4, v5
   (0x40040304, 0x05000020, .vadd ⟨0, 0, 3, 4⟩ ⟨5, 0, 0, false, false, false, false, 0, true, 0⟩),
   -- vcmp.lt.u p2, v7, v8
   (0x40200207, 0x0800000A, .vcmp ⟨0, 0, 2, 7⟩ ⟨8, 0, 0, false, false, false, false, 0, false, 10⟩),
   -- vshl v6, v9
   (0x00140609, 0, .vshlShort ⟨0, 0, 6, 9⟩),
   -- vmovi.hi v2, 0x3F80
   (0x40010200, 0x3F800002, .vmovi ⟨0, 0, 2, 0⟩ ⟨0x3F80, 0, false, false, 2⟩),
   -- vcmpi.eq p1, v12, 1
   (0x4021010C, 0x00010000, .vcmpi ⟨0, 0, 1, 12⟩ ⟨1, 0, false, false, 0⟩),
   -- vcompact.n8.e4m3 v40, v20, v52, p3
   (0x40882814, 0x34030000, .vcompact ⟨0, 0, 40, 20⟩ ⟨52, 3, 0, false, false, false, false, 0, false, 0⟩),
   -- (!p1) br loop
   (0x40D00000, 0xFFFFEE30, .br ⟨0, 0, 0, 0⟩ ⟨0xFFFFEE, 1, true, 0⟩),
   -- jmp v10:v11
   (0x40D1000A, 0, .jmp ⟨0, 0, 0, 10⟩ ⟨0, 0, false, 0⟩),
   -- ret v0:v1
   (0x00D30000, 0, .retShort ⟨0, 0, 0, 0⟩)]

def memoryExamples : List (BitVec 32 × BitVec 32 × Instr) :=
  [-- ld.b32.acq v8, [s4:s5 + v2 + 0x40] f2
   (0x40A00802, 0x04040250, .ld ⟨0, 0, 8, 2⟩ ⟨4, 0x40, 2, 1, 2, 0⟩),
   -- st.b32.rel [v6:v7], v13
   (0x40A10D06, 0x80000F90, .st ⟨0, 0, 13, 6⟩ ⟨128, 0, 15, 2, 2, 0⟩),
   -- st.b256 [s20:s21 + v2 + 96], v88
   (0x40A15802, 0x14060F28, .st ⟨0, 0, 88, 2⟩ ⟨20, 0x60, 15, 0, 5, 0⟩),
   -- ldq.b32 v8, fifo 3
   (0x40A40800, 0x00003F10, .ldq ⟨0, 0, 8, 0⟩ ⟨0, 3, 15, 0, 2, 0⟩),
   -- atom.cas.b32 v20, [v6:v7], v12
   (0x40A81406, 0x0C00CF10, .atom ⟨0, 0, 20, 6⟩ ⟨12, 12, 15, 0, 2, 0⟩),
   -- red.fadd.b32 [v6:v7], v10
   (0x40A90A06, 0x80008F10, .red ⟨0, 0, 10, 6⟩ ⟨128, 8, 15, 0, 2, 0⟩),
   -- cprop v8, [v2:v3 + 0x10], v12 f3
   (0x40AC0802, 0x0C010320, .cprop ⟨0, 0, 8, 2⟩ ⟨12, 0x10, 3, 0, 4, 0⟩),
   -- cprobe v12, [v4:v5]
   (0x40AF0C04, 0x00000F20, .cprobe ⟨0, 0, 12, 4⟩ ⟨0, 0, 15, 0, 4, 0⟩),
   -- fence.ar
   (0x40B00000, 0x00000FC0, .fence ⟨0, 0, 0, 0⟩ ⟨0, 0, 15, 3, 0, 0⟩),
   -- wsync
   (0x00B10000, 0, .wsyncShort ⟨0, 0, 0, 0⟩),
   -- sst.b64.str [s4:s5 + 0], s10
   (0xC0410A04, 0x80000F58, .sst ⟨0, 0, 10, 4⟩ ⟨128, 0, 15, 1, 3, 0⟩),
   -- barinit [s0:s1 + 16], s4, 0
   (0xC0440400, 0x80011F20, .barinit ⟨0, 0, 4, 0⟩ ⟨128, 0x11, 15, 0, 4, 0⟩),
   -- bararr [s8:s9 + 0]
   (0xC0460008, 0x00001F20, .bararr ⟨0, 0, 0, 8⟩ ⟨0, 1, 15, 0, 4, 0⟩),
   -- barwait [s0:s1 + 16], 0
   (0xC0470000, 0x80011F20, .barwait ⟨0, 0, 0, 0⟩ ⟨128, 0x11, 15, 0, 4, 0⟩),
   -- kick [s23 + 0], 1
   (0xC0490017, 0x81000F20, .kick ⟨0, 0, 0, 23⟩ ⟨129, 0, 15, 0, 4, 0⟩)]

def uniformExamples : List (BitVec 32 × BitVec 32 × Instr) :=
  [-- sadd s3, 5
   (0x80040385, 0, .saddShort ⟨0, 0, 3, 133⟩),
   -- smovi s7, 0x00123456
   (0xC0010700, 0x00123456, .smovi ⟨0, 0, 7, 0⟩ 0x00123456),
   -- sadd.u.i64.sat s6:s7, s6:s7, 1
   (0xC0040606, 0x81000031, .sadd ⟨0, 0, 6, 6⟩ ⟨129, 0, 0, false, false, false, false, 0, true, 17⟩),
   -- uret s0:s1, end, yield, rfe
   (0x80640000, 0, .uretShort ⟨0, 0, 0, 0⟩), (0x80650000, 0, .endShort ⟨0, 0, 0, 0⟩), (0x80660000, 0, .yieldShort ⟨0, 0, 0, 0⟩),
   (0x80680000, 0, .rfe ⟨0, 0, 0, 0⟩),
   -- sgetr s26, 0x050
   (0xC0691A00, 0x00500000, .sgetr ⟨0, 0, 26, 0⟩ ⟨0x50, 0, false, false, 0⟩),
   -- rclaim 7; rfree s9
   (0xC06B0087, 0, .rclaim ⟨0, 0, 0, 135⟩ ⟨0, 0, false, false, 0⟩), (0xC06C0009, 0, .rfree ⟨0, 0, 0, 9⟩ ⟨0, 0, false, false, 0⟩),
   -- elect.group s4, q1, s2
   (0xC06E0402, 0x01000001, .elect ⟨0, 0, 4, 2⟩ ⟨1, 0, 0, false, false, false, false, 0, false, 1⟩)]

def engineExamples : List (BitVec 32 × BitVec 32 × Instr) :=
  [-- mmap.pg0 a5, [s8], s9 f1 ec1
   (0xC0820508, 0x09001420, .mmap ⟨0, 0, 5, 8⟩ ⟨9, 0, 1, 1, 1, 0, false, false⟩),
   -- mmap.pg0 a0, [s30], s14 ec2
   (0xC082001E, 0x0E00F840, .mmap ⟨0, 0, 0, 30⟩ ⟨14, 0, 15, 2, 2, 0, false, false⟩),
   -- rast v16, v40:v41 f2
   (0x40E00010, 0x28002000, .rast ⟨0, 0, 0, 16⟩ ⟨40, 0, 2, 0, 0, 0, false, false⟩),
   -- hitbin v40
   (0x40E10028, 0x0000F000, .hitbin ⟨0, 0, 0, 40⟩ ⟨0, 0, 15, 0, 0, 0, false, false⟩),
   -- attr.bary v20, v0 f1
   (0x40E21400, 0x00001000, .attr ⟨0, 0, 20, 0⟩ ⟨0, 0, 1, 0, 0, 0, false, false⟩),
   -- attr.der v24, v0, 2, 3
   (0x40E21800, 0x0002F140, .attr ⟨0, 0, 24, 0⟩ ⟨0, 2, 15, 0, 10, 0, false, false⟩),
   -- travs v32, v8, v2:v3, v30
   (0x40E32008, 0x021EF000, .travs ⟨0, 0, 32, 8⟩ ⟨2, 30, 15, 0, 0, 0, false, false⟩),
   -- travr v32, v30, v12
   (0x40E4201E, 0x0C00F000, .travr ⟨0, 0, 32, 30⟩ ⟨12, 0, 15, 0, 0, 0, false, false⟩),
   -- hvpost v0, v8:v9
   (0x40E50000, 0x0800F000, .hvpost ⟨0, 0, 0, 0⟩ ⟨8, 0, 15, 0, 0, 0, false, false⟩),
   -- rflush s4; nfmt s2:s3; coll s10 f5
   (0xC0C00004, 0x0000F000, .rflush ⟨0, 0, 0, 4⟩ ⟨0, 0, 15, 0, 0, 0, false, false⟩),
   (0xC0C20002, 0x0000F000, .nfmt ⟨0, 0, 0, 2⟩ ⟨0, 0, 15, 0, 0, 0, false, false⟩),
   (0xC0C3000A, 0x00005000, .coll ⟨0, 0, 0, 10⟩ ⟨0, 0, 5, 0, 0, 0, false, false⟩)]

/-- The words decode to the instructions, which are well-formed and encode to them. -/
def readsAs (l : List (BitVec 32 × BitVec 32 × Instr)) : Bool :=
  l.all fun p => decide ((decodeWords p.1 p.2.1).toOption = some p.2.2) && WellFormed p.2.2 &&
    decide (encode p.2.2 = if hasExt p.1 then [p.1, p.2.1] else [p.1])

theorem test_decode_lane_examples : readsAs laneExamples = true := by decide +kernel
theorem test_decode_memory_examples : readsAs memoryExamples = true := by decide +kernel
theorem test_decode_uniform_examples : readsAs uniformExamples = true := by decide +kernel
theorem test_decode_engine_examples : readsAs engineExamples = true := by decide +kernel
/-- The words of every family that `SpecWordsDecode` names. -/
theorem test_decode_family_words : readsAs specWords = true := by decide +kernel

/-! ### Terms that are no instructions: one for each check -/

def illFormed : List Instr :=
  [-- R231: a field the instruction does not use is not 0; R221: P = 0 with PN = 1; R223: RM unused; SAT unused
   .vadd hd gx, .vadd hd { gx with e := 0, pn := true }, .vadd hd { gx with e := 0, rm := 1 }, .vand hd { gx with e := 0, sat := true },
   -- R248: a layout not listed; R223: a trap bit without a register source; R210: a rounding mode not listed
   .vadd hd { gx with e := 0, t := 4 }, .vadd hd { gx with e := 0, te := true }, .vfadd hd { gx with e := 0, rm := 6 },
   -- R221: a pair at an odd register; a uniform register past 127; a uniform destination that is inline
   .vlea { hd with b := 5 } { gx with e := 0 }, .sadd { hd with b := 200 } { gx with e := 0 }, .sadd { hd with a := 128 } { gx with e := 0 },
   -- R247: a predicate number past 7; R255: a combination not listed; R325: guard slot 0
   .vcmp { hd with a := 8 } { gx with e := 0 }, .vcmp { hd with a := 1 } { gx with e := 3 },
   .guardW { hd with a := 0 } { gx with c := 0, e := 0 },
   -- R226: F, SZ, ORD and C; R287: a misaligned run; R293: an accumulator past 63; R295: an operation past 12
   .ld { hd with a := 8 } { mx with f := 12 }, .ld { hd with a := 8 } { mx with sz := 6 }, .red hd { mx with ord := 1 },
   .ld { hd with a := 8 } { mx with c := 7 }, .ld { hd with a := 3 } { mx with sz := 3 }, .lda { hd with a := 8 } { mx with c := 64 },
   .atom { hd with a := 8 } { mx with imm := 13 },
   -- R228: G = 0 with GN = 1; the reserved bit; EC unused; SHAPE not listed; an accumulator past 63
   .mzero { hd with a := 1, b := 0 } { nx with c := 0, e := 0, gn := true }, .mzero { hd with a := 1, b := 0 } { nx with c := 0, e := 0, rsv := true },
   .tvrel { hd with a := 0, b := 0 } { nx with c := 0, e := 0, ec := 1 }, .mfill hd { nx with e := 0, shape := 4 },
   .mma { hd with a := 64 } { nx with e := 0 },
   -- R225, R251, R321: SUB, A and a number past 4,095; R227: reserved bits, OFF unused; R231: operands of `nop`
   .vmovi { hd with b := 0 } { ix with sub := 3 }, .rclaim hd ix, .sgetr { hd with b := 0 } { ix with imm := 4096 },
   .br { hd with a := 0, b := 0 } { bx with rsv := 1 }, .exitL { hd with a := 0, b := 0 } bx, .nop hd,
   -- an event is no instruction word
   .resetDev]

theorem test_wellformed_refuses : illFormed.all (fun i => !WellFormed i) = true := by decide +kernel
theorem test_wellformed_accepts :
    [Instr.vadd hd { gx with e := 0 }, .vlea hd { gx with e := 0 }, .sadd hd { gx with e := 0 }, .vcmp { hd with a := 1 } { gx with e := 0 },
      .guardW { hd with a := 1 } { gx with c := 0, e := 0 }, .ld { hd with a := 8 } mx, .red hd mx, .lda { hd with a := 8 } { mx with c := 6 },
      .atom { hd with a := 8 } mx, .mzero { hd with a := 1, b := 0 } { nx with c := 0, e := 0 }, .mfill hd { nx with e := 0 },
      .tvrel { hd with a := 0, b := 0 } { nx with c := 0, e := 0 }, .mma hd { nx with e := 0 }, .vmovi { hd with b := 0 } ix,
      .sgetr { hd with b := 0 } ix, .br { hd with a := 0, b := 0 } { bx with off := 2 }, .nop { hd with a := 0, b := 0 }].all
      WellFormed = true := by decide +kernel

/-! ### Results that the manual's examples print -/

/-- The 48 elements of the example of R281: byte 0x38 at index 2, and so on. -/
def exampleBytes : Nat :=
  [(2, 0x38), (5, 0x40), (9, 0xB8), (11, 0x48), (17, 0x30), (20, 0x50), (23, 0xC0), (30, 0x38), (41, 0x44), (47, 0x3C)].foldl
    (fun x (p : Nat × Nat) => x + p.2 * 256 ^ p.1) 0

/-- R281's example. -/
theorem test_compact : (compactLane 0 (natWords 12 exampleBytes)).1.map Prod.fst = [0x48B84038, 0x3C44C050, 0xD42C9142, 0x0000BE95] ∧
    (compactLane 0 (natWords 12 exampleBytes)).2 = true := by decide +kernel

/-- R284: expansion puts each of those values back at its index. -/
theorem test_expand : expandLane 0 0x3C44C05048B84038 0xBE95D42C9142 =
    exampleBytes - 0x30 * 256 ^ 17 - 0x38 * 256 ^ 30 := by decide +kernel

/-- R212's example: FP32 to E4M3 with RNE, as bits and flags, without SAT and with it. -/
theorem test_to_e4m3 :
    let f := fun x sat => let r := roundCvt E4M3 { rne with sat := sat } (valOf F32 x); (r.bits, r.raised)
    f 0x437A0000 false = (0x78, fNx) ∧ f 0x43E80000 false = (0x7E, fNx) ∧ (f 0x43FA0000 false) = (0x7F, fOf ||| fNx) ∧
    f 0x43FA0000 true = (0x7E, fOf ||| fNx) ∧ (f 0x7F800000 false).1 = 0x7F ∧ (f 0x7F800000 true).1 = 0x7E ∧
    f 0x3A800000 false = (0, fUf ||| fNx) := by decide +kernel

/-- R203's example: an I4E run with an outlier and an escape with no room. -/
theorem test_i4e_run : (i4eRun 0xF80000000075A8E3).1.map (fun v => (roundTo F32 rne v).bits) =
    [0x40400000, 0xC0000000, 0x41A00000, 0, 0, 0x40E00000, 0, 0, 0, 0, 0, 0, 0, 0, 0, 0xBF800000] ∧
    (i4eRun 0xF80000000075A8E3).2 = true := by decide +kernel

/-- The barrier of spec/05's example, step by step. -/
theorem test_barrier :
    let b0 := barObject 7 64 64 (-4096) 0
    let b2 := barApply (.barArr 32) b0
    let b3 := barApply (.barArr 32) b2.1
    b2 = (barObject 7 32 64 (-4096) 0, none) ∧ b3 = (barObject 7 0 64 (-4096) 0, none) ∧
    barApply (.barExp 4096) b3.1 = (barObject 8 64 64 0 0, none) ∧ barReturns b3.1 7 = false ∧ barReturns (barObject 8 64 64 0 0) 7 = true := by
  decide +kernel

/-- R342 to R348's example: the words of `.pattern band3` load, and after `pgctx` with 4 the first blocks come in the order printed. -/
theorem test_pattern :
    let x := loadedSlot 0x1000 [0x080FC07E, 0x17FFC002, 0]
    (x.toOption.map fun s => let a := emitBlock { s with row0 := 4 }; let b := emitBlock a.2; [a.1, b.1, (emitBlock b.2).1]) =
      some [0, 0x10000, 1] ∧
    (x.toOption.map fun s => let a := emitBlock { s with row0 := 4, order := true }; let b := emitBlock a.2
      [a.1, b.1, (emitBlock b.2).1]) = some [0, 1, 0x10000] := by decide +kernel

end Sys2Proof.Tests
end

section
/-! What a write leaves in memory (R6), and that two memories in canonical form that read alike are one. -/

namespace Sys2Proof.Machine

/-! ### Tables that read alike -/

section Tables

variable {α : Type} {d : α}

@[simp] theorem tget_cons_same (k : Nat) (v : α) (t : Tab α) : tget d ((k, v) :: t) k = v := if_pos rfl

theorem tget_cons_other {k k' : Nat} (h : k ≠ k') (v : α) (t : Tab α) : tget d ((k, v) :: t) k' = tget d t k' := if_neg h

variable [DecidableEq α]

/-- What the canonical form from `lo` asks of an entry and of what follows it. -/
theorem twfFrom_cons_iff {lo k : Nat} {v : α} {t : Tab α} :
    twfFrom d lo ((k, v) :: t) = true ↔ (lo ≤ k ∧ v ≠ d) ∧ twfFrom d (k + 1) t = true := by
  simp only [twfFrom, Bool.and_eq_true, decide_eq_true_eq]

/-- Below its least key a canonical table holds the default. -/
theorem tget_of_twfFrom {k : Nat} : ∀ {lo : Nat} {t : Tab α}, twfFrom d lo t = true → k < lo → tget d t k = d
  | _, [], _, _ => rfl
  | lo, (k0, v0) :: t, h, hk => by
    obtain ⟨⟨hlo, -⟩, ht⟩ := twfFrom_cons_iff.1 h
    rw [tget_cons_other (by omega), tget_of_twfFrom ht (by omega)]

/-- A key at which a canonical table holds more than the default is not below its first. -/
theorem le_of_tget_ne {lo k k0 : Nat} {v0 : α} {t : Tab α} (h : twfFrom d lo ((k0, v0) :: t) = true)
    (hne : tget d ((k0, v0) :: t) k ≠ d) : k0 ≤ k := by
  obtain ⟨⟨-, hv⟩, ht⟩ := twfFrom_cons_iff.1 h
  have fromFirst : twfFrom d k0 ((k0, v0) :: t) = true := twfFrom_cons_iff.2 ⟨⟨Nat.le_refl k0, hv⟩, ht⟩
  exact Nat.le_of_not_lt fun hlt => hne (tget_of_twfFrom fromFirst hlt)

/-- Canonical tables that read alike at every key are the same data. -/
theorem eq_of_tget_eq : ∀ {lo lo' : Nat} {t t' : Tab α}, twfFrom d lo t = true → twfFrom d lo' t' = true →
    (∀ k, tget d t k = tget d t' k) → t = t'
  | _, _, [], [], _, _, _ => rfl
  | _, _, [], (k', v') :: t', _, h', e => absurd ((tget_cons_same ..).symm.trans (e k').symm) (twfFrom_cons_iff.1 h').1.2
  | _, _, (k, v) :: t, [], h, _, e => absurd ((tget_cons_same ..).symm.trans (e k)) (twfFrom_cons_iff.1 h).1.2
  | lo, lo', (k, v) :: t, (k', v') :: t', h, h', e => by
    obtain ⟨⟨-, hv⟩, ht⟩ := twfFrom_cons_iff.1 h
    obtain ⟨⟨-, hv'⟩, ht'⟩ := twfFrom_cons_iff.1 h'
    have below : k ≤ k' := le_of_tget_ne h (by rw [e k', tget_cons_same]; exact hv')
    have above : k' ≤ k := le_of_tget_ne h' (by rw [← e k, tget_cons_same]; exact hv)
    obtain rfl : k = k' := Nat.le_antisymm below above
    obtain rfl : v = v' := by simpa only [tget_cons_same] using e k
    have tail : ∀ j, tget d t j = tget d t' j := fun j => by
      by_cases hj : k = j
      · rw [tget_of_twfFrom ht (by omega), tget_of_twfFrom ht' (by omega)]
      · simpa only [tget_cons_other hj] using e j
    rw [eq_of_tget_eq ht ht' tail]

end Tables

/-! ### Memory -/

/-- The first byte of a written run is the number's least significant one. -/
theorem memByte_memWrite_first (m : Tab Byte) (a n v : Nat) :
    memByte (memWrite m a (n + 1) v) a = BitVec.ofNat 8 v := by
  simpa only [Nat.add_zero, Nat.pow_zero, Nat.div_one] using memByte_memWrite_in (n + 1) m a v 0 (Nat.succ_pos n)

/-- A written run reads back as the number, cut to the run's bytes. -/
theorem memRead_memWrite : ∀ (n : Nat) (m : Tab Byte) (a v : Nat), memRead (memWrite m a n v) a n = v % 256 ^ n
  | 0, _, _, v => by rw [memRead, Nat.pow_zero, Nat.mod_one]
  | n + 1, m, a, v => by
    have low : (memByte (memWrite m a (n + 1) v) a).toNat = v % 256 := by rw [memByte_memWrite_first, BitVec.toNat_ofNat]
    have high : memRead (memWrite m a (n + 1) v) (a + 1) n = v / 256 % 256 ^ n := memRead_memWrite n _ (a + 1) (v / 256)
    rw [memRead, low, high, Nat.pow_succ', Nat.mod_mul]

/-- R6: canonical memories whose bytes agree everywhere are equal. -/
theorem eq_of_memByte_eq {m m' : Tab Byte} (h : memWf m = true) (h' : memWf m' = true)
    (e : ∀ b, memByte m b = memByte m' b) : m = m' := eq_of_tget_eq h h' e

/-- Settles O37: read-after-write and frame follow the write byte by byte, and canonical tables are extensional. -/
theorem memoryReadsBack : Obligations.MemoryReadsBack := by
  unfold Obligations.MemoryReadsBack
  intro m m' a n v
  exact ⟨memRead_memWrite n m a v, fun _ => memByte_memWrite_other n m a v, memWf_memWrite n a v, eq_of_memByte_eq⟩

end Sys2Proof.Machine
end

section
/-! The canonical form of memory as an invariant of `step` (R6): every arm of `exec` keeps it, and so does what a step does
around that arm. -/

namespace Sys2Proof.Machine

open Sys2Proof.Machine.State

/-- What leaves memory as it was keeps its canonical form. -/
theorem MemOk.of_mem_eq {s t : State} (hs : MemOk s) (h : t.mem = s.mem) : MemOk t := by rwa [MemOk, h]

/-- Every instruction and every event keeps the canonical form: one arm each, with its law of Laws/Arms.lean. -/
theorem exec_memOk {s t : State} (hs : MemOk s) : ∀ i : Instr, exec i s = .next t → MemOk t
  | .vmov _ _, h => hs.of_mem_eq (execVmov_mem _ _ _ _ h)
  | .vmovShort _, h => hs.of_mem_eq (execVmovShort_mem _ _ _ h)
  | .vmovi _ _, h => hs.of_mem_eq (execVmovi_mem _ _ _ _ h)
  | .vmovh _ _, h => hs.of_mem_eq (execVmovh_mem _ _ _ _ h)
  | .vsel _ _, h => hs.of_mem_eq (execVsel_mem _ _ _ _ h)
  | .vadd _ _, h => hs.of_mem_eq (execVadd_mem _ _ _ _ h)
  | .vaddShort _, h => hs.of_mem_eq (execVaddShort_mem _ _ _ h)
  | .vsub _ _, h => hs.of_mem_eq (execVsub_mem _ _ _ _ h)
  | .vsubShort _, h => hs.of_mem_eq (execVsubShort_mem _ _ _ h)
  | .vmul _ _, h => hs.of_mem_eq (execVmul_mem _ _ _ _ h)
  | .vmulShort _, h => hs.of_mem_eq (execVmulShort_mem _ _ _ h)
  | .vmulh _ _, h => hs.of_mem_eq (execVmulh_mem _ _ _ _ h)
  | .vmulhShort _, h => hs.of_mem_eq (execVmulhShort_mem _ _ _ h)
  | .vmad _ _, h => hs.of_mem_eq (execVmad_mem _ _ _ _ h)
  | .vmadw _ _, h => hs.of_mem_eq (execVmadw_mem _ _ _ _ h)
  | .vmin _ _, h => hs.of_mem_eq (execVmin_mem _ _ _ _ h)
  | .vminShort _, h => hs.of_mem_eq (execVminShort_mem _ _ _ h)
  | .vmax _ _, h => hs.of_mem_eq (execVmax_mem _ _ _ _ h)
  | .vmaxShort _, h => hs.of_mem_eq (execVmaxShort_mem _ _ _ h)
  | .vabsd _ _, h => hs.of_mem_eq (execVabsd_mem _ _ _ _ h)
  | .vabsdShort _, h => hs.of_mem_eq (execVabsdShort_mem _ _ _ h)
  | .vaddi _ _, h => hs.of_mem_eq (execVaddi_mem _ _ _ _ h)
  | .vand _ _, h => hs.of_mem_eq (execVand_mem _ _ _ _ h)
  | .vandShort _, h => hs.of_mem_eq (execVandShort_mem _ _ _ h)
  | .vor _ _, h => hs.of_mem_eq (execVor_mem _ _ _ _ h)
  | .vorShort _, h => hs.of_mem_eq (execVorShort_mem _ _ _ h)
  | .vxor _ _, h => hs.of_mem_eq (execVxor_mem _ _ _ _ h)
  | .vxorShort _, h => hs.of_mem_eq (execVxorShort_mem _ _ _ h)
  | .vandn _ _, h => hs.of_mem_eq (execVandn_mem _ _ _ _ h)
  | .vandnShort _, h => hs.of_mem_eq (execVandnShort_mem _ _ _ h)
  | .vshl _ _, h => hs.of_mem_eq (execVshl_mem _ _ _ _ h)
  | .vshlShort _, h => hs.of_mem_eq (execVshlShort_mem _ _ _ h)
  | .vshr _ _, h => hs.of_mem_eq (execVshr_mem _ _ _ _ h)
  | .vshrShort _, h => hs.of_mem_eq (execVshrShort_mem _ _ _ h)
  | .vsar _ _, h => hs.of_mem_eq (execVsar_mem _ _ _ _ h)
  | .vsarShort _, h => hs.of_mem_eq (execVsarShort_mem _ _ _ h)
  | .vrot _ _, h => hs.of_mem_eq (execVrot_mem _ _ _ _ h)
  | .vrotShort _, h => hs.of_mem_eq (execVrotShort_mem _ _ _ h)
  | .vbfe _ _, h => hs.of_mem_eq (execVbfe_mem _ _ _ _ h)
  | .vbfi _ _, h => hs.of_mem_eq (execVbfi_mem _ _ _ _ h)
  | .vclz _ _, h => hs.of_mem_eq (execVclz_mem _ _ _ _ h)
  | .vclzShort _, h => hs.of_mem_eq (execVclzShort_mem _ _ _ h)
  | .vpopc _ _, h => hs.of_mem_eq (execVpopc_mem _ _ _ _ h)
  | .vpopcShort _, h => hs.of_mem_eq (execVpopcShort_mem _ _ _ h)
  | .vbrev _ _, h => hs.of_mem_eq (execVbrev_mem _ _ _ _ h)
  | .vbrevShort _, h => hs.of_mem_eq (execVbrevShort_mem _ _ _ h)
  | .vperm _ _, h => hs.of_mem_eq (execVperm_mem _ _ _ _ h)
  | .vcmp _ _, h => hs.of_mem_eq (execVcmp_mem _ _ _ _ h)
  | .vcmpi _ _, h => hs.of_mem_eq (execVcmpi_mem _ _ _ _ h)
  | .vplog _ _, h => hs.of_mem_eq (execVplog_mem _ _ _ _ h)
  | .vpmov _ _, h => hs.of_mem_eq (execVpmov_mem _ _ _ _ h)
  | .vlea _ _, h => hs.of_mem_eq (execVlea_mem _ _ _ _ h)
  | .vidx _ _, h => hs.of_mem_eq (execVidx_mem _ _ _ _ h)
  | .vfadd _ _, h => hs.of_mem_eq (execVfadd_mem _ _ _ _ h)
  | .vfaddShort _, h => hs.of_mem_eq (execVfaddShort_mem _ _ _ h)
  | .vfsub _ _, h => hs.of_mem_eq (execVfsub_mem _ _ _ _ h)
  | .vfsubShort _, h => hs.of_mem_eq (execVfsubShort_mem _ _ _ h)
  | .vfmul _ _, h => hs.of_mem_eq (execVfmul_mem _ _ _ _ h)
  | .vfmulShort _, h => hs.of_mem_eq (execVfmulShort_mem _ _ _ h)
  | .vfma _ _, h => hs.of_mem_eq (execVfma_mem _ _ _ _ h)
  | .vfmin _ _, h => hs.of_mem_eq (execVfmin_mem _ _ _ _ h)
  | .vfminShort _, h => hs.of_mem_eq (execVfminShort_mem _ _ _ h)
  | .vfmax _ _, h => hs.of_mem_eq (execVfmax_mem _ _ _ _ h)
  | .vfmaxShort _, h => hs.of_mem_eq (execVfmaxShort_mem _ _ _ h)
  | .vfcmp _ _, h => hs.of_mem_eq (execVfcmp_mem _ _ _ _ h)
  | .vfclass _ _, h => hs.of_mem_eq (execVfclass_mem _ _ _ _ h)
  | .vfrnd _ _, h => hs.of_mem_eq (execVfrnd_mem _ _ _ _ h)
  | .vfrndShort _, h => hs.of_mem_eq (execVfrndShort_mem _ _ _ h)
  | .vfract _ _, h => hs.of_mem_eq (execVfract_mem _ _ _ _ h)
  | .vfractShort _, h => hs.of_mem_eq (execVfractShort_mem _ _ _ h)
  | .vrcp _ _, h => hs.of_mem_eq (execVrcp_mem _ _ _ _ h)
  | .vrcpShort _, h => hs.of_mem_eq (execVrcpShort_mem _ _ _ h)
  | .vrsq _ _, h => hs.of_mem_eq (execVrsq_mem _ _ _ _ h)
  | .vrsqShort _, h => hs.of_mem_eq (execVrsqShort_mem _ _ _ h)
  | .vsqrt _ _, h => hs.of_mem_eq (execVsqrt_mem _ _ _ _ h)
  | .vsqrtShort _, h => hs.of_mem_eq (execVsqrtShort_mem _ _ _ h)
  | .vexp2 _ _, h => hs.of_mem_eq (execVexp2_mem _ _ _ _ h)
  | .vexp2Short _, h => hs.of_mem_eq (execVexp2Short_mem _ _ _ h)
  | .vlog2 _ _, h => hs.of_mem_eq (execVlog2_mem _ _ _ _ h)
  | .vlog2Short _, h => hs.of_mem_eq (execVlog2Short_mem _ _ _ h)
  | .vsinp _ _, h => hs.of_mem_eq (execVsinp_mem _ _ _ _ h)
  | .vsinpShort _, h => hs.of_mem_eq (execVsinpShort_mem _ _ _ h)
  | .vcosp _ _, h => hs.of_mem_eq (execVcosp_mem _ _ _ _ h)
  | .vcospShort _, h => hs.of_mem_eq (execVcospShort_mem _ _ _ h)
  | .vfdiv _ _, h => hs.of_mem_eq (execVfdiv_mem _ _ _ _ h)
  | .vfdivShort _, h => hs.of_mem_eq (execVfdivShort_mem _ _ _ h)
  | .vpfma _ _, h => hs.of_mem_eq (execVpfma_mem _ _ _ _ h)
  | .vpfadd _ _, h => hs.of_mem_eq (execVpfadd_mem _ _ _ _ h)
  | .vpfmul _ _, h => hs.of_mem_eq (execVpfmul_mem _ _ _ _ h)
  | .vcvt _ _, h => hs.of_mem_eq (execVcvt_mem _ _ _ _ h)
  | .vscl _ _, h => hs.of_mem_eq (execVscl_mem _ _ _ _ h)
  | .vpack _ _, h => hs.of_mem_eq (execVpack_mem _ _ _ _ h)
  | .vunpk _ _, h => hs.of_mem_eq (execVunpk_mem _ _ _ _ h)
  | .vdot4 _ _, h => hs.of_mem_eq (execVdot4_mem _ _ _ _ h)
  | .vdot8 _ _, h => hs.of_mem_eq (execVdot8_mem _ _ _ _ h)
  | .vfdot2 _ _, h => hs.of_mem_eq (execVfdot2_mem _ _ _ _ h)
  | .vftag _ _, h => hs.of_mem_eq (execVftag_mem _ _ _ _ h)
  | .vshfl _ _, h => hs.of_mem_eq (execVshfl_mem _ _ _ _ h)
  | .vbcst _ _, h => hs.of_mem_eq (execVbcst_mem _ _ _ _ h)
  | .vvote _ _, h => hs.of_mem_eq (execVvote_mem _ _ _ _ h)
  | .vredu _ _, h => hs.of_mem_eq (execVredu_mem _ _ _ _ h)
  | .vscan _ _, h => hs.of_mem_eq (execVscan_mem _ _ _ _ h)
  | .vrdln _ _, h => hs.of_mem_eq (execVrdln_mem _ _ _ _ h)
  | .vwrln _ _, h => hs.of_mem_eq (execVwrln_mem _ _ _ _ h)
  | .vmatch _ _, h => hs.of_mem_eq (execVmatch_mem _ _ _ _ h)
  | .vcompact _ _, h => hs.of_mem_eq (execVcompact_mem _ _ _ _ h)
  | .vcompactRow _ _, h => hs.of_mem_eq (execVcompactRow_mem _ _ _ _ h)
  | .vexpand _ _, h => hs.of_mem_eq (execVexpand_mem _ _ _ _ h)
  | .ld _ _, h => hs.of_mem_eq (execLd_mem _ _ _ _ h)
  | .st _ _, h => hs.of_mem_eq (execSt_mem _ _ _ _ h)
  | .ldl _ _, h => hs.of_mem_eq (execLdl_mem _ _ _ _ h)
  | .stl _ _, h => hs.of_mem_eq (execStl_mem _ _ _ _ h)
  | .ldq _ _, h => hs.of_mem_eq (execLdq_mem _ _ _ _ h)
  | .stq _ _, h => hs.of_mem_eq (execStq_mem _ _ _ _ h)
  | .lda _ _, h => hs.of_mem_eq (execLda_mem _ _ _ _ h)
  | .sta _ _, h => hs.of_mem_eq (execSta_mem _ _ _ _ h)
  | .atom _ _, h => hs.of_mem_eq (execAtom_mem _ _ _ _ h)
  | .red _ _, h => hs.of_mem_eq (execRed_mem _ _ _ _ h)
  | .atoml _ _, h => hs.of_mem_eq (execAtoml_mem _ _ _ _ h)
  | .pfx _ _, h => execPfx_memOk _ _ _ hs _ h
  | .cprop _ _, h => hs.of_mem_eq (execCprop_mem _ _ _ _ h)
  | .cget _ _, h => hs.of_mem_eq (execCget_mem _ _ _ _ h)
  | .crecyc _ _, h => hs.of_mem_eq (execCrecyc_mem _ _ _ _ h)
  | .cprobe _ _, h => hs.of_mem_eq (execCprobe_mem _ _ _ _ h)
  | .fence _ _, h => hs.of_mem_eq (execFence_mem _ _ _ _ h)
  | .wsync _ _, h => hs.of_mem_eq (execWsync_mem _ _ _ _ h)
  | .wsyncShort _, h => hs.of_mem_eq (execWsyncShort_mem _ _ _ h)
  | .br _ _, h => hs.of_mem_eq (execBr_mem _ _ _ _ h)
  | .jmp _ _, h => execJmp_memOk _ _ _ hs _ h
  | .callDirect _ _, h => hs.of_mem_eq (execCallDirect_mem _ _ _ _ h)
  | .callRegister _ _, h => execCallRegister_memOk _ _ _ hs _ h
  | .ret _ _, h => execRet_memOk _ _ _ hs _ h
  | .retShort _, h => execRetShort_memOk _ _ hs _ h
  | .land _, h => hs.of_mem_eq (execLand_mem _ _ _ h)
  | .exitL _ _, h => hs.of_mem_eq (execExitL_mem _ _ _ _ h)
  | .exitShort _, h => hs.of_mem_eq (execExitShort_mem _ _ _ h)
  | .rast _ _, h => hs.of_mem_eq (execRast_mem _ _ _ _ h)
  | .hitbin _ _, h => hs.of_mem_eq (execHitbin_mem _ _ _ _ h)
  | .attr _ _, h => hs.of_mem_eq (execAttr_mem _ _ _ _ h)
  | .travs _ _, h => hs.of_mem_eq (execTravs_mem _ _ _ _ h)
  | .travr _ _, h => hs.of_mem_eq (execTravr_mem _ _ _ _ h)
  | .hvpost _ _, h => execHvpost_memOk _ _ _ hs _ h
  | .smov _ _, h => hs.of_mem_eq (execSmov_mem _ _ _ _ h)
  | .smovShort _, h => hs.of_mem_eq (execSmovShort_mem _ _ _ h)
  | .smovi _ _, h => hs.of_mem_eq (execSmovi_mem _ _ _ _ h)
  | .ssel _ _, h => hs.of_mem_eq (execSsel_mem _ _ _ _ h)
  | .sadd _ _, h => hs.of_mem_eq (execSadd_mem _ _ _ _ h)
  | .saddShort _, h => hs.of_mem_eq (execSaddShort_mem _ _ _ h)
  | .ssub _ _, h => hs.of_mem_eq (execSsub_mem _ _ _ _ h)
  | .ssubShort _, h => hs.of_mem_eq (execSsubShort_mem _ _ _ h)
  | .smul _ _, h => hs.of_mem_eq (execSmul_mem _ _ _ _ h)
  | .smulShort _, h => hs.of_mem_eq (execSmulShort_mem _ _ _ h)
  | .smulh _ _, h => hs.of_mem_eq (execSmulh_mem _ _ _ _ h)
  | .smulhShort _, h => hs.of_mem_eq (execSmulhShort_mem _ _ _ h)
  | .smin _ _, h => hs.of_mem_eq (execSmin_mem _ _ _ _ h)
  | .sminShort _, h => hs.of_mem_eq (execSminShort_mem _ _ _ h)
  | .smax _ _, h => hs.of_mem_eq (execSmax_mem _ _ _ _ h)
  | .smaxShort _, h => hs.of_mem_eq (execSmaxShort_mem _ _ _ h)
  | .sand _ _, h => hs.of_mem_eq (execSand_mem _ _ _ _ h)
  | .sandShort _, h => hs.of_mem_eq (execSandShort_mem _ _ _ h)
  | .sor _ _, h => hs.of_mem_eq (execSor_mem _ _ _ _ h)
  | .sorShort _, h => hs.of_mem_eq (execSorShort_mem _ _ _ h)
  | .sxor _ _, h => hs.of_mem_eq (execSxor_mem _ _ _ _ h)
  | .sxorShort _, h => hs.of_mem_eq (execSxorShort_mem _ _ _ h)
  | .sshl _ _, h => hs.of_mem_eq (execSshl_mem _ _ _ _ h)
  | .sshlShort _, h => hs.of_mem_eq (execSshlShort_mem _ _ _ h)
  | .sshr _ _, h => hs.of_mem_eq (execSshr_mem _ _ _ _ h)
  | .sshrShort _, h => hs.of_mem_eq (execSshrShort_mem _ _ _ h)
  | .ssar _ _, h => hs.of_mem_eq (execSsar_mem _ _ _ _ h)
  | .ssarShort _, h => hs.of_mem_eq (execSsarShort_mem _ _ _ h)
  | .sbfe _ _, h => hs.of_mem_eq (execSbfe_mem _ _ _ _ h)
  | .sclz _ _, h => hs.of_mem_eq (execSclz_mem _ _ _ _ h)
  | .sclzShort _, h => hs.of_mem_eq (execSclzShort_mem _ _ _ h)
  | .spopc _ _, h => hs.of_mem_eq (execSpopc_mem _ _ _ _ h)
  | .spopcShort _, h => hs.of_mem_eq (execSpopcShort_mem _ _ _ h)
  | .scmp _ _, h => hs.of_mem_eq (execScmp_mem _ _ _ _ h)
  | .sqlog _ _, h => hs.of_mem_eq (execSqlog_mem _ _ _ _ h)
  | .slea _ _, h => hs.of_mem_eq (execSlea_mem _ _ _ _ h)
  | .sidx _ _, h => hs.of_mem_eq (execSidx_mem _ _ _ _ h)
  | .sld _ _, h => hs.of_mem_eq (execSld_mem _ _ _ _ h)
  | .sst _ _, h => hs.of_mem_eq (execSst_mem _ _ _ _ h)
  | .satom _ _, h => hs.of_mem_eq (execSatom_mem _ _ _ _ h)
  | .barinit _ _, h => hs.of_mem_eq (execBarinit_mem _ _ _ _ h)
  | .barexp _ _, h => hs.of_mem_eq (execBarexp_mem _ _ _ _ h)
  | .bararr _ _, h => hs.of_mem_eq (execBararr_mem _ _ _ _ h)
  | .barwait _ _, h => hs.of_mem_eq (execBarwait_mem _ _ _ _ h)
  | .waddr _ _, h => hs.of_mem_eq (execWaddr_mem _ _ _ _ h)
  | .kick _ _, h => hs.of_mem_eq (execKick_mem _ _ _ _ h)
  | .pub _ _, h => execPub_memOk _ _ _ hs _ h
  | .sbank _ _, h => hs.of_mem_eq (execSbank_mem _ _ _ _ h)
  | .msflushRange _ _, h => hs.of_mem_eq (execMsflushRange_mem _ _ _ _ h)
  | .msflushStack _ _, h => hs.of_mem_eq (execMsflushStack_mem _ _ _ _ h)
  | .nop _, h => hs.of_mem_eq (execNop_mem _ _ _ h)
  | .rfe _, h => execRfe_memOk _ _ hs _ h
  | .ubr _ _, h => hs.of_mem_eq (execUbr_mem _ _ _ _ h)
  | .ujmp _ _, h => execUjmp_memOk _ _ _ hs _ h
  | .ucall _ _, h => hs.of_mem_eq (execUcall_mem _ _ _ _ h)
  | .uret _ _, h => execUret_memOk _ _ _ hs _ h
  | .uretShort _, h => execUretShort_memOk _ _ hs _ h
  | .endW _ _, h => hs.of_mem_eq (execEndW_mem _ _ _ _ h)
  | .endShort _, h => hs.of_mem_eq (execEndShort_mem _ _ _ h)
  | .yieldW _ _, h => execYieldW_memOk _ _ _ hs _ h
  | .yieldShort _, h => execYieldShort_memOk _ _ hs _ h
  | .trapSw _ _, h => hs.of_mem_eq (execTrapSw_mem _ _ _ _ h)
  | .sgetr _ _, h => hs.of_mem_eq (execSgetr_mem _ _ _ _ h)
  | .ssetr _ _, h => hs.of_mem_eq (execSsetr_mem _ _ _ _ h)
  | .rclaim _ _, h => hs.of_mem_eq (execRclaim_mem _ _ _ _ h)
  | .rfree _ _, h => hs.of_mem_eq (execRfree_mem _ _ _ _ h)
  | .guardW _ _, h => hs.of_mem_eq (execGuardW_mem _ _ _ _ h)
  | .elect _ _, h => hs.of_mem_eq (execElect_mem _ _ _ _ h)
  | .mma _ _, h => hs.of_mem_eq (execMma_mem _ _ _ _ h)
  | .mmas _ _, h => hs.of_mem_eq (execMmas_mem _ _ _ _ h)
  | .mmap _ _, h => hs.of_mem_eq (execMmap_mem _ _ _ _ h)
  | .mzero _ _, h => hs.of_mem_eq (execMzero_mem _ _ _ _ h)
  | .mfill _ _, h => hs.of_mem_eq (execMfill_mem _ _ _ _ h)
  | .mdrain _ _, h => hs.of_mem_eq (execMdrain_mem _ _ _ _ h)
  | .mscale _ _, h => hs.of_mem_eq (execMscale_mem _ _ _ _ h)
  | .mbtake _ _, h => hs.of_mem_eq (execMbtake_mem _ _ _ _ h)
  | .mbpass _ _, h => hs.of_mem_eq (execMbpass_mem _ _ _ _ h)
  | .mbpassNone _ _, h => hs.of_mem_eq (execMbpassNone_mem _ _ _ _ h)
  | .pgload _ _, h => hs.of_mem_eq (execPgload_mem _ _ _ _ h)
  | .pgctx _ _, h => hs.of_mem_eq (execPgctx_mem _ _ _ _ h)
  | .pgemit _ _, h => hs.of_mem_eq (execPgemit_mem _ _ _ _ h)
  | .rflush _ _, h => hs.of_mem_eq (execRflush_mem _ _ _ _ h)
  | .tvrel _ _, h => hs.of_mem_eq (execTvrel_mem _ _ _ _ h)
  | .nfmt _ _, h => hs.of_mem_eq (execNfmt_mem _ _ _ _ h)
  | .coll _ _, h => execColl_memOk _ _ _ hs _ h
  | .launchDev _ _, h => hs.of_mem_eq (execLaunchDev_mem _ _ _ _ h)
  | .resetDev, h => execResetDev_memOk _ hs _ h
  | .registerWrite, h => execRegisterWrite_memOk _ hs _ h
  | .pageWalk, h => execPageWalk_memOk _ hs _ h
  | .walkComplete, h => execWalkComplete_memOk _ hs _ h
  | .directoryRequest, h => hs.of_mem_eq (execDirectoryRequest_mem _ _ h)
  | .reclassify, h => hs.of_mem_eq (execReclassify_mem _ _ h)
  | .recallAck, h => hs.of_mem_eq (execRecallAck_mem _ _ h)
  | .invAll, h => hs.of_mem_eq (execInvAll_mem _ _ h)
  | .invAsid, h => hs.of_mem_eq (execInvAsid_mem _ _ h)
  | .invVa, h => hs.of_mem_eq (execInvVa_mem _ _ h)
  | .releaseFrame, h => execReleaseFrame_memOk _ hs _ h
  | .tmCommandDone, h => execTmCommandDone_memOk _ hs _ h
  | .msCacheRequest, h => execMsCacheRequest_memOk _ hs _ h
  | .hotPageRecordDone, h => execHotPageRecordDone_memOk _ hs _ h
  | .hpctlWrite, h => hs.of_mem_eq (execHpctlWrite_mem _ _ h)
  | .gddr7RequestIssue, h => hs.of_mem_eq (execGddr7RequestIssue_mem _ _ h)
  | .gddr7Complete, h => execGddr7Complete_memOk _ hs _ h
  | .regionSample, h => execRegionSample_memOk _ hs _ h
  | .refreshStart, h => hs.of_mem_eq (execRefreshStart_mem _ _ h)
  | .refreshEnd, h => execRefreshEnd_memOk _ hs _ h
  | .msFlushComplete, h => hs.of_mem_eq (execMsFlushComplete_mem _ _ h)
  | .pinGranted, h => execPinGranted_memOk _ hs _ h
  | .rastFragment, h => execRastFragment_memOk _ hs _ h
  | .tileFragmentResume, h => execTileFragmentResume_memOk _ hs _ h
  | .pinLimitResume, h => execPinLimitResume_memOk _ hs _ h
  | .tileClose, h => hs.of_mem_eq (execTileClose_mem _ _ h)
  | .tileScan, h => execTileScan_memOk _ hs _ h
  | .tileClassifyEnd, h => hs.of_mem_eq (execTileClassifyEnd_mem _ _ h)
  | .tileReferenceRelease, h => hs.of_mem_eq (execTileReferenceRelease_mem _ _ h)
  | .binRecordArrive, h => execBinRecordArrive_memOk _ hs _ h
  | .binAgeDrain, h => execBinAgeDrain_memOk _ hs _ h
  | .rflushDrain, h => execRflushDrain_memOk _ hs _ h
  | .carveOut, h => hs.of_mem_eq (execCarveOut_mem _ _ h)
  | .dafHeadSend, h => hs.of_mem_eq (execDafHeadSend_mem _ _ h)
  | .relSend, h => hs.of_mem_eq (execRelSend_mem _ _ h)
  | .ackReceived, h => hs.of_mem_eq (execAckReceived_mem _ _ h)
  | .homeReg, h => execHomeReg_memOk _ hs _ h
  | .homeLoad, h => hs.of_mem_eq (execHomeLoad_mem _ _ h)
  | .homeWriteback, h => execHomeWriteback_memOk _ hs _ h
  | .homeAtomic, h => execHomeAtomic_memOk _ hs _ h
  | .ownerReply, h => execOwnerReply_memOk _ hs _ h
  | .revokeWord, h => execRevokeWord_memOk _ hs _ h
  | .fetchWord, h => execFetchWord_memOk _ hs _ h
  | .mergeLine, h => execMergeLine_memOk _ hs _ h
  | .mergeComplete, h => hs.of_mem_eq (execMergeComplete_mem _ _ h)
  | .loadReturn, h => execLoadReturn_memOk _ hs _ h
  | .linkReplay, h => hs.of_mem_eq (execLinkReplay_mem _ _ h)
  | .packetReflected, h => hs.of_mem_eq (execPacketReflected_mem _ _ h)
  | .hostPostedWrite, h => execHostPostedWrite_memOk _ hs _ h
  | .hostMemwr, h => execHostMemwr_memOk _ hs _ h
  | .hostRead, h => execHostRead_memOk _ hs _ h
  | .bisnpResponse, h => execBisnpResponse_memOk _ hs _ h
  | .snpdata, h => execSnpdata_memOk _ hs _ h
  | .snpinv, h => execSnpinv_memOk _ hs _ h
  | .snpcur, h => execSnpcur_memOk _ hs _ h
  | .hostLinkDown, h => hs.of_mem_eq (execHostLinkDown_mem _ _ h)
  | .cxlCacheNegotiated, h => hs.of_mem_eq (execCxlCacheNegotiated_mem _ _ h)
  | .farOperation, h => execFarOperation_memOk _ hs _ h
  | .fabricPortFail, h => hs.of_mem_eq (execFabricPortFail_mem _ _ h)
  | .scarabFetch, h => hs.of_mem_eq (execScarabFetch_mem _ _ h)
  | .copyPiece, h => execCopyPiece_memOk _ hs _ h
  | .scarabFifoResume, h => execScarabFifoResume_memOk _ hs _ h
  | .barrierWake, h => hs.of_mem_eq (execBarrierWake_mem _ _ h)
  | .pubSwap, h => hs.of_mem_eq (execPubSwap_mem _ _ h)
  | .waddrWake, h => hs.of_mem_eq (execWaddrWake_mem _ _ h)
  | .waddrTimeout, h => hs.of_mem_eq (execWaddrTimeout_mem _ _ h)
  | .imagoHomeOp, h => execImagoHomeOp_memOk _ hs _ h
  | .imagoResult, h => hs.of_mem_eq (execImagoResult_mem _ _ h)
  | .cgetWake, h => hs.of_mem_eq (execCgetWake_mem _ _ h)
  | .cgetTimeout, h => hs.of_mem_eq (execCgetTimeout_mem _ _ h)
  | .resultWriteback, h => execResultWriteback_memOk _ hs _ h
  | .priorityGroup, h => hs.of_mem_eq (execPriorityGroup_mem _ _ h)
  | .issueStarvation, h => hs.of_mem_eq (execIssueStarvation_mem _ _ h)
  | .claimDeadlock, h => execClaimDeadlock_memOk _ hs _ h
  | .batonHandover, h => hs.of_mem_eq (execBatonHandover_mem _ _ h)
  | .qctlEnable, h => hs.of_mem_eq (execQctlEnable_mem _ _ h)
  | .qctlDisable, h => hs.of_mem_eq (execQctlDisable_mem _ _ h)
  | .queueRecordRead, h => execQueueRecordRead_memOk _ hs _ h
  | .launchAccept, h => execLaunchAccept_memOk _ hs _ h
  | .groupPlace, h => execGroupPlace_memOk _ hs _ h
  | .groupComplete, h => execGroupComplete_memOk _ hs _ h
  | .hiveTaskTimeout, h => hs.of_mem_eq (execHiveTaskTimeout_mem _ _ h)
  | .contractRelease, h => hs.of_mem_eq (execContractRelease_mem _ _ h)
  | .contractOverrun, h => execContractOverrun_memOk _ hs _ h
  | .yieldmaxExpiry, h => execYieldmaxExpiry_memOk _ hs _ h
  | .ebudFill, h => hs.of_mem_eq (execEbudFill_mem _ _ h)
  | .impreciseFault, h => hs.of_mem_eq (execImpreciseFault_mem _ _ h)
  | .trapDelivery, h => hs.of_mem_eq (execTrapDelivery_mem _ _ h)
  | .retry, h => execRetry_memOk _ hs _ h
  | .abandon, h => hs.of_mem_eq (execAbandon_mem _ _ h)
  | .freeSlot, h => hs.of_mem_eq (execFreeSlot_mem _ _ h)
  | .fenceComplete, h => execFenceComplete_memOk _ hs _ h
  | .softError, h => hs.of_mem_eq (execSoftError_mem _ _ h)
  | .unitRetire, h => execUnitRetire_memOk _ hs _ h
  | .hsemTake, h => hs.of_mem_eq (execHsemTake_mem _ _ h)
  | .hsemRelease, h => hs.of_mem_eq (execHsemRelease_mem _ _ h)
  | .hsemLeaseTick, h => hs.of_mem_eq (execHsemLeaseTick_mem _ _ h)
  | .bindCtx, h => hs.of_mem_eq (execBindCtx_mem _ _ h)
  | .unbindCtx, h => hs.of_mem_eq (execUnbindCtx_mem _ _ h)
  | .preempt, h => hs.of_mem_eq (execPreempt_mem _ _ h)
  | .fenceCommand, h => hs.of_mem_eq (execFenceCommand_mem _ _ h)
  | .devidWrite, h => hs.of_mem_eq (execDevidWrite_mem _ _ h)
  | .routingTableWrite, h => hs.of_mem_eq (execRoutingTableWrite_mem _ _ h)
  | .plimitWrite, h => hs.of_mem_eq (execPlimitWrite_mem _ _ h)
  | .mextend, h => hs.of_mem_eq (execMextend_mem _ _ h)
  | .mextendDone, h => hs.of_mem_eq (execMextendDone_mem _ _ h)
  | .report, h => hs.of_mem_eq (execReport_mem _ _ h)
  | .reportDone, h => hs.of_mem_eq (execReportDone_mem _ _ h)
  | .dieSensorSample, h => hs.of_mem_eq (execDieSensorSample_mem _ _ h)
  | .powerAverage, h => hs.of_mem_eq (execPowerAverage_mem _ _ h)
  | .fireflyNodeRead, h => execFireflyNodeRead_memOk _ hs _ h
  | .collStart, h => execCollStart_memOk _ hs _ h
  | .collComplete, h => execCollComplete_memOk _ hs _ h
  | .matrixRetire, h => execMatrixRetire_memOk _ hs _ h
  | .pgloadComplete, h => execPgloadComplete_memOk _ hs _ h
  | .nfmtLoaded, h => execNfmtLoaded_memOk _ hs _ h
  | .throttledAdmission, h => execThrottledAdmission_memOk _ hs _ h
  | .hostLinkUp, h => hs.of_mem_eq (execHostLinkUp_mem _ _ h)
  | .hostResponse, h => execHostResponse_memOk _ hs _ h
  | .correctedSoftError, h => hs.of_mem_eq (execCorrectedSoftError_mem _ _ h)

/-- A next state reached through `mapNext f` is `f` of one. -/
theorem mapNext_eq_next {f : State → State} {o : Host.Outcome State Fault Refusal} {t : State}
    (h : mapNext f o = .next t) : ∃ u, o = .next u ∧ t = f u := by
  cases o with
  | next u => exact ⟨u, rfl, (Host.Outcome.next.inj h).symm⟩
  | fault r => cases h
  | refused r => cases h

/-- What follows an arm without touching memory does not break what the arm kept. -/
theorem mapNext_exec_memOk {f : State → State} (hf : ∀ u, (f u).mem = u.mem) {i : Instr} {s t : State} (hs : MemOk s)
    (h : mapNext f (exec i s) = .next t) : MemOk t := by
  obtain ⟨u, hu, rfl⟩ := mapNext_eq_next h
  exact (exec_memOk hs i hu).of_mem_eq (hf u)

/-- Choosing what comes next is no access of memory. -/
@[simp] theorem openMove_mem (run : Instr → State → Host.Outcome State Fault Refusal) (s : State) :
    (openMove run s).mem = s.mem := by
  unfold openMove
  split
  · rfl
  · split
    · rfl
    · split
      · rfl
      · exact openTurn_mem s

/-- Every move of the schedule keeps the canonical form: an event, an attempt to issue with the instruction it finds, and the
passing of a cycle. -/
theorem doMove_memOk {m : Move} {s t : State} (hs : MemOk s) (h : doMove m s = .next t) : MemOk t := by
  cases m with
  | perform i a =>
    rw [doMove] at h
    split at h
    · exact mapNext_exec_memOk (s := { s with args := a }) settled_mem hs h
    · cases h; exact hs
  | issue q cands lanes unis chosen =>
    rw [doMove] at h
    split at h <;> rename_i ha
    · cases h
      exact MemOk.of_mem_eq (attempt_memOk_of (h := hs) (hh := ha)) (settled_mem _)
    · exact mapNext_exec_memOk (fun u => by rw [settled_mem, afterIssue_mem]) (attempt_memOk_of (h := hs) (hh := ha)) h
  | tick k =>
    cases h
    exact MemOk.of_mem_eq (tick_memOk exec k s hs) (settled_mem _)

/-- Settles O36: `openMove` leaves memory as it is, and each kind of move keeps its form. -/
theorem stepKeepsMemoryCanonical : Obligations.StepKeepsMemoryCanonical := by
  unfold Obligations.StepKeepsMemoryCanonical
  intro s t hs h
  have ho : MemOk (openMove exec s) := hs.of_mem_eq (openMove_mem exec s)
  rw [step] at h
  split at h
  · next m r _ => exact doMove_memOk (s := { openMove exec s with moves := r }) ho h
  · cases h; exact ho

end Sys2Proof.Machine
end

section
/-! What the homes of memory (R72 to R86), the walkers (R22) and the memory-side cache (R43) leave alone, whatever bytes and lines they move:
one lemma for each of their operations, `f_keepsBlocks`. -/

namespace Sys2Proof.Machine
open Sys2Proof.Machine.State

/-! ### The frame -/

/-- The next record's number in the hot-page ring of each stack (R50). -/
def ringHeads (m : Tab StackMem) (k : Nat) : BitVec 32 := (tget resetStack m k).hpHead

@[simp] theorem ringHeads_tset {s : State} {k : Nat} {v : StackMem} (h : v.hpHead = (stk s k).hpHead) :
    ringHeads (tset resetStack s.stackMems k v) = ringHeads s.stackMems := by
  funext j
  rw [ringHeads, tget_tset]
  split
  · next hj => rw [h, hj]; rfl
  · rfl

/-- What the work of homes, of the memory side and of walkers leaves alone: the register blocks of the ports, the contexts, the regions
of the memory-side caches, and how far the hot-page rings have come. -/
abbrev KeepsBlocks (s t : State) : Prop :=
  t.ports = s.ports ∧ t.ctxs = s.ctxs ∧ t.regions = s.regions ∧ ringHeads t.stackMems = ringHeads s.stackMems

theorem KeepsBlocks.trans {s t u : State} (h : KeepsBlocks s t) (h' : KeepsBlocks t u) : KeepsBlocks s u := by
  obtain ⟨hp, hc, hr, hh⟩ := h
  obtain ⟨hp', hc', hr', hh'⟩ := h'
  exact ⟨hp'.trans hp, hc'.trans hc, hr'.trans hr, hh'.trans hh⟩

theorem foldl_keepsBlocks {β : Type} {f : State → β → State} (h : ∀ s x, KeepsBlocks s (f s x)) :
    ∀ (l : List β) (s : State), KeepsBlocks s (l.foldl f s)
  | [], _ => ⟨rfl, rfl, rfl, rfl⟩
  | x :: r, s => (h s x).trans (foldl_keepsBlocks h r _)

theorem foldl_keepsBlocks_fst {β γ : Type} {f : State × γ → β → State × γ} (h : ∀ a x, KeepsBlocks a.1 (f a x).1) :
    ∀ (l : List β) (a : State × γ), KeepsBlocks a.1 (l.foldl f a).1
  | [], _ => ⟨rfl, rfl, rfl, rfl⟩
  | x :: r, a => (h a x).trans (foldl_keepsBlocks_fst h r _)

/-! ### Bytes at their homes -/

@[simp] theorem modStk_keepsBlocks {s : State} {k : Nat} {f : StackMem → StackMem} (h : (f (stk s k)).hpHead = (stk s k).hpHead) :
    KeepsBlocks s (modStk s k f) := ⟨rfl, rfl, rfl, ringHeads_tset h⟩

@[simp] theorem msRequest_keepsBlocks (s : State) (line : Nat) (write : Bool) (core : Nat) :
    KeepsBlocks s (msRequest s line write core) := modStk_keepsBlocks rfl

@[simp] theorem setHomeByte_keepsBlocks (s : State) (pa : Nat) (b : Byte) : KeepsBlocks s (setHomeByte s pa b) := by
  unfold setHomeByte keepWas
  split
  · exact ⟨rfl, rfl, rfl, rfl⟩
  · split <;> exact ⟨rfl, rfl, rfl, rfl⟩

@[simp] theorem lineFill_keepsBlocks (s : State) (line : Nat) (m : BitVec 128) (core : Nat) :
    KeepsBlocks s (lineFill s line m core) := by
  unfold lineFill
  (repeat' split) <;> simp [KeepsBlocks]

@[simp] theorem homeLine_keepsBlocks (s : State) (line : Nat) (m : BitVec 128) (d : BitVec 1024) :
    KeepsBlocks s (homeLine s line m d) :=
  foldl_keepsBlocks (fun s k => by split <;> simp [KeepsBlocks]) _ s

@[simp] theorem bringEntry_keepsBlocks (line : Nat) (k : BitVec 128) (a : State × BitVec 128) (e : DafEntry) :
    KeepsBlocks a.1 (bringEntry line k a e).1 := by
  unfold bringEntry
  (repeat' split) <;> simp [KeepsBlocks]

@[simp] theorem onEntry_bringEntry_keepsBlocks (c line : Nat) (k : BitVec 128) (a : State × BitVec 128) (m : Msg) :
    KeepsBlocks a.1 (onEntry c (bringEntry line k) a m).1 := by
  unfold onEntry
  (repeat' split) <;> simp [KeepsBlocks]

@[simp] theorem bringCopy_keepsBlocks (line : Nat) (held : BitVec 32) (x : Option L1Line) (a : State × BitVec 128) :
    KeepsBlocks a.1 (bringCopy line held x a).1 := by
  unfold bringCopy
  split <;> simp [KeepsBlocks]

@[simp] theorem pull_keepsBlocks (line : Nat) (take : Bool) (a : State × BitVec 128) (cw : Nat × BitVec 32) :
    KeepsBlocks a.1 (pull line take a cw).1 := by
  have hm := foldl_keepsBlocks_fst (onEntry_bringEntry_keepsBlocks cw.1 line (maskOfWords cw.2))
  have he := foldl_keepsBlocks_fst (bringEntry_keepsBlocks line (maskOfWords cw.2))
  have hs : ∀ u c f g h, KeepsBlocks u (modCr (if take then stopFills (spendSent c f u) c g else spendSent c f u) c h) := by
    intros
    split <;> exact ⟨rfl, rfl, rfl, rfl⟩
  unfold pull
  dsimp only
  split
  · exact ⟨rfl, rfl, rfl, rfl⟩
  · exact ((((hm _ a).trans (hm _ _)).trans (he _ _)).trans (bringCopy_keepsBlocks ..)).trans (hs ..)

@[simp] theorem gather_keepsBlocks (s : State) (line : Nat) (m : BitVec 128) (take : Bool) :
    KeepsBlocks s (gather s line m take).1 := by
  have hp := fun t => foldl_keepsBlocks_fst (pull_keepsBlocks line t)
  have ht : KeepsBlocks s (regTouch s line) := by unfold regTouch; split <;> exact ⟨rfl, rfl, rfl, rfl⟩
  unfold gather
  split
  · exact ⟨rfl, rfl, rfl, rfl⟩
  · split
    · dsimp only
      (repeat' split) <;> exact (ht.trans (hp take _ (regTouch s line, 0))).trans ⟨rfl, rfl, rfl, rfl⟩
    · split
      · exact (hp true _ (s, 0)).trans ⟨rfl, rfl, rfl, rfl⟩
      · exact ⟨rfl, rfl, rfl, rfl⟩

@[simp] theorem l2Evict_keepsBlocks (s : State) (line : Nat) : KeepsBlocks s (l2Evict s line) := by
  unfold l2Evict
  dsimp only
  (repeat' split) <;> simp [KeepsBlocks]

@[simp] theorem l2Room_keepsBlocks (s : State) (line : Nat) : KeepsBlocks s (l2Room s line) := by
  unfold l2Room
  dsimp only
  (repeat' split) <;> simp [KeepsBlocks]

@[simp] theorem l2Write_keepsBlocks (s : State) (line : Nat) (m : BitVec 128) : KeepsBlocks s (l2Write s line m) := by
  unfold l2Write
  dsimp only
  (repeat' split) <;> simp [KeepsBlocks]

@[simp] theorem homePut_keepsBlocks (s : State) (line : Nat) (m : BitVec 128) (d : BitVec 1024) :
    KeepsBlocks s (homePut s line m d) := by simp [KeepsBlocks, homePut]

@[simp] theorem settleLine_keepsBlocks (s : State) (line : Nat) (m : BitVec 128) (take : Bool) :
    KeepsBlocks s (settleLine s line m take) := by simp [KeepsBlocks, settleLine]

@[simp] theorem snoopHost_keepsBlocks (s : State) (line : Nat) (take : Bool) : KeepsBlocks s (snoopHost s line take) := by
  unfold snoopHost
  dsimp only
  (repeat' split) <;> simp [KeepsBlocks]

@[simp] theorem ownHost_keepsBlocks (s : State) (line : Nat) : KeepsBlocks s (ownHost s line) := by
  unfold ownHost
  dsimp only
  (repeat' split) <;> simp [KeepsBlocks]

@[simp] theorem reach_keepsBlocks (s : State) (pa n : Nat) (take : Bool) (core : Nat) : KeepsBlocks s (reach s pa n take core) :=
  foldl_keepsBlocks (fun s line => by dsimp only; (repeat' split) <;> simp [KeepsBlocks]) _ s

/-! ### Walkers, recalls and RELEASE_FRAME -/

@[simp] theorem classify_keepsBlocks (s : State) (f : Nat) (core : Option Nat) : KeepsBlocks s (classify s f core) := by
  unfold classify
  (repeat' split) <;> exact ⟨rfl, rfl, rfl, rfl⟩

@[simp] theorem shareRing_keepsBlocks (s : State) (base size k : Nat) : KeepsBlocks s (shareRing s base size k) :=
  foldl_keepsBlocks (fun s i => by split <;> simp [KeepsBlocks]) _ s

@[simp] theorem walkerReach_keepsBlocks (s : State) (c : Option Nat) (a n : Nat) : KeepsBlocks s (walkerReach s c a n) := by
  unfold walkerReach
  dsimp only
  (repeat' split) <;> simp [KeepsBlocks, mustRecall, mustWait]

@[simp] theorem walkEntry_keepsBlocks (c : Option Nat) (asid va level t : Nat) (s : State) :
    KeepsBlocks s (walkEntry c asid va level t s).1 := by
  unfold walkEntry
  dsimp only
  (repeat' split) <;> simp [KeepsBlocks]

@[simp] theorem walkKeep_keepsBlocks (s : State) (k : Option Nat) (asid va level next : Nat) :
    KeepsBlocks s (walkKeep s k asid va level next) := by
  unfold walkKeep pwcPut
  dsimp only
  (repeat' split) <;> exact ⟨rfl, rfl, rfl, rfl⟩

theorem walkFrom_keepsBlocks (c k : Option Nat) (asid va : Nat) :
    ∀ (l t : Nat) (s : State), KeepsBlocks s (walkFrom c k asid va l t s).1
  | 0, t, s => by
    have h := walkEntry_keepsBlocks c asid va 0 t s
    unfold walkFrom
    split <;> next he => rw [he] at h; exact h
  | l + 1, t, s => by
    have h := walkEntry_keepsBlocks c asid va (l + 1) t s
    unfold walkFrom
    split
    · next he => rw [he] at h; exact h
    · next u next he =>
      rw [he] at h
      exact (KeepsBlocks.trans h (walkKeep_keepsBlocks ..)).trans (walkFrom_keepsBlocks c k asid va l next _)

theorem dropCached_keepsBlocks (s : State) (core : Option Nat) (k asid va : Nat) : KeepsBlocks s (dropCached s core k asid va) := by
  unfold dropCached
  split <;> exact ⟨rfl, rfl, rfl, rfl⟩

theorem walkBy_keepsBlocks (s : State) (core : Option Nat) (k asid root va : Nat) (bad : State → TlbEntry → Option Nat) :
    KeepsBlocks s (walkBy s core k asid root va bad).1 := by
  have confirm : ∀ l t, let x := walkFrom core (some k) asid va l t s
      KeepsBlocks s (if unsure bad x.1 x.2 then walkFrom core (some k) asid va 4 root (dropCached x.1 core k asid va) else x).1 := by
    intro l t
    have h := walkFrom_keepsBlocks core (some k) asid va l t s
    dsimp only
    split
    · exact (h.trans (dropCached_keepsBlocks ..)).trans (walkFrom_keepsBlocks ..)
    · exact h
  unfold walkBy
  cases pwcFind s k asid va with
  | none => exact confirm 4 root
  | some x => exact confirm x.1 x.2

theorem startRecall_keepsBlocks (s : State) (f : Nat) (waiters : List Nat) : KeepsBlocks s (startRecall s f waiters) := by
  unfold startRecall
  dsimp only
  (repeat' split) <;> exact ⟨rfl, rfl, rfl, rfl⟩

theorem releaseOne_keepsBlocks (s : State) (f : Nat) : KeepsBlocks s (releaseOne s f) :=
  (foldl_keepsBlocks (fun s l => settleLine_keepsBlocks s l (BitVec.allOnes 128) true) _ s).trans ⟨rfl, rfl, rfl, rfl⟩

theorem releaseFrom_keepsBlocks : ∀ (n lo hi : Nat) (s : State), KeepsBlocks s (releaseFrom n lo hi s).1
  | 0, _, _, _ => ⟨rfl, rfl, rfl, rfl⟩
  | n + 1, lo, hi, s => by
    unfold releaseFrom
    split
    · exact ⟨rfl, rfl, rfl, rfl⟩
    · next f _ =>
      split
      · exact ⟨rfl, rfl, rfl, rfl⟩
      · split
        · exact startRecall_keepsBlocks s f []
        · exact (releaseOne_keepsBlocks s f).trans (releaseFrom_keepsBlocks n (f + 1) hi _)

/-! ### The memory side -/

@[simp] theorem fillDone_keepsBlocks (s : State) (line : Nat) : KeepsBlocks s (fillDone s line) := by
  unfold fillDone
  dsimp only
  (repeat' split) <;> simp [KeepsBlocks]

@[simp] theorem gddrLine_keepsBlocks (s : State) (line : Nat) (write : Bool) (core flush : Nat) (die : Bool) :
    KeepsBlocks s (gddrLine s line write core flush die) := modStk_keepsBlocks rfl

@[simp] theorem msWriteBack_keepsBlocks (s : State) (line flush : Nat) : KeepsBlocks s (msWriteBack s line flush) :=
  (gddrLine_keepsBlocks s line true 0xFFFF flush true).trans (modStk_keepsBlocks rfl)

@[simp] theorem msPut_keepsBlocks (s : State) (line : Nat) (dirty : Bool) : KeepsBlocks s (msPut s line dirty) := by
  unfold msPut
  dsimp only
  (repeat' split) <;> simp [KeepsBlocks]

@[simp] theorem msDrain_keepsBlocks (s : State) (line : Nat) : KeepsBlocks s (msDrain s line) := by
  unfold msDrain
  dsimp only
  split <;> simp [KeepsBlocks]

@[simp] theorem hpNote_keepsBlocks (s : State) (r : MsReq) (hit : Bool) : KeepsBlocks s (hpNote s r hit) := by
  unfold hpNote
  dsimp only
  split
  · exact ⟨rfl, rfl, rfl, rfl⟩
  · split <;> exact ⟨rfl, rfl, rfl, ringHeads_tset rfl⟩

@[simp] theorem msServe_keepsBlocks (s : State) (r : MsReq) : KeepsBlocks s (msServe s r) := by
  unfold msServe
  dsimp only
  (repeat' split) <;> simp [KeepsBlocks]

end Sys2Proof.Machine
end

section
/-! The state of a region's cooling (R44): what a sample of its sensor decides stands through all that follows from it, and the dies beside
the region hold the term that goes with it (R46). -/

namespace Sys2Proof.Machine
open Sys2Proof.Machine.State

/-- Every region is in the state it was in, by the sample it was decided by. -/
def KeepsModes (s t : State) : Prop := ∀ g, (rgn t g).mode = (rgn s g).mode ∧ (rgn t g).sample = (rgn s g).sample

theorem KeepsModes.trans {s t u : State} (h : KeepsModes s t) (h' : KeepsModes t u) : KeepsModes s u := by
  intro g
  obtain ⟨hm, hs⟩ := h g
  obtain ⟨hm', hs'⟩ := h' g
  exact ⟨hm'.trans hm, hs'.trans hs⟩

theorem KeepsBlocks.keepsModes {s t : State} (h : KeepsBlocks s t) : KeepsModes s t := by
  obtain ⟨-, -, hr, -⟩ := h
  intro g
  simp [rgn, hr]

@[simp] theorem rgn_setRgn_same (s : State) (g : Nat) (x : Region) : rgn (setRgn s g x) g = x := tget_tset_same ..

theorem setRgn_keepsModes {s : State} {g : Nat} {x : Region} (hm : x.mode = (rgn s g).mode) (hs : x.sample = (rgn s g).sample) :
    KeepsModes s (setRgn s g x) := by
  intro h
  by_cases hg : h = g
  · subst hg; simp [hm, hs]
  · simp [rgn, hg]

theorem foldl_keepsModes {β : Type} {f : State → β → State} (h : ∀ s x, KeepsModes s (f s x)) :
    ∀ (l : List β) (s : State), KeepsModes s (l.foldl f s)
  | [], _ => fun _ => ⟨rfl, rfl⟩
  | x :: r, s => (h s x).trans (foldl_keepsModes h r _)

theorem msAdmit_keepsModes (s : State) (r : MsReq) : KeepsModes s (msAdmit s r) := by
  refine KeepsModes.trans ?_ (msServe_keepsBlocks _ r).keepsModes
  exact setRgn_keepsModes rfl rfl

theorem enterBypass_keepsModes (s : State) (g : Nat) : KeepsModes s (enterBypass s g) := by
  refine KeepsModes.trans (t := { s with msLines := _ }) (KeepsBlocks.keepsModes ⟨rfl, rfl, rfl, rfl⟩) ?_
  exact setRgn_keepsModes rfl rfl

theorem leaveBypass_keepsModes (s : State) (g : Nat) : KeepsModes s (leaveBypass s g) := by
  refine KeepsModes.trans ?_ (foldl_keepsBlocks msDrain_keepsBlocks _ _).keepsModes
  exact setRgn_keepsModes rfl rfl

theorem addThr_keepsModes (s : State) (k n : Nat) : KeepsModes s (addThr s k n) :=
  KeepsBlocks.keepsModes (modStk_keepsBlocks rfl)

theorem admitAll_keepsModes (s : State) (g : Nat) : KeepsModes s (admitAll s g) := by
  unfold admitAll
  dsimp only
  split
  · exact fun _ => ⟨rfl, rfl⟩
  · refine KeepsModes.trans ?_ (foldl_keepsModes msAdmit_keepsModes _ _)
    exact KeepsModes.trans (addThr_keepsModes s _ (waitSum (rgn s g) (cycOf s (regionStack g)))) (setRgn_keepsModes rfl rfl)

/-- What a change of state brings with it (R44). -/
theorem modeChange_keepsModes (s : State) (g : Nat) (old new : RegionMode) :
    let u := if new = .bypass ∧ old ≠ .bypass then enterBypass s g
      else if old = .bypass ∧ new ≠ .bypass then leaveBypass s g
      else s
    KeepsModes s (if old = .throttled ∧ new = .double then admitAll u g else u) := by
  intro u
  have hu : KeepsModes s u := by
    dsimp only [u]
    (repeat' split)
    · exact enterBypass_keepsModes s g
    · exact leaveBypass_keepsModes s g
    · exact fun _ => ⟨rfl, rfl⟩
  split
  · exact hu.trans (admitAll_keepsModes u g)
  · exact hu

/-! ### The terms of the dies -/

@[simp] theorem cr_setCr_same (s : State) (c : Nat) (x : Core) : cr (setCr s c x) c = x := tget_tset_same ..

theorem cr_setCr_other (s : State) {c d : Nat} (h : d ≠ c) (x : Core) : cr (setCr s c x) d = cr s d := tget_tset_other _ h ..

/-- The cores from `b` on that the list counts have the term `d`. -/
theorem dramTerm_foldl_setCr (b d : Nat) : ∀ (l : List Nat) (s : State) (k : Nat),
    k ∈ l ∨ (cr s (b + k)).dramTerm = d →
    (cr (l.foldl (fun s i => modCr s (b + i) fun c => { c with dramTerm := d }) s) (b + k)).dramTerm = d
  | [], _, _, h => h.resolve_left (List.not_mem_nil)
  | i :: l, s, k, h => by
    refine dramTerm_foldl_setCr b d l _ k ?_
    by_cases hk : k = i
    · subst hk; right; simp
    · exact h.imp (fun h => (List.mem_cons.1 h).resolve_left hk) fun h => by
        rwa [← cr_setCr_other s (show b + k ≠ b + i by omega)] at h

/-- R44, R46: a sample of `t` degrees decides the state, and the eight dies beside the region hold its term. -/
theorem sampleRegion_spec (s : State) (g : Nat) :
    let t := min 255 (tget 0 s.inputs.regionTemp g)
    let u := sampleRegion s g
    (rgn u g).sample = t ∧ (rgn u g).mode = nextMode (rgn s g).mode t ∧
      ∀ k < 8, (cr u (64 * regionStack g + 8 * (g % 8) + k)).dramTerm = dramTermOf (rgn u g).mode := by
  intro t
  have hm := modeChange_keepsModes (modRgn s g fun x => { x with mode := nextMode (rgn s g).mode t, sample := t }) g
    (rgn s g).mode (nextMode (rgn s g).mode t) g
  simp only [modRgn_eq, rgn_setRgn_same] at hm
  obtain ⟨hmode, hsample⟩ := hm
  have hr : ∀ (l : List Nat) (b d : Nat) (u : State),
      rgn (l.foldl (fun s i => modCr s (b + i) fun c => { c with dramTerm := d }) u) g = rgn u g := by
    intro l b d u
    obtain ⟨-, -, h, -⟩ := foldl_keepsBlocks (f := fun s i => modCr s (b + i) fun c => { c with dramTerm := d })
      (fun _ _ => ⟨rfl, rfl, rfl, rfl⟩) l u
    exact congrArg (tget resetRegion · g) h
  unfold sampleRegion
  dsimp only
  rw [hr]
  exact ⟨hsample, hmode, fun k hk => (dramTerm_foldl_setCr _ _ _ _ k (.inl (List.mem_range.2 hk))).trans
    (congrArg dramTermOf hmode.symm)⟩

end Sys2Proof.Machine
end

section
/-! The recalls in flight (R28) as an access leaves for where it is performed: routing it neither begins nor ends one. -/

namespace Sys2Proof.Machine
open Sys2Proof.Machine.State

theorem foldl_recalls {β : Type} {f : State → β → State} (h : ∀ s x, (f s x).recalls = s.recalls) :
    ∀ (l : List β) (s : State), (l.foldl f s).recalls = s.recalls
  | [], _ => rfl
  | x :: r, s => (foldl_recalls h r _).trans (h s x)

@[simp] theorem refreshWindow_recalls (s : State) (w op : Nat) : (refreshWindow s w op).recalls = s.recalls := by
  unfold refreshWindow
  split <;> rfl

@[simp] theorem putAcc_recalls (s : State) (a : Acc) : (putAcc s a).recalls = s.recalls := by simp [putAcc]

@[simp] theorem completeAcc_recalls (s : State) (a : Acc) : (completeAcc s a).recalls = s.recalls := by
  simp [completeAcc, completeOp, dropAcc]

@[simp] theorem evict_recalls (s : State) (c : Nat) (x : L1Line) : (evict s c x).recalls = s.recalls := by
  unfold evict
  dsimp only
  split <;> rfl

@[simp] theorem dafPush_recalls (s : State) (c : Nat) (e : DafEntry) : (dafPush s c e).recalls = s.recalls := rfl

@[simp] theorem askHome_recalls (s : State) (a : Acc) (pa : Nat) : (askHome s a pa).recalls = s.recalls := by
  unfold askHome
  dsimp only
  (repeat' split) <;> simp [send]

@[simp] theorem joinTwins_recalls (s : State) (a : Acc) : (joinTwins s a).1.recalls = s.recalls := by
  unfold joinTwins
  dsimp only
  (repeat' split) <;> simp

@[simp] theorem countHit_recalls (s : State) (c line : Nat) (hit : Bool) : (countHit s c line hit).recalls = s.recalls := by
  unfold countHit
  dsimp only
  (repeat' split) <;> rfl

@[simp] theorem l1Way_recalls (s : State) (c line : Nat) : (l1Way s c line).1.recalls = s.recalls := by
  unfold l1Way
  dsimp only
  (repeat' split) <;> simp [dropCopies]

@[simp] theorem l1Line_recalls (s : State) (c line : Nat) (path : LinePath) : (l1Line s c line path).1.recalls = s.recalls := by
  unfold l1Line
  dsimp only
  split <;> simp

@[simp] theorem l1Write_recalls (s : State) (c pa : Nat) (path : LinePath) (m : BitVec 32) (d : Nat) (dirty : Bool) :
    (l1Write s c pa path m d dirty).recalls = s.recalls := by simp [l1Write]

@[simp] theorem leaveRelease_recalls (s : State) (a : Acc) : (leaveRelease s a).recalls = s.recalls := by
  simp [leaveRelease, completeOp]

@[simp] theorem wbAhead_recalls (s : State) (c pa : Nat) (m : BitVec 32) : (wbAhead s c pa m).recalls = s.recalls := by
  unfold wbAhead
  dsimp only
  (repeat' split) <;> simp

@[simp] theorem routeHomeWrite_recalls (s : State) (a : Acc) (k : Nat → DafKind) :
    (routeHomeWrite s a k).recalls = s.recalls := by
  unfold routeHomeWrite
  dsimp only
  split <;> simp

@[simp] theorem routeLoad_recalls (s : State) (a : Acc) : (routeLoad s a).recalls = s.recalls := by
  unfold routeLoad
  dsimp only
  (repeat' split) <;> simp

@[simp] theorem awaitReg_recalls (s : State) (a : Acc) (line : Nat) : (awaitReg s a line).recalls = s.recalls := by
  unfold awaitReg
  dsimp only
  split <;> simp [completeOp]

@[simp] theorem regPush_recalls (s : State) (c line : Nat) (m : BitVec 128) (acc : Nat) :
    (regPush s c line m acc).recalls = s.recalls := by
  unfold regPush
  dsimp only
  split <;> simp

@[simp] theorem routeStore_recalls (s : State) (a : Acc) (d : Nat) : (routeStore s a d).recalls = s.recalls := by
  unfold routeStore
  dsimp only
  (repeat' split) <;> simp

@[simp] theorem routeAtomic_recalls (s : State) (a : Acc) (code d e : Nat) (ret : Bool) :
    (routeAtomic s a code d e ret).recalls = s.recalls := by
  unfold routeAtomic
  dsimp only
  (repeat' split) <;> simp

@[simp] theorem routeImago_recalls (s : State) (a : Acc) (op g : Nat) : (routeImago s a op g).recalls = s.recalls := by
  unfold routeImago
  dsimp only
  (repeat' split) <;> simp [send]

@[simp] theorem route_recalls (s : State) (a : Acc) : (route s a).recalls = s.recalls := by
  unfold route
  dsimp only
  (repeat' split) <;> simp

@[simp] theorem classified_recalls (s : State) (a : Acc) (st : FrameState) : (classified s a st).recalls = s.recalls := by
  unfold classified
  dsimp only
  split <;> simp [setClass]

/-- What a recall leaves in a core (R28) touches no recall; only its own is marked as told. -/
theorem reclassify_recalls (s : State) (r : Recall) :
    (reclassify s r).recalls = s.recalls.map fun x => if x.id = r.id then { x with told := true } else x := by
  unfold reclassify
  have hp : ∀ (l : List L1Line) u, (l.foldl (fun s x => poisonWords s x.line (wordsOfMask x.dirty)) u).recalls = u.recalls :=
    foldl_recalls fun _ _ => rfl
  have hw : ∀ (l : List DafEntry) u, (l.foldl (fun s e => dafPush s r.core e) u).recalls = u.recalls :=
    foldl_recalls fun _ _ => rfl
  dsimp only [shareFrame]
  split <;> simp [hp, hw]

end Sys2Proof.Machine
end

section
/-! The events of translation (R22 to R33), one lemma for each occasion. -/

namespace Sys2Proof.Machine
open Sys2Proof.Machine.State

/-! ### What may have to wait (log 127), and what the clock makes due (R424) -/

theorem orWait_of_free {s t : State} (h : t.blocked = none) : orWait s t = t := by simp [orWait, h]

theorem orWait_of_wait {s t : State} (h : t.blocked = some 0) : orWait s t = s := by simp [orWait, h]

theorem whenUp_of_run {s : State} (h : s.mgmt.boot = .run) (f : State → State) : whenUp s f = f s := if_pos h

theorem whenDue_of_due {i : Instr} {s : State} (h : s.due.contains (i, s.args) = true) (f : State → State) :
    whenDue i s f = f { s with due := s.due.erase (i, s.args) } := if_pos h

theorem whenDue_of_not_due {i : Instr} {s : State} (h : ¬ s.due.contains (i, s.args) = true) (f : State → State) :
    whenDue i s f = s := if_neg h

/-! ### Page walks (R22 to R24) -/

@[simp] theorem putAcc_walks (s : State) (a : Acc) : (putAcc s a).walks = s.walks := by
  unfold putAcc refreshWindow
  split <;> rfl

theorem pageWalk_joins (s : State) (x : Acc) (hf : findAcc s (arg s 0) = some x) (ht : x.stage = .trans)
    (hw : s.walks.any (sameWalk s x) = true) :
    exec .pageWalk s = .next (putAcc
      { s with walks := s.walks.map fun k => if sameWalk s x k then { k with waiters := k.waiters ++ [x.id] } else k }
      { x with stage := .walk }) := by
  show execPageWalk s = _
  simp [execPageWalk, hf, ht, hw]

theorem walkNow_accAsid (s : State) (x : Acc) : accAsid (walkNow s x).1 x = accAsid s x := by
  obtain ⟨-, hc, -⟩ := walkBy_keepsBlocks s (some x.core) (coreStack x.core) (accAsid s x) (cx s x.ctx).held.root.toNat x.va
    fun s e => accFault s x e
  exact congrArg (fun t : Tab Ctx => (tget resetCtx t x.ctx).held.asid.toNat) hc

theorem mem_walks_putAcc (s : State) (w : Walk) (x : Acc) : w ∈ (putAcc { s with walks := s.walks ++ [w] } x).walks := by
  simp

/-- R22: the walk that an access starts, whose answer comes no sooner than a read of the L2 takes (log 61). -/
theorem startWalk_walks (s : State) (x : Acc) : ∃ w ∈ (startWalk s x).walks,
    w.asid = accAsid s x ∧ w.page = x.va / 4096 ∧ w.waiters = [x.id] ∧ w.due = cycAt (walkNow s x).1 x.core + 22 ∧
    ∀ c l k, (walkNow s x).2 = .fault c l k → w.code = c ∧ w.level = l ∧ w.knum = k ∧ w.entry = none := by
  have hasid := walkNow_accAsid s x
  unfold startWalk
  cases h : walkNow s x with
  | mk u r =>
    rw [h] at hasid
    cases r with
    | fault c l k => exact ⟨_, mem_walks_putAcc .., hasid, rfl, rfl, rfl, fun _ _ _ hr => by cases hr; exact ⟨rfl, rfl, rfl, rfl⟩⟩
    | ok e ptes =>
      dsimp only
      split <;> exact ⟨_, mem_walks_putAcc .., hasid, rfl, rfl, rfl, fun _ _ _ hr => by cases hr⟩

theorem pageWalk_starts (s : State) (x : Acc) (hf : findAcc s (arg s 0) = some x) (ht : x.stage = .trans)
    (hw : s.walks.any (sameWalk s x) = false) (hr : walkerFree s x = true) (hb : (startWalk s x).blocked = none) :
    ∃ t w, exec .pageWalk s = .next t ∧ w ∈ t.walks ∧ w.asid = accAsid s x ∧ w.page = x.va / 4096 ∧ w.waiters = [x.id] ∧
      w.due = cycAt (walkNow s x).1 x.core + 22 ∧
      ∀ c l k, (walkNow s x).2 = .fault c l k → w.code = c ∧ w.level = l ∧ w.knum = k ∧ w.entry = none := by
  obtain ⟨w, hm, hw'⟩ := startWalk_walks s x
  refine ⟨_, w, ?_, hm, hw'⟩
  show execPageWalk s = _
  simp [execPageWalk, hf, ht, hw, hr, orWait_of_free hb]

theorem walkComplete_answers (s : State) (w : Walk) (hf : (s.walks.find? fun k => k.id = arg s 0) = some w)
    (ho : walkOver s w = true) :
    ((answerWalk s w).blocked = none → exec .walkComplete s = .next (answerWalk s w)) ∧
    ((answerWalk s w).blocked = some 0 → exec .walkComplete s = .next s) := by
  have h : exec .walkComplete s = .next (orWait s (answerWalk s w)) := by
    show execWalkComplete s = _
    simp [execWalkComplete, hf, ho]
  exact ⟨fun hb => by rw [h, orWait_of_free hb], fun hb => by rw [h, orWait_of_wait hb]⟩

/-! ### The directory (R27, R28) -/

theorem directoryRequest_answers (s : State) (x : Acc) (hf : findAcc s (arg s 0) = some x) (hd : x.stage = .dir)
    (hr : recalling s (frameOf x.pa) = false) :
    let f := frameOf x.pa
    (tget .untouched s.dir f = .untouched → coreAgent x = true → exec .directoryRequest s = .next
      (classified { s with dir := tset .untouched s.dir f (.privateTo x.core) } x (.privateTo x.core))) ∧
    (tget .untouched s.dir f = .untouched → coreAgent x = false → exec .directoryRequest s = .next
      (classified { s with dir := tset .untouched s.dir f .shared } x .shared)) ∧
    (tget .untouched s.dir f = .shared → exec .directoryRequest s = .next (classified s x .shared)) ∧
    (∀ c, tget .untouched s.dir f = .privateTo c → c = x.core → coreAgent x = true →
      exec .directoryRequest s = .next (classified s x (.privateTo c))) ∧
    (∀ c, tget .untouched s.dir f = .privateTo c → c ≠ x.core → exec .directoryRequest s = .next
      (send { s with nextId := s.nextId + 1, recalls := s.recalls ++
        [{ id := s.nextId, frame := f, core := c, told := false, waiters := [x.id] }] } c (homeSlice (4096 * f)) 3 (.reclass s.nextId))) := by
  intro f
  obtain ⟨hrun, -⟩ : recallRuns s f = false ∧ _ := Bool.or_eq_false_iff.1 hr
  have h : exec .directoryRequest s = execDirectoryRequest s := rfl
  rw [h, execDirectoryRequest]
  refine ⟨fun ht hc => ?_, fun ht hc => ?_, fun ht => ?_, fun c ht he hc => ?_, fun c ht he => ?_⟩
  · simp [hf, hd, hr, ht, hc, f]
  · simp [hf, hd, hr, ht, hc, f]
  · simp [hf, hd, hr, ht, f]
  · simp [hf, hd, hr, ht, he, hc, f]
  · simp [hf, hd, hr, ht, he, startRecall, hrun, f]

theorem reclassify_tells (s : State) (m : Msg) (id : Nat) (r : Recall) (hm : netFirst s (arg s 0) = some m)
    (hb : m.body = .reclass id) (hf : (s.recalls.find? fun r => r.id = id) = some r) :
    ∃ t, exec .reclassify s = .next t ∧ t = reclassify (netDrop s m.id) r ∧
      t.recalls = s.recalls.map fun x => if x.id = r.id then { x with told := true } else x := by
  refine ⟨_, ?_, rfl, reclassify_recalls (netDrop s m.id) r⟩
  show execReclassify s = _
  simp [execReclassify, hm, hb, hf]

theorem recallAck_ends (s : State) (r : Recall) (hf : (s.recalls.find? fun r => r.id = arg s 0) = some r) (ht : r.told = true)
    (hw : wbLeft s r.core r.frame = false) :
    ∃ t, exec .recallAck s = .next t ∧ t.recalls = s.recalls.filter fun x => x.id ≠ r.id := by
  have h : exec .recallAck s = execRecallAck s := rfl
  rw [h, execRecallAck]
  simp only [hf, ht, hw]
  refine ⟨_, rfl, foldl_recalls (fun u id => ?_) _ _⟩
  split
  · split <;> simp
  · rfl

/-! ### Translation maintenance (R30 to R33) -/

theorem maintenance_begins (s : State) (h : s.mgmt.boot = .run) :
    exec .invAll s = .next (invAll s (arg s 1)) ∧ exec .invAsid s = .next (invAsid s (arg s 1)) ∧
    exec .invVa s = .next (invVa s (arg s 1)) ∧ exec .releaseFrame s = .next (releaseFrames s (arg s 1)) :=
  ⟨congrArg _ (whenUp_of_run h _), congrArg _ (whenUp_of_run h _), congrArg _ (whenUp_of_run h _), congrArg _ (whenUp_of_run h _)⟩

theorem tmCommandDone_advances {s : State} (h : tmDone s (arg s 0) = true) :
    exec .tmCommandDone s = .next (tmAdvance s (arg s 0)) := congrArg _ (if_pos h)

theorem tmCommandDone_drops (s : State) (hd : tmDone s (arg s 0) = true) (ho : (tmOf s (arg s 0)).op ≠ 4)
    (he : entriesHeld s (arg s 0) = true) : exec .tmCommandDone s = .next (invalidateNow s (arg s 0)) := by
  rw [tmCommandDone_advances hd, tmAdvance, if_neg ho, if_pos he]

theorem tmCommandDone_completes (s : State) (hd : tmDone s (arg s 0) = true) (ho : (tmOf s (arg s 0)).op ≠ 4)
    (he : entriesHeld s (arg s 0) = false) :
    ∃ t, exec .tmCommandDone s = .next (modTm t (arg s 0) fun b =>
        { b with busy := false, done := true, err := 0, op := 0, job := (0, 0, 0), waits := [] }) ∧
      t.mem = s.mem ∧ ∀ p, tmOf t p = tmOf s p := by
  rw [tmCommandDone_advances hd, tmAdvance, if_neg ho, if_neg (by simp [he])]
  exact ⟨_, rfl, rfl, fun _ => rfl⟩

theorem tmOf_modTm_same {s : State} {p : Nat} (h : p < s.ports.length) (f : TmBlock → TmBlock) :
    tmOf (modTm s p f) p = f (tmOf s p) := by
  simp [tmOf, prt, modTm, lmod, List.getD, h]

@[simp] theorem length_ports_modTm (s : State) (p : Nat) (f : TmBlock → TmBlock) :
    (modTm s p f).ports.length = s.ports.length := by simp [modTm, lmod]

/-- R31: the block of a command that completes is free again, and says so. -/
theorem tmOf_tmFinish {s : State} {p : Nat} (h : p < s.ports.length) : tmOf (tmFinish s p) p =
    { tmOf s p with busy := false, done := true, err := 0, op := 0, job := (0, 0, 0), waits := [] } := by
  unfold tmFinish
  dsimp only
  rw [tmOf_modTm_same (by exact h)]
  rfl

/-- R33: RELEASE_FRAME goes on with its frames, and completes when none of them waits for a recall. -/
theorem tmCommandDone_releases (s : State) (hp : arg s 0 < s.ports.length) (hd : tmDone s (arg s 0) = true)
    (ho : (tmOf s (arg s 0)).op = 4) :
    let hi := frameOf ((tmOf s (arg s 0)).job.2.1 + (tmOf s (arg s 0)).job.2.2)
    let u := releaseFrom (s.dir.length + 1) ((tmOf s (arg s 0)).waits.headD hi) hi s
    (u.2 = [] → ∃ t, exec .tmCommandDone s = .next t ∧ (tmOf t (arg s 0)).busy = false ∧ (tmOf t (arg s 0)).done = true ∧
      t.mem = u.1.mem) ∧
    (u.2 ≠ [] → exec .tmCommandDone s = .next (modTm u.1 (arg s 0) fun b => { b with waits := u.2 })) := by
  intro hi u
  obtain ⟨hports, -⟩ := releaseFrom_keepsBlocks (s.dir.length + 1) ((tmOf s (arg s 0)).waits.headD hi) hi s
  have hu : arg s 0 < u.1.ports.length := hports ▸ hp
  have hs : releaseStep s (arg s 0) = modTm u.1 (arg s 0) fun b => { b with waits := u.2 } := rfl
  rw [tmCommandDone_advances hd, tmAdvance, if_pos ho, hs]
  dsimp only
  rw [tmOf_modTm_same hu]
  constructor
  · intro hn
    rw [if_pos hn]
    refine ⟨_, rfl, ?_⟩
    rw [tmOf_tmFinish (by simpa using hu)]
    exact ⟨rfl, rfl, rfl⟩
  · intro hn
    rw [if_neg hn]

end Sys2Proof.Machine
end

section
/-! The events of the memory-side cache, GDDR7, hot-page sampling, pins and the carve-out (R41 to R52, R66), one lemma for each occasion. -/

namespace Sys2Proof.Machine
open Sys2Proof.Machine.State

@[simp] theorem stk_setStk_same (s : State) (k : Nat) (m : StackMem) : stk (setStk s k m) k = m := tget_tset_same ..

/-! ### The memory-side cache and GDDR7 (R41, R43) -/

theorem msCacheRequest_reaches (s : State) (q : MsReq) (l : List MsReq) (hq : (stk s (arg s 0)).queue = q :: l) (t : State) (r : MsReq)
    (ht : (t, r) = hpTake (modStk s (arg s 0) fun m => { m with queue := l }) q) :
    let x := rgn t (regionOf (128 * r.line))
    ((x.refreshUntil ≠ 0 ∨ x.waiting ≠ [] ∨ (throttled x = true ∧ cycOf s (arg s 0) < x.nextAdmit)) → exec .msCacheRequest s = .next
      (setRgn t (regionOf (128 * r.line)) { x with waiting := x.waiting ++ [{ r with arrived := cycOf s (arg s 0) }] })) ∧
    (x.refreshUntil = 0 → x.waiting = [] → (throttled x = true → x.nextAdmit ≤ cycOf s (arg s 0)) →
      exec .msCacheRequest s = .next (msAdmit t r)) := by
  intro x
  have h : exec .msCacheRequest s = execMsCacheRequest s := rfl
  rw [h, execMsCacheRequest]
  simp only [hq, ← ht]
  constructor
  · intro hw
    rw [if_pos (by simpa [or_assoc] using hw)]
  · intro hr hn ht
    rw [if_neg]
    simpa [x, hr, hn] using ht

theorem throttledAdmission_admits (s : State) (r : MsReq) (l : List MsReq) (h : mayAdmit s (arg s 0) = true)
    (hw : (rgn s (arg s 0)).waiting = r :: l) (hd : (rgn s (arg s 0)).drains = []) :
    exec .throttledAdmission s = .next (admitNext s (arg s 0) r l) := by
  show execThrottledAdmission s = _
  simp [execThrottledAdmission, h, hw, hd]

theorem throttledAdmission_drains (s : State) (d : Nat) (l : List Nat) (h : mayAdmit s (arg s 0) = true)
    (hw : (rgn s (arg s 0)).waiting = []) (hd : (rgn s (arg s 0)).drains = d :: l) :
    exec .throttledAdmission s = .next (drainNext s (arg s 0) d l) := by
  show execThrottledAdmission s = _
  simp [execThrottledAdmission, h, hw, hd]

/-- Whichever goes first (log 137), the event has a next state. -/
theorem throttledAdmission_chooses (s : State) (_ : mayAdmit s (arg s 0) = true) (_ : (rgn s (arg s 0)).waiting ≠ [])
    (_ : (rgn s (arg s 0)).drains ≠ []) : ∃ t, exec .throttledAdmission s = .next t := ⟨_, rfl⟩

theorem gddr7RequestIssue_takes (s : State) (r : MsReq) (l : List MsReq) (hh : (stk s (arg s 0)).held = r :: l)
    (hn : (stk s (arg s 0)).slots.length < 12288) : exec .gddr7RequestIssue s = .next
      (modStk s (arg s 0) fun m => { m with held := l, slots := (stk s (arg s 0)).slots ++ [r] }) := by
  show execGddr7RequestIssue s = _
  simp [execGddr7RequestIssue, hh, hn]

theorem gddr7Complete_writes (s : State) (r : MsReq) (hr : (stk s (arg s 0)).slots[arg s 1]? = some r)
    (hb : gddrBack s (arg s 0) r = true)
    (ha : (((stk s (arg s 0)).slots.take (arg s 1)).any fun x => decide (x.line = r.line ∧ x.sector = r.sector)) = false)
    (hw : r.write = true) :
    exec .gddr7Complete s = .next (modStk s (arg s 0) fun m => { m with slots := m.slots.eraseIdx (arg s 1) }) := by
  show execGddr7Complete s = _
  simp only [execGddr7Complete, hr, hb, ha, hw, Bool.not_true, Bool.or_self, Bool.false_eq_true, ↓reduceIte]

/-! ### What the clock makes due (R44, R66) -/

theorem periodic_not_due (s : State) :
    ∀ i ∈ [Instr.regionSample, .refreshStart, .carveOut], ¬ s.due.contains (i, s.args) = true → exec i s = .next s := by
  intro i hi hd
  simp only [List.mem_cons, List.not_mem_nil, or_false] at hi
  obtain rfl | rfl | rfl := hi <;> exact congrArg Host.Outcome.next (whenDue_of_not_due hd _)

theorem regionSample_decides (s : State) (hd : s.due.contains (.regionSample, s.args) = true) :
    ∃ t, exec .regionSample s = .next t ∧ (rgn t (arg s 0)).sample = min 255 (tget 0 s.inputs.regionTemp (arg s 0)) ∧
      (rgn t (arg s 0)).mode = nextMode (rgn s (arg s 0)).mode (min 255 (tget 0 s.inputs.regionTemp (arg s 0))) ∧
      ∀ k < 8, (cr t (64 * regionStack (arg s 0) + 8 * (arg s 0 % 8) + k)).dramTerm = dramTermOf (rgn t (arg s 0)).mode := by
  have h : exec .regionSample s = .next (sampleRegion { s with due := s.due.erase (.regionSample, s.args) } (arg s 0)) :=
    congrArg Host.Outcome.next (whenDue_of_due hd fun s => sampleRegion s (arg s 0))
  exact ⟨_, h, sampleRegion_spec { s with due := s.due.erase (.regionSample, s.args) } (arg s 0)⟩

theorem refreshStart_begins (s : State) (hd : s.due.contains (.refreshStart, s.args) = true) :
    exec .refreshStart s = .next (beginRefresh { s with due := s.due.erase (.refreshStart, s.args) } (arg s 0)) :=
  congrArg Host.Outcome.next (whenDue_of_due hd fun s => beginRefresh s (arg s 0))

theorem carveOut_hits (s : State) (p : Nat) :
    ∀ c ∈ [2 * p, 2 * p + 1], (cr (carveOut s p) c).shadowHits = 0 ∧ (cr (carveOut s p) c).lruHits = 0 := by
  intro c hc
  unfold carveOut
  simp only [List.mem_cons, List.not_mem_nil, or_false] at hc
  obtain rfl | rfl := hc
  · simp [cr_setCr_other]
  · simp

theorem carveOut_clears (s : State) (hd : s.due.contains (.carveOut, s.args) = true) :
    ∃ t, exec .carveOut s = .next t ∧
      ∀ c ∈ [2 * arg s 0, 2 * arg s 0 + 1], (cr t c).shadowHits = 0 ∧ (cr t c).lruHits = 0 :=
  ⟨_, congrArg Host.Outcome.next (whenDue_of_due hd fun s => carveOut s (arg s 0)), carveOut_hits _ (arg s 0)⟩

/-- The requests that wait at a region, whose wait for admission begins `now` (R49). -/
def waitFrom (x : Region) (now : Nat) : List MsReq := x.waiting.map fun r => { r with arrived := now }

/-- R44, R48: a refresh that has run its time: its requests' waits are counted, and they proceed. -/
theorem refreshEnd_acts {s : State} (h : refreshOver s (arg s 0) = true) :
    let g := arg s 0
    let now := cycOf s (regionStack g)
    let u := modStk s (regionStack g) fun m => { m with stall := lmod m.stall (g % 8) fun n => (n + waitSum (rgn s g) now) % 2 ^ 64 }
    exec .refreshEnd s = .next (
      if throttled (rgn s g) then setRgn u g { rgn s g with refreshUntil := 0, waiting := waitFrom (rgn s g) now }
      else (rgn s g).waiting.foldl msAdmit (setRgn u g { rgn s g with refreshUntil := 0, waiting := [] })) :=
  congrArg Host.Outcome.next (if_neg (by simp [h]))

theorem refreshEnd_throttled (s : State) (h : refreshOver s (arg s 0) = true) (ht : throttled (rgn s (arg s 0)) = true) :
    ∃ t, exec .refreshEnd s = .next t ∧ rgn t (arg s 0) =
      { rgn s (arg s 0) with refreshUntil := 0, waiting := waitFrom (rgn s (arg s 0)) (cycOf s (regionStack (arg s 0))) } :=
  ⟨_, (refreshEnd_acts h).trans (congrArg Host.Outcome.next (if_pos ht)), rgn_setRgn_same ..⟩

theorem refreshEnd_idle (s : State) (h : refreshOver s (arg s 0) = true) (ht : throttled (rgn s (arg s 0)) = false)
    (hw : (rgn s (arg s 0)).waiting = []) :
    ∃ t, exec .refreshEnd s = .next t ∧ rgn t (arg s 0) = { rgn s (arg s 0) with refreshUntil := 0 } := by
  refine ⟨_, (refreshEnd_acts h).trans (congrArg Host.Outcome.next (if_neg (by simp [ht]))), ?_⟩
  rw [hw]
  exact (rgn_setRgn_same ..).trans (by rw [← hw])

/-! ### Flushes, hot pages and pins (R47, R50, R52) -/

theorem msFlushComplete_completes (s : State) (f w op : Nat) (hf : findFlush s (arg s 0) = some (f, w, op))
    (hd : flushDone s (arg s 0) = true) :
    ∃ t, exec .msFlushComplete s = .next t ∧
      ∀ o, findOp (wv s w) op = some o → wv t w = complete (wv s w) op o.todo 1 := by
  have h : exec .msFlushComplete s = execMsFlushComplete s := rfl
  rw [h, execMsFlushComplete]
  simp only [hf, hd]
  refine ⟨_, rfl, fun o ho => ?_⟩
  rw [wv_modWv_same]
  dsimp only [wv] at ho ⊢
  rw [ho]

theorem hpRecord_ring (s : State) (k a v : Nat) (rest : List (Nat × Nat)) :
    (stk (hpRecord s k a v rest) k).hpWriting = rest ∧ (stk (hpRecord s k a v rest) k).hpHead = (stk s k).hpHead + 1 := by
  have hk : KeepsBlocks s (homePut (reach (shareRing s (stk s k).hpBase.toNat (2 ^ (stk s k).hpSize.toNat) k) a 16 true 0xFFFF)
      (lineOf a) (byteMask (a % 128) 16) (BitVec.ofNat 1024 (v <<< (8 * (a % 128))))) :=
    ((shareRing_keepsBlocks ..).trans (reach_keepsBlocks ..)).trans (homePut_keepsBlocks ..)
  obtain ⟨-, -, -, hr⟩ := hk
  simp only [hpRecord, modStk_eq, stk_setStk_same, true_and]
  exact congrArg (· + 1) (congrFun hr k)

theorem hotPageRecordDone_performs (s : State) (d v : Nat) (l : List (Nat × Nat)) (hh : (stk s (arg s 0)).hpWriting = (d, v) :: l)
    (hl : lineBusy s d 16 = false) (hb : (hpRecord s (arg s 0) d v l).blocked = none) :
    ∃ t, exec .hotPageRecordDone s = .next t ∧ (stk t (arg s 0)).hpWriting = l ∧
      (stk t (arg s 0)).hpHead = (stk s (arg s 0)).hpHead + 1 := by
  refine ⟨_, ?_, hpRecord_ring s (arg s 0) d v l⟩
  show execHotPageRecordDone s = _
  simp [execHotPageRecordDone, hh, hl, orWait_of_free hb]

theorem hpctlWrite_sets (s : State) (hr : s.mgmt.boot = .run) (ha : arg s 0 < 6) :
    ∃ t, exec .hpctlWrite s = .next t ∧ (stk t (arg s 0)).hpRate = BitVec.ofNat 4 (arg s 1 / 2 % 16) ∧
      (stk t (arg s 0)).hpSize = BitVec.ofNat 5 (arg s 1 / 2 ^ 8 % 32) ∧
      ((stk t (arg s 0)).hpEn = true ↔ arg s 1 % 2 = 1 ∧ (stk s (arg s 0)).hpBase.toNat % 4096 = 0 ∧
        (stk s (arg s 0)).hpBase.toNat < gddrUsable ∧ 6 ≤ arg s 1 / 2 ^ 8 % 32 ∧ arg s 1 / 2 ^ 8 % 32 ≤ 20 ∧
        (stk s (arg s 0)).hpBase.toNat + 16 * 2 ^ (arg s 1 / 2 ^ 8 % 32) ≤ gddrUsable) := by
  refine ⟨_, congrArg Host.Outcome.next (whenUp_of_run hr fun s => writeHpctl s (arg s 0) (arg s 1)), ?_⟩
  dsimp only [writeHpctl]
  rw [if_neg (by omega)]
  simp [bits, bit, Nat.shiftRight_eq_div_pow, and_assoc]

theorem pinGranted_pins (s : State) (line p : Nat) (hp : s.pinWait[arg s 0]? = some (line, p)) (hf : pinFree s line = true) :
    exec .pinGranted s = .next (pinLine { s with pinWait := s.pinWait.eraseIdx (arg s 0) } line p) := by
  show execPinGranted s = _
  simp [execPinGranted, hp, hf]

/-! ### The obligation -/

/-- Settles O58: each occasion by its own lemma. The frames that they need are `KeepsBlocks` (what walkers, homes and the memory side leave
alone), `KeepsModes` (the cooling state of the regions) and the `_recalls` lemmas (routing an access ends no recall). -/
theorem translationAndCacheEvents : Obligations.TranslationAndCacheEvents := by
  unfold Obligations.TranslationAndCacheEvents
  intro s
  exact ⟨pageWalk_joins s, pageWalk_starts s, walkComplete_answers s, directoryRequest_answers s, reclassify_tells s, recallAck_ends s,
    maintenance_begins s, tmCommandDone_drops s, tmCommandDone_completes s, tmCommandDone_releases s, msCacheRequest_reaches s,
    throttledAdmission_admits s, throttledAdmission_drains s, throttledAdmission_chooses s, gddr7RequestIssue_takes s,
    gddr7Complete_writes s, periodic_not_due s, regionSample_decides s, refreshStart_begins s, refreshEnd_throttled s, refreshEnd_idle s,
    msFlushComplete_completes s, hotPageRecordDone_performs s, hpctlWrite_sets s, pinGranted_pins s, carveOut_clears s⟩

end Sys2Proof.Machine
end

section
/-! The state right after reset (R411): its tables list nothing, so each accessor reads the reset record, and the banks of every pair stand
as R58 divides them. -/

namespace Sys2Proof.Machine
open Sys2Proof.Machine.State

/-! ### What the accessors read after reset -/

@[simp] theorem reset_mgmt : State.reset.mgmt = resetMgmt := rfl
@[simp] theorem rgn_reset (r : Nat) : rgn State.reset r = resetRegion := rfl
@[simp] theorem pr_reset (p : Nat) : pr State.reset p = resetPair := rfl
@[simp] theorem cx_reset (c : Nat) : cx State.reset c = resetCtx := rfl
@[simp] theorem qu_reset (q : Nat) : qu State.reset q = resetQueue := rfl
@[simp] theorem stk_reset (k : Nat) : stk State.reset k = resetStack := rfl
@[simp] theorem cycOf_reset (k : Nat) : cycOf State.reset k = 0 := rfl
@[simp] theorem wv_reset (w : Nat) : wv State.reset w = idleWave := rfl

/-- R58: the record at place `k` of a pair's list is that of bank `k`. -/
theorem resetPair_banks_getElem {k : Nat} (h : k < 64) : resetPair.banks[k]? = some (resetBank k) := by
  simp [resetPair, h]

theorem bank_reset (p : Nat) {k : Nat} (h : k < 64) : bank State.reset p k = resetBank k := by
  rw [bank, pr_reset, List.getD_eq_getElem?_getD, resetPair_banks_getElem h, Option.getD_some]

/-! ### The obligation -/

/-- Settles O34: the banks by `bank_reset`; every other value is a field of the record that its accessor reads after reset. -/
theorem resetValues : Obligations.ResetValues := by
  unfold Obligations.ResetValues
  refine ⟨congrArg Mgmt.devid reset_mgmt, congrArg Mgmt.plimit reset_mgmt, congrArg Mgmt.owner reset_mgmt,
    congrArg Mgmt.lease reset_mgmt, congrArg Mgmt.boot reset_mgmt, ?regions, ?banks, ?contexts, ?queues, ?counters, ?waves⟩
  case regions => exact fun r => congrArg Region.mode (rgn_reset r)
  case banks => exact fun p _ h => bank_reset p h
  case contexts => exact fun c => ⟨congrArg Ctx.bound (cx_reset c), congrArg (BindFields.pin ·.fields) (cx_reset c)⟩
  case queues => exact fun q => ⟨congrArg Queue.en (qu_reset q), congrArg Queue.head (qu_reset q), congrArg Queue.tail (qu_reset q)⟩
  case counters => exact fun k => ⟨cycOf_reset k, congrArg StackMem.hit (stk_reset k), congrArg StackMem.miss (stk_reset k)⟩
  case waves => exact fun w => congrArg Wave.live (wv_reset w)

end Sys2Proof.Machine
end

section
/-! The words that an operation captures at issue (R172, R389): what it reads of a source from them is what the source held. -/

namespace Sys2Proof.Machine

/-- The words that one source gives the capture. -/
def capturedOf (v : Wave) (x : Src) : List (List Word) := if isRun x then (List.range x.n).map (captureWord v x) else []

theorem length_capturedOf (v : Wave) (x : Src) : (capturedOf v x).length = if isRun x then x.n else 0 := by
  unfold capturedOf
  split <;> simp

/-- The words of a source begin behind those of the sources before it. -/
theorem length_flatMap_capturedOf (v : Wave) : ∀ (l : List Src) (n : Nat),
    (l.filter isRun).foldl (fun n x => n + x.n) n = n + (l.flatMap (capturedOf v)).length
  | [], _ => rfl
  | x :: r, n => by
    rw [List.flatMap_cons, List.length_append, length_capturedOf]
    by_cases hx : isRun x = true
    · rw [List.filter_cons_of_pos hx, List.foldl_cons, length_flatMap_capturedOf v r, if_pos hx, Nat.add_assoc]
    · rw [List.filter_cons_of_neg hx, length_flatMap_capturedOf v r, if_neg hx, Nat.zero_add]

/-- The captured words of source `k` stand at its place. -/
theorem capture_at_place {v : Wave} {sp : Spec} {k : Nat} {x : Src} (hk : sp.srcs[k]? = some x) (hx : isRun x = true) :
    ((capture v sp).drop (srcPlace sp k)).take x.n = (List.range x.n).map (captureWord v x) := by
  obtain ⟨hlt, rfl⟩ := List.getElem?_eq_some_iff.1 hk
  have hplace : srcPlace sp k = ((sp.srcs.take k).flatMap (capturedOf v)).length :=
    (length_flatMap_capturedOf v (sp.srcs.take k) 0).trans (Nat.zero_add _)
  have hsplit : capture v sp = (sp.srcs.take k).flatMap (capturedOf v) ++
      ((List.range sp.srcs[k].n).map (captureWord v sp.srcs[k]) ++ (sp.srcs.drop (k + 1)).flatMap (capturedOf v)) := by
    have hthis : capturedOf v sp.srcs[k] = (List.range sp.srcs[k].n).map (captureWord v sp.srcs[k]) := if_pos hx
    rw [← hthis, ← List.flatMap_cons, ← List.flatMap_append, ← List.drop_eq_getElem_cons hlt, List.take_append_drop]
    rfl
  rw [hsplit, hplace, List.drop_left, List.take_left' (by simp)]

/-- The word that a lane reads of a captured one. -/
theorem captureWord_getD (v : Wave) (x : Src) (j : Nat) {l : Nat} (hl : l < 32) :
    (captureWord v x j).getD (if x.uni then 0 else l) 0 = if x.uni then sread v (x.base + j) else vread v l (x.base + j) := by
  unfold captureWord
  split <;> simp [List.getD, hl]

/-- R172, R389: an operation reads a source's value as it was at issue. -/
theorem opVal_capture {v : Wave} {sp : Spec} {k l : Nat} {x : Src} (hk : sp.srcs[k]? = some x) (hl : l < 32) :
    opVal sp (capture v sp) k l = srcVal v l x := by
  unfold opVal srcVal
  simp only [hk]
  by_cases hx : isRun x = true
  · rw [if_pos hx, capture_at_place hk hx, List.map_map]
    simp only [Function.comp_def, captureWord_getD v x _ hl]
    cases hu : x.uni with
    | false => rfl
    | true =>
      have hb : ¬ 128 ≤ x.base := by simpa [isRun, hu] using hx
      rw [if_pos rfl, if_neg hb]
      rfl
  · obtain ⟨hu, hb⟩ : x.uni = true ∧ 128 ≤ x.base := by simpa [isRun] using hx
    rw [if_neg hx, if_pos hu, if_pos hb]

theorem lt_of_mem_lanesOf {m : Lanes} {l : Nat} (h : l ∈ lanesOf m) : l < 32 := List.mem_range.1 (List.mem_filter.1 h).1

end Sys2Proof.Machine
end

section
/-! Prefetches, fences and `wsync` (R112, R114, R298, R300) under the conditions of issue. -/

namespace Sys2Proof.Machine

/-! ### The addresses of a prefetch (R226) -/

/-- R226: the sign-extended IMM field. -/
theorem sext_toNat (x : BitVec 12) : sext 12 x.toNat = x.toInt := by
  have := x.isLt
  unfold sext
  rw [BitVec.toInt_eq_toNat_cond]
  split <;> split <;> omega

theorem srcVal_pair (v : Wave) (l r : Nat) :
    srcVal v l (lsrc .b r 2 2 false .any) = (vread v l r).toNat + 2 ^ 32 * (vread v l (r + 1)).toNat := by
  simp [srcVal, lsrc, vrun, wordsNat, List.range_succ]

theorem srcVal_word (v : Wave) (l r : Nat) : srcVal v l (lsrc .b r 1 1 false .any) = (vread v l r).toNat := by
  simp [srcVal, lsrc, vrun, wordsNat]

theorem srcVal_base (v : Wave) (l : Nat) {r : Nat} (h : r < 128) :
    srcVal v l (usrc .c r 2 2 false) = (sread v r).toNat + 2 ^ 32 * (sread v (r + 1)).toNat := by
  simp [srcVal, usrc, srun, wordsNat, List.range_succ, Nat.not_le.2 h]

/-- R226: where a lane of a prefetch finds its address: a pair of lane registers, or one offset from a uniform pair. -/
def pfxVa (h : Head) (m : MExt) (v : Wave) (l : Nat) : Int :=
  let low := (vread v l h.b.toNat).toNat
  (((if m.c = 128 then low + 2 ^ 32 * (vread v l (h.b.toNat + 1)).toNat
    else low + (sread v m.c.toNat).toNat + 2 ^ 32 * (sread v (m.c.toNat + 1)).toNat : Nat) : Int) + m.imm.toInt) % 2 ^ 64

/-- R226: C of a well-formed prefetch is none or a register, never an inline value. -/
theorem pfx_base_lt {h : Head} {m : MExt} (hw : WellFormed (.pfx h m) = true) (hc : m.c ≠ 128) : m.c.toNat < 128 := by
  have hm : cLane m = true := by
    have : okM (.pfx h m) = true := hw
    simp only [okM, Bool.and_eq_true] at this
    obtain ⟨⟨⟨-, hm⟩, -⟩, -⟩ := this
    exact hm
  simp only [cLane, hc, decide_false, Bool.false_or, Bool.and_eq_true, decide_eq_true_eq] at hm
  omega

theorem laneVa_pfx {h : Head} {m : MExt} {v : Wave} {o : Opr} {l : Nat} (hw : WellFormed (.pfx h m) = true)
    (ho : o.words = capture v (specOf (.pfx h m))) (hl : l < 32) :
    laneVa (.pfx h m) o 0 l (offOf (.pfx h m)) = (pfxVa h m v l).toNat := by
  have hoff : offOf (.pfx h m) = m.imm.toInt := sext_toNat m.imm
  have hread := fun k x => opVal_capture (v := v) (sp := specOf (.pfx h m)) (k := k) (x := x) (hl := hl)
  unfold laneVa pfxVa wrap
  rw [hoff, ho]
  dsimp only
  by_cases hc : m.c = 128
  · have hs : (specOf (.pfx h m)).srcs = [lsrc .b h.b.toNat 2 2 false .any] := if_pos hc
    rw [hread 0 _ (by rw [hs]; rfl), srcVal_pair, hs, if_pos hc]
    rfl
  · have hs : (specOf (.pfx h m)).srcs = [lsrc .b h.b.toNat 1 1 false .any, usrc .c m.c.toNat 2 2 false] := if_neg hc
    rw [hread 0 _ (by rw [hs]; rfl), hread 1 _ (by rw [hs]; rfl), srcVal_word, srcVal_base v l (pfx_base_lt hw hc), hs, if_neg hc,
      Nat.add_assoc]
    rfl

/-! ### Each of them under the conditions of issue -/

/-- R298: a prefetch of which no lane must wait. -/
theorem pfx_issues (h : Head) (m : MExt) (s : State) :
    let i := Instr.pfx h m
    let v := curWave s
    let done := (lanesOf (active (specOf i) s)).foldl (fun u l => prefetchLane v.core v.ctx m.sz.toNat u (pfxVa h m v l).toNat)
      (advance (specOf i) s)
    WellFormed i = true → Issuable i s → acquireOut v = false → done.blocked = none → exec i s = .next done := by
  intro i v done hw hi ha hb
  show execPfx h m s = _
  unfold execPfx
  refine (runOp_go_of hi rfl rfl ha _).trans (congrArg Host.Outcome.next (Eq.trans (congrArg (orStall s) ?_) (orStall_go hb)))
  exact List.foldl_rel (r := Eq) rfl fun l hl _ _ hu =>
    congr (congrArg (prefetchLane v.core v.ctx m.sz.toNat) hu) (laneVa_pfx hw rfl (lt_of_mem_lanesOf hl))

/-- R114: a fence behind whose wave nothing is left to report. -/
theorem fence_issues (h : Head) (m : MExt) (s : State) (hi : Issuable (.fence h m) s) (ha : acquireOut (curWave s) = false)
    (hl : loadsOut (curWave s) = false) (hf : mayFault s s.cur.wave = false) (hh : faultHeld (.fence h m) (curWave s) = false)
    (hm : matPending s s.cur.wave = false) (hd : dafRoom s (curWave s).core 1 = true) :
    let sp := specOf (.fence h m)
    exec (.fence h m) s = .next (if active sp s = 0 ∨ m.ord = 0 then advance sp s
      else if m.ord = 1 then selfInvalidate (advance sp s) (curWave s).core
      else
        let o := openOp (.fence h m) sp (active sp s) 0 [] (advance sp s)
        startFence o.2 s.cur.wave o.1) := by
  have hfull : (acquireOut (curWave s) || loadsOut (curWave s) || mayFault s s.cur.wave || faultHeld (.fence h m) (curWave s) ||
      matPending s s.cur.wave || !dafRoom s (curWave s).core 1) = false := by simp [ha, hl, hf, hh, hm, hd]
  show execFence h m s = _
  unfold execFence
  refine (runOp_go_of hi rfl rfl hfull _).trans (congrArg Host.Outcome.next ?_)
  dsimp only
  by_cases h0 : active (specOf (.fence h m)) s = 0
  · rw [if_pos h0, if_pos (.inl h0)]
  · rw [if_neg h0]
    obtain ho | ho | ho : m.ord = 0 ∨ m.ord = 1 ∨ 2 ≤ m.ord.toNat := by bv_omega
    · simp [ho]
    · simpa [ho, curWave] using fun h => absurd h h0
    · have hn0 : m.ord ≠ 0 := by bv_omega
      have hn1 : m.ord ≠ 1 := by bv_omega
      rw [if_neg (by omega), if_neg (by omega), if_neg (not_or.2 ⟨h0, hn0⟩), if_neg hn1]

/-- R112, R300: `wsync` in both its forms, with no result or access of its wave outstanding. -/
theorem wsync_issues (h : Head) (m : MExt) (s : State) (hi : Issuable (.wsync h m) s) (ha : arrivalWaits s s.cur.wave = false) :
    exec (.wsync h m) s = .next (arrive (advance (specOf (.wsync h m)) s) (active (specOf (.wsync h m)) s)) := by
  show execWsync h m s = _
  rw [execWsync, runOp_go_of hi rfl rfl ha]

theorem wsyncShort_issues (h : Head) (s : State) (hi : Issuable (.wsyncShort h) s) (ha : arrivalWaits s s.cur.wave = false) :
    exec (.wsyncShort h) s = .next (arrive (advance (specOf (.wsyncShort h)) s) (active (specOf (.wsyncShort h)) s)) := by
  show execWsyncShort h s = _
  rw [execWsyncShort, runOp_go_of hi rfl rfl ha]

/-- Settles O43: each instruction by its own lemma, the prefetch's addresses by `laneVa_pfx`. -/
theorem fencesAndSyncComplete : Obligations.FencesAndSyncComplete := by
  unfold Obligations.FencesAndSyncComplete
  intro h m s
  exact ⟨pfx_issues h m s, fence_issues h m s, wsync_issues h m s, wsyncShort_issues h s⟩

end Sys2Proof.Machine
end

section
/-! The answer to a back-invalidate snoop (R84) where the changed line finds its set in the L2 full (R43): a HOST line leaves for its host
with the bytes its owner has sent home (R86), those of a write-back that stands parked among them. -/

namespace Sys2Proof.Machine
open Sys2Proof.Machine.State

/-! ### What makes room in a set -/

/-- R43, log 21: in a full set a line makes room by the eviction of an unpinned one, whichever is chosen. -/
theorem l2Room_of_full {P : State → Prop} {s : State} {line : Nat} (hline : tget noL2 s.l2 line = noL2)
    (hfull : 16 ≤ (l2Mates s line).length) (hfree : (l2Mates s line).filter (fun e => e.2.pins.isEmpty) ≠ [])
    (h : ∀ e ∈ (l2Mates s line).filter (fun e => e.2.pins.isEmpty), P (l2Evict (draw s).2 e.1)) : P (l2Room s line) := by
  have hlt : (draw s).1 % ((l2Mates s line).filter fun e => e.2.pins.isEmpty).length <
      ((l2Mates s line).filter fun e => e.2.pins.isEmpty).length := Nat.mod_lt _ (List.length_pos_iff.2 hfree)
  rw [l2Room, if_neg (by simp [hline, hfull])]
  dsimp only
  rw [List.getElem?_eq_getElem hlt]
  exact h _ (List.getElem_mem hlt)

/-- R52: what a write in a slice that is not retired leaves parked is what making room for its line leaves. -/
theorem l2Write_parked {s : State} {line : Nat} {m : BitVec 128} (hm : m ≠ 0) (ho : sliceOut s line = false) :
    (l2Write s line m).parked = (l2Room s line).parked := by
  rw [l2Write, if_neg hm]
  simp [ho]

/-- A request that waited for the host waits for its turn. -/
def answeredBy (p x : Parked) : Parked := if x = p then { x with need := .turn } else x

/-- R84: after the answer with a changed line the requests stand as the write at the home leaves them, but for the one that waited. -/
theorem bisnpResponse_parked {s t : State} {p : Parked} (hp : snoopedBy s (arg s 0) = some p) (hc : arg s 1 ≠ 0)
    (h : exec .bisnpResponse s = .next t) :
    t.parked = (homePut s (arg s 0) (BitVec.allOnes 128) (BitVec.ofNat 1024 (arg s 2))).parked.map (answeredBy p) := by
  have h : execBisnpResponse s = .next t := h
  simp only [execBisnpResponse, hp, if_neg hc] at h
  rw [← Host.Outcome.next.inj h]
  rfl

/-! ### A state in which the room is made by a HOST line -/

/-- A device line of which the host holds a changed copy, and with it in one set of one slice: twelve device lines, pinned, and four
HOST lines. -/
def snoopedLine : Nat := 0x800
def pinnedLines : List Nat :=
  [3540992, 7079936, 10618880, 14157824, 17696768, 21235712, 24774656, 25561088, 28313600, 32638976, 35391488, 39716864]
def ownedHostLines : List Nat := [137441970176, 137443936256, 137447475200, 137449441280]

/-- A load of core 1 that waits for the host's answer. -/
def snoopingLoad : Parked :=
  { line := snoopedLine, msg := { id := 1, core := 1, dest := homeSlice (128 * snoopedLine), vc := 0, body := .load 7 }, need := .bisnp }

/-- A write-back by core 0 of the first word of a line, whose turn has come behind an earlier request of that core. -/
def parkedWriteBack (line : Nat) : Parked :=
  { line := line, need := .turn,
    msg := { id := line, core := 0, dest := homeSlice (128 * line), vc := 0, body := .daf { kind := .wb line 0xF 5 1, accs := [] } } }

/-- The host answers with the changed line, while core 0, the owner of the first word of each HOST line, has sent that word home. -/
def hostAnswers : State :=
  { State.reset with
    args := [snoopedLine, 1, 9], hostHeld := [(snoopedLine, false)], hostOwn := ownedHostLines
    parked := snoopingLoad :: ownedHostLines.map parkedWriteBack
    l2 := pinnedLines.map (fun l => (l, { valid := 15, dirty := 0, pins := [1] })) ++
      ownedHostLines.map fun l => (l, { valid := 15, dirty := 0, pins := [] })
    registry := ownedHostLines.map fun l => { line := l, form := .registered [(0, 0, 0xF)], stamp := 0 } }

/-- The bytes of the answer at their home. -/
def answerHome : State := homeLine hostAnswers snoopedLine (BitVec.allOnes 128) 9

/-- Whichever HOST line leaves, its parked write-back loses the bytes that leave with the line. -/
theorem l2Room_answerHome_parked :
    (l2Room answerHome snoopedLine).parked.map (answeredBy snoopingLoad) ≠ hostAnswers.parked.map (answeredBy snoopingLoad) :=
  l2Room_of_full (P := fun u => u.parked.map (answeredBy snoopingLoad) ≠ hostAnswers.parked.map (answeredBy snoopingLoad))
    (by decide +kernel) (by decide +kernel) (by decide +kernel) (by decide +kernel)

/-- Refutes O59: the clause of BISNP_RESPONSE has the parked requests stand as before, but for the one that waited for the host. In
`hostAnswers` the changed line finds its set full, and the HOST line evicted for it takes the bytes of a parked write-back along. -/
theorem not_homeHostAndFabricEvents : ¬ Obligations.HomeHostAndFabricEvents := by
  unfold Obligations.HomeHostAndFabricEvents
  intro h
  obtain ⟨-, -, -, -, -, -, -, -, -, -, -, -, -, -, -, -, -, -, hanswer, -⟩ := h hostAnswers
  have hwaits : snoopedBy hostAnswers (arg hostAnswers 0) = some snoopingLoad := by decide +kernel
  obtain ⟨t, ht, hparked⟩ := hanswer snoopingLoad hwaits
  have hput : (homePut hostAnswers snoopedLine (BitVec.allOnes 128) 9).parked = (l2Room answerHome snoopedLine).parked :=
    l2Write_parked (by decide) (by decide +kernel)
  apply l2Room_answerHome_parked
  rw [← hput]
  exact (bisnpResponse_parked hwaits (by decide) ht).symm.trans hparked

end Sys2Proof.Machine
end

section
/-! The accesses of a memory instruction (R108, R110, R285): one for each sector that its lanes' addresses name. -/

namespace Sys2Proof.Machine

/-! ### The sectors that addresses name -/

/-- One step of `sectorsOf`: the sector of an address, where it is not yet listed. -/
def addSector (l : List Nat) (p : Nat × Nat) : List Nat := if l.contains (p.2 / 32) then l else l ++ [p.2 / 32]

theorem sectorsOf_eq_foldl (ps : List (Nat × Nat)) : sectorsOf ps = ps.foldl addSector [] := rfl

theorem addSector_of_mem {l : List Nat} {p : Nat × Nat} (h : p.2 / 32 ∈ l) : addSector l p = l :=
  if_pos (List.contains_iff_mem.2 h)

theorem addSector_of_not_mem {l : List Nat} {p : Nat × Nat} (h : p.2 / 32 ∉ l) : addSector l p = l ++ [p.2 / 32] :=
  if_neg fun hc => h (List.contains_iff_mem.1 hc)

theorem mem_addSector {l : List Nat} {p : Nat × Nat} {sec : Nat} : sec ∈ addSector l p ↔ sec ∈ l ∨ p.2 / 32 = sec := by
  by_cases h : p.2 / 32 ∈ l
  · rw [addSector_of_mem h]
    exact ⟨.inl, fun hs => hs.elim id fun hsec => hsec ▸ h⟩
  · rw [addSector_of_not_mem h, List.mem_append, List.mem_singleton, eq_comm (a := sec)]

theorem nodup_addSector {l : List Nat} (p : Nat × Nat) (hl : l.Nodup) : (addSector l p).Nodup := by
  by_cases h : p.2 / 32 ∈ l
  · rwa [addSector_of_mem h]
  · rw [addSector_of_not_mem h, List.nodup_append]
    refine ⟨hl, List.nodup_cons.2 ⟨List.not_mem_nil, List.nodup_nil⟩, fun a ha b hb hab => h ?_⟩
    rw [← List.mem_singleton.1 hb, ← hab]
    exact ha

theorem mem_foldl_addSector {ps : List (Nat × Nat)} {l : List Nat} {sec : Nat} :
    sec ∈ ps.foldl addSector l ↔ sec ∈ l ∨ ∃ p ∈ ps, p.2 / 32 = sec := by
  induction ps generalizing l with
  | nil => simp only [List.foldl_nil, List.not_mem_nil, false_and, exists_false, or_false]
  | cons p r ih => simp only [List.foldl_cons, ih, mem_addSector, or_assoc, List.mem_cons, or_and_right, exists_or,
      exists_eq_left]

theorem mem_sectorsOf {ps : List (Nat × Nat)} {sec : Nat} : sec ∈ sectorsOf ps ↔ ∃ p ∈ ps, p.2 / 32 = sec := by
  rw [sectorsOf_eq_foldl, mem_foldl_addSector]
  exact or_iff_right List.not_mem_nil

theorem nodup_foldl_addSector (ps : List (Nat × Nat)) {l : List Nat} (hl : l.Nodup) : (ps.foldl addSector l).Nodup := by
  induction ps generalizing l with
  | nil => exact hl
  | cons p r ih => exact ih (nodup_addSector p hl)

theorem nodup_sectorsOf (ps : List (Nat × Nat)) : (sectorsOf ps).Nodup :=
  nodup_foldl_addSector ps List.nodup_nil

/-! ### One access for each of them -/

/-- What an access for the addresses `ps` is to be: of wave `w` and operation `o`, of `n` bytes and of class `cls`, with all the addresses
that lie in its own sector as its parts. -/
structure SectorAcc (w : Nat) (o : Opr) (n : Nat) (cls : AccClass) (ps : List (Nat × Nat)) (a : Acc) : Prop where
  op : a.op = o.id
  wave : a.wave = w
  cls : a.cls = cls
  width : a.n = n
  parts : a.parts = ps.filter fun p => p.2 / 32 = a.va / 32

section Accesses

variable {w : Nat} {o : Opr} {n : Nat} {cls : AccClass} {data : Option (Nat → Nat)} {ps : List (Nat × Nat)}

/-- The address that names an access, the first in a sector that one names, lies in that sector. -/
theorem sector_head_filter {sec : Nat} (h : ∃ p ∈ ps, p.2 / 32 = sec) :
    (((ps.filter fun p => p.2 / 32 = sec).head?.map (·.2)).getD 0) / 32 = sec := by
  obtain ⟨p, hp, hsec⟩ := h
  cases hm : ps.filter fun p => p.2 / 32 = sec with
  | nil => exact absurd (decide_eq_true hsec) (List.filter_eq_nil_iff.1 hm p hp)
  | cons q r =>
    have hq : q ∈ ps.filter fun p => p.2 / 32 = sec := hm ▸ List.mem_cons_self
    exact of_decide_eq_true (List.mem_filter.1 hq).2

/-- Making accesses uses up names and changes nothing else. -/
theorem sectorAccs_frame (secs : List Nat) (s : State) :
    (sectorAccs w o n cls data ps secs s).1 = { s with nextId := (sectorAccs w o n cls data ps secs s).1.nextId } := by
  induction secs generalizing s with
  | nil => rfl
  | cons sec r ih => exact ih _

theorem sectorAccs_sectors (secs : List Nat) (s : State) (h : ∀ sec ∈ secs, ∃ p ∈ ps, p.2 / 32 = sec) :
    ((sectorAccs w o n cls data ps secs s).2.map fun a => a.va / 32) = secs := by
  induction secs generalizing s with
  | nil => rfl
  | cons sec r ih =>
    obtain ⟨hsec, hr⟩ := List.forall_mem_cons.1 h
    exact congr (congrArg List.cons (sector_head_filter hsec)) (ih _ hr)

theorem sectorAccs_each (secs : List Nat) (s : State) (h : ∀ sec ∈ secs, ∃ p ∈ ps, p.2 / 32 = sec) :
    ∀ a ∈ (sectorAccs w o n cls data ps secs s).2, SectorAcc w o n cls ps a := by
  induction secs generalizing s with
  | nil => exact fun a ha => absurd ha List.not_mem_nil
  | cons sec r ih =>
    obtain ⟨hsec, hr⟩ := List.forall_mem_cons.1 h
    refine List.forall_mem_cons.2 ⟨⟨rfl, rfl, rfl, rfl, ?_⟩, ih _ hr⟩
    exact congrArg (fun k => ps.filter fun p => p.2 / 32 = k) (sector_head_filter hsec).symm

end Accesses

/-- Settles O40: the accesses have the sectors named (`sectorAccs_sectors`), each once (`nodup_sectorsOf`), and each all the addresses of
its own sector (`sectorAccs_each`). -/
theorem oneAccessForEachSector : Obligations.OneAccessForEachSector := by
  unfold Obligations.OneAccessForEachSector
  intro w o n cls data ps s
  have hnamed : ∀ sec ∈ sectorsOf ps, ∃ p ∈ ps, p.2 / 32 = sec := fun _ => mem_sectorsOf.1
  have hsectors := sectorAccs_sectors (w := w) (o := o) (n := n) (cls := cls) (data := data) _ s hnamed
  have heach := sectorAccs_each (w := w) (o := o) (n := n) (cls := cls) (data := data) _ s hnamed
  refine ⟨fun p hp => ?_, fun a ha p hp => ?_, ?_, fun a ha => ?_, sectorAccs_frame _ s⟩
  · have hsec : p.2 / 32 ∈ sectorsOf ps := mem_sectorsOf.2 ⟨p, hp, rfl⟩
    rw [← hsectors] at hsec
    obtain ⟨a, ha, hap⟩ := List.mem_map.1 hsec
    refine ⟨a, ha, ?_⟩
    rw [(heach a ha).parts]
    exact List.mem_filter.2 ⟨hp, decide_eq_true hap.symm⟩
  · rw [(heach a ha).parts] at hp
    obtain ⟨hmem, hsec⟩ := List.mem_filter.1 hp
    exact ⟨hmem, of_decide_eq_true hsec⟩
  · rw [hsectors]
    exact nodup_sectorsOf ps
  · obtain ⟨hop, hwave, hcls, hn, -⟩ := heach a ha
    exact ⟨hop, hwave, hcls, hn⟩

end Sys2Proof.Machine
end

section
/-! The episodes of `wsync` (R112): what the lanes of a wave are once one completes. -/

namespace Sys2Proof.Machine

/-! ### Sets of lanes -/

/-- Lane `k` put into the set, where `b` holds. -/
theorem inLanes_insert (b : Bool) (m : Lanes) (k : Nat) {l : Nat} (hl : l < 32) :
    inLanes (if b then m ||| (1#32 <<< k) else m) l = (inLanes m l || (decide (l = k) && b)) := by
  have hbit : (!decide (l < k) && decide (l - k = 0)) = decide (l = k) := by
    rw [Bool.eq_iff_iff]
    simp only [Bool.and_eq_true, Bool.not_eq_true', decide_eq_true_eq, decide_eq_false_iff_not]
    omega
  cases b <;> simp [inLanes, hl, hbit]

/-- The set that the first `n` lanes build up. -/
theorem inLanes_foldl_range (p : Nat → Bool) {n l : Nat} (hl : l < 32) :
    inLanes ((List.range n).foldl (fun m k => if p k then m ||| (1#32 <<< k) else m) 0) l = (decide (l < n) && p l) := by
  induction n with
  | zero => simp [inLanes]
  | succ n ih =>
    rw [List.range_succ, List.foldl_append, List.foldl_cons, List.foldl_nil, inLanes_insert _ _ _ hl, ih]
    rcases Nat.lt_trichotomy l n with h | rfl | h
    · simp only [h, Nat.lt_succ_of_lt h, Nat.ne_of_lt h, decide_true, decide_false, Bool.true_and, Bool.false_and, Bool.or_false]
    · simp only [Nat.lt_irrefl, Nat.lt_succ_self, decide_true, decide_false, Bool.true_and, Bool.false_and, Bool.false_or]
    · simp only [Nat.not_lt_of_gt h, Nat.not_lt_of_ge h, (Nat.ne_of_lt h).symm, decide_false, Bool.false_and, Bool.or_false]

theorem inLanes_lanesWhere (p : Nat → Bool) {l : Nat} (hl : l < 32) : inLanes (lanesWhere p) l = p l :=
  (inLanes_foldl_range p hl).trans (by rw [decide_eq_true hl, Bool.true_and])

theorem inLanes_lanesThat (v : Wave) (p : Lane → Bool) {l : Nat} (hl : l < 32) : inLanes (lanesThat v p) l = p (ln v l) :=
  inLanes_lanesWhere _ hl

/-! ### Waking -/

/-- R166: outside a handler each live lane of `m` is awake at once, and every other lane stays. -/
theorem ln_wake (v : Wave) (m : Lanes) (l : Nat) (hi : inh v = false) :
    ln (wake v m) l = if inLanes m l && !(ln v l).exited then { ln v l with sleep := .awake } else ln v l := by
  have hskip : ∀ x : Lane, (if inLanes m l && !x.exited && decide (x.sleep ≠ .awake) then { x with sleep := .awake } else x) =
      if inLanes m l && !x.exited then { x with sleep := .awake } else x := by
    rintro ⟨pc, exited, sleep⟩
    cases sleep <;> simp
  simp only [ln, wake, List.getD_eq_getElem?_getD, List.getElem?_mapIdx, hi]
  cases v.lanes[l]? with
  | none => simp [State.idleLane]
  | some x => exact hskip x

/-- The count of arrivals is no part of a lane. -/
@[simp] theorem ln_wsyncArrived (v : Wave) (m : Lanes) (l : Nat) : ln { v with wsyncArrived := m } l = ln v l := rfl

/-! ### The episode -/

theorem wsyncCheck_complete {v : Wave} (ha : v.wsyncArrived ≠ 0) (hm : wsyncMissing v = 0) :
    wsyncCheck v = wake { v with wsyncArrived := 0 } (lanesThat v fun x => decide (x.sleep = .wsync)) :=
  if_pos ⟨ha, hm⟩

theorem wsyncCheck_incomplete {v : Wave} (hm : wsyncMissing v ≠ 0) : wsyncCheck v = v :=
  if_neg fun h => hm h.2

theorem ln_wsyncCheck {v : Wave} {l : Nat} (ha : v.wsyncArrived ≠ 0) (hm : wsyncMissing v = 0) (hi : inh v = false) (hl : l < 32) :
    ln (wsyncCheck v) l =
      if (ln v l).sleep = .wsync ∧ (ln v l).exited = false then { ln v l with sleep := .awake } else ln v l := by
  have hwoken := ln_wake { v with wsyncArrived := 0 } (lanesThat v fun x => decide (x.sleep = .wsync)) l hi
  rw [inLanes_lanesThat _ _ hl] at hwoken
  simpa [wsyncCheck_complete ha hm] using hwoken

/-- Settles O44: by whether a lane is missing; which lanes a completed episode wakes is `ln_wsyncCheck`. -/
theorem wsyncEpisode : Obligations.WsyncEpisode := by
  unfold Obligations.WsyncEpisode
  intro v ha hi
  refine ⟨fun hm => ⟨?_, fun l hl hlive hwait => ?_, fun l hl hwait => ?_⟩, wsyncCheck_incomplete⟩
  · rw [wsyncCheck_complete ha hm]
    rfl
  · rw [ln_wsyncCheck ha hm hi hl, if_pos ⟨hwait, hlive⟩]
  · rw [ln_wsyncCheck ha hm hi hl, if_neg fun h => hwait h.1]

end Sys2Proof.Machine
end

section
/-! Barrier objects (R131 to R133, R139): an object reads back the fields it is made of, and each operation by the object that it leaves. -/

namespace Sys2Proof.Machine

/-! ### Signed fields (R9) -/

theorem wrap_lt (x : Int) : wrap 32 x < 2 ^ 32 := by
  unfold wrap
  omega

/-- A number that a signed field of 32 bits can hold is what the field reads. -/
theorem sext_wrap {x : Int} (hl : -(2 ^ 31) ≤ x) (hu : x < 2 ^ 31) : sext 32 (wrap 32 x) = x := by
  unfold sext wrap
  split <;> omega

/-- The bits of a signed field do not change by being read and written again. -/
theorem wrap_sext (n : Nat) : wrap 32 (sext 32 n) = wrap 32 n := by
  unfold sext wrap
  split <;> omega

/-! ### The fields of an object (R131) -/

section Fields

variable (phase arr arrPer bytesPer : Nat) (left : Int)

theorem barPhase_barObject : barPhase (barObject phase arr arrPer left bytesPer) = phase % 2 ^ 32 := by
  simp only [barPhase, barObject, bits, Nat.shiftRight_eq_div_pow]
  omega

theorem barArrLeft_barObject : barArrLeft (barObject phase arr arrPer left bytesPer) = arr % 2 ^ 16 := by
  simp only [barArrLeft, barObject, bits, Nat.shiftRight_eq_div_pow]
  omega

theorem barArrPer_barObject : barArrPer (barObject phase arr arrPer left bytesPer) = arrPer % 2 ^ 16 := by
  simp only [barArrPer, barObject, bits, Nat.shiftRight_eq_div_pow]
  omega

theorem barBytesLeft_barObject : barBytesLeft (barObject phase arr arrPer left bytesPer) = sext 32 (wrap 32 left) := by
  have hbits : bits (barObject phase arr arrPer left bytesPer) 95 64 = wrap 32 left := by
    have hleft := wrap_lt left
    simp only [barObject, bits, Nat.shiftRight_eq_div_pow]
    omega
  rw [barBytesLeft, hbits]

theorem barBytesPer_barObject : barBytesPer (barObject phase arr arrPer left bytesPer) = bytesPer % 2 ^ 32 := by
  have hleft := wrap_lt left
  simp only [barBytesPer, barObject, bits, Nat.shiftRight_eq_div_pow]
  omega

/-- An object is reloaded with BYTESPER, whether or not its bits are read as a signed number first. -/
theorem barObject_sext : barObject phase arr arrPer (sext 32 bytesPer) bytesPer = barObject phase arr arrPer bytesPer bytesPer := by
  rw [barObject, wrap_sext]
  rfl

end Fields

/-- R131: the values fit the fields of an object. -/
structure FitsBar (phase arr arrPer : Nat) (left : Int) (bytesPer : Nat) : Prop where
  phase : phase < 2 ^ 32
  arr : arr < 2 ^ 16
  arrPer : arrPer < 2 ^ 16
  bytesPer : bytesPer < 2 ^ 32
  leftLow : -(2 ^ 31) ≤ left
  leftHigh : left < 2 ^ 31

/-- R132: the object in its next phase, reloaded. -/
def barNext (phase arrPer bytesPer : Nat) : Nat := barObject (phase + 1) arrPer arrPer bytesPer bytesPer

section Operations

variable {phase arr arrPer bytesPer : Nat} {left : Int}

theorem FitsBar.with_arr (h : FitsBar phase arr arrPer left bytesPer) {k : Nat} (hk : k ≤ arr) :
    FitsBar phase k arrPer left bytesPer := { h with arr := Nat.lt_of_le_of_lt hk h.arr }

theorem FitsBar.with_left (h : FitsBar phase arr arrPer left bytesPer) {x : Int} (hl : -(2 ^ 31) ≤ x) (hu : x < 2 ^ 31) :
    FitsBar phase arr arrPer x bytesPer := { h with leftLow := hl, leftHigh := hu }

/-- Values that fit are what the fields read. -/
theorem FitsBar.reads (h : FitsBar phase arr arrPer left bytesPer) :
    let b := barObject phase arr arrPer left bytesPer
    barPhase b = phase ∧ barArrLeft b = arr ∧ barArrPer b = arrPer ∧ barBytesLeft b = left ∧ barBytesPer b = bytesPer :=
  ⟨(barPhase_barObject ..).trans (Nat.mod_eq_of_lt h.phase), (barArrLeft_barObject ..).trans (Nat.mod_eq_of_lt h.arr),
    (barArrPer_barObject ..).trans (Nat.mod_eq_of_lt h.arrPer), (barBytesLeft_barObject ..).trans (sext_wrap h.leftLow h.leftHigh),
    (barBytesPer_barObject ..).trans (Nat.mod_eq_of_lt h.bytesPer)⟩

theorem barNext_reads (hp : arrPer < 2 ^ 16) (hb : bytesPer < 2 ^ 32) :
    let b := barNext phase arrPer bytesPer
    barPhase b = (phase + 1) % 2 ^ 32 ∧ barArrLeft b = arrPer ∧
      barBytesLeft b = if bytesPer < 2 ^ 31 then (bytesPer : Int) else bytesPer - 2 ^ 32 := by
  refine ⟨barPhase_barObject .., (barArrLeft_barObject ..).trans (Nat.mod_eq_of_lt hp), (barBytesLeft_barObject ..).trans ?_⟩
  unfold sext wrap
  split <;> split <;> omega

/-! ### What the operations leave (R132, R133) -/

theorem barDone_barObject (h : FitsBar phase arr arrPer left bytesPer) : barDone (barObject phase arr arrPer left bytesPer) =
    if arr = 0 ∧ left = 0 then barNext phase arrPer bytesPer else barObject phase arr arrPer left bytesPer := by
  obtain ⟨hphase, harr, hper, hleft, hbytes⟩ := h.reads
  rw [barDone, hphase, harr, hper, hleft, hbytes, barObject_sext]
  rfl

theorem barArriveOp_none (h : FitsBar phase 0 arrPer left bytesPer) : barArriveOp (barObject phase 0 arrPer left bytesPer) = .error 2 := by
  obtain ⟨-, harr, -⟩ := h.reads
  exact if_pos harr

theorem barArriveOp_takes (h : FitsBar phase arr arrPer left bytesPer) (ha : arr ≠ 0) :
    barArriveOp (barObject phase arr arrPer left bytesPer) =
      .ok (if arr = 1 ∧ left = 0 then barNext phase arrPer bytesPer else barObject phase (arr - 1) arrPer left bytesPer) := by
  obtain ⟨hphase, harr, hper, hleft, hbytes⟩ := h.reads
  have hlast : arr - 1 = 0 ↔ arr = 1 := by omega
  rw [barArriveOp, hphase, harr, hper, hleft, hbytes, if_neg ha, barDone_barObject (h.with_arr (Nat.sub_le ..))]
  simp only [hlast]

theorem barCountOp_barObject (h : FitsBar phase arr arrPer left bytesPer) (n : Int) :
    barCountOp (barObject phase arr arrPer left bytesPer) n =
      if left + n < -(2 ^ 31) ∨ 2 ^ 31 - 1 < left + n then .error 2
      else .ok (if arr = 0 ∧ left + n = 0 then barNext phase arrPer bytesPer else barObject phase arr arrPer (left + n) bytesPer) := by
  obtain ⟨hphase, harr, hper, hleft, hbytes⟩ := h.reads
  rw [barCountOp, hphase, harr, hper, hleft, hbytes]
  by_cases hout : left + n < -(2 ^ 31) ∨ 2 ^ 31 - 1 < left + n
  · rw [if_pos hout, if_pos hout]
  · rw [if_neg hout, if_neg hout, barDone_barObject (h.with_left (by omega) (by omega))]

theorem barApply_barInit (arrivals bytes b : Nat) : barApply (.barInit arrivals bytes) b =
    if (arrivals = 0 ∧ bytes = 0) ∨ 2 ^ 31 ≤ bytes ∨ 2 ^ 16 ≤ arrivals then (b, some 3)
    else (barObject 0 arrivals arrivals bytes bytes, none) := by
  by_cases hbad : (arrivals = 0 ∧ bytes = 0) ∨ 2 ^ 31 ≤ bytes ∨ 2 ^ 16 ≤ arrivals
  · rw [if_pos hbad, barApply, barInitOp, if_pos (by omega)]
  · rw [if_neg hbad, barApply, barInitOp, if_neg (by omega)]

/-- The next of the arrivals finds none to take: it ends them. -/
theorem barApply_barArr_none (h : FitsBar phase 0 arrPer left bytesPer) (k : Nat) :
    barApply (.barArr (k + 1)) (barObject phase 0 arrPer left bytesPer) = (barObject phase 0 arrPer left bytesPer, some 2) := by
  rw [barApply, barArrivesOp, barArriveOp_none h]

/-- The next of the arrivals takes one, and the others find what it leaves. -/
theorem barApply_barArr_takes (h : FitsBar phase arr arrPer left bytesPer) (ha : arr ≠ 0) (k : Nat) :
    barApply (.barArr (k + 1)) (barObject phase arr arrPer left bytesPer) = barApply (.barArr k)
      (if arr = 1 ∧ left = 0 then barNext phase arrPer bytesPer else barObject phase (arr - 1) arrPer left bytesPer) := by
  rw [barApply, barArrivesOp, barArriveOp_takes h ha]
  rfl

theorem barApply_barArr_succ (h : FitsBar phase arr arrPer left bytesPer) (k : Nat) :
    barApply (.barArr (k + 1)) (barObject phase arr arrPer left bytesPer) =
      if arr = 0 then (barObject phase arr arrPer left bytesPer, some 2)
      else barApply (.barArr k)
        (if arr = 1 ∧ left = 0 then barNext phase arrPer bytesPer else barObject phase (arr - 1) arrPer left bytesPer) := by
  by_cases ha : arr = 0
  · subst ha
    rw [if_pos rfl, barApply_barArr_none h]
  · rw [if_neg ha, barApply_barArr_takes h ha]

/-- While bytes are outstanding no arrival ends the phase, so that they take what there is. -/
theorem barApply_barArr_of_left (hl : left ≠ 0) (k : Nat) : ∀ {arr : Nat}, FitsBar phase arr arrPer left bytesPer →
    barApply (.barArr k) (barObject phase arr arrPer left bytesPer) =
      (barObject phase (arr - k) arrPer left bytesPer, if k ≤ arr then none else some 2) := by
  induction k with
  | zero => exact fun _ => rfl
  | succ k ih =>
    intro arr h
    cases arr with
    | zero => rw [barApply_barArr_none h, Nat.zero_sub, if_neg (Nat.not_succ_le_zero k)]
    | succ a =>
      rw [barApply_barArr_takes h a.succ_ne_zero, if_neg (fun hend => hl hend.2), Nat.add_sub_cancel, ih (h.with_arr a.le_succ),
        Nat.add_sub_add_right]
      simp only [Nat.add_le_add_iff_right]

theorem barApply_barExp (h : FitsBar phase arr arrPer left bytesPer) (k : Nat) :
    barApply (.barExp k) (barObject phase arr arrPer left bytesPer) =
      if k = 0 ∨ 2 ^ 31 ≤ k then (barObject phase arr arrPer left bytesPer, some 3)
      else if 2 ^ 31 ≤ left + k then (barObject phase arr arrPer left bytesPer, some 2)
      else if arr = 0 ∧ left + k = 0 then (barNext phase arrPer bytesPer, none)
      else (barObject phase arr arrPer (left + k) bytesPer, none) := by
  have hlow := h.leftLow
  rw [barApply, barExpOp, barCountOp_barObject h]
  by_cases hbad : k = 0 ∨ 2 ^ 31 ≤ k
  · rw [if_pos hbad, if_pos (by omega)]
  rw [if_neg hbad, if_neg (by omega)]
  by_cases hover : 2 ^ 31 ≤ left + k
  · rw [if_pos hover, if_pos (by omega)]
  rw [if_neg hover, if_neg (by omega)]
  split <;> rfl

theorem barReturns_barObject (h : FitsBar phase arr arrPer left bytesPer) (p : Nat) :
    barReturns (barObject phase arr arrPer left bytesPer) p =
      decide (1 ≤ ((phase : Int) - p) % 2 ^ 32 ∧ ((phase : Int) - p) % 2 ^ 32 ≤ 2 ^ 31 - 1) := by
  obtain ⟨hphase, -⟩ := h.reads
  rw [barReturns, hphase, wrap, ← Bool.decide_and]
  exact decide_eq_decide.2 (by omega)

/-! ### The credit of a copy (R139) -/

theorem creditApply_of_mode {s : State} {c : Copy} (hm : scrMode s (gp s c.group) (recTarget c.bytes) 16 = false) (k : Nat) :
    creditApply s c k = (s, some (10, 0x22)) := by
  rw [creditApply, hm]
  rfl

theorem creditApply_barObject (h : FitsBar phase arr arrPer left bytesPer) {s : State} {c : Copy}
    (hm : scrMode s (gp s c.group) (recTarget c.bytes) 16 = true)
    (hr : scrRead s (gp s c.group) (recTarget c.bytes) 16 = barObject phase arr arrPer left bytesPer) (k : Nat) :
    creditApply s c k =
      if left - k < -(2 ^ 31) then (s, some (11, 2))
      else if arr = 0 ∧ left - k = 0 then (scrWrite s (gp s c.group) (recTarget c.bytes) 16 (barNext phase arrPer bytesPer), none)
      else (scrWrite s (gp s c.group) (recTarget c.bytes) 16 (barObject phase arr arrPer (left - k) bytesPer), none) := by
  have hhigh := h.leftHigh
  simp only [creditApply, hm, hr, barCountOp_barObject h, ← Int.sub_eq_add_neg, Bool.not_true, Bool.false_eq_true, if_false]
  by_cases hunder : left - k < -(2 ^ 31)
  · rw [if_pos hunder, if_pos (.inl hunder)]
  rw [if_neg hunder, if_neg (by omega)]
  dsimp only
  split <;> rfl

end Operations

/-- Settles O46: each operation by its own lemma; what they share is `FitsBar.reads`, that an object reads back its fields, and
`barDone_barObject`. -/
theorem barrierObject : Obligations.BarrierObject := by
  unfold Obligations.BarrierObject
  intro phase arr arrPer bytes bytesPer k left hphase harr hper hbytes hlow hhigh
  have h : FitsBar phase arr arrPer left bytesPer := ⟨hphase, harr, hper, hbytes, hlow, hhigh⟩
  exact ⟨h.reads, barNext_reads hper hbytes, barApply_barInit k bytes _, rfl, barApply_barArr_succ h k,
    fun hl => barApply_barArr_of_left hl k h, barApply_barExp h k,
    fun _ _ => ⟨fun hm => creditApply_of_mode hm k, fun hm hr => creditApply_barObject h hm hr k⟩, barReturns_barObject h⟩

end Sys2Proof.Machine
end

section
/-! The events of copies (R137 to R144), of waits (R133, R140), of imago cells (R155, R156) and of graphics (R55 to R57, R356 to R363), one
lemma for each occasion. -/

namespace Sys2Proof.Machine
open Sys2Proof.Machine.State

/-- An event that leads to `t` where nothing it needs has to wait, and leaves the state where its own accesses must (log 127). -/
def GoesOrWaits (s : State) (i : Instr) (t : State) : Prop :=
  (t.blocked = none → exec i s = .next t) ∧ (t.blocked = some 0 → exec i s = .next s)

theorem goesOrWaits_of_orWait {s t : State} {i : Instr} (h : exec i s = .next (orWait s t)) : GoesOrWaits s i t :=
  ⟨fun hb => by rw [h, orWait_of_free hb], fun hb => by rw [h, orWait_of_wait hb]⟩

/-! ### Copies and `pub` (R137 to R139, R144) -/

theorem scarabFetch_fetches (s : State) (c : Copy) (hf : nextFetch s (arg s 0) = some c) :
    exec .scarabFetch s = .next (fetchCopy s c) := by
  show execScarabFetch s = _
  rw [execScarabFetch, hf]

/-- R138, R139: what a copy's turn does: the credit of an acknowledged piece, or the next piece. -/
theorem copyPiece_turn {s : State} {c : Copy} (hf : findCopy s (arg s 0) = some c) (ho : copyOrphan s c = false)
    (hg : pieceGoes s c = true) : GoesOrWaits s .copyPiece (if c.hold = 5 then pieceAcked s c else copyPiece s c) := by
  refine goesOrWaits_of_orWait ?_
  show execCopyPiece s = _
  rw [execCopyPiece, hf]
  dsimp only
  rw [if_neg (Bool.eq_false_iff.1 ho), if_pos hg]

theorem scarabFifoResume_goes {s : State} {c : Copy} (hf : findCopy s (arg s 0) = some c) (hr : fifoFree s c = true) :
    GoesOrWaits s .scarabFifoResume (copyPiece s { c with hold := 0 }) := by
  refine goesOrWaits_of_orWait ?_
  show execScarabFifoResume s = _
  rw [execScarabFifoResume, hf]
  dsimp only
  rw [if_pos hr]

theorem copyEvents_go (s : State) (c : Copy) (hf : findCopy s (arg s 0) = some c) :
    (copyOrphan s c = false → pieceGoes s c = true →
      (c.hold ≠ 5 → GoesOrWaits s .copyPiece (copyPiece s c)) ∧ (c.hold = 5 → GoesOrWaits s .copyPiece (pieceAcked s c))) ∧
    (fifoFree s c = true → GoesOrWaits s .scarabFifoResume (copyPiece s { c with hold := 0 })) := by
  refine ⟨fun ho hg => ⟨fun hn => ?_, fun h5 => ?_⟩, scarabFifoResume_goes hf⟩
  · simpa only [if_neg hn] using copyPiece_turn hf ho hg
  · simpa only [if_pos h5] using copyPiece_turn hf ho hg

theorem pubSwap_swaps (s : State) (p : PubOp) (hf : (s.pubs.find? fun p => p.id = arg s 0) = some p) (hr : pubReady s p = true) :
    exec .pubSwap s = .next
      (completeOp (pubAgain (p.pages.foldl pubSwapPage { s with pubs := s.pubs.filter fun x => x.id ≠ p.id }) p) p.wave p.op 0 1) := by
  show execPubSwap s = _
  rw [execPubSwap, hf]
  dsimp only
  rw [if_pos hr]

/-! ### Waits (R133, R140) -/

theorem barrierWake_wakes {s : State} {x : Waiter} (hf : findWaiter s (arg s 0) = some x) (hd : wakeDue s x = true) :
    exec .barrierWake s = .next (completeOp (selfInvalidate (endWait s x) (wv s x.wave).core) x.wave x.op x.lanes 0) := by
  show execBarrierWake s = _
  rw [execBarrierWake, hf]
  dsimp only
  rw [if_pos hd]

theorem waddrWake_returns {s : State} {x : Waiter} (hf : findWaiter s (arg s 0) = some x) (hx : x.dst = 1)
    (hw : x.woken = true ∨ waiterReady s x = true ∨ (wv s x.wave).request = true) :
    exec .waddrWake s = .next (waddrReturn s x) := by
  have hover : (x.woken || waiterReady s x || (wv s x.wave).request) = true := by rwa [Bool.or_eq_true, Bool.or_eq_true, or_assoc]
  show execWaddrWake s = _
  rw [execWaddrWake, hf]
  dsimp only
  rw [if_pos ⟨hx, hover⟩]

theorem waddrTimeout_returns {s : State} {x : Waiter} (hf : findWaiter s (arg s 0) = some x) (hx : x.dst = 1)
    (hd : x.deadline ≤ cycAt s (wv s x.wave).core) : exec .waddrTimeout s = .next (waddrReturn s x) := by
  show execWaddrTimeout s = _
  rw [execWaddrTimeout, hf]
  dsimp only
  rw [if_pos ⟨hx, hd⟩]

theorem waitEvents_end (s : State) (x : Waiter) (hf : findWaiter s (arg s 0) = some x) :
    (wakeDue s x = true → exec .barrierWake s = .next
      (completeOp (selfInvalidate (endWait s x) (wv s x.wave).core) x.wave x.op x.lanes 0)) ∧
    (x.dst = 1 → (x.woken = true ∨ waiterReady s x = true ∨ (wv s x.wave).request = true) →
      exec .waddrWake s = .next (waddrReturn s x)) ∧
    (x.dst = 1 → x.deadline ≤ cycAt s (wv s x.wave).core → exec .waddrTimeout s = .next (waddrReturn s x)) :=
  ⟨barrierWake_wakes hf, waddrWake_returns hf, waddrTimeout_returns hf⟩

/-! ### Imago cells (R155, R156) -/

section Imago

variable {s : State} {x : Acc} {op g v : Nat}

theorem imagoResult_returns (hf : findAcc s (arg s 0) = some x) (ha : x.act = .imago op g v) (hr : x.stage = .ret)
    (ht : dataTurn s x.id = true) : exec .imagoResult s = .next (imagoDeliver (dataCome s x.id) x x.val) := by
  show execImagoResult s = _
  simp only [execImagoResult, hf, ha, hr, if_pos ht]

theorem imagoResult_remote (hf : findAcc s (arg s 0) = some x) (ha : x.act = .imago op g v) (hh : x.stage = .home)
    (hd : remoteDest (destOf s x.pa) = true) : exec .imagoResult s = .next
      (if arg s 2 ≠ 0 then failAcc (forgetFar s x.id) x 10 (statusWord (arg s 2 % 256) x.lvl 8 (kindNum x.kind) true)
       else imagoDeliver (forgetFar s x.id) x (arg s 1)) := by
  show execImagoResult s = _
  simp only [execImagoResult, hf, ha, hh, hd, Bool.not_true, Bool.false_eq_true, if_false]

theorem cgetTimeout_empties (hf : findAcc s (arg s 0) = some x) (ha : x.act = .imago op g v) (he : getExpired s x = true) :
    exec .cgetTimeout s = .next (imagoDeliver (forgetFar s x.id) x (imagoVal 5 g 0)) := by
  show execCgetTimeout s = _
  simp only [execCgetTimeout, hf, ha, if_pos he]

theorem cgetWake_delivers (hf : findAcc s (arg s 0) = some x) (hp : parkedGet x = true) (hs : x.status = 1) :
    exec .cgetWake s = .next (imagoDeliver s x x.val) := by
  show execCgetWake s = _
  rw [execCgetWake, hf]
  dsimp only
  rw [if_pos (by rw [hp, hs]; rfl)]

end Imago

theorem imagoEvents_deliver (s : State) (x : Acc) (hf : findAcc s (arg s 0) = some x) :
    (∀ op g v, x.act = .imago op g v →
      (x.stage = .ret → dataTurn s x.id = true → exec .imagoResult s = .next (imagoDeliver (dataCome s x.id) x x.val)) ∧
      (x.stage = .home → remoteDest (destOf s x.pa) = true →
        (arg s 2 = 0 → exec .imagoResult s = .next (imagoDeliver (forgetFar s x.id) x (arg s 1))) ∧
        (arg s 2 ≠ 0 → exec .imagoResult s = .next
          (failAcc (forgetFar s x.id) x 10 (statusWord (arg s 2 % 256) x.lvl 8 (kindNum x.kind) true)))) ∧
      (getExpired s x = true → exec .cgetTimeout s = .next (imagoDeliver (forgetFar s x.id) x (imagoVal 5 g 0)))) ∧
    (parkedGet x = true → x.status = 1 → exec .cgetWake s = .next (imagoDeliver s x x.val)) := by
  refine ⟨fun op g v ha => ⟨imagoResult_returns hf ha, fun hh hd => ⟨fun h0 => ?_, fun hn => ?_⟩, cgetTimeout_empties hf ha⟩,
    cgetWake_delivers hf⟩
  · rw [imagoResult_remote hf ha hh hd, if_neg fun hn => hn h0]
  · rw [imagoResult_remote hf ha hh hd, if_pos hn]

/-! ### Fragments and the tiles that they meet (R55 to R57, R356) -/

/-- The fragment that an event names goes on where the event's condition holds of it. -/
theorem fragEvent_of {p : State → Fragment → Bool} {s : State} {f : Fragment} (hf : (s.frags.find? fun f => f.id = arg s 0) = some f)
    (hp : p s f = true) (go : State → Fragment → State) : fragEvent p go s = .next (orWait s (go s f)) := by
  rw [fragEvent, hf]
  dsimp only
  rw [if_pos hp]

theorem fragEvents_go (s : State) (i : Instr) (ready : State → Fragment → Bool) (go : State → Fragment → State)
    (h : (i, ready, go) ∈ [(Instr.rastFragment, fragReady,
        fun (s : State) (f : Fragment) => if f.held = 3 then setupFrag s f else arriveFrag s f),
      (.tileFragmentResume, fragResumes, arriveFrag), (.pinLimitResume, fragUnpinned, arriveFrag)])
    (f : Fragment) (hf : (s.frags.find? fun f => f.id = arg s 0) = some f) (hr : ready s f = true) : GoesOrWaits s i (go s f) := by
  have hevent : exec i s = fragEvent ready go s := by
    simp only [List.mem_cons, Prod.mk.injEq, List.not_mem_nil, or_false] at h
    obtain ⟨rfl, rfl, rfl⟩ | ⟨rfl, rfl, rfl⟩ | ⟨rfl, rfl, rfl⟩ := h <;> rfl
  exact goesOrWaits_of_orWait (hevent.trans (fragEvent_of hf hr go))

theorem tileReferenceRelease_releases (s : State) (h : refOver s (arg s 0) (arg s 1) = true) :
    exec .tileReferenceRelease s = .next (releaseRef s (arg s 0) (arg s 1)) := congrArg Host.Outcome.next (if_pos h)

/-! ### The scan of a tile (R55, R358, R359) -/

/-- R358: a flush keeps its name when it sends its closes. -/
theorem startFlush_id (s : State) (f : Flush) : (if flushMayStart s f then startFlush s f else f).id = f.id := by
  split <;> rfl

theorem tileClose_closes (s : State) (f : Flush) (hf : findFlushOf s (arg s 0) = some f)
    (hc : arg s 1 ∈ (if flushMayStart s f then startFlush s f else f).toClose)
    (ho : (tget freeTile s.tiles (arg s 1)).state = .opened) :
    ∃ t, exec .tileClose s = .next t ∧ tget freeTile t.tiles (arg s 1) =
      { tget freeTile s.tiles (arg s 1) with state := .closed, closedBy := f.id, order := s.nextId } := by
  have h : exec .tileClose s = execTileClose s := rfl
  rw [h, execTileClose, hf, ← startFlush_id s f]
  dsimp only
  rw [if_neg (by simpa using hc), if_neg fun hn => hn ho]
  exact ⟨_, rfl, tget_tset_same ..⟩

/-- R359: the tile that Formica has taken for its scan. -/
def scanned (s : State) (pa : Nat) : State :=
  { s with tiles := tset freeTile s.tiles pa { tget freeTile s.tiles pa with state := .classifying, formica := true } }

section Scan

variable {s t : State} (hn : nextClosed s (homeStack (arg s 0)) = some (arg s 0))
include hn

theorem tileScan_reports {e : EngFault} (hv : viewOf (scanned s (arg s 0)) (.unit (homeStack (arg s 0)))
      (tget freeTile s.tiles (arg s 0)).ctx (tget freeTile s.tiles (arg s 0)).view = (t, .error e)) :
    GoesOrWaits s .tileScan (formicaReport t (tget freeTile s.tiles (arg s 0)).ctx 7 e) := by
  refine goesOrWaits_of_orWait ?_
  show execTileScan s = _
  rw [scanned] at hv
  simp only [execTileScan, hn, hv, ne_eq, not_true, if_false]

theorem tileScan_sends {v : List Byte} (hv : viewOf (scanned s (arg s 0)) (.unit (homeStack (arg s 0)))
      (tget freeTile s.tiles (arg s 0)).ctx (tget freeTile s.tiles (arg s 0)).view = (t, .ok v))
    (hr : (cx (scanPixels t (.unit (homeStack (arg s 0))) (tget freeTile s.tiles (arg s 0)) v).1
      (tget freeTile s.tiles (arg s 0)).ctx).fenced = false) :
    let x := tget freeTile s.tiles (arg s 0)
    let ps := scanPixels t (.unit (homeStack (arg s 0))) x v
    GoesOrWaits s .tileScan (sendRecs ps.1 (scanRecs v x (arg s 0) ps.2)) := by
  refine goesOrWaits_of_orWait ?_
  show execTileScan s = _
  rw [scanned] at hv
  simp only [execTileScan, hn, hv, hr, ne_eq, not_true, if_false, Bool.false_eq_true]

end Scan

theorem tileClassifyEnd_ends {s : State} (h : classified_ s (arg s 0) = true) : exec .tileClassifyEnd s = .next
    (let x := tget freeTile s.tiles (arg s 0)
     let t := { s with tiles := tset freeTile s.tiles (arg s 0) { x with state := .shading, formica := false } }
     flushOver (if x.refs.isEmpty then tileToFree t (arg s 0) else t) x.closedBy) := by
  show execTileClassifyEnd s = _
  simp only [execTileClassifyEnd, h, Bool.not_true, Bool.false_eq_true, if_false]

/-- R55: the tile that all its waves are formed for stays while one refers to it, and is free otherwise. -/
theorem tileClassifyEnd_keeps_or_frees (s : State) (h : classified_ s (arg s 0) = true) :
    let x := tget freeTile s.tiles (arg s 0)
    let t := { s with tiles := tset freeTile s.tiles (arg s 0) { x with state := .shading, formica := false } }
    (x.refs ≠ [] → exec .tileClassifyEnd s = .next (flushOver t x.closedBy)) ∧
    (x.refs = [] → exec .tileClassifyEnd s = .next (flushOver (tileToFree t (arg s 0)) x.closedBy)) := by
  refine ⟨fun hk => ?_, fun hf => ?_⟩ <;> rw [tileClassifyEnd_ends h] <;> dsimp only
  · rw [if_neg (mt List.isEmpty_iff.1 hk)]
  · rw [if_pos (List.isEmpty_iff.2 hf)]

/-! ### Bins (R358, R360, R363) -/

theorem binRecordArrive_arrives (s : State) (r : BinRec) (hf : (s.binRecs.find? fun r => r.id = arg s 0) = some r)
    (hr : recReady s r = true) : GoesOrWaits s .binRecordArrive
      (if r.op = 0 then enterBin { s with binRecs := s.binRecs.filter fun x => x.id ≠ r.id } r
       else arriveHit { s with binRecs := s.binRecs.filter fun x => x.id ≠ r.id } r) := by
  refine goesOrWaits_of_orWait ?_
  show execBinRecordArrive s = _
  simp only [execBinRecordArrive, hf, hr, Bool.not_true, Bool.false_eq_true, if_false]

theorem binAgeDrain_drains (s : State) (x : Bin) (hf : (s.bins.find? fun b => b.id = arg s 0) = some x) (ho : binOld s x = true) :
    GoesOrWaits s .binAgeDrain (drainBin s x) := by
  refine goesOrWaits_of_orWait ?_
  show execBinAgeDrain s = _
  rw [execBinAgeDrain, hf]
  dsimp only
  rw [if_pos ho]

theorem rflushDrain_drains (s : State) (f : Flush) (hf : findFlushOf s (arg s 0) = some f) (hd : flushMayDrain s f = true) :
    let u := putFlush s { f with started := true, drained := true }
    GoesOrWaits s .rflushDrain (flushOver
      ((u.bins.filter fun x => decide (x.ctx = f.ctx) && decide (x.view = f.view)).foldl drainBin u) f.id) := by
  refine goesOrWaits_of_orWait ?_
  show execRflushDrain s = _
  simp only [execRflushDrain, hf, hd, Bool.not_true, Bool.false_eq_true, if_false]

/-! ### The obligation -/

/-- Settles O60: each occasion by its own lemma; those that may have to wait say so by `GoesOrWaits`. -/
theorem copyWaitAndTileEvents : Obligations.CopyWaitAndTileEvents := by
  unfold Obligations.CopyWaitAndTileEvents
  intro s
  exact ⟨scarabFetch_fetches s, copyEvents_go s, pubSwap_swaps s, waitEvents_end s, imagoEvents_deliver s, fragEvents_go s,
    tileClose_closes s, fun hn _ _ => ⟨tileScan_reports hn, fun _ => tileScan_sends hn⟩, tileClassifyEnd_keeps_or_frees s,
    tileReferenceRelease_releases s, binRecordArrive_arrives s, binAgeDrain_drains s, rflushDrain_drains s⟩

end Sys2Proof.Machine
end

section
/-! A step that issues (R166, R167, R219): the fetch of an instruction's words, the attempt at a candidate, and the move of a quadrant. -/

namespace Sys2Proof.Machine

/-- A schedule with a move in it goes on with that move. -/
theorem openMove_of_moves (run : Instr → State → Host.Outcome State Fault Refusal) {s : State} {m : Move} {r : List Move}
    (h : s.moves = m :: r) : openMove run s = s := by
  rw [openMove, h]

theorem step_of_moves {s : State} {m : Move} {r : List Move} (h : s.moves = m :: r) : step s = doMove m { s with moves := r } := by
  rw [step, openMove_of_moves exec h]
  simp only [h]

/-- R219: the current PC group fetches its head word, and the word behind it where the head says that there is one. -/
theorem fetchCur_decodes {s s1 s2 : State} {h e : Nat} {i : Instr}
    (hhead : fetchWord s (curWave s).core (curWave s).ctx s.cur.pc (groupHolds s) = (s1, .ok h))
    (hshort : hasExt (BitVec.ofNat 32 h) = false → s2 = s1 ∧ e = 0)
    (hlong : hasExt (BitVec.ofNat 32 h) = true →
      fetchWord s1 (curWave s).core (curWave s).ctx ((s.cur.pc + 4) % 2 ^ 64) (groupHolds s) = (s2, .ok e))
    (hdecode : decodeWords (BitVec.ofNat 32 h) (BitVec.ofNat 32 e) = .ok i) : fetchCur s = (s2, some i) := by
  simp only [curWave] at hhead hlong
  cases hx : hasExt (BitVec.ofNat 32 h) with
  | false =>
    obtain ⟨rfl, rfl⟩ := hshort hx
    have hdecode : decodeWords (BitVec.ofNat 32 h) 0 = .ok i := hdecode
    simp only [fetchCur, hhead, hx, hdecode, Bool.false_eq_true, if_false]
  | true => simp only [fetchCur, hhead, hlong hx, hx, hdecode, if_true]

/-- R166, R167: a candidate with lanes left, whose instruction is fetched and has a slot, is attempted. -/
theorem attempt_fetches {s s2 : State} {q lanes unis : Nat} {x : Issue} {second : Bool} {rest : List (Issue × Bool)} {chosen : Option Nat}
    {i : Instr} (hlanes : (candNow s x).lanes ≠ 0) (hmay : mayIssue s (wv s (candNow s x).wave) = true)
    (hfetch : fetchCur { s with cur := candNow s x } = (s2, some i)) (hblocked : s2.blocked = none)
    (hslot : (if (specOf i).uni then unis else lanes) ≠ 0) :
    attempt s q ((x, second) :: rest) lanes unis chosen = (s2, some i) := by
  have hgo : ¬((decide ((candNow s x).lanes = 0) || !(mayIssue s (wv s (candNow s x).wave))) = true) := by
    rw [decide_eq_false hlanes, hmay]
    decide
  rw [attempt]
  dsimp only
  rw [if_neg hgo]
  simp only [hfetch, hblocked, if_neg hslot, Option.isSome_none, Bool.false_eq_true, if_false]

theorem doMove_issue_of_attempt {s s2 : State} {q lanes unis : Nat} {cands : List (Issue × Bool)} {chosen : Option Nat} {i : Instr}
    (h : attempt s q cands lanes unis chosen = (s2, some i)) :
    doMove (.issue q cands lanes unis chosen) s =
      mapNext (fun t => settled (afterIssue i q cands lanes unis chosen s2.cur.wave (cr s2 (q / 4)).issued t)) (exec i s2) := by
  rw [doMove, h]

/-- Settles O31: the schedule's move is the issue, the candidate is attempted, and what is fetched decodes to the instruction. -/
theorem stepRunsDecoded : Obligations.StepRunsDecoded := by
  unfold Obligations.StepRunsDecoded
  intro s q x second rest lanes unis chosen r s1 s2 h e i hmoves s0 y v held hlanes hmay hhead hshort hlong hdecode hblocked hslot
  have hfetch : fetchCur { s0 with cur := y } = (s2, some i) := fetchCur_decodes hhead hshort hlong hdecode
  rw [step_of_moves hmoves]
  exact doMove_issue_of_attempt (attempt_fetches hlanes hmay hfetch hblocked hslot)

end Sys2Proof.Machine
end

section
/-! What an issue does to the core's waves that wait for a slot (R42), and so what an arithmetic instruction changes besides its wave. -/

namespace Sys2Proof.Machine
open Sys2Proof.Machine.State

theorem fillPrefetch_slotQueue (s : State) (c : Nat) : (cr (fillPrefetch s c) c).slotQueue = (cr s c).slotQueue :=
  (congrArg Core.slotQueue (cr_modCr_same ..) :)

theorem debit_slotQueue (s : State) (c k : Nat) (sp : Spec) : (cr (debit s c k sp) c).slotQueue = (cr s c).slotQueue := by
  unfold debit
  split
  · rfl
  · split
    · rfl
    · exact (congrArg Core.slotQueue (cr_modCr_same ..) :)

/-- R42: a wave that issues waits for no slot. -/
theorem countIssue_slotQueue (s : State) (c g w : Nat) :
    (cr (countIssue s c g w) c).slotQueue = (cr s c).slotQueue.filter fun y => y ≠ w := by
  unfold countIssue
  dsimp only
  split
  · rw [leavePrefetch, fillPrefetch_slotQueue, cr_modCr_same, cr_modCr_same]
  · rw [cr_modCr_same]

theorem advance_slotQueue (sp : Spec) (s : State) :
    (cr (advance sp s) (curWave s).core).slotQueue = (cr s (curWave s).core).slotQueue.filter fun y => y ≠ s.cur.wave :=
  (debit_slotQueue ..).trans (countIssue_slotQueue ..)

/-- The writes of an instruction that has issued are its wave's alone. -/
theorem issuedWith_cores (i : Instr) (ws : Writes) (s : State) : (issuedWith i ws s).cores = (advance (specOf i) s).cores := by
  unfold issuedWith
  dsimp only
  split
  · rfl
  · split <;> rfl

/-- A wave with four uniform registers, its 32 lanes at one PC. -/
def issuingWave : Wave :=
  { idleWave with live := true, uregs := 4, lanes := List.replicate 32 { idleLane with pc := 0x1000, exited := false } }

/-- R42: that wave, about to issue on core 0, where it waits for a slot, as it does behind a load of another of its PC groups. -/
def slotAwaited : State :=
  awaitSlot { State.reset with cur := { wave := 1, pc := 0x1000, lanes := allLanes }, waves := [(1, issuingWave)] }

/-- `s1` copied to `s0`. -/
def copyWord : Instr := .smovShort { d := 0, w := 0, a := 0, b := 1 }

theorem copyWord_issuable : Issuable copyWord slotAwaited where
  free := rfl
  runs := by decide +kernel
  apart := by decide +kernel
  waited := by decide +kernel
  sources := by decide +kernel
  dests := by decide +kernel
  guard := by decide +kernel
  preds := by decide +kernel
  slot := .inl rfl
  energy := nofun
  baton := nofun
  flag := by decide +kernel
  window := nofun
  tags := by decide +kernel
  kept := by decide +kernel

/-- Refutes O23: by the frame a core keeps the list of waves that wait for a slot. In `slotAwaited` the issuing wave is on it, and the issue
takes it off (R42). -/
theorem not_arithmeticFrame : ¬ Obligations.ArithmeticFrame := by
  unfold Obligations.ArithmeticFrame
  intro h
  have hquiet : noArithTraps (curWave slotAwaited) := ⟨by decide +kernel, by decide +kernel, by decide +kernel⟩
  obtain ⟨t, ht, hframe⟩ := h copyWord slotAwaited rfl copyWord_issuable hquiet
  have ht : uniAlu copyWord (fun _ xs => xs.getD 0 0) slotAwaited = .next t := ht
  have hcores : t.cores = (advance (specOf copyWord) slotAwaited).cores := by
    rw [← Host.Outcome.next.inj ((uniAlu_result copyWord_issuable).symm.trans ht), issuedWith_cores]
  have hkept : (cr t 0).slotQueue = [1] := congrArg Core.slotQueue (hframe.cores 0)
  have hleft : (cr t 0).slotQueue = [] := by
    rw [cr, hcores]
    exact advance_slotQueue _ slotAwaited
  exact absurd (hkept.symm.trans hleft) (by decide)

end Sys2Proof.Machine
end

section
/-! What a set of writes leaves in its wave as it lands (R168, R172): one lemma for each of its stages, and what every stage leaves alone. -/

namespace Sys2Proof.Machine
open Sys2Proof.Machine.State

/-! ### Folds over a list of writes -/

/-- Of writes to different places the one to `x`'s decides what stands there: what it brings about, no other write undoes. -/
theorem foldl_listed {σ α κ : Type} {f : σ → α → σ} {key : α → κ} {P : σ → Prop} {l : List α} {x : α} (hx : x ∈ l)
    (hdistinct : (l.map key).Nodup) (hwrite : ∀ s, P (f s x)) (hkeep : ∀ s, ∀ a ∈ l, key a ≠ key x → P s → P (f s a)) (s : σ) :
    P (l.foldl f s) := by
  obtain ⟨a, b, rfl⟩ := List.append_of_mem hx
  rw [List.foldl_append, List.foldl_cons]
  refine List.foldlRecOn (motive := P) b f (hwrite _) fun u hu y hy => hkeep u y (by simp [hy]) (fun he => ?_) hu
  rw [List.map_append, List.map_cons] at hdistinct
  obtain ⟨-, hrest, -⟩ := List.nodup_append.1 hdistinct
  have hmem : key y ∈ b.map key := List.mem_map_of_mem hy
  rw [he] at hmem
  exact (List.nodup_cons.1 hrest).1 hmem

/-! ### Sets of eight bits, and the lanes of a wave -/

theorem getLsbD_setBit8_same (x : BitVec 8) {k : Nat} (hk : k < 8) (b : Bool) : (setBit8 x k b).getLsbD k = b := by
  cases b <;> simp [setBit8, hk]

theorem getLsbD_setBit8_other (x : BitVec 8) {k j : Nat} (h : j ≠ k) (b : Bool) : (setBit8 x k b).getLsbD j = x.getLsbD j := by
  have hone : (1#8 <<< k).getLsbD j = false := by
    simp only [BitVec.getLsbD_shiftLeft, BitVec.getLsbD_one]
    rcases Nat.lt_or_ge j k with hj | hj
    · simp [hj]
    · simp [show j - k ≠ 0 by omega]
  cases b with
  | true => simp only [setBit8, if_true, BitVec.getLsbD_or, hone, Bool.or_false]
  | false =>
    simp only [setBit8, Bool.false_eq_true, if_false, BitVec.getLsbD_and, BitVec.getLsbD_not, hone, Bool.not_false, Bool.and_true]
    rcases Nat.lt_or_ge j 8 with hj | hj
    · simp [hj]
    · simp [BitVec.getLsbD_of_ge _ _ hj]

theorem ln_lmod (v : Wave) (k l : Nat) (f : Lane → Lane) :
    ln { v with lanes := lmod v.lanes k f } l = if l = k ∧ l < v.lanes.length then f (ln v l) else ln v l := by
  by_cases hl : l < v.lanes.length
  · by_cases hk : l = k
    · subst hk; simp [ln, lmod, hl]
    · simp [ln, lmod, hk, Ne.symm hk, List.getD_eq_getElem?_getD]
  · simp [ln, lmod, hl]

/-! ### Lane registers (R172) -/

/-- What the writes of lane registers leave alone. -/
def sansRegs (v : Wave) : Wave := { v with vregs := [], replayEmpty := [] }

theorem landRegs_rest (fill : Bool) (l : List (Nat × Nat × Word × Tag)) (v : Wave) : sansRegs (l.foldl (landReg fill) v) = sansRegs v :=
  foldl_keeps sansRegs (fun u x => by unfold landReg; dsimp only; split <;> rfl) l v

theorem landReg_vregs (fill : Bool) (v : Wave) (x : Nat × Nat × Word × Tag) : (landReg fill v x).vregs =
    tset zeroReg v.vregs (vkey x.1 x.2.1)
      { bits := x.2.2.1, full := fill || heldEmpty v (vkey x.1 x.2.1) || (vreg v x.1 x.2.1).full, tag := x.2.2.2 } := by
  unfold landReg
  dsimp only
  split <;> rfl

theorem vreg_landReg_same (fill : Bool) (v : Wave) (x : Nat × Nat × Word × Tag) : vreg (landReg fill v x) x.1 x.2.1 =
    { bits := x.2.2.1, full := fill || heldEmpty v (vkey x.1 x.2.1) || (vreg v x.1 x.2.1).full, tag := x.2.2.2 } := by
  rw [vreg, landReg_vregs, tget_tset_same]

theorem vreg_landReg_other (fill : Bool) (v : Wave) {x : Nat × Nat × Word × Tag} {l r : Nat} (h : vkey l r ≠ vkey x.1 x.2.1) :
    vreg (landReg fill v x) l r = vreg v l r := by
  rw [vreg, landReg_vregs, tget_tset_other _ h, vreg]

/-! ### Uniform registers -/

/-- What the writes of uniform registers leave alone. -/
def sansSregs (v : Wave) : Wave := { v with sregs := [], replayEmpty := [], guards := [] }

theorem landSregs_rest (fill : Bool) (l : List (Nat × Word)) (v : Wave) : sansSregs (l.foldl (landSreg fill) v) = sansSregs v :=
  foldl_keeps sansSregs (fun u x => by unfold landSreg; dsimp only; split <;> rfl) l v

theorem landSreg_sregs (fill : Bool) (v : Wave) (x : Nat × Word) : (landSreg fill v x).sregs =
    tset zeroSReg v.sregs x.1 { bits := x.2, full := fill || heldEmpty v (skey x.1) || (sreg v x.1).full } := by
  unfold landSreg
  dsimp only
  split <;> rfl

theorem sreg_landSreg_same (fill : Bool) (v : Wave) (x : Nat × Word) : sreg (landSreg fill v x) x.1 =
    { bits := x.2, full := fill || heldEmpty v (skey x.1) || (sreg v x.1).full } := by
  rw [sreg, landSreg_sregs, tget_tset_same]

theorem sreg_landSreg_other (fill : Bool) (v : Wave) {x : Nat × Word} {r : Nat} (h : r ≠ x.1) :
    sreg (landSreg fill v x) r = sreg v r := by
  rw [sreg, landSreg_sregs, tget_tset_other _ h, sreg]

/-- R325: each uniform register made full gives the guard slots that wait for it their value. -/
theorem landSregs_guards (l : List (Nat × Word)) (v : Wave) :
    (l.foldl (landSreg true) v).guards = l.foldl (fun gs x => gs.map (fillGuard x.1 x.2)) v.guards :=
  (List.foldl_hom Wave.guards fun _ _ => rfl).symm

/-! ### Lane predicates (R244) -/

/-- What the writes of lane predicates leave alone. -/
def sansLanes (v : Wave) : Wave := { v with lanes := [] }

/-- What they leave alone in a lane. -/
def sansPreds (x : Lane) : Lane := { x with preds := 0, predPend := 0 }

theorem landPreds_rest (fill : Bool) (l : List (Nat × Nat × Bool)) (v : Wave) : sansLanes (l.foldl (landPred fill) v) = sansLanes v :=
  foldl_keeps sansLanes (fun u x => by unfold landPred setPred; dsimp only; split <;> split <;> rfl) l v

/-- R255: a lane after the write of one of its predicates. -/
def predLanded (fill : Bool) (k : Nat) (b : Bool) (x : Lane) : Lane :=
  { x with
    preds := if k = 0 then x.preds else setBit8 x.preds k b
    predPend := if fill then setBit8 x.predPend k false else x.predPend }

theorem landPred_lanes (fill : Bool) (v : Wave) (x : Nat × Nat × Bool) :
    (landPred fill v x).lanes = lmod v.lanes x.1 (predLanded fill x.2.1 x.2.2) := by
  obtain ⟨l, k, b⟩ := x
  unfold landPred setPred
  dsimp only
  by_cases hk : k = 0
  · subst hk
    cases fill with
    | false => exact (List.modify_id ..).symm
    | true => rfl
  · have hpreds : ∀ y : Lane, predLanded fill k b y =
        { y with preds := setBit8 y.preds k b, predPend := if fill then setBit8 y.predPend k false else y.predPend } :=
      fun y => by rw [predLanded, if_neg hk]
    rw [if_neg hk, funext hpreds]
    cases fill with
    | false => rfl
    | true => exact List.modify_modify_eq ..

theorem ln_landPred (fill : Bool) (v : Wave) (x : Nat × Nat × Bool) (l : Nat) : ln (landPred fill v x) l =
    if l = x.1 ∧ l < v.lanes.length then predLanded fill x.2.1 x.2.2 (ln v l) else ln v l := by
  rw [← ln_lmod, ln, landPred_lanes]
  rfl

theorem landPred_length (fill : Bool) (v : Wave) (x : Nat × Nat × Bool) : (landPred fill v x).lanes.length = v.lanes.length := by
  rw [landPred_lanes, lmod, List.length_modify]

theorem landPreds_length (fill : Bool) (l : List (Nat × Nat × Bool)) (v : Wave) :
    (l.foldl (landPred fill) v).lanes.length = v.lanes.length :=
  foldl_keeps (fun u : Wave => u.lanes.length) (fun u x => landPred_length fill u x) l v

theorem ln_landPreds_rest (fill : Bool) (l : List (Nat × Nat × Bool)) (v : Wave) (k : Nat) :
    sansPreds (ln (l.foldl (landPred fill) v) k) = sansPreds (ln v k) := by
  refine foldl_keeps (fun u => sansPreds (ln u k)) (fun u x => ?_) l v
  rw [ln_landPred]
  split <;> rfl

theorem pred_landPred_same (fill : Bool) (v : Wave) {x : Nat × Nat × Bool} (hl : x.1 < v.lanes.length) (h0 : 0 < x.2.1)
    (h8 : x.2.1 < 8) : pred (landPred fill v x) x.1 x.2.1 = x.2.2 := by
  have hk : x.2.1 ≠ 0 := by omega
  simp [pred, ln_landPred, hl, predLanded, hk, getLsbD_setBit8_same _ h8]

theorem predPend_landPred_same (v : Wave) {x : Nat × Nat × Bool} (hl : x.1 < v.lanes.length) (h8 : x.2.1 < 8) :
    (ln (landPred true v x) x.1).predPend.getLsbD x.2.1 = false := by
  simp [ln_landPred, hl, predLanded, getLsbD_setBit8_same _ h8]

theorem pred_landPred_other (fill : Bool) (v : Wave) {x : Nat × Nat × Bool} {l k : Nat} (h : l ≠ x.1 ∨ k ≠ x.2.1) :
    pred (landPred fill v x) l k = pred v l k := by
  rw [pred, pred, ln_landPred]
  split
  · next hl =>
    have hk : k ≠ x.2.1 := h.resolve_left fun hn => hn hl.1
    unfold predLanded
    dsimp only
    split
    · rfl
    · rw [getLsbD_setBit8_other _ hk]
  · rfl

theorem predPend_landPred_other (fill : Bool) (v : Wave) {x : Nat × Nat × Bool} {l k : Nat} (h : l ≠ x.1 ∨ k ≠ x.2.1) :
    (ln (landPred fill v x) l).predPend.getLsbD k = (ln v l).predPend.getLsbD k := by
  rw [ln_landPred]
  split
  · next hl =>
    have hk : k ≠ x.2.1 := h.resolve_left fun hn => hn hl.1
    unfold predLanded
    dsimp only
    split
    · rw [getLsbD_setBit8_other _ hk]
    · rfl
  · rfl

/-! ### Uniform predicates -/

/-- What the writes of uniform predicates leave alone. -/
def sansQ (v : Wave) : Wave := { v with q := 0, qPend := 0 }

theorem landQs_rest (fill : Bool) (l : List (Nat × Bool)) (v : Wave) : sansQ (l.foldl (landQ fill) v) = sansQ v :=
  foldl_keeps sansQ (fun u x => by unfold landQ setQ; dsimp only; split <;> split <;> rfl) l v

theorem landQ_q (fill : Bool) (v : Wave) (x : Nat × Bool) : (landQ fill v x).q = if x.1 = 0 then v.q else setBit8 v.q x.1 x.2 := by
  unfold landQ setQ
  dsimp only
  split <;> split <;> rfl

theorem landQ_qPend (v : Wave) (x : Nat × Bool) : (landQ true v x).qPend = setBit8 v.qPend x.1 false := by
  unfold landQ setQ
  dsimp only
  rw [if_pos rfl]
  split <;> rfl

theorem upred_landQ_same (fill : Bool) (v : Wave) {x : Nat × Bool} (h0 : 0 < x.1) (h8 : x.1 < 8) :
    upred (landQ fill v x) x.1 = x.2 := by
  have hk : x.1 ≠ 0 := by omega
  simp [upred, landQ_q, hk, getLsbD_setBit8_same _ h8]

theorem upred_landQ_other (fill : Bool) (v : Wave) {x : Nat × Bool} {k : Nat} (h : k ≠ x.1) :
    upred (landQ fill v x) k = upred v k := by
  rw [upred, upred, landQ_q]
  split
  · rfl
  · rw [getLsbD_setBit8_other _ h]

/-! ### The whole landing -/

/-- What no landing touches. -/
def sansLanded (v : Wave) : Wave :=
  { v with vregs := [], sregs := [], lanes := [], q := 0, qPend := 0, fmode := 0, replayEmpty := [], guards := [] }

section Land

variable (fill : Bool) (v : Wave) (ws : Writes)

/-- The wave with the lane registers written, -/
def landedRegs : Wave := ws.regs.foldl (landReg fill) v
/-- with the uniform registers too, -/
def landedSregs : Wave := ws.sregs.foldl (landSreg fill) (landedRegs fill v ws)
/-- with the lane predicates, -/
def landedPreds : Wave := ws.preds.foldl (landPred fill) (landedSregs fill v ws)
/-- and with the uniform ones. -/
def landedQs : Wave := ws.qs.foldl (landQ fill) (landedPreds fill v ws)

theorem sansRegs_landedRegs : sansRegs (landedRegs fill v ws) = sansRegs v := landRegs_rest ..
theorem sansSregs_landedSregs : sansSregs (landedSregs fill v ws) = sansSregs (landedRegs fill v ws) := landSregs_rest ..
theorem sansLanes_landedPreds : sansLanes (landedPreds fill v ws) = sansLanes (landedSregs fill v ws) := landPreds_rest ..
theorem sansQ_landedQs : sansQ (landedQs fill v ws) = sansQ (landedPreds fill v ws) := landQs_rest ..

/-- Before the predicates are written they stand as they did. -/
theorem landedSregs_lanes : (landedSregs fill v ws).lanes = v.lanes :=
  (congrArg Wave.lanes (sansSregs_landedSregs fill v ws) :).trans (congrArg Wave.lanes (sansRegs_landedRegs fill v ws) :)

theorem landedPreds_q : (landedPreds fill v ws).q = v.q := calc
  _ = (landedSregs fill v ws).q := (congrArg Wave.q (sansLanes_landedPreds fill v ws) :)
  _ = (landedRegs fill v ws).q := (congrArg Wave.q (sansSregs_landedSregs fill v ws) :)
  _ = v.q := (congrArg Wave.q (sansRegs_landedRegs fill v ws) :)

theorem landedQs_fmode : (landedQs fill v ws).fmode = v.fmode := calc
  _ = (landedPreds fill v ws).fmode := (congrArg Wave.fmode (sansQ_landedQs fill v ws) :)
  _ = (landedSregs fill v ws).fmode := (congrArg Wave.fmode (sansLanes_landedPreds fill v ws) :)
  _ = (landedRegs fill v ws).fmode := (congrArg Wave.fmode (sansSregs_landedSregs fill v ws) :)
  _ = v.fmode := (congrArg Wave.fmode (sansRegs_landedRegs fill v ws) :)

theorem sansLanded_landedQs : sansLanded (landedQs fill v ws) = sansLanded v := calc
  _ = sansLanded (landedPreds fill v ws) := (congrArg sansLanded (sansQ_landedQs fill v ws) :)
  _ = sansLanded (landedSregs fill v ws) := (congrArg sansLanded (sansLanes_landedPreds fill v ws) :)
  _ = sansLanded (landedRegs fill v ws) := (congrArg sansLanded (sansSregs_landedSregs fill v ws) :)
  _ = sansLanded v := (congrArg sansLanded (sansRegs_landedRegs fill v ws) :)

variable {ws} (hsys : ws.sys = [])
include hsys

/-- R323: where no system register is written, the sticky flags come last. -/
theorem land_eq : land fill v ws = { landedQs fill v ws with fmode := v.fmode ||| ws.sticky } := by
  rw [← landedQs_fmode fill v ws, land, hsys]
  rfl

theorem land_vregs : (land fill v ws).vregs = (landedRegs fill v ws).vregs := calc
  _ = (landedQs fill v ws).vregs := by rw [land_eq fill v hsys]
  _ = (landedPreds fill v ws).vregs := (congrArg Wave.vregs (sansQ_landedQs fill v ws) :)
  _ = (landedSregs fill v ws).vregs := (congrArg Wave.vregs (sansLanes_landedPreds fill v ws) :)
  _ = (landedRegs fill v ws).vregs := (congrArg Wave.vregs (sansSregs_landedSregs fill v ws) :)

theorem land_sregs : (land fill v ws).sregs = (landedSregs fill v ws).sregs := calc
  _ = (landedQs fill v ws).sregs := by rw [land_eq fill v hsys]
  _ = (landedPreds fill v ws).sregs := (congrArg Wave.sregs (sansQ_landedQs fill v ws) :)
  _ = (landedSregs fill v ws).sregs := (congrArg Wave.sregs (sansLanes_landedPreds fill v ws) :)

theorem land_guards : (land fill v ws).guards = (landedSregs fill v ws).guards := calc
  _ = (landedQs fill v ws).guards := by rw [land_eq fill v hsys]
  _ = (landedPreds fill v ws).guards := (congrArg Wave.guards (sansQ_landedQs fill v ws) :)
  _ = (landedSregs fill v ws).guards := (congrArg Wave.guards (sansLanes_landedPreds fill v ws) :)

theorem land_lanes : (land fill v ws).lanes = (landedPreds fill v ws).lanes := calc
  _ = (landedQs fill v ws).lanes := by rw [land_eq fill v hsys]
  _ = (landedPreds fill v ws).lanes := (congrArg Wave.lanes (sansQ_landedQs fill v ws) :)

theorem ln_land (l : Nat) : ln (land fill v ws) l = ln (landedPreds fill v ws) l := by
  rw [ln, land_lanes fill v hsys, ln]

theorem pred_land (l k : Nat) : pred (land fill v ws) l k = pred (landedPreds fill v ws) l k := by
  rw [pred, ln_land fill v hsys, pred]

theorem land_fmode : (land fill v ws).fmode = v.fmode ||| ws.sticky := by rw [land_eq fill v hsys]

/-! ### What it lists and what it does not -/

theorem vreg_land_unlisted {l r : Nat} (h : ∀ x ∈ ws.regs, vkey x.1 x.2.1 ≠ vkey l r) : vreg (land fill v ws) l r = vreg v l r := by
  rw [vreg, land_vregs fill v hsys]
  exact List.foldlRecOn (motive := fun u => vreg u l r = vreg v l r) ws.regs _ rfl
    fun u hu x hx => (vreg_landReg_other fill u (h x hx).symm).trans hu

theorem vreg_land_listed (hd : (ws.regs.map fun x => vkey x.1 x.2.1).Nodup) {x : Nat × Nat × Word × Tag} (hx : x ∈ ws.regs) :
    (vreg (land fill v ws) x.1 x.2.1).bits = x.2.2.1 ∧ (vreg (land fill v ws) x.1 x.2.1).tag = x.2.2.2 ∧
      (fill = true → (vreg (land fill v ws) x.1 x.2.1).full = true) := by
  rw [vreg, land_vregs fill v hsys]
  refine foldl_listed (P := fun u => (vreg u x.1 x.2.1).bits = x.2.2.1 ∧ (vreg u x.1 x.2.1).tag = x.2.2.2 ∧
    (fill = true → (vreg u x.1 x.2.1).full = true)) hx hd (fun u => ?_) (fun u a _ hne hu => ?_) v
  · rw [vreg_landReg_same]
    exact ⟨rfl, rfl, fun hf => by simp [hf]⟩
  · rwa [vreg_landReg_other fill u hne.symm]

theorem sreg_land_unlisted {r : Nat} (h : ∀ x ∈ ws.sregs, x.1 ≠ r) : sreg (land fill v ws) r = sreg v r := by
  rw [sreg, land_sregs fill v hsys]
  refine List.foldlRecOn (motive := fun u => sreg u r = sreg v r) ws.sregs _ ?_
    fun u hu x hx => (sreg_landSreg_other fill u (h x hx).symm).trans hu
  exact (congrArg (sreg · r) (sansRegs_landedRegs fill v ws) :)

theorem sreg_land_listed (hd : (ws.sregs.map Prod.fst).Nodup) {x : Nat × Word} (hx : x ∈ ws.sregs) :
    (sreg (land fill v ws) x.1).bits = x.2 ∧ (fill = true → (sreg (land fill v ws) x.1).full = true) := by
  rw [sreg, land_sregs fill v hsys]
  refine foldl_listed (P := fun u => (sreg u x.1).bits = x.2 ∧ (fill = true → (sreg u x.1).full = true)) hx hd
    (fun u => ?_) (fun u a _ hne hu => ?_) _
  · rw [sreg_landSreg_same]
    exact ⟨rfl, fun hf => by simp [hf]⟩
  · rwa [sreg_landSreg_other fill u hne.symm]

theorem pred_land_unlisted {l k : Nat} (h : ∀ x ∈ ws.preds, x.1 ≠ l ∨ x.2.1 % 8 ≠ k % 8) :
    pred (land fill v ws) l k = pred v l k := by
  rw [pred_land fill v hsys]
  refine List.foldlRecOn (motive := fun u => pred u l k = pred v l k) ws.preds _ ?_ fun u hu x hx => ?_
  · rw [pred, ln, landedSregs_lanes]
    rfl
  · have hne : l ≠ x.1 ∨ k ≠ x.2.1 := (h x hx).imp Ne.symm fun hm hk => hm (hk ▸ rfl)
    exact (pred_landPred_other fill u hne).trans hu

theorem pred_land_listed (h8 : ∀ x ∈ ws.preds, x.2.1 < 8) (hd : (ws.preds.map fun x => (x.1, x.2.1)).Nodup) {x : Nat × Nat × Bool}
    (hx : x ∈ ws.preds) (hl : x.1 < v.lanes.length) (h0 : 0 < x.2.1) :
    pred (land fill v ws) x.1 x.2.1 = x.2.2 ∧ (fill = true → (ln (land fill v ws) x.1).predPend.getLsbD x.2.1 = false) := by
  rw [pred_land fill v hsys, ln_land fill v hsys]
  refine foldl_listed (P := fun u => x.1 < u.lanes.length → pred u x.1 x.2.1 = x.2.2 ∧
    (fill = true → (ln u x.1).predPend.getLsbD x.2.1 = false)) hx hd (fun u hu => ?_) (fun u a _ hne hu hlen => ?_) _ ?_
  · rw [landPred_length] at hu
    refine ⟨pred_landPred_same fill u hu h0 (h8 x hx), ?_⟩
    rintro rfl
    exact predPend_landPred_same u hu (h8 x hx)
  · have hne : x.1 ≠ a.1 ∨ x.2.1 ≠ a.2.1 := by
      by_cases hlane : x.1 = a.1
      · exact .inr fun hk => hne (Prod.ext hlane.symm hk.symm)
      · exact .inl hlane
    rw [pred_landPred_other fill u hne, predPend_landPred_other fill u hne]
    exact hu (landPred_length fill u a ▸ hlen)
  · rwa [landPreds_length, landedSregs_lanes]

theorem land_q : (land fill v ws).q = (landedQs fill v ws).q := by rw [land_eq fill v hsys]
theorem land_qPend : (land fill v ws).qPend = (landedQs fill v ws).qPend := by rw [land_eq fill v hsys]

theorem upred_land_unlisted {k : Nat} (h : ∀ x ∈ ws.qs, x.1 ≠ k) : upred (land fill v ws) k = upred v k := by
  rw [upred, land_q fill v hsys]
  refine List.foldlRecOn (motive := fun u => upred u k = upred v k) ws.qs _ ?_
    fun u hu x hx => (upred_landQ_other fill u (h x hx).symm).trans hu
  rw [upred, landedPreds_q]
  rfl

theorem upred_land_listed (h8 : ∀ x ∈ ws.qs, x.1 < 8) (hd : (ws.qs.map Prod.fst).Nodup) {x : Nat × Bool} (hx : x ∈ ws.qs) (h0 : 0 < x.1) :
    upred (land fill v ws) x.1 = x.2 ∧ (fill = true → (land fill v ws).qPend.getLsbD x.1 = false) := by
  rw [upred, land_q fill v hsys, land_qPend fill v hsys]
  refine foldl_listed (P := fun u => upred u x.1 = x.2 ∧ (fill = true → u.qPend.getLsbD x.1 = false)) hx hd
    (fun u => ⟨upred_landQ_same fill u h0 (h8 x hx), ?_⟩) (fun u a _ hne hu => ?_) _
  · rintro rfl
    rw [landQ_qPend, getLsbD_setBit8_same _ (h8 x hx)]
  · obtain ⟨hval, hpend⟩ := hu
    refine ⟨(upred_landQ_other fill u hne.symm).trans hval, ?_⟩
    rintro rfl
    rw [landQ_qPend, getLsbD_setBit8_other _ hne.symm]
    exact hpend rfl

theorem land_guards_of_none (h : ws.sregs = []) : (land fill v ws).guards = v.guards := by
  rw [land_guards fill v hsys, landedSregs, h]
  exact (congrArg Wave.guards (sansRegs_landedRegs fill v ws) :)

theorem land_guards_filled (h : fill = true) :
    (land fill v ws).guards = ws.sregs.foldl (fun gs x => gs.map (fillGuard x.1 x.2)) v.guards := by
  subst h
  rw [land_guards true v hsys, landedSregs, landSregs_guards]
  exact congrArg (ws.sregs.foldl fun gs x => gs.map (fillGuard x.1 x.2))
    (congrArg Wave.guards (sansRegs_landedRegs true v ws) :)

theorem land_rest : let u := land fill v ws
    u = { v with
      vregs := u.vregs, sregs := u.sregs, lanes := u.lanes, q := u.q, qPend := u.qPend, fmode := u.fmode,
      replayEmpty := u.replayEmpty, guards := u.guards } := by
  intro u
  have hrest : sansLanded u = sansLanded v := by
    rw [← sansLanded_landedQs fill v ws]
    exact (congrArg sansLanded (land_eq fill v hsys) :)
  exact congrArg (fun x : Wave => { x with
    vregs := u.vregs, sregs := u.sregs, lanes := u.lanes, q := u.q, qPend := u.qPend, fmode := u.fmode,
    replayEmpty := u.replayEmpty, guards := u.guards }) hrest

theorem ln_land_rest (l : Nat) : let u := land fill v ws
    ln u l = { ln v l with preds := (ln u l).preds, predPend := (ln u l).predPend } := by
  intro u
  have hrest : sansPreds (ln u l) = sansPreds (ln v l) := by
    rw [ln_land fill v hsys, landedPreds, ln_landPreds_rest, ln, landedSregs_lanes]
    rfl
  exact congrArg (fun x : Lane => { x with preds := (ln u l).preds, predPend := (ln u l).predPend }) hrest

end Land

/-- Settles O27: what each kind of write does to the places it lists and to the others. -/
theorem landWritesWhatIsListed : Obligations.LandWritesWhatIsListed := by
  unfold Obligations.LandWritesWhatIsListed
  intro fill v ws hsys
  exact ⟨fun _ _ => vreg_land_unlisted fill v hsys, fun hd _ => vreg_land_listed fill v hsys hd,
    fun _ => sreg_land_unlisted fill v hsys, fun hd _ => sreg_land_listed fill v hsys hd,
    fun _ _ => pred_land_unlisted fill v hsys, fun h8 hd _ => pred_land_listed fill v hsys h8 hd,
    fun _ => upred_land_unlisted fill v hsys, fun h8 hd _ => upred_land_listed fill v hsys h8 hd,
    fun _ => rfl, rfl, land_fmode fill v hsys, land_guards_of_none fill v hsys, land_guards_filled fill v hsys,
    land_rest fill v hsys, ln_land_rest fill v hsys⟩

end Sys2Proof.Machine
end

section
/-! The writes on their way as a cycle passes (R168): how one set of them lands does not depend on which others are still on their way. -/

namespace Sys2Proof.Machine
open Sys2Proof.Machine.State

/-- The wave with other writes on their way. -/
def withPend (ps : List Pending) (v : Wave) : Wave := { v with pend := ps }

theorem landReg_withPend (fill : Bool) (ps : List Pending) (v : Wave) (x : Nat × Nat × Word × Tag) :
    landReg fill (withPend ps v) x = withPend ps (landReg fill v x) := by
  unfold landReg
  dsimp only
  rw [show heldEmpty (withPend ps v) = heldEmpty v from rfl]
  split <;> rfl

theorem landSreg_withPend (fill : Bool) (ps : List Pending) (v : Wave) (x : Nat × Word) :
    landSreg fill (withPend ps v) x = withPend ps (landSreg fill v x) := by
  unfold landSreg
  dsimp only
  rw [show heldEmpty (withPend ps v) = heldEmpty v from rfl]
  split <;> rfl

theorem landPred_withPend (fill : Bool) (ps : List Pending) (v : Wave) (x : Nat × Nat × Bool) :
    landPred fill (withPend ps v) x = withPend ps (landPred fill v x) := by
  unfold landPred setPred
  dsimp only
  split <;> split <;> rfl

theorem landQ_withPend (fill : Bool) (ps : List Pending) (v : Wave) (x : Nat × Bool) :
    landQ fill (withPend ps v) x = withPend ps (landQ fill v x) := by
  unfold landQ setQ
  dsimp only
  split <;> split <;> rfl

theorem landSys_withPend (ps : List Pending) (v : Wave) (x : Nat × Word) :
    landSys (withPend ps v) x = withPend ps (landSys v x) := by
  simp only [landSys, apply_ite (withPend ps)]
  rfl

/-- Writes land alike whatever else is on its way. -/
theorem land_withPend (fill : Bool) (ps : List Pending) (v : Wave) (ws : Writes) :
    land fill (withPend ps v) ws = withPend ps (land fill v ws) := by
  unfold land
  dsimp only
  rw [List.foldl_hom (withPend ps) (landReg_withPend fill ps), List.foldl_hom (withPend ps) (landSreg_withPend fill ps),
    List.foldl_hom (withPend ps) (landPred_withPend fill ps), List.foldl_hom (withPend ps) (landQ_withPend fill ps),
    List.foldl_hom (withPend ps) (landSys_withPend ps)]
  rfl

/-! ### What a cycle leaves of a wave -/

/-- The wave with the writes landed that are due. -/
def duesLanded (now : Nat) (v : Wave) : Wave :=
  (v.pend.filter fun p => decide (p.due ≤ now)).foldl (fun y p => land false y p.writes) v

/-- The wave as a cycle leaves it, its due writes apart: the guard slots and the priority group settle, and the lanes that sleep wait from now. -/
def cyclePassed (now : Nat) (v : Wave) : Wave :=
  let u := settlePrio (settleGuards v now)
  { u with lanes := u.lanes.map fun x => if awake x then x else { x with since := now } }

theorem settlePrio_eq (v : Wave) : settlePrio v = { v with priority := (settlePrio v).priority } := by
  unfold settlePrio
  split
  · rfl
  · dsimp only
    split <;> rfl

theorem wv_tickWave_same (s : State) (now w : Nat) : wv (tickWave s now w) w =
    cyclePassed now (withPend ((wv s w).pend.filter fun p => decide (now < p.due)) (duesLanded now (wv s w))) := by
  have hlater : ((wv s w).pend.filter fun p => !decide (p.due ≤ now)) = (wv s w).pend.filter fun p => decide (now < p.due) :=
    List.filter_congr fun p _ => by rw [← decide_not, decide_eq_decide]; omega
  unfold tickWave
  dsimp only
  rw [wv_setWv_same, hlater, duesLanded, ← List.foldl_hom (withPend _) (g₂ := fun y (p : Pending) => land false y p.writes)
    fun y p => land_withPend false _ y p.writes]
  rfl

theorem wv_tickWave_other (s : State) (now : Nat) {w a : Nat} (h : a ≠ w) : wv (tickWave s now w) a = wv s a := by
  unfold tickWave
  dsimp only
  rw [wv_setWv_other _ h]
  split <;> rfl

section CyclePassed

variable (now : Nat) (v : Wave)

@[simp] theorem cyclePassed_pend : (cyclePassed now v).pend = v.pend := by rw [cyclePassed, settlePrio_eq]; rfl
@[simp] theorem cyclePassed_vregs : (cyclePassed now v).vregs = v.vregs := by rw [cyclePassed, settlePrio_eq]; rfl
@[simp] theorem cyclePassed_sregs : (cyclePassed now v).sregs = v.sregs := by rw [cyclePassed, settlePrio_eq]; rfl
@[simp] theorem cyclePassed_fmode : (cyclePassed now v).fmode = v.fmode := by rw [cyclePassed, settlePrio_eq]; rfl
@[simp] theorem cyclePassed_q : (cyclePassed now v).q = v.q := by rw [cyclePassed, settlePrio_eq]; rfl

@[simp] theorem pred_cyclePassed (l k : Nat) : pred (cyclePassed now v) l k = pred v l k := by
  have hlanes : (cyclePassed now v).lanes = v.lanes.map fun x => if awake x then x else { x with since := now } := by
    rw [cyclePassed, settlePrio_eq]; rfl
  have hpreds : (ln (cyclePassed now v) l).preds = (ln v l).preds := by
    rw [ln, hlanes, ln, List.getD_eq_getElem?_getD, List.getD_eq_getElem?_getD, List.getElem?_map]
    cases v.lanes[l]? with
    | none => rfl
    | some x =>
      show (if awake x then x else { x with since := now }).preds = x.preds
      split <;> rfl
  rw [pred, hpreds, pred]

end CyclePassed

/-! ### The obligation -/

/-- Settles O26: what a cycle leaves of the wave is `wv_tickWave_same`; with nothing due, nothing lands. -/
theorem fixedResultsLandWhenDue : Obligations.FixedResultsLandWhenDue := by
  unfold Obligations.FixedResultsLandWhenDue
  intro s now w v u x
  have hu : u = cyclePassed now (withPend (v.pend.filter fun p => decide (now < p.due)) x) := wv_tickWave_same s now w
  rw [hu]
  refine ⟨cyclePassed_pend .., cyclePassed_vregs .., cyclePassed_sregs .., cyclePassed_fmode .., cyclePassed_q .., fun _ _ => pred_cyclePassed ..,
    fun hlater => ?_, fun a => wv_tickWave_other s now⟩
  have hkept : (v.pend.filter fun p => decide (now < p.due)) = v.pend := List.filter_eq_self.2 fun p hp => decide_eq_true (hlater p hp)
  have hnone : (v.pend.filter fun p => decide (p.due ≤ now)) = [] :=
    List.filter_eq_nil_iff.2 fun p hp => by simpa using hlater p hp
  have hx : x = v := by simp only [x, hnone, List.foldl_nil]
  rw [hx, hkept]
  exact ⟨cyclePassed_pend .., cyclePassed_vregs .., cyclePassed_sregs .., cyclePassed_fmode .., cyclePassed_q ..⟩

end Sys2Proof.Machine
end

section
/-! The register pool (R174, R175), guard slots and election (R325, R326), the return and `yield` (R318, R320) under the conditions of issue. -/

namespace Sys2Proof.Machine
open Sys2Proof.Machine.State

/-! ### The pool of a quadrant -/

theorem poolOf_quad (g : Group) (q : Nat) : (poolOf g q).quad = q := by
  unfold poolOf
  cases h : g.pools.find? fun p => p.quad = q with
  | none => rfl
  | some p => simpa using List.find?_some h

theorem poolOf_setPool (g : Group) {p : Pool} {q : Nat} (h : p.quad = q) : poolOf (setPool g p) q = p := by
  simp [poolOf, setPool, h]

theorem gp_modGp_same (s : State) (g : Nat) (f : Group → Group) : gp (modGp s g f) g = f (gp s g) := tget_tset_same ..

@[simp] theorem gp_advance (sp : Spec) (s : State) (g : Nat) : gp (advance sp s) g = gp s g := by
  rw [gp, advance_groups, gp]

@[simp] theorem cycAt_advance (sp : Spec) (s : State) (c : Nat) : cycAt (advance sp s) c = cycAt s c := by
  rw [cycAt, cycOf, advance_cyc, cycAt, cycOf]

/-- R175: a queue whose first claim does not fit stands still. -/
theorem serveQueue_of_blocked {s : State} {g q : Nat} (h : ∀ y ∈ (poolOf (gp s g) q).queue.head?, (poolOf (gp s g) q).free < y.2.1) :
    ∀ n, serveQueue g q n s = s
  | 0 => rfl
  | n + 1 => by
    cases hq : (poolOf (gp s g) q).queue with
    | nil => simp only [serveQueue, hq]
    | cons y r =>
      rw [hq] at h
      simp only [serveQueue, hq, if_neg (Nat.not_le.2 (h y rfl))]

/-! ### What is granted -/

theorem tget_filter_of_not {α : Type} (d : α) {p : Nat → Bool} {k : Nat} (h : p k = false) :
    ∀ t : Tab α, tget d (t.filter fun e => p e.1) k = d
  | [] => rfl
  | (a, x) :: t => by
    have ih := tget_filter_of_not d h t
    by_cases ha : a = k
    · subst ha; simpa [List.filter_cons, h] using ih
    · cases hp : p a <;> simp [hp, tget, ha, ih]

theorem vkey_mod (l : Nat) {r : Nat} (h : r < 256) : vkey l r % 256 = r := by
  unfold vkey; omega

theorem wv_grant (s : State) (w k : Nat) (m : Lanes) : wv (grant s w k m) w =
    wake { wv s w with h := (wv s w).h + k, vregs := (wv s w).vregs.filter fun e => decide (e.1 % 256 < 8 * (wv s w).h) } m :=
  wv_modWv_same ..

/-- R175: the registers that a grant adds are zero, full and untyped. -/
theorem vreg_grant (s : State) (w k : Nat) (m : Lanes) (l : Nat) {r : Nat} (hr : 8 * (wv s w).h ≤ r) (h256 : r < 256) :
    vreg (wv (grant s w k m) w) l r = zeroReg := by
  rw [wv_grant]
  exact tget_filter_of_not zeroReg (p := fun a => decide (a % 256 < 8 * (wv s w).h))
    (decide_eq_false (by rw [vkey_mod l h256]; omega)) _

@[simp] theorem gp_grant (s : State) (w k : Nat) (m : Lanes) (g : Nat) : gp (grant s w k m) g = gp s g := rfl

/-- R175: a claim that is alone in its queue and fits is granted. -/
theorem serveQueue_grants {s : State} {g q w k : Nat} {m : Lanes} {p : Pool}
    (hpool : poolOf (gp s g) q = { p with quad := q, queue := [(w, k, m)] }) (hk : k ≤ p.free) :
    let t := serveQueue g q (poolOf (gp s g) q).queue.length s
    (wv t w).h = (wv s w).h + k ∧ poolOf (gp t g) q = { p with quad := q, free := p.free - k, queue := [] } ∧
      ∀ l r, 8 * (wv s w).h ≤ r → r < 256 → vreg (wv t w) l r = zeroReg := by
  have hserved : serveQueue g q (poolOf (gp s g) q).queue.length s =
      grant (modGp s g fun x => setPool x { p with quad := q, free := p.free - k, queue := [] }) w k m := by
    simp only [hpool, List.length_singleton, serveQueue, if_pos hk]
  rw [hserved]
  refine ⟨?_, ?_, fun l r hr h256 => vreg_grant _ w k m l hr h256⟩
  · rw [wv_grant]
    rfl
  · rw [gp_grant, gp_modGp_same, poolOf_setPool _ rfl]

/-! ### `rclaim` -/

theorem ln_modLanes (v : Wave) (m : Lanes) (f : Lane → Lane) {l : Nat} (h : l < v.lanes.length) :
    ln (modLanes v m f) l = if inLanes m l then f (ln v l) else ln v l := by
  simp [ln, modLanes, h]

/-- The lanes of `m` asleep in a claim of `k` granules. -/
def asleepInClaim (m : Lanes) (k : Nat) (v : Wave) : Wave := modLanes v m fun x => { x with sleep := .rclaim k }

/-- The state once the current wave has issued its claim of `k` granules for the lanes of `m`, which has joined its pool's queue. -/
def claimQueued (sp : Spec) (k : Nat) (m : Lanes) (s : State) : State :=
  modGp (modWv (advance sp s) s.cur.wave (asleepInClaim m k)) (curWave s).group fun g =>
    setPool g { poolOf g (quadKey (curWave s)) with queue := (poolOf g (quadKey (curWave s))).queue ++ [(s.cur.wave, k, m)] }

theorem wv_claimQueued (sp : Spec) (k : Nat) (m : Lanes) (s : State) : wv (claimQueued sp k m s) s.cur.wave =
    asleepInClaim m k (issueWave sp s.cur (cycAt s (curWave s).core) (curWave s)) := by
  show wv (modWv (advance sp s) s.cur.wave _) _ = _
  rw [wv_modWv_same, wv_advance]
  rfl

theorem claimQueued_pool (sp : Spec) (k : Nat) (m : Lanes) (s : State) :
    let q := quadKey (curWave s)
    let p := poolOf (gp s (curWave s).group) q
    poolOf (gp (claimQueued sp k m s) (curWave s).group) q = { p with quad := q, queue := p.queue ++ [(s.cur.wave, k, m)] } := by
  intro q p
  have hg : gp (modWv (advance sp s) s.cur.wave (asleepInClaim m k)) (curWave s).group = gp s (curWave s).group :=
    gp_advance sp s _
  rw [claimQueued, gp_modGp_same, hg]
  refine (poolOf_setPool (p := { p with queue := p.queue ++ [(s.cur.wave, k, m)] }) _ (poolOf_quad ..)).trans ?_
  exact congrArg (fun n => { p with quad := n, queue := p.queue ++ [(s.cur.wave, k, m)] }) (poolOf_quad ..)

section Rclaim

variable {h : Head} {e : IExt} {s : State} (hi : Issuable (.rclaim h e) s) (hm : active (specOf (.rclaim h e)) s ≠ 0)

/-- The state once a claim has joined its queue. -/
def rclaimQueued (h : Head) (e : IExt) (s : State) : State :=
  claimQueued (specOf (.rclaim h e)) (source (.rclaim h e) s 0 0) (active (specOf (.rclaim h e)) s) s

include hi hm

/-- R175: a claim within the range joins the queue, which is served. -/
theorem rclaim_queues (h1 : 1 ≤ source (.rclaim h e) s 0 0) (h32 : (curWave s).h + source (.rclaim h e) s 0 0 ≤ 32) :
    let t := rclaimQueued h e s
    exec (.rclaim h e) s = .next (serveQueue (curWave s).group (quadKey (curWave s))
      (poolOf (gp t (curWave s).group) (quadKey (curWave s))).queue.length t) := by
  intro t
  have hok : ¬(source (.rclaim h e) s 0 0 < 1 ∨ 32 < (curWave s).h + source (.rclaim h e) s 0 0) := by omega
  show execRclaim h e s = _
  rw [execRclaim]
  refine (runOp_go hi _).trans ?_
  dsimp only
  rw [if_neg hm]
  exact congrArg Host.Outcome.next (if_neg hok)

theorem rclaim_illegal (hk : source (.rclaim h e) s 0 0 < 1 ∨ 32 < (curWave s).h + source (.rclaim h e) s 0 0) :
    exec (.rclaim h e) s = .next (raisePrecise s (trapOf (.rclaim h e) 1 0 s.cur.lanes)) := by
  show execRclaim h e s = _
  rw [execRclaim]
  refine (runOp_go hi _).trans ?_
  dsimp only
  rw [if_neg hm]
  exact congrArg Host.Outcome.next (if_pos hk)

/-- R175: a claim that finds no other queued, and room in the pool, extends its wave. -/
theorem rclaim_granted :
    let w := s.cur.wave
    let v := curWave s
    let q := quadKey v
    let p := poolOf (gp s v.group) q
    let k := source (.rclaim h e) s 0 0
    1 ≤ k → v.h + k ≤ 32 → p.queue = [] → k ≤ p.free → ∃ t, exec (.rclaim h e) s = .next t ∧ (wv t w).h = v.h + k ∧
      poolOf (gp t v.group) q = { p with quad := q, free := p.free - k, queue := [] } ∧
      ∀ l r, 8 * v.h ≤ r → r < 256 → l < 32 → vreg (wv t w) l r = zeroReg := by
  intro w v q p k h1 h32 hempty hfits
  have hpool : poolOf (gp (rclaimQueued h e s) v.group) q =
      { p with quad := q, queue := [(w, k, active (specOf (.rclaim h e)) s)] } := by
    refine (claimQueued_pool (specOf (.rclaim h e)) k (active (specOf (.rclaim h e)) s) s).trans ?_
    exact congrArg (fun l => { p with quad := q, queue := l ++ [(w, k, active (specOf (.rclaim h e)) s)] }) hempty
  have hheld : (wv (rclaimQueued h e s) w).h = v.h :=
    (congrArg Wave.h (wv_claimQueued (specOf (.rclaim h e)) k (active (specOf (.rclaim h e)) s) s) :)
  obtain ⟨hgrown, hserved, hzero⟩ := serveQueue_grants hpool hfits
  rw [hheld] at hgrown hzero
  exact ⟨_, rclaim_queues hi hm h1 h32, hgrown, hserved, fun l r hr h256 _ => hzero l r hr h256⟩

/-- R175: a claim behind one that does not fit sleeps at the end of the queue. -/
theorem rclaim_sleeps :
    let w := s.cur.wave
    let v := curWave s
    let q := quadKey v
    let p := poolOf (gp s v.group) q
    let k := source (.rclaim h e) s 0 0
    let m := active (specOf (.rclaim h e)) s
    1 ≤ k → v.h + k ≤ 32 → (∀ y ∈ (p.queue ++ [(w, k, m)]).head?, p.free < y.2.1) →
      ∃ t, exec (.rclaim h e) s = .next t ∧ (wv t w).h = v.h ∧
        poolOf (gp t v.group) q = { p with quad := q, queue := p.queue ++ [(w, k, m)] } ∧
        ∀ l < v.lanes.length, inLanes m l = true → (ln (wv t w) l).sleep = .rclaim k := by
  intro w v q p k m h1 h32 hblocked
  have hpool : poolOf (gp (rclaimQueued h e s) v.group) q = { p with quad := q, queue := p.queue ++ [(w, k, m)] } :=
    claimQueued_pool (specOf (.rclaim h e)) k m s
  have hwave : wv (rclaimQueued h e s) w = asleepInClaim m k (issueWave (specOf (.rclaim h e)) s.cur (cycAt s v.core) v) :=
    wv_claimQueued (specOf (.rclaim h e)) k m s
  have hstands := serveQueue_of_blocked (s := rclaimQueued h e s) (by rw [hpool]; exact hblocked)
  refine ⟨rclaimQueued h e s, (rclaim_queues hi hm h1 h32).trans (by rw [hstands]), by rw [hwave]; rfl, hpool, fun l hl hin => ?_⟩
  rw [hwave, asleepInClaim, ln_modLanes _ _ _ (by simpa [issueWave, modLanes] using hl), if_pos hin]

end Rclaim

/-! ### `rfree` -/

section Rfree

variable {h : Head} {e : IExt} {s : State} (hi : Issuable (.rfree h e) s) (hm : active (specOf (.rfree h e)) s ≠ 0)
include hi hm

/-- R175, log 22: full registers are given back. -/
theorem rfree_releases (h1 : 1 ≤ source (.rfree h e) s 0 0) (hk : source (.rfree h e) s 0 0 < (curWave s).h)
    (hfull : granulesFull (curWave s) (source (.rfree h e) s 0 0) = true) :
    let v := curWave s
    let k := source (.rfree h e) s 0 0
    exec (.rfree h e) s = .next (toPool (modWv (advance (specOf (.rfree h e)) s) s.cur.wave fun u =>
      { u with h := v.h - k, vregs := u.vregs.filter fun y => decide (y.1 % 256 < 8 * (v.h - k)) }) v.group (quadKey v) k) := by
  intro v k
  have hok : (decide (1 ≤ k) && decide (k < v.h)) = true := by rw [decide_eq_true h1, decide_eq_true hk]; rfl
  have hbusy : (decide (active (specOf (.rfree h e)) s ≠ 0) && (decide (1 ≤ k) && decide (k < v.h)) && !granulesFull v k) = false := by
    rw [hfull, Bool.not_true, Bool.and_false]
  have hheld : (wv (advance (specOf (.rfree h e)) s) s.cur.wave).h = v.h :=
    (congrArg Wave.h (wv_advance (specOf (.rfree h e)) s) :)
  show execRfree h e s = _
  rw [execRfree]
  refine (runOp_go_of hi rfl hbusy rfl _).trans (congrArg Host.Outcome.next ?_)
  dsimp only
  rw [if_neg hm]
  refine (if_neg fun hn => absurd ((congrArg (!·) hok).symm.trans hn) Bool.false_ne_true).trans ?_
  rw [modWv, modWv, hheld]
  rfl

theorem rfree_illegal (hk : source (.rfree h e) s 0 0 < 1 ∨ (curWave s).h ≤ source (.rfree h e) s 0 0) :
    exec (.rfree h e) s = .next (raisePrecise s (trapOf (.rfree h e) 1 0 s.cur.lanes)) := by
  have hok : (decide (1 ≤ source (.rfree h e) s 0 0) && decide (source (.rfree h e) s 0 0 < (curWave s).h)) = false := by
    rw [Bool.and_eq_false_iff, decide_eq_false_iff_not, decide_eq_false_iff_not]
    omega
  have hbusy : (decide (active (specOf (.rfree h e)) s ≠ 0) && (decide (1 ≤ source (.rfree h e) s 0 0) &&
      decide (source (.rfree h e) s 0 0 < (curWave s).h)) && !granulesFull (curWave s) (source (.rfree h e) s 0 0)) = false := by
    rw [hok, Bool.and_false, Bool.false_and]
  show execRfree h e s = _
  rw [execRfree]
  refine (runOp_go_of hi rfl hbusy rfl _).trans (congrArg Host.Outcome.next ?_)
  dsimp only
  rw [if_neg hm]
  exact if_pos (congrArg (!·) hok)

end Rfree

/-! ### Guard slots (R325) -/

/-- R325: what `guard` has its slot wait for: a predicate's value, or a register that is empty. -/
def guardPending (h : Head) (x : GExt) (v : Wave) (due : Nat) : Guard :=
  let b := h.b.toNat
  if gT x = 0 then .pendQ (upred v b) due else if gT x = 1 then .pendQ (!upred v b) due
  else if sEmpty v b = true then .pendS b due else .pendQ (decide (sread v b ≠ 0)) due

theorem guardW_pends {h : Head} {x : GExt} {s : State} (hi : Issuable (.guardW h x) s) (hm : active (specOf (.guardW h x)) s ≠ 0)
    (hrun : gT x = 2 → h.b.toNat < (curWave s).uregs) :
    ∃ t, exec (.guardW h x) s = .next t ∧ (wv t s.cur.wave).guards =
      (curWave s).guards.set h.a.toNat (guardPending h x (curWave s) (cycAt s (curWave s).core + 4)) := by
  have hbad : (decide (gT x = 2) && decide ((curWave s).uregs ≤ h.b.toNat)) = false := by
    rw [Bool.and_eq_false_imp]
    exact fun ht => decide_eq_false (Nat.not_le.2 (hrun (of_decide_eq_true ht)))
  refine ⟨modWv (advance (specOf (.guardW h x)) s) s.cur.wave fun u =>
    { u with guards := u.guards.set h.a.toNat (guardPending h x u (cycAt (advance (specOf (.guardW h x)) s) u.core + 4)) }, ?_, ?_⟩
  · show execGuardW h x s = _
    rw [execGuardW]
    refine (runOp_go_of hi hbad rfl rfl _).trans (congrArg Host.Outcome.next ?_)
    dsimp only
    rw [if_neg hm, advance_cur]
    refine congrArg (modWv _ _) (funext fun u => ?_)
    unfold guardPending
    match gT x with
    | 0 => rfl
    | 1 => rfl
    | n + 2 => rfl
  · rw [wv_modWv_same, wv_advance, cycAt_advance]
    rfl

/-! ### Election (R326) -/

/-- A result that raises no flag. -/
theorem aluEff_unraised {i : Instr} {s : State} (ws : Writes) :
    aluEff i (specOf i) { writes := ws, raised := [] } (active (specOf i) s) s = issuedWith i ws s := by
  have hflags : Alu.flags { writes := ws, raised := [] } = 0 := rfl
  rw [aluEff_issuedWith (by rw [hflags]; exact arithCause_zero _), hflags]
  simp only [word_or_zero]

/-- R326: the writes of an `elect` that the wave and lane `r` name have won, the issuing ones where `b` holds. -/
def electWrites (h : Head) (x : GExt) (b : Bool) (r : Nat) : Writes :=
  { noWrites with sregs := [(h.a.toNat, BitVec.ofNat 32 (r + if b then 2 ^ 31 else 0))], qs := [(x.c.toNat, b)] }

theorem electWrites_eq (h : Head) (x : GExt) (b : Bool) (r : Nat) : electWrites h x b r =
    { noWrites with sregs := [(h.a.toNat, BitVec.ofNat 32 (r + 2 ^ 31 * b2n b))], qs := [(x.c.toNat, b)] } := by
  rw [show 2 ^ 31 * b2n b = if b then 2 ^ 31 else 0 by cases b <;> rfl]
  rfl

/-- R326: whether the issuing wave and lane have won, who has, and the group with its record of the election. -/
def electOutcome (h : Head) (x : GExt) (s : State) : Bool × Nat × Group :=
  let v := curWave s
  let gr := gp s v.group
  let me := v.index % 32 + 256 * firstLane s.cur.lanes
  let key := BitVec.ofNat 32 (source (.elect h x) s 0 0)
  let first := (true, me, { gr with elected := some (key, v.index % 32, firstLane s.cur.lanes) })
  match gT x with
  | 0 => (true, me, gr)
  | 1 => (match gr.elected with
    | some (k, wi, l) => if k = key then (false, wi + 256 * l, gr) else first
    | none => first)
  | _ => (decide (v.core % 2 = 0), me, gr)

theorem elect_issues {h : Head} {x : GExt} {s : State} (hi : Issuable (.elect h x) s) (hm : active (specOf (.elect h x)) s ≠ 0)
    {b : Bool} {r : Nat} {gr : Group} (ho : electOutcome h x s = (b, r, gr)) :
    exec (.elect h x) s = .next (issuedWith (.elect h x) (electWrites h x b r) (setGp s (curWave s).group gr)) := by
  have heff : exec (.elect h x) s =
      let o := electOutcome h x s
      .next (aluEff (.elect h x) (specOf (.elect h x))
        { writes := { noWrites with sregs := [(h.a.toNat, BitVec.ofNat 32 (o.2.1 + 2 ^ 31 * b2n o.1))], qs := [(x.c.toNat, o.1)] },
          raised := [] }
        (active (specOf (.elect h x)) s) (setGp s (curWave s).group o.2.2)) := by
    show execElect h x s = _
    rw [execElect]
    refine (runOp_go hi _).trans (congrArg Host.Outcome.next ?_)
    dsimp only
    rw [if_neg hm]
    rfl
  rw [heff, ho, electWrites_eq]
  exact congrArg Host.Outcome.next (aluEff_unraised (s := setGp s (curWave s).group gr) _)

section ElectOutcome

variable (h : Head) {x : GExt} {s : State}

theorem electOutcome_wave (ht : gT x = 0) : electOutcome h x s =
    (true, (curWave s).index % 32 + 256 * firstLane s.cur.lanes, gp s (curWave s).group) := by
  simp only [electOutcome, ht]

theorem electOutcome_lost (ht : gT x = 1) {k : Word} {wi l : Nat} (he : (gp s (curWave s).group).elected = some (k, wi, l))
    (hk : k = BitVec.ofNat 32 (source (.elect h x) s 0 0)) : electOutcome h x s = (false, wi + 256 * l, gp s (curWave s).group) := by
  simp only [electOutcome, ht, he, if_pos hk]

theorem electOutcome_first (ht : gT x = 1) (he : ∀ k wi l, (gp s (curWave s).group).elected = some (k, wi, l) →
      k ≠ BitVec.ofNat 32 (source (.elect h x) s 0 0)) : electOutcome h x s =
    (true, (curWave s).index % 32 + 256 * firstLane s.cur.lanes, { gp s (curWave s).group with
      elected := some (BitVec.ofNat 32 (source (.elect h x) s 0 0), (curWave s).index % 32, firstLane s.cur.lanes) }) := by
  simp only [electOutcome, ht]
  split
  · next k wi l hel => rw [if_neg (he k wi l hel)]
  · rfl

theorem electOutcome_pair (ht : 2 ≤ gT x) : electOutcome h x s =
    (decide ((curWave s).core % 2 = 0), (curWave s).index % 32 + 256 * firstLane s.cur.lanes, gp s (curWave s).group) := by
  unfold electOutcome
  match gT x, ht with
  | n + 2, _ => rfl

end ElectOutcome

/-! ### The return and `yield` (R318, R320) -/

theorem rfe_returns {h : Head} {s : State} (hi : Issuable (.rfe h) s) (hin : inh (curWave s) = true) (ha : acquireOut (curWave s) = false)
    (hb : (returnTrap (advance (specOf (.rfe h)) s) s.cur.wave replayEntry).blocked = none) :
    exec (.rfe h) s = .next (returnTrap (advance (specOf (.rfe h)) s) s.cur.wave replayEntry) := by
  show execRfe h s = _
  rw [execRfe]
  exact (runOp_go_of hi (congrArg (!·) hin) rfl ha _).trans (congrArg Host.Outcome.next (orStall_go hb))

/-- R231: an instruction's own illegal case comes before every condition of issue. -/
theorem gate_bad (sp : Spec) (busy full : Bool) (s : State) : gate sp true busy full s = .trap 1 0 := rfl

theorem rfe_illegal {h : Head} {s : State} (hin : inh (curWave s) = false) :
    exec (.rfe h) s = .next (raisePrecise (stall s 8) (trapOf (.rfe h) 1 0 s.cur.lanes)) := by
  have hgate : gate (specOf (.rfe h)) (!inh (curWave s)) false (acquireOut (curWave s)) s = .trap 1 0 := by
    rw [hin, Bool.not_false, gate_bad]
  show execRfe h s = _
  rw [execRfe]
  exact runOp_trap (c := 1) (k := 0) hgate _

/-- R318: a `yield` of a wave that is quiet, or of which nothing is requested. -/
theorem yieldOp_of_free {i : Instr} {s : State} (hi : Issuable i s)
    (hfree : ((curWave s).request && decide (active (specOf i) s ≠ 0) && !quietWave s s.cur.wave) = false) :
    yieldOp i s = .next (if (decide (active (specOf i) s = 0) || !(curWave s).request) = true then advance (specOf i) s
      else orStall s (saveWave (advance (specOf i) s) s.cur.wave s.cur.pc s.cur.lanes)) := by
  simp only [curWave] at hfree
  unfold yieldOp
  dsimp only
  rw [hfree, Bool.false_and, if_neg Bool.false_ne_true]
  refine (runOp_go hi _).trans (congrArg Host.Outcome.next ?_)
  rw [wv_advance, advance_cur]
  rfl

theorem yieldOp_idle {i : Instr} {s : State} (hi : Issuable i s) (h : (curWave s).request = false ∨ active (specOf i) s = 0) :
    yieldOp i s = .next (advance (specOf i) s) := by
  rw [yieldOp_of_free hi (by rcases h with h | h <;> simp [h])]
  exact congrArg Host.Outcome.next (if_pos (by rcases h with h | h <;> simp [h]))

theorem yieldOp_saves {i : Instr} {s : State} (hi : Issuable i s) (hr : (curWave s).request = true) (hm : active (specOf i) s ≠ 0)
    (hq : quietWave s s.cur.wave = true) :
    yieldOp i s = .next (orStall s (saveWave (advance (specOf i) s) s.cur.wave s.cur.pc s.cur.lanes)) := by
  rw [yieldOp_of_free hi (by simp [hq])]
  exact congrArg Host.Outcome.next (if_neg (by rw [decide_eq_false hm, hr]; decide))

theorem yield_issues (h : Head) (e : IExt) (s : State) : ∀ i ∈ [Instr.yieldShort h, Instr.yieldW h e], Issuable i s →
    ((curWave s).request = false ∨ active (specOf i) s = 0 → exec i s = .next (advance (specOf i) s)) ∧
    ((curWave s).request = true → active (specOf i) s ≠ 0 → quietWave s s.cur.wave = true →
      exec i s = .next (orStall s (saveWave (advance (specOf i) s) s.cur.wave s.cur.pc s.cur.lanes))) := by
  intro i hmem hi
  have hexec : exec i s = yieldOp i s := by
    simp only [List.mem_cons, List.not_mem_nil, or_false] at hmem
    obtain rfl | rfl := hmem <;> rfl
  rw [hexec]
  exact ⟨yieldOp_idle hi, yieldOp_saves hi⟩

/-! ### The obligation -/

/-- Settles O52: each instruction by its own lemmas, the winner of an election by `electOutcome`. -/
theorem poolGuardsElectionAndYield : Obligations.PoolGuardsElectionAndYield := by
  unfold Obligations.PoolGuardsElectionAndYield
  intro h e x s
  exact ⟨fun hi hm => ⟨rclaim_granted hi hm, rclaim_sleeps hi hm, rclaim_illegal hi hm⟩,
    fun hi hm => ⟨rfree_releases hi hm, rfree_illegal hi hm⟩,
    fun hi hm hrun _ => guardW_pends hi hm hrun,
    fun hi hm => ⟨fun ht => elect_issues hi hm (electOutcome_wave h ht),
      fun ht _ _ _ he hk => elect_issues hi hm (electOutcome_lost h ht he hk),
      fun ht he => elect_issues hi hm (electOutcome_first h ht he), fun ht => elect_issues hi hm (electOutcome_pair h ht)⟩,
    fun hi => ⟨rfe_returns hi, rfe_illegal⟩, yield_issues h e s⟩

end Sys2Proof.Machine
end

section
/-! The conditions of issue (R196, R231) as they decide an arithmetic instruction, and a matrix instruction on a tile of the leader: in
their order, each with the wait or the precise trap that it answers. -/

namespace Sys2Proof.Machine
open Sys2Proof.Machine.State

/-! ### Instructions with no condition of issue of their own but a full queue -/

/-- The instruction runs under the conditions of issue alone, or with the draws of its rounding counted besides (log 12). -/
inductive RunsAlone (i : Instr) (s : State) : Prop where
  | plain {full : Bool} {eff : Lanes → State → State} (h : exec i s = runOp i (specOf i) false false full eff s)
  | rounding {rm : BitVec 3} {eff : Lanes → State → State}
      (h : exec i s = bumpDraws rm s (runOp i (specOf i) false false false eff s))

section Shapes

variable {i : Instr} {s : State} {g : GExt} {rm : BitVec 3} {f : Wave → Nat → List Nat → LaneOut} {a : Wave → Lanes → Alu}
  {x : Wave → Lanes → Nat → LaneOut} {r : Fmt → Rnd → List Nat → FRes} {u : Wave → List Nat → Nat} {b : Wave → List Nat → Bool}

theorem runsAlone_of_laneAlu (h : exec i s = laneAlu i f s) : RunsAlone i s := .plain (h.trans (by rw [laneAlu, alu]))
theorem runsAlone_of_exchange (h : exec i s = exchange i x s) : RunsAlone i s := .plain (h.trans (by rw [exchange, alu]))
theorem runsAlone_of_uniAlu (h : exec i s = uniAlu i u s) : RunsAlone i s := .plain (h.trans (by rw [uniAlu, alu]))
theorem runsAlone_of_uniPred {k : Nat} (h : exec i s = uniPred i k b s) : RunsAlone i s := .plain (h.trans (by rw [uniPred, alu]))
theorem runsAlone_of_fpAlu (h : exec i s = fpAlu i g r s) : RunsAlone i s := .rounding (h.trans (by rw [fpAlu, laneAlu, alu]))
theorem runsAlone_of_fp8Alu (h : exec i s = fp8Alu i g r s) : RunsAlone i s := .rounding (h.trans (by rw [fp8Alu, laneAlu, alu]))
theorem runsAlone_of_roundedLaneAlu (h : exec i s = bumpDraws rm s (laneAlu i f s)) : RunsAlone i s :=
  .rounding (h.trans (by rw [laneAlu, alu]))
theorem runsAlone_of_roundedExchange (h : exec i s = bumpDraws rm s (exchange i x s)) : RunsAlone i s :=
  .rounding (h.trans (by rw [exchange, alu]))
theorem runsAlone_of_roundedAlu (h : exec i s = bumpDraws rm s (alu i (specOf i) a s)) : RunsAlone i s :=
  .rounding (h.trans (by rw [alu]))

end Shapes

/-- Each arithmetic instruction has one of these shapes. -/
theorem runsAlone_of_isArithmetic {i : Instr} (s : State) (h : isArithmetic i = true) : RunsAlone i s := by
  cases i
  case vmov | vmovShort | vmovi | vmovh | vsel | vadd | vaddShort | vsub | vsubShort | vmul | vmulShort | vmulh | vmulhShort | vmad |
      vmadw | vmin | vminShort | vmax | vmaxShort | vabsd | vabsdShort | vaddi | vand | vandShort | vor | vorShort | vxor | vxorShort |
      vandn | vandnShort | vshl | vshlShort | vshr | vshrShort | vsar | vsarShort | vrot | vrotShort | vbfe | vbfi | vclz | vclzShort |
      vpopc | vpopcShort | vbrev | vbrevShort | vperm | vcmp | vcmpi | vplog | vpmov | vlea | vidx | vfcmp | vfclass | vunpk | vdot4 |
      vdot8 | vftag => exact runsAlone_of_laneAlu (by unfold exec; rfl)
  case vfadd | vfaddShort | vfsub | vfsubShort | vfmul | vfmulShort | vfma | vfmin | vfminShort | vfmax | vfmaxShort | vfrnd |
      vfrndShort | vfract | vfractShort | vrcp | vrcpShort | vrsq | vrsqShort | vsqrt | vsqrtShort | vexp2 | vexp2Short | vlog2 |
      vlog2Short | vsinp | vsinpShort | vcosp | vcospShort | vfdiv | vfdivShort => exact runsAlone_of_fpAlu (by unfold exec; rfl)
  case vpfma | vpfadd | vpfmul => exact runsAlone_of_fp8Alu (by unfold exec; rfl)
  case vcvt | vscl | vpack | vfdot2 => exact runsAlone_of_roundedLaneAlu (by unfold exec; rfl)
  case vshfl | vbcst | vvote | vmatch | vcompact => exact runsAlone_of_exchange (by unfold exec; rfl)
  case vexpand => exact runsAlone_of_exchange (by unfold exec execVexpand; rfl)
  case vredu => exact runsAlone_of_roundedExchange (by unfold exec; rfl)
  case vscan => exact runsAlone_of_roundedAlu (by unfold exec; rfl)
  case smov | smovShort | smovi | ssel | sadd | saddShort | ssub | ssubShort | smul | smulShort | smulh | smulhShort | smin |
      sminShort | smax | smaxShort | sand | sandShort | sor | sorShort | sxor | sxorShort | sshl | sshlShort | sshr | sshrShort | ssar |
      ssarShort | sbfe | sclz | sclzShort | spopc | spopcShort | slea | sidx => exact runsAlone_of_uniAlu (by unfold exec; rfl)
  case scmp | sqlog => exact runsAlone_of_uniPred (by unfold exec; rfl)
  all_goals exact absurd h (by simp [isArithmetic])

theorem runsAlone_of_matOp {i : Instr} {s : State} (hbad : matBad s (matHead i) = false) (h : exec i s = matOp i s) : RunsAlone i s :=
  .plain (h.trans (by rw [matOp, hbad]))

/-- R178, R231: a matrix instruction on a tile of the pair's leader is not illegal of itself. -/
theorem runsAlone_of_onTile {i : Instr} {s : State} {h : Head} {n : NExt}
    (hi : i ∈ [Instr.mma h n, .mmas h n, .mmap h n, .mzero h n, .mfill h n, .mdrain h n, .mscale h n])
    (hc : (curWave s).core % 2 = 0) (ha : h.a.toNat < (groupOf s s.cur.wave).kernel.accum) : RunsAlone i s := by
  have hbad : matBad s h = false :=
    Bool.or_eq_false_iff.2 ⟨decide_eq_false (by rw [← curWave, hc]; decide), decide_eq_false (Nat.not_le.2 ha)⟩
  simp only [List.mem_cons, List.not_mem_nil, or_false] at hi
  obtain rfl | rfl | rfl | rfl | rfl | rfl | rfl := hi <;> exact runsAlone_of_matOp hbad (by unfold exec; rfl)

section Outcomes

variable {i : Instr} {s : State} (hi : RunsAlone i s)
include hi

/-- What the conditions of issue answer stands, but for the count of draws. -/
theorem RunsAlone.answers {o : State} (h : ∀ full eff, runOp i (specOf i) false false full eff s = .next o) :
    ∃ n, exec i s = .next (withDraws n o) := by
  cases hi with
  | plain he => exact ⟨o.draws, he.trans (h _ _)⟩
  | rounding he =>
    rw [he, h, bumpDraws]
    split
    · exact ⟨_, rfl⟩
    · exact ⟨o.draws, rfl⟩

theorem RunsAlone.waits {k : Nat} (h : ∀ full, gate (specOf i) false false full s = .wait k) :
    ∃ n, exec i s = .next (withDraws n (stall s k)) :=
  hi.answers fun full => runOp_wait (h full)

theorem RunsAlone.traps {c : Nat} (h : ∀ full, gate (specOf i) false false full s = .trap c 0) :
    ∃ n, exec i s = .next (withDraws n (raisePrecise (stall s (trapCondition c)) (trapOf i c 0 s.cur.lanes))) :=
  hi.answers fun full => runOp_trap (h full)

end Outcomes

/-! ### The conditions in their order -/

theorem gate_of_gateSrc_wait {sp : Spec} {bad busy full : Bool} {s : State} {k : Nat} (h : gateSrc sp bad s = .wait k) :
    gate sp bad busy full s = .wait k := by simp only [gate, h]

theorem gate_of_gateSrc_trap {sp : Spec} {bad busy full : Bool} {s : State} {c k : Nat} (h : gateSrc sp bad s = .trap c k) :
    gate sp bad busy full s = .trap c k := by simp only [gate, h]

section Gate

variable {sp : Spec} {s : State} (full : Bool)

section Sources

variable (hrun : runsIn (curWave s) sp = true) (hdist : distOk (curWave s) (cycAt s (curWave s).core) s.cur.lanes sp.d = true)
  (hmask : flagsClear (curWave s) sp.w = true)
include hrun hdist hmask

theorem gate_guard (hg : guardWait (curWave s) sp s.cur.lanes = true) : gate sp false false full s = .wait 3 :=
  gate_of_gateSrc_wait (by rw [gateSrc_past hrun hdist hmask, if_pos hg])

variable (hg : guardWait (curWave s) sp s.cur.lanes = false)
include hg

theorem gateSrc_unguarded : gateSrc sp false s = srcVerdict (curWave s) (active sp s) sp.srcs := by
  rw [gateSrc_past hrun hdist hmask, if_neg (Bool.eq_false_iff.1 hg)]

theorem gate_source {a b : List Src} {x : Src} (hs : sp.srcs = a ++ x :: b) (ha : ∀ y ∈ a, srcEmpty (curWave s) (active sp s) y = false)
    (hx : srcEmpty (curWave s) (active sp s) x = true) :
    (x.trap = true → gate sp false false full s = .trap 2 0) ∧ (x.trap = false → gate sp false false full s = .wait 3) := by
  have hv := gateSrc_unguarded hrun hdist hmask hg
  rw [hs, srcVerdict_first hx ha] at hv
  exact ⟨fun ht => gate_of_gateSrc_trap (by rw [hv, if_pos ht]),
    fun ht => gate_of_gateSrc_wait (by rw [hv, if_neg (Bool.eq_false_iff.1 ht)])⟩

theorem gateSrc_filled (hs : ∀ x ∈ sp.srcs, srcEmpty (curWave s) (active sp s) x = false) : gateSrc sp false s = .go :=
  (gateSrc_unguarded hrun hdist hmask hg).trans (srcVerdict_go hs)

end Sources

section Later

variable (hsrc : gateSrc sp false s = .go)
include hsrc

theorem gate_destination
    (h : (∃ d ∈ sp.dsts, dstEmpty (curWave s) (active sp s) d = true) ∨ predWait (curWave s) sp (active sp s) = true) :
    gate sp false false full s = .wait 3 := by
  rw [gate_past hsrc]
  exact if_pos (by rwa [Bool.or_eq_true, List.any_eq_true])

variable (hdst : ∀ d ∈ sp.dsts, dstEmpty (curWave s) (active sp s) d = false) (hpred : predWait (curWave s) sp (active sp s) = false)
include hdst hpred

/-- Past the third condition. -/
theorem gate_filled : gate sp false false full s =
    if decide (sp.g ≠ 0) && slotPending (curWave s) sp.g then .wait 4
    else if sp.ec.any (fun e => !ebudOk s (curWave s).core (curWave s).ctx e) then .wait 5
    else if sp.mat && decide ((pr s (corePair (curWave s).core)).baton ≠ some s.cur.wave) then .trap 5 0
    else if full || decide (63 ≤ (curWave s).flags.getD sp.flag 0) || (sp.win && decide (16 ≤ windowUsed (curWave s))) then .wait 7
    else if sp.srcs.all (tagsOk (curWave s) (active sp s)) then .go else .trap 3 0 := by
  have hany : sp.dsts.any (dstEmpty (curWave s) (active sp s)) = false := List.any_eq_false.2 fun d hd => Bool.eq_false_iff.1 (hdst d hd)
  rw [gate_past hsrc]
  dsimp only
  rw [hany, hpred]
  cases sp.ec <;> rfl

theorem gate_slot (hg : sp.g ≠ 0) (h : slotPending (curWave s) sp.g = true) : gate sp false false full s = .wait 4 := by
  rw [gate_filled full hsrc hdst hpred, if_pos (by rw [h, decide_eq_true hg]; rfl)]

variable (hslot : sp.g = 0 ∨ slotPending (curWave s) sp.g = false)
include hslot

theorem gate_energy {e : Nat} (he : sp.ec = some e) (h : ebudOk s (curWave s).core (curWave s).ctx e = false) :
    gate sp false false full s = .wait 5 := by
  rw [gate_filled full hsrc hdst hpred, if_neg (by rcases hslot with h | h <;> simp [h]), he,
    Option.any_some, h]
  exact if_pos rfl

variable (henergy : ∀ e, sp.ec = some e → ebudOk s (curWave s).core (curWave s).ctx e = true)
include henergy

/-- Past the fifth condition. -/
theorem gate_paid : gate sp false false full s =
    if sp.mat && decide ((pr s (corePair (curWave s).core)).baton ≠ some s.cur.wave) then .trap 5 0
    else if full || decide (63 ≤ (curWave s).flags.getD sp.flag 0) || (sp.win && decide (16 ≤ windowUsed (curWave s))) then .wait 7
    else if sp.srcs.all (tagsOk (curWave s) (active sp s)) then .go else .trap 3 0 := by
  rw [gate_filled full hsrc hdst hpred, if_neg (by rcases hslot with h | h <;> simp [h])]
  refine if_neg ?_
  rw [Option.any_eq_true]
  rintro ⟨e, he, h⟩
  rw [henergy e he] at h
  exact absurd h (by decide)

theorem gate_baton (hm : sp.mat = true) (h : (pr s (corePair (curWave s).core)).baton ≠ some s.cur.wave) :
    gate sp false false full s = .trap 5 0 := by
  rw [gate_paid full hsrc hdst hpred hslot henergy, if_pos (by rw [hm, decide_eq_true h]; rfl)]

theorem gate_full (hbaton : sp.mat = true → (pr s (corePair (curWave s).core)).baton = some s.cur.wave)
    (h : 63 ≤ (curWave s).flags.getD sp.flag 0 ∨ (sp.win = true ∧ 16 ≤ windowUsed (curWave s))) :
    gate sp false false full s = .wait 7 := by
  rw [gate_paid full hsrc hdst hpred hslot henergy, if_neg (by simpa using hbaton)]
  refine if_pos ?_
  obtain h | ⟨hw, h⟩ := h
  · rw [decide_eq_true h, Bool.or_true, Bool.true_or]
  · rw [hw, decide_eq_true h, Bool.true_and, Bool.or_true]

end Later

end Gate

/-! ### The obligation -/

/-- Settles O25: the instruction runs under the conditions of issue alone, and each of them answers once those before it are met. -/
theorem illegalRunsTrapAndWaitsHold : Obligations.IllegalRunsTrapAndWaitsHold := by
  unfold Obligations.IllegalRunsTrapAndWaitsHold
  intro i s v sp m onTile upToDraws waits traps past2 past3 past4 past5 past6 hclass
  have hi : RunsAlone i s := by
    obtain h | ⟨h, n, hmem, hc, ha⟩ := hclass
    · exact runsAlone_of_isArithmetic s h
    · exact runsAlone_of_onTile hmem hc ha
  have hgo : past3 → gateSrc sp false s = .go := fun ⟨⟨hr, hd, hw⟩, hg, hs, _⟩ => gateSrc_filled hr hd hw hg hs
  refine ⟨?runs, ?distance, ?mask, ?guard, ?source, ?destination, ?slot, ?energy, ?baton, ?full⟩
  case runs => exact fun hr => hi.traps fun _ => gate_illegal hr
  case distance => exact fun hr hd => hi.waits fun _ => gate_distance hr hd
  case mask => exact fun hr hd hw => hi.waits fun _ => gate_mask hr hd hw
  case guard => exact fun ⟨hr, hd, hw⟩ hg => hi.waits fun _ => gate_guard _ hr hd hw hg
  case source =>
    intro ⟨hr, hd, hw⟩ hg a x b hs ha hx
    have hgate := fun full => gate_source full hr hd hw hg hs ha hx
    exact ⟨fun ht => hi.traps fun full => (hgate full).1 ht, fun ht => hi.waits fun full => (hgate full).2 ht⟩
  case destination =>
    exact fun ⟨hr, hd, hw⟩ hg hs h => hi.waits fun _ => gate_destination _ (gateSrc_filled hr hd hw hg hs) h
  case slot =>
    intro h3 hz h
    obtain ⟨-, -, -, hdst, hp⟩ := id h3
    exact hi.waits fun _ => gate_slot _ (hgo h3) hdst hp hz h
  case energy =>
    intro ⟨h3, hsl⟩ e he h
    obtain ⟨-, -, -, hdst, hp⟩ := id h3
    exact hi.waits fun _ => gate_energy _ (hgo h3) hdst hp hsl he h
  case baton =>
    intro ⟨⟨h3, hsl⟩, he⟩ hm h
    obtain ⟨-, -, -, hdst, hp⟩ := id h3
    exact hi.traps fun _ => gate_baton _ (hgo h3) hdst hp hsl he hm h
  case full =>
    intro ⟨⟨⟨h3, hsl⟩, he⟩, hb⟩ h
    obtain ⟨-, -, -, hdst, hp⟩ := id h3
    exact hi.waits fun _ => gate_full _ (hgo h3) hdst hp hsl he hb h

end Sys2Proof.Machine
end

section
/-! The events of queues and launches (R180 to R195), one lemma for each occasion. -/

namespace Sys2Proof.Machine
open Sys2Proof.Machine.State

/-! ### The tables that they write -/

theorem qu_modQu_same (s : State) (q : Nat) (f : Queue → Queue) : qu (modQu s q f) q = f (qu s q) := tget_tset_same ..
theorem cx_modCx_same (s : State) (c : Nat) (f : Ctx → Ctx) : cx (modCx s c f) c = f (cx s c) := tget_tset_same ..
theorem gp_modGp_other (s : State) {g k : Nat} (h : k ≠ g) (f : Group → Group) : gp (modGp s g f) k = gp s k := tget_tset_other _ h ..

theorem mem_launches_modLaunch {s : State} {c id : Nat} {f : Launch → Launch} {y : Launch}
    (hy : y ∈ (cx (modLaunch s c id f) c).launches) (hid : y.id = id) : ∃ x, y = f x := by
  rw [modLaunch, cx_modCx_same, List.mem_map] at hy
  obtain ⟨x, -, rfl⟩ := hy
  by_cases hx : x.id = id
  · exact ⟨x, if_pos hx⟩
  · rw [if_neg hx] at hid
    exact absurd hid hx

/-! ### Queues (R182, R183) -/

theorem qctl_sets {s : State} (hb : s.mgmt.boot = .run) :
    exec .qctlEnable s = .next (enableQueue s (arg s 0) (arg s 1) (arg s 2)) ∧
    exec .qctlDisable s = .next (disableQueue s (arg s 0) (arg s 1) (arg s 2)) := by
  constructor
  · show execQctlEnable s = _
    rw [execQctlEnable, whenUp_of_run hb]
  · show execQctlDisable s = _
    rw [execQctlDisable, whenUp_of_run hb]

section RecordRead

variable {s : State} (hr : queueReads (qu s (arg s 0)) = true)
include hr

theorem queueRecordRead_offers {t : State} {bs : List Byte}
    (hsize : ((qu s (arg s 0)).tail - (qu s (arg s 0)).head).toNat ≤ 2 ^ (qu s (arg s 0)).size.toNat)
    (hread : engBytes s (ctxUnit s (qu s (arg s 0)).ctx.toNat) (qu s (arg s 0)).ctx.toNat .ld
      ((qu s (arg s 0)).base.toNat + 128 * ((qu s (arg s 0)).head.toNat % 2 ^ (qu s (arg s 0)).size.toNat)) 128 = (t, .ok bs))
    (hfree : t.blocked = none) :
    ∃ u, exec .queueRecordRead s = .next u ∧ (qu u (arg s 0)).offered = true ∧
      (cx u (qu s (arg s 0)).ctx.toNat).offers = (cx t (qu s (arg s 0)).ctx.toNat).offers ++ [(arg s 0, bs)] := by
  refine ⟨modCx (modQu t (arg s 0) fun x => { x with offered := true }) (qu s (arg s 0)).ctx.toNat
    fun y => { y with offers := y.offers ++ [(arg s 0, bs)] }, ?_, ?_, ?_⟩
  · show execQueueRecordRead s = _
    rw [execQueueRecordRead, hr, hread, Bool.not_true, if_neg Bool.false_ne_true, if_neg (Nat.not_lt.2 hsize)]
    exact congrArg Host.Outcome.next (orWait_of_free hfree)
  · exact congrArg Queue.offered (qu_modQu_same t (arg s 0) fun x => { x with offered := true })
  · exact congrArg Ctx.offers (cx_modCx_same ..)

theorem queueRecordRead_stops (hsize : 2 ^ (qu s (arg s 0)).size.toNat < ((qu s (arg s 0)).tail - (qu s (arg s 0)).head).toNat) :
    GoesOrWaits s .queueRecordRead (stopQueue s (arg s 0) 1 0) := by
  refine goesOrWaits_of_orWait ?_
  show execQueueRecordRead s = _
  rw [execQueueRecordRead, hr, Bool.not_true, if_neg Bool.false_ne_true, if_pos hsize]

end RecordRead

/-! ### Launches and groups (R187 to R191) -/

theorem launchAccept_accepts (s : State) : GoesOrWaits s .launchAccept (acceptOffer s (arg s 0)) := goesOrWaits_of_orWait rfl

theorem groupPlace_places {s t : State} (h : placement s (arg s 0) = some t) : GoesOrWaits s .groupPlace t := by
  refine goesOrWaits_of_orWait ?_
  show execGroupPlace s = _
  rw [execGroupPlace, h]
  rfl

theorem groupComplete_publishes {s : State} (h : workDone s (arg s 0) = true) : GoesOrWaits s .groupComplete
    (publishGroup (endIfOver 8 (modGp s (arg s 0) fun y => { y with published := true }) (arg s 0))
      (gp s (arg s 0)).ctx (gp s (arg s 0)).launch (gp s (arg s 0)).stage (gp s (arg s 0)).lin ((gp s (arg s 0)).pair / 32)) := by
  refine goesOrWaits_of_orWait ?_
  show execGroupComplete s = _
  rw [execGroupComplete]
  dsimp only
  rw [if_pos h]

theorem groupComplete_saves {s : State} (h : workDone s (arg s 0) = false) (hs : saveDue s (arg s 0) = true) :
    GoesOrWaits s .groupComplete (saveGroup s (arg s 0)) := by
  refine goesOrWaits_of_orWait ?_
  show execGroupComplete s = _
  rw [execGroupComplete]
  dsimp only
  rw [if_neg (Bool.eq_false_iff.1 h), if_pos hs]

/-! ### Contracts (R194, R195) -/

/-- The state in which the launch has been released now. -/
def launchReleased (s : State) (q : Nat) (l : Launch) : State :=
  modLaunch s l.ctx l.id fun y => { y with released := some (cycOf s (qu s q).cstack.toNat) }

theorem contractRelease_requests {s : State} {l : Launch} (h : releaseDue s (arg s 0) = some l) :
    exec .contractRelease s = .next
      ((tkeys s.groups fun g => g.live && !g.savedAll && decide ((pr s g.pair).reservedBy = arg s 0 + 1) &&
        !((launchOf (launchReleased s (arg s 0) l) g).any fun y => decide ((ruleLaunch (launchReleased s (arg s 0) l) y).id = l.id))).foldl
        requestGroup (launchReleased s (arg s 0) l)) := by
  show execContractRelease s = _
  rw [execContractRelease, h]
  rfl

/-- The state in which the launch has met the end of its budget: it and its groups run on at priority 7 without contract. -/
def launchOverran (s : State) (l : Launch) : State :=
  let s := launchEvent s l 2 0 (eventStack s l)
  let mine := fun g : Group => (launchOf s g).any fun y => decide ((ruleLaunch s y).id = l.id)
  let s := (tkeys s.groups fun g => g.live && mine g).foldl (fun s g => modGp s g fun x => { x with prio := 7 }) s
  modLaunch s l.ctx l.id fun y => { y with contract := false, overrun := true, prio := 7 }

theorem launchOverran_blocked (s : State) (l : Launch) : (launchOverran s l).blocked = (launchEvent s l 2 0 (eventStack s l)).blocked := by
  refine foldl_keeps State.blocked (fun _ _ => ?_) _ _
  rfl

theorem contractOverrun_demotes {s : State} {l : Launch} (hf : findLaunch s (arg s 0) = some l) (hd : overrunDue s l = true)
    (hfree : (launchEvent s l 2 0 (eventStack s l)).blocked = none) :
    ∃ t, exec .contractOverrun s = .next t ∧
      ∀ y ∈ (cx t l.ctx).launches, y.id = l.id → y.contract = false ∧ y.overrun = true ∧ y.prio = 7 := by
  refine ⟨launchOverran s l, ?_, fun y hy hid => ?_⟩
  · show execContractOverrun s = _
    rw [execContractOverrun, hf]
    dsimp only
    rw [hd, Bool.not_true, if_neg Bool.false_ne_true]
    exact congrArg Host.Outcome.next (orWait_of_free ((launchOverran_blocked s l).trans hfree))
  · unfold launchOverran at hy
    obtain ⟨x, rfl⟩ := mem_launches_modLaunch hy hid
    exact ⟨rfl, rfl, rfl⟩

section YieldMax

variable {s t : State} {x : Group} (hl : yieldLate s (arg s 0) = true) (hx : gp s (wv s (arg s 0)).group = x)
  (ht : dropGroup s (wv s (arg s 0)).group = t)
include hl hx ht

theorem yieldmaxExpiry_ends
    (h : ∀ l, findLaunch t x.launch = some l → accepted l = false ∨ linkedAfter l 8 x.stage = []) :
    GoesOrWaits s .yieldmaxExpiry (endIfOver 8 t x.upstream) := by
  refine goesOrWaits_of_orWait ?_
  show execYieldmaxExpiry s = _
  rw [execYieldmaxExpiry]
  dsimp only
  rw [hl, hx, ht, Bool.not_true, if_neg Bool.false_ne_true]
  cases hf : findLaunch t x.launch with
  | none => rfl
  | some l =>
    dsimp only
    obtain ha | hn := h l hf
    · rw [ha, Bool.not_false, if_pos rfl]
    · rw [hn, List.takeWhile_nil, List.foldl_nil, ite_self]

/-- Log 110: a linked group that is not placed yet counts as completed. -/
theorem yieldmaxExpiry_completes {l : Launch} (hf : findLaunch t x.launch = some l) (ha : accepted l = true) :
    GoesOrWaits s .yieldmaxExpiry (endIfOver 8
      (((linkedAfter l 8 x.stage).takeWhile fun k => !(l.placed.contains (k, x.lin))).foldl
        (fun u k => publishGroup (modLaunch u l.ctx l.id fun y => { y with placed := y.placed ++ [(k, x.lin)] })
          l.ctx l.id k x.lin (x.pair / 32)) t) x.upstream) := by
  refine goesOrWaits_of_orWait ?_
  show execYieldmaxExpiry s = _
  rw [execYieldmaxExpiry]
  dsimp only
  rw [hl, hx, ht, Bool.not_true, if_neg Bool.false_ne_true, hf]
  dsimp only
  rw [ha, Bool.not_true, if_neg Bool.false_ne_true]

end YieldMax

theorem hiveTaskTimeout_forms {s : State} {t : Task} (h : oldTask s (arg s 0) = some t) :
    exec .hiveTaskTimeout s = .next (formTask s (arg s 0) t.ctx t.kernel.entry) := by
  show execHiveTaskTimeout s = _
  rw [execHiveTaskTimeout, h]

end Sys2Proof.Machine
end

section
/-! The events of waves, of their pairs' baton and of their energy (R169, R172, R176, R178, R196, R197, R382, R383), one lemma for each
occasion. -/

namespace Sys2Proof.Machine
open Sys2Proof.Machine.State

/-! ### The writeback of a result (R172) -/

/-- The wave with other results not yet written. -/
def withResults (rs : List Result) (v : Wave) : Wave := { v with results := rs }

section WithResults

variable (fill : Bool) (rs : List Result) (v : Wave)

theorem landReg_withResults (x : Nat × Nat × Word × Tag) :
    landReg fill (withResults rs v) x = withResults rs (landReg fill v x) := by
  unfold landReg
  dsimp only
  rw [show heldEmpty (withResults rs v) = heldEmpty v from rfl]
  split <;> rfl

theorem landSreg_withResults (x : Nat × Word) : landSreg fill (withResults rs v) x = withResults rs (landSreg fill v x) := by
  unfold landSreg
  dsimp only
  rw [show heldEmpty (withResults rs v) = heldEmpty v from rfl]
  split <;> rfl

theorem landPred_withResults (x : Nat × Nat × Bool) : landPred fill (withResults rs v) x = withResults rs (landPred fill v x) := by
  unfold landPred setPred
  dsimp only
  split <;> split <;> rfl

theorem landQ_withResults (x : Nat × Bool) : landQ fill (withResults rs v) x = withResults rs (landQ fill v x) := by
  unfold landQ setQ
  dsimp only
  split <;> split <;> rfl

theorem landSys_withResults (x : Nat × Word) : landSys (withResults rs v) x = withResults rs (landSys v x) := by
  simp only [landSys, apply_ite (withResults rs)]
  rfl

/-- Writes land alike whatever results are not yet written. -/
theorem land_withResults (ws : Writes) : land fill (withResults rs v) ws = withResults rs (land fill v ws) := by
  unfold land
  dsimp only
  rw [List.foldl_hom (withResults rs) (landReg_withResults fill rs), List.foldl_hom (withResults rs) (landSreg_withResults fill rs),
    List.foldl_hom (withResults rs) (landPred_withResults fill rs), List.foldl_hom (withResults rs) (landQ_withResults fill rs),
    List.foldl_hom (withResults rs) (landSys_withResults rs)]
  rfl

end WithResults

/-- R170, R288: the completion of an operation changes what the wave has in flight and its flags, and nothing else. -/
theorem complete_frame (v : Wave) (id : Nat) (m : Lanes) (k : Nat) : complete v id m k =
    { v with ops := (complete v id m k).ops, flags := (complete v id m k).flags } := by
  unfold complete
  dsimp only
  split
  · rfl
  · split <;> rfl

theorem resultWriteback_lands {s : State} {r : Result} (hf : ((wv s (arg s 0)).results.find? fun r => r.id = arg s 1) = some r)
    (hr : resultReady s (arg s 0) r = true) (ha : attrOf (wv s (arg s 0)) r = none) :
    ∃ t, exec .resultWriteback s = .next t ∧ (wv t (arg s 0)).vregs = (land true (wv s (arg s 0)) r.writes).vregs ∧
      (wv t (arg s 0)).sregs = (land true (wv s (arg s 0)) r.writes).sregs ∧
      (wv t (arg s 0)).q = (land true (wv s (arg s 0)) r.writes).q ∧
      (wv t (arg s 0)).results = (wv s (arg s 0)).results.filter (fun x => x.id ≠ r.id) ∧ t.mem = s.mem := by
  refine ⟨modWv (modWv s (arg s 0) (withResults ((wv s (arg s 0)).results.filter fun x => x.id ≠ r.id))) (arg s 0)
    fun v => complete (land true v r.writes) r.op r.lanes 0, ?_, ?_⟩
  · have hattr : attrOf (wv (modWv s (arg s 0) fun v => { v with results := v.results.filter fun x => x.id ≠ r.id })
        (arg s 0)) r = none := by
      rw [wv_modWv_same]
      exact ha
    show execResultWriteback s = _
    rw [execResultWriteback]
    dsimp only
    rw [hf]
    dsimp only
    rw [hr, Bool.not_true, if_neg Bool.false_ne_true, hattr]
    rfl
  · rw [wv_modWv_same, wv_modWv_same, land_withResults, complete_frame]
    exact ⟨rfl, rfl, rfl, rfl, rfl⟩

/-! ### Issue (R169, R196) -/

theorem priorityGroup_forms {s : State} {pc : Nat} (hp : priorityPc s (arg s 0) = some pc)
    (hpc : (ln (wv s (arg s 0)) (arg s 1)).pc = pc) :
    ∃ t, exec .priorityGroup s = .next t ∧
      wv t (arg s 0) = { wv s (arg s 0) with priority := some (lanesAt (wv s (arg s 0)) pc, 0) } := by
  refine ⟨_, ?_, wv_modWv_same s (arg s 0) fun v => { v with priority := some (lanesAt v pc, 0) }⟩
  show execPriorityGroup s = _
  rw [execPriorityGroup, hp]
  dsimp only
  rw [if_pos hpc]

theorem issueStarvation_notes {s : State} (h : starving s (arg s 0) = true) :
    ∃ t, exec .issueStarvation s = .next t ∧ wv t (arg s 0) = { wv s (arg s 0) with starved := true } := by
  refine ⟨_, ?_, wv_modWv_same s (arg s 0) fun v => { v with starved := true }⟩
  show execIssueStarvation s = _
  rw [execIssueStarvation, if_pos h]

/-! ### Claim deadlock (R176) -/

theorem poolOf_setPool_other (g : Group) {p : Pool} {q : Nat} (h : q ≠ p.quad) : poolOf (setPool g p) q = poolOf g q := by
  unfold poolOf setPool
  rw [List.find?_cons_of_neg (by simpa using h.symm), List.find?_filter]
  congr 2
  funext x
  by_cases hx : x.quad = q
  · simp [hx, h]
  · simp [hx]

/-- A pool whose claims all ended by a deadlock. -/
def deadPool (p : Pool) : Pool := { p with queue := [], dlk := true }

/-- The group with the pools of these quadrants ended by a deadlock. -/
def withDeadPools (qs : List Nat) (g : Group) : Group := qs.foldl (fun x q => setPool x (deadPool (poolOf x q))) g

theorem withDeadPools_waves (qs : List Nat) (g : Group) : (withDeadPools qs g).waves = g.waves :=
  foldl_keeps Group.waves (fun x q => show (setPool x (deadPool (poolOf x q))).waves = x.waves from rfl) qs g

theorem poolOf_deadPool (g : Group) (q q' : Nat) :
    poolOf (setPool g (deadPool (poolOf g q))) q' = if q' = q then deadPool (poolOf g q) else poolOf g q' := by
  have hq : (deadPool (poolOf g q)).quad = q := poolOf_quad g q
  split
  next h => exact poolOf_setPool g (hq.trans h.symm)
  next h => exact poolOf_setPool_other g (by rwa [hq])

theorem poolOf_withDeadPools (q : Nat) : ∀ (qs : List Nat) (g : Group),
    poolOf (withDeadPools qs g) q = if q ∈ qs then deadPool (poolOf g q) else poolOf g q
  | [], _ => rfl
  | x :: r, g => by
    show poolOf (withDeadPools r (setPool g (deadPool (poolOf g x)))) q = _
    rw [poolOf_withDeadPools q r, poolOf_deadPool]
    by_cases hx : q = x
    · subst hx
      simp [deadPool]
    · simp [hx]

/-- The quadrants whose pools a claim deadlock of group `g` ends. -/
def claimQuads (s : State) (g : Nat) : List Nat :=
  (((gp s g).waves.filter fun w => (wv s w).live && !(wv s w).saved).map fun w => quadKey (wv s w)) ++ (gp s g).pools.map fun p => p.quad

theorem mem_claimQuads {s : State} {g q : Nat} (h : q ∈ (gp s g).pools.map (·.quad) ∨
    ∃ w ∈ (gp s g).waves, (wv s w).live = true ∧ (wv s w).saved = false ∧ quadKey (wv s w) = q) : q ∈ claimQuads s g := by
  rw [claimQuads, List.mem_append]
  obtain h | ⟨w, hw, hl, hs, hq⟩ := h
  · exact .inr h
  · exact .inl (List.mem_map.2 ⟨w, List.mem_filter.2 ⟨hw, by rw [hl, hs]; rfl⟩, hq⟩)

theorem claimDeadlock_ends {s : State} (h : claimDead s (arg s 0) = true) :
    ∃ u, GoesOrWaits s .claimDeadlock ((gp s (arg s 0)).waves.foldl claimTrap u) ∧ u = { s with groups := u.groups } ∧
      (∀ k, k ≠ arg s 0 → gp u k = gp s k) ∧
      ∀ q, (q ∈ (gp s (arg s 0)).pools.map (·.quad) ∨
          ∃ w ∈ (gp s (arg s 0)).waves, (wv s w).live = true ∧ (wv s w).saved = false ∧ quadKey (wv s w) = q) →
        poolOf (gp u (arg s 0)) q = { poolOf (gp s (arg s 0)) q with queue := [], dlk := true } := by
  have hg := gp_modGp_same s (arg s 0) (withDeadPools (claimQuads s (arg s 0)))
  refine ⟨modGp s (arg s 0) (withDeadPools (claimQuads s (arg s 0))), goesOrWaits_of_orWait ?_, rfl,
    fun k hk => gp_modGp_other s hk _, fun q hq => ?_⟩
  · have hwaves : (gp (modGp s (arg s 0) (withDeadPools (claimQuads s (arg s 0)))) (arg s 0)).waves = (gp s (arg s 0)).waves := by
      rw [hg, withDeadPools_waves]
    show execClaimDeadlock s = _
    rw [← hwaves, execClaimDeadlock]
    dsimp only
    rw [if_pos h]
    rfl
  · rw [hg, poolOf_withDeadPools, if_pos (mem_claimQuads hq)]
    rfl

/-! ### The baton (R178) -/

theorem batonHandover_takes {s : State} {u : Nat} (hp : (pr s (arg s 0)).batonPass = some (some u))
    (hb : holderBusy s (pr s (arg s 0)) = false) (hl : (wv s u).live = true) (hs : (wv s u).saved = false) :
    exec .batonHandover s = .next (takeBaton s (arg s 0) u) := by
  show execBatonHandover s = _
  rw [execBatonHandover]
  dsimp only
  rw [hp, hb]
  dsimp only
  rw [hl, hs, if_pos (by rfl)]

theorem batonHandover_frees {s : State} (hp : (pr s (arg s 0)).batonPass = some none) (hb : holderBusy s (pr s (arg s 0)) = false)
    (hq : (pr s (arg s 0)).batonQueue = []) :
    ∃ t, exec .batonHandover s = .next t ∧ pr t (arg s 0) = { pr s (arg s 0) with baton := none, batonPass := none, passMats := [] } := by
  refine ⟨_, ?_, pr_modPr_same s (arg s 0) fun y => { y with baton := none, batonPass := none, passMats := [] }⟩
  show execBatonHandover s = _
  rw [execBatonHandover]
  dsimp only
  rw [hp, hb, hq]

/-! ### Faults and traps (R382, R383) -/

theorem impreciseFault_notes {s : State} (h : faultNews (wv s (arg s 0)) = true) :
    ∃ t, exec .impreciseFault s = .next t ∧ wv t (arg s 0) = { wv s (arg s 0) with faulting := true } := by
  refine ⟨_, ?_, wv_modWv_same s (arg s 0) fun v => { v with faulting := true }⟩
  show execImpreciseFault s = _
  rw [execImpreciseFault, if_pos h]

section Delivery

variable {s : State} {r : Trap} (hd : trapDue s (arg s 0) = true)
include hd

theorem trapDelivery_takes (ht : (wv s (arg s 0)).trap = some r) :
    exec .trapDelivery s = .next (takeTrap s (arg s 0) (trapImp r) r) := by
  show execTrapDelivery s = _
  rw [execTrapDelivery, if_pos hd, ht]

theorem trapDelivery_takes_imprecise (ht : (wv s (arg s 0)).trap = none) (hi : impreciseTrap (wv s (arg s 0)) = some r) :
    exec .trapDelivery s = .next (takeTrap s (arg s 0) true r) := by
  show execTrapDelivery s = _
  rw [execTrapDelivery, if_pos hd, ht]
  dsimp only
  rw [hi]

end Delivery

/-! ### The energy fill (R197) -/

/-- In a fold over elements with different keys, of which only `x` changes what `proj` reads, it reads what `x` makes of it. -/
theorem foldl_changed_once {σ α κ β : Type} {f : σ → α → σ} {key : α → κ} {proj : σ → β} {g : β → β} {l : List α} {x : α} (hx : x ∈ l)
    (hdistinct : (l.map key).Nodup) (hchange : ∀ s, proj (f s x) = g (proj s))
    (hkeep : ∀ s, ∀ a ∈ l, key a ≠ key x → proj (f s a) = proj s) (s : σ) : proj (l.foldl f s) = g (proj s) := by
  obtain ⟨a, b, rfl⟩ := List.append_of_mem hx
  rw [List.map_append, List.map_cons, List.nodup_append] at hdistinct
  obtain ⟨-, hrest, hdisjoint⟩ := hdistinct
  have hfold : ∀ c : List α, (∀ y ∈ c, y ∈ a ++ x :: b ∧ key y ≠ key x) → ∀ s, proj (c.foldl f s) = proj s := fun c hc s =>
    List.foldlRecOn (motive := fun u => proj u = proj s) c f rfl fun u hu y hy => (hkeep u y (hc y hy).1 (hc y hy).2).trans hu
  rw [List.foldl_append, List.foldl_cons, hfold b, hchange, hfold a]
  · exact fun y hy => ⟨by simp [hy], hdisjoint _ (List.mem_map_of_mem hy) _ (List.mem_cons_self ..)⟩
  · exact fun y hy => ⟨by simp [hy], fun he => (List.nodup_cons.1 hrest).1 (he ▸ List.mem_map_of_mem hy)⟩

/-- The contexts that an energy fill serves, each with its rate and its limit. -/
def filledCtxs (s : State) : List (Nat × BitVec 32) :=
  (s.ctxs.filter fun (e : Nat × Ctx) => e.2.bound && decide (e.2.held.efill ≠ 0)).map fun e => (e.1, e.2.held.efill)

/-- The units of a context after a fill of `f`. -/
def filledUnits (f : BitVec 32) (n : Nat) : Nat := min (n + (f.extractLsb' 0 16).toNat) (256 * (f.extractLsb' 16 16).toNat)

theorem filledUnits_eq (f : BitVec 32) (n : Nat) : filledUnits f n = min (n + f.toNat % 65536) (256 * (f.toNat / 65536)) := by
  have h := f.isLt
  simp only [filledUnits, BitVec.extractLsb'_toNat, Nat.shiftRight_eq_div_pow]
  omega

/-- A core's units of energy with one context served. -/
def fillUnits (core : Nat) (s : State) (x : Nat × BitVec 32) : State :=
  modCr s core fun y => { y with ebud := tmod 0 y.ebud x.1 (filledUnits x.2) }

/-- A core of stack `k` with every context served. -/
def fillCore (k : Nat) (cs : List (Nat × BitVec 32)) (s : State) (i : Nat) : State := cs.foldl (fillUnits (64 * k + i)) s

theorem ebud_fillUnits (core : Nat) (s : State) (x : Nat × BitVec 32) (c : Nat) :
    tget 0 (cr (fillUnits core s x) core).ebud c =
      if c = x.1 then filledUnits x.2 (tget 0 (cr s core).ebud c) else tget 0 (cr s core).ebud c := by
  rw [fillUnits, cr_modCr_same]
  show tget 0 (tset _ _ _ _) _ = _
  rw [tget_tset]
  split
  next h => rw [h]
  next => rfl

theorem cr_fillCore_other {k i n : Nat} (h : n ≠ 64 * k + i) (cs : List (Nat × BitVec 32)) (s : State) :
    cr (fillCore k cs s i) n = cr s n :=
  foldl_keeps (fun s => cr s n) (fun s _ => cr_modCr_other s h _) cs s

theorem ebud_fillCore {k i c : Nat} {f : BitVec 32} {cs : List (Nat × BitVec 32)} (hmem : (c, f) ∈ cs) (hd : (cs.map Prod.fst).Nodup)
    (s : State) : tget 0 (cr (fillCore k cs s i) (64 * k + i)).ebud c = filledUnits f (tget 0 (cr s (64 * k + i)).ebud c) :=
  foldl_changed_once (proj := fun s => tget 0 (cr s (64 * k + i)).ebud c) hmem hd (fun _ => (ebud_fillUnits ..).trans (if_pos rfl))
    (fun _ _ _ ha => (ebud_fillUnits ..).trans (if_neg fun h => ha h.symm)) s

theorem energyFill_eq (s : State) : energyFill s = (List.range 64).foldl (fillCore (arg s 0) (filledCtxs s)) s := rfl

theorem ebud_energyFill {s : State} {c k : Nat} (hk : k < 64) (hmem : (c, cx s c) ∈ s.ctxs) (hd : (s.ctxs.map Prod.fst).Nodup)
    (hb : (cx s c).bound = true) (he : (cx s c).held.efill ≠ 0) :
    tget 0 (cr (energyFill s) (64 * arg s 0 + k)).ebud c =
      filledUnits (cx s c).held.efill (tget 0 (cr s (64 * arg s 0 + k)).ebud c) := by
  have hc : (c, (cx s c).held.efill) ∈ filledCtxs s :=
    List.mem_map.2 ⟨(c, cx s c), List.mem_filter.2 ⟨hmem, by rw [hb, decide_eq_true he]; rfl⟩, rfl⟩
  have hdc : ((filledCtxs s).map Prod.fst).Nodup := by
    rw [filledCtxs, List.map_map]
    exact hd.sublist (List.filter_sublist.map Prod.fst)
  rw [energyFill_eq]
  exact foldl_changed_once (key := id) (proj := fun u => tget 0 (cr u (64 * arg s 0 + k)).ebud c) (List.mem_range.2 hk)
    (by rw [List.map_id]; exact List.nodup_range) (fun u => ebud_fillCore hc hdc u)
    (fun u i _ hi => by rw [cr_fillCore_other (fun h => hi (show i = k by omega))]) s

theorem ebudFill_fills {s : State} {c k : Nat} (hk : k < 64) (hmem : (c, cx s c) ∈ s.ctxs) (hd : (s.ctxs.map Prod.fst).Nodup)
    (hb : (cx s c).bound = true) (he : (cx s c).held.efill ≠ 0) (hdue : s.due.contains (Instr.ebudFill, s.args) = true) :
    ∃ t, exec .ebudFill s = .next t ∧ tget 0 (cr t (64 * arg s 0 + k)).ebud c =
      min (tget 0 (cr s (64 * arg s 0 + k)).ebud c + (cx s c).held.efill.toNat % 65536)
        (256 * ((cx s c).held.efill.toNat / 65536)) := by
  refine ⟨_, ?_, (ebud_energyFill (s := { s with due := s.due.erase (.ebudFill, s.args) }) hk hmem hd hb he).trans (filledUnits_eq _ _)⟩
  show execEbudFill s = _
  rw [execEbudFill, whenDue_of_due hdue]

end Sys2Proof.Machine
end

section
/-! The events of the matrix engine (R329 to R340), of pattern slots, formats and walkers (R342, R369, R372) and of collectives (R378), one
lemma for each occasion; and with them the events of queues, launches, waves and engines. -/

namespace Sys2Proof.Machine
open Sys2Proof.Machine.State

/-! ### What is next for a matrix instruction (R329) -/

section MatNext

variable {s : State} {p : Nat} {m : MatOp} {h : Head} {n : NExt}

theorem matNext_retired (hr : matRetired m = true) : matNext s p m = matDone s p m := by
  rw [matNext, if_pos hr]

variable (hr : matRetired m = false)
include hr

/-- R333: a multiply that has not read its operands reads them. -/
theorem matNext_reads (hi : m.instr = .mma h n ∨ m.instr = .mmas h n ∨ m.instr = .mmap h n) (hx : m.reads = none) :
    matNext s p m = matRead s p m n.shape.toNat := by
  rw [matNext, if_neg (Bool.eq_false_iff.1 hr), hx]
  obtain hi | hi | hi := hi <;> rw [hi] <;> rfl

theorem matNext_multiplies {xs : List Nat} (hi : m.instr = .mma h n ∨ m.instr = .mmas h n ∨ m.instr = .mmap h n)
    (hx : m.reads = some xs) : matNext s p m = matMultiply s p m n.shape.toNat xs := by
  rw [matNext, if_neg (Bool.eq_false_iff.1 hr), hx]
  obtain hi | hi | hi := hi <;> rw [hi] <;> rfl

theorem matNext_fills (hi : m.instr = .mfill h n) : matNext s p m = matFill s p m n.shape.toNat := by
  rw [matNext, if_neg (Bool.eq_false_iff.1 hr), hi]
  rfl

theorem matNext_drains (hi : m.instr = .mdrain h n) : matNext s p m = matDrain s p m n.shape.toNat := by
  rw [matNext, if_neg (Bool.eq_false_iff.1 hr), hi]
  rfl

end MatNext

/-- A tile of zeros, as `mzero` leaves it on a core. -/
def zeroTile : AccTile := { empty := false, elems := [] }

theorem accTile_setTile_same (s : State) (c t : Nat) (x : AccTile) : accTile (setTile s c t x) c t = x := by
  rw [accTile, setTile, cr_modCr_same]
  exact tget_tset_same ..

theorem accTile_setTile_other (s : State) {c d : Nat} (h : d ≠ c) (t k : Nat) (x : AccTile) :
    accTile (setTile s c t x) d k = accTile s d k := by
  rw [accTile, setTile, cr_modCr_other s h, accTile]

/-- R338: `mzero` leaves zeros in its tile of both cores. -/
theorem matNext_zeroes {s : State} {p : Nat} {m : MatOp} {h : Head} {n : NExt} (hr : matRetired m = false) (hi : m.instr = .mzero h n) :
    ∃ t, matNext s p m = matDone t p m ∧ ∀ c ∈ [2 * p, 2 * p + 1], accTile t c m.tile = zeroTile := by
  refine ⟨setTile (setTile s (2 * p) m.tile zeroTile) (2 * p + 1) m.tile zeroTile, ?_, fun c hc => ?_⟩
  · rw [matNext, if_neg (Bool.eq_false_iff.1 hr), matTileOp, hi]
    rfl
  · simp only [List.mem_cons, List.not_mem_nil, or_false] at hc
    obtain rfl | rfl := hc
    · rw [accTile_setTile_other _ (Nat.ne_of_lt (Nat.lt_succ_self _)), accTile_setTile_same]
    · exact accTile_setTile_same ..

section MatrixRetire

variable {s : State} {m : MatOp} (hm : matReady s (arg s 0) = some m)
include hm

theorem matrixRetire_goes {t : State} (ht : matNext s (arg s 0) m = t) : GoesOrWaits s .matrixRetire t := by
  refine goesOrWaits_of_orWait ?_
  show execMatrixRetire s = _
  rw [execMatrixRetire, hm, ← ht]

theorem matrixRetire_unretired (hr : matRetired m = false) :
    (∀ h n, m.instr = .mma h n ∨ m.instr = .mmas h n ∨ m.instr = .mmap h n →
      (m.reads = none → GoesOrWaits s .matrixRetire (matRead s (arg s 0) m n.shape.toNat)) ∧
      ∀ xs, m.reads = some xs → GoesOrWaits s .matrixRetire (matMultiply s (arg s 0) m n.shape.toNat xs)) ∧
    (∀ h n, m.instr = .mfill h n → GoesOrWaits s .matrixRetire (matFill s (arg s 0) m n.shape.toNat)) ∧
    (∀ h n, m.instr = .mdrain h n → GoesOrWaits s .matrixRetire (matDrain s (arg s 0) m n.shape.toNat)) ∧
    (∀ h n, m.instr = .mzero h n → ∃ t, GoesOrWaits s .matrixRetire (matDone t (arg s 0) m) ∧
      ∀ c ∈ [2 * arg s 0, 2 * arg s 0 + 1], accTile t c m.tile = zeroTile) := by
  refine ⟨fun h n hi => ⟨fun hx => matrixRetire_goes hm (matNext_reads hr hi hx),
      fun xs hx => matrixRetire_goes hm (matNext_multiplies hr hi hx)⟩,
    fun h n hi => matrixRetire_goes hm (matNext_fills hr hi), fun h n hi => matrixRetire_goes hm (matNext_drains hr hi),
    fun h n hi => ?_⟩
  obtain ⟨t, ht, htile⟩ := matNext_zeroes (s := s) (p := arg s 0) hr hi
  exact ⟨t, matrixRetire_goes hm ht, htile⟩

end MatrixRetire

/-! ### Pattern slots, node formats and walkers (R342, R369, R372) -/

theorem pgloadComplete_loads {s t : State} {id : Nat} {rest : List Nat} {o : Opr} {k : PatSlot} {ws : List Word}
    (hl : (slotOf (wv s (arg s 0)) (arg s 1)).loading = id :: rest) (ho : findOp (wv s (arg s 0)) id = some o)
    (hh : readHeld s (arg s 0) id = false) (hva : opVal (specOf o.instr) o.words 0 0 % 4 = 0)
    (hread : readProgram (wv s (arg s 0)).core (wv s (arg s 0)).ctx 32 (opVal (specOf o.instr) o.words 0 0) s = (t, .ok ws))
    (hk : loadedSlot (opVal (specOf o.instr) o.words 0 0) ws = .ok k) : GoesOrWaits s .pgloadComplete
      (completeOp (modWv t (arg s 0) fun u => setSlot u (arg s 1) { k with loading := rest }) (arg s 0) id o.todo 0) := by
  refine goesOrWaits_of_orWait ?_
  show execPgloadComplete s = _
  rw [execPgloadComplete]
  dsimp only
  rw [hl, List.headD_cons, List.drop_one, List.tail_cons, ho]
  dsimp only
  rw [if_neg (Bool.eq_false_iff.1 hh), if_neg (not_not_intro hva), hread]
  dsimp only
  rw [hk]

theorem nfmtLoaded_sets {s t : State} {o : Opr} {bs : List Byte} {f : NodeFormat} (ho : nfmtOut (wv s (arg s 0)) = some o)
    (hg : readsMayGo s (arg s 0) o.id = true)
    (hread : engBytes s (.core (wv s (arg s 0)).core) (wv s (arg s 0)).ctx .ld (opVal (specOf o.instr) o.words 0 0) 64 = (t, .ok bs))
    (hf : formatOf (opVal (specOf o.instr) o.words 0 0) bs = some f) : GoesOrWaits s .nfmtLoaded
      (completeOp (modWv t (arg s 0) fun u => { u with nfmt := some f }) (arg s 0) o.id o.todo 0) := by
  refine goesOrWaits_of_orWait ?_
  show execNfmtLoaded s = _
  rw [execNfmtLoaded]
  dsimp only
  rw [ho]
  dsimp only
  rw [hg, Bool.not_true, if_neg Bool.false_ne_true, hread]
  dsimp only
  rw [hf]

theorem fireflyNodeRead_walks {s : State} {c : Nat} {x : FfWalk} (hf : findWalk s (arg s 0) = some (c, x)) (hg : walkGoes s x = true) :
    GoesOrWaits s .fireflyNodeRead (runWalk c 64 true x s) := by
  refine goesOrWaits_of_orWait ?_
  show execFireflyNodeRead s = _
  rw [execFireflyNodeRead, hf]
  dsimp only
  rw [if_pos hg]

/-! ### Collectives (R378) -/

section Collective

variable {s : State} {c : Coll} (hf : findColl s (arg s 0) = some c) (ho : collOrphan s c = false) (hh : c.hold = 0)
include hf ho hh

theorem collStart_begins (hs : c.started = false) : GoesOrWaits s .collStart (collBegin s c (arg s 1)) := by
  refine goesOrWaits_of_orWait ?_
  show execCollStart s = _
  rw [execCollStart, hf]
  dsimp only
  rw [if_neg (Bool.eq_false_iff.1 hs), if_neg (Bool.eq_false_iff.1 ho), if_neg (not_not_intro hh)]

theorem collComplete_finishes {t : State} (hs : c.started = true) (ht : collFinish s c = (t, none)) : GoesOrWaits s .collComplete t := by
  refine goesOrWaits_of_orWait ?_
  show execCollComplete s = _
  rw [execCollComplete, hf]
  dsimp only
  rw [hs, Bool.not_true, if_neg Bool.false_ne_true, if_neg (Bool.eq_false_iff.1 ho), if_neg (not_not_intro hh), ht]

end Collective

/-! ### The obligation -/

/-- Settles O57: each event by the lemma of its occasion. -/
theorem launchWaveAndEngineEvents : Obligations.LaunchWaveAndEngineEvents := by
  unfold Obligations.LaunchWaveAndEngineEvents
  intro s
  refine ⟨qctl_sets, fun hr hn _ _ hread hfree => queueRecordRead_offers hr hn hread hfree, queueRecordRead_stops, launchAccept_accepts s,
    fun _ => groupPlace_places, groupComplete_publishes, groupComplete_saves, fun _ => contractRelease_requests,
    fun _ => contractOverrun_demotes, fun hl => ⟨yieldmaxExpiry_ends hl rfl rfl, fun _ => yieldmaxExpiry_completes hl rfl rfl⟩,
    fun _ => hiveTaskTimeout_forms, fun _ => resultWriteback_lands, fun _ => priorityGroup_forms, issueStarvation_notes,
    claimDeadlock_ends, fun _ => batonHandover_takes, batonHandover_frees, impreciseFault_notes, fun _ => trapDelivery_takes,
    fun _ => trapDelivery_takes_imprecise, fun _ _ _ hk hmem hd hb he hdue => ebudFill_fills hk hmem hd hb he hdue,
    fun _ hm => ⟨fun hr => matrixRetire_goes hm (matNext_retired hr), matrixRetire_unretired hm⟩,
    fun _ _ _ _ hl ho hh hva _ _ hread hk => pgloadComplete_loads hl ho hh hva hread hk,
    fun _ _ _ _ ho hg hread hf => nfmtLoaded_sets ho hg hread hf, fun _ _ => fireflyNodeRead_walks,
    fun _ hf ho hh => ⟨collStart_begins hf ho hh, fun _ => collComplete_finishes hf ho hh⟩⟩

end Sys2Proof.Machine
end

section
/-! NaN operands (R200, R201): what the exact operations answer on one, and the result of the lane instructions that round their answers. -/

namespace Sys2Proof.Machine

/-! ### Operands -/

@[simp] theorem isNan_negV (b : Val) : isNan (negV b) = isNan b := by cases b <;> rfl

@[simp] theorem isSig_negV (b : Val) : isSig (negV b) = isSig b := by cases b <;> rfl

theorem eq_nan_of_isNan {b : Val} (h : isNan b = true) : ∃ sig, b = .nan sig := by
  cases b with
  | nan sig => exact ⟨sig, rfl⟩
  | inf | num => exact absurd h Bool.false_ne_true

/-! ### The flag IV -/

/-- Flags that another part of an operation adds keep IV raised. -/
theorem or_raises_iv {w : Word} (u : Word) (h : w &&& fIv = fIv) : (u ||| w) &&& fIv = fIv := by
  rw [BitVec.and_or_distrib_right, h]
  ext i
  rw [BitVec.getElem_or, BitVec.getElem_and]
  cases u[i] <;> simp

theorem sigFlag_raises_iv {xs : List Val} (h : xs.any isSig = true) : sigFlag xs &&& fIv = fIv := by
  rw [sigFlag, if_pos h, BitVec.and_self]

/-! ### The exact operations (R260) -/

/-- An operation on `xs` answers a NaN, with IV where one of them is signalling. -/
def AnswersNan (xs : List Val) (r : Val × Word) : Prop :=
  r.1 = .nan false ∧ (xs.any isSig = true → r.2 &&& fIv = fIv)

theorem answersNan_sigFlag (xs : List Val) : AnswersNan xs (.nan false, sigFlag xs) := ⟨rfl, sigFlag_raises_iv⟩

section Exact

variable {b c : Val}

/-- What an operation answers on a NaN in the first place and on one in the second settles what it answers on a NaN operand. -/
theorem answersNan_of_nan_operand {op : Val → Val → Val × Word} (h : (isNan b || isNan c) = true)
    (left : ∀ sig c, op (.nan sig) c = (.nan false, sigFlag [.nan sig, c]))
    (right : ∀ b sig, op b (.nan sig) = (.nan false, sigFlag [b, .nan sig])) : AnswersNan [b, c] (op b c) := by
  rw [Bool.or_eq_true] at h
  obtain hb | hc := h
  · obtain ⟨sig, rfl⟩ := eq_nan_of_isNan hb
    exact left sig c ▸ answersNan_sigFlag _
  · obtain ⟨sig, rfl⟩ := eq_nan_of_isNan hc
    exact right b sig ▸ answersNan_sigFlag _

theorem addV_answersNan (rdn : Bool) (h : (isNan b || isNan c) = true) : AnswersNan [b, c] (addV rdn b c) :=
  answersNan_of_nan_operand h (fun _ _ => rfl) fun b _ => by cases b <;> rfl

/-- A difference is a sum with the second operand's sign changed, which a NaN does not feel. -/
theorem addV_negV_answersNan (rdn : Bool) (h : (isNan b || isNan c) = true) : AnswersNan [b, c] (addV rdn b (negV c)) := by
  have hsum : AnswersNan [b, negV c] (addV rdn b (negV c)) := addV_answersNan rdn (by rwa [isNan_negV])
  simpa [AnswersNan] using hsum

theorem mulV_answersNan (h : (isNan b || isNan c) = true) : AnswersNan [b, c] (mulV b c) :=
  answersNan_of_nan_operand h (fun _ _ => rfl) fun b _ => by cases b <;> rfl

theorem divV_answersNan (h : (isNan b || isNan c) = true) : AnswersNan [b, c] (divV b c) :=
  answersNan_of_nan_operand h (fun _ _ => rfl) fun b _ => by cases b <;> rfl

theorem sqrtV_answersNan (h : isNan b = true) : AnswersNan [b] (sqrtV b) := by
  obtain ⟨sig, rfl⟩ := eq_nan_of_isNan h
  exact answersNan_sigFlag _

/-- The sum of a fused product has a NaN operand: the addend, or the product of operands with a NaN among them. -/
theorem fmaV_answersNan {e : Val} (rdn : Bool) (h : (isNan b || isNan c || isNan e) = true) :
    AnswersNan [b, c, e] (fmaV rdn b c e) := by
  have hsum : (isNan (mulV b c).1 || isNan e) = true := by
    rw [Bool.or_eq_true] at h ⊢
    exact h.imp_left fun hbc => congrArg isNan (mulV_answersNan hbc).1
  exact ⟨(addV_answersNan rdn hsum).1, fun hs => or_raises_iv _ (sigFlag_raises_iv hs)⟩

end Exact

/-! ### The rounded results -/

/-- A result on `xs` is the canonical NaN, with IV where one of them is signalling. -/
def IsCanonicalNan (f : Fmt) (xs : List Val) (r : FRes) : Prop :=
  r.bits = f.nanBits ∧ (xs.any isSig = true → r.raised &&& fIv = fIv)

/-- R201: rounding delivers the format's canonical NaN and keeps the flags. -/
theorem finish_isCanonicalNan (f : Fmt) (c : Rnd) {xs : List Val} {r : Val × Word} (h : AnswersNan xs r) :
    IsCanonicalNan f xs (finish f c r) := by
  obtain ⟨v, w⟩ := r
  obtain ⟨rfl, hiv⟩ := h
  exact ⟨rfl, fun hs => or_raises_iv _ (hiv hs)⟩

/-- Sum, difference, product and quotient. -/
theorem binary_isCanonicalNan {f : Fmt} {c : Rnd} {x y : Nat} (h : (isNan (readVal f c.den x) || isNan (readVal f c.den y)) = true)
    {op : Fmt → Rnd → List Nat → FRes} (hop : op ∈ [fAdd, fSub, fMul, fDiv]) :
    IsCanonicalNan f [readVal f c.den x, readVal f c.den y] (op f c [x, y]) := by
  simp only [List.mem_cons, List.not_mem_nil, or_false] at hop
  obtain rfl | rfl | rfl | rfl := hop
  · exact finish_isCanonicalNan f c (addV_answersNan _ h)
  · exact finish_isCanonicalNan f c (addV_negV_answersNan _ h)
  · exact finish_isCanonicalNan f c (mulV_answersNan h)
  · exact finish_isCanonicalNan f c (divV_answersNan h)

/-- Settles O18: each exact operation answers a NaN on one, and `finish` rounds that to the canonical NaN. -/
theorem nanOperandsGiveCanonicalNan : Obligations.NanOperandsGiveCanonicalNan := by
  unfold Obligations.NanOperandsGiveCanonicalNan
  refine fun f c x y z _ => ⟨fun h op hop => ?_, fun h => ?_, fun h => ?_⟩
  · simpa [IsCanonicalNan] using binary_isCanonicalNan h hop
  · have hfma : IsCanonicalNan f [readVal f c.den x, readVal f c.den y, readVal f c.den z] (fFma f c [x, y, z]) :=
      finish_isCanonicalNan f c (fmaV_answersNan _ h)
    simpa [IsCanonicalNan, or_assoc] using hfma
  · have hsqrt : IsCanonicalNan f [readVal f c.den x] (fSqrt f c [x]) := finish_isCanonicalNan f c (sqrtV_answersNan h)
    simpa [IsCanonicalNan] using hsqrt

end Sys2Proof.Machine
end

section
/-! Instruction words (R219 to R228): a head and each format of extension are read back as the fields they were written from, and a word
is written again from the fields read of it. -/

namespace Sys2Proof.Machine

/-! ### Fields of a word put together from its fields

A word is a nest of `BitVec.append`s whose widths come to 32 only by computation, so `simp` does not find the library's lemmas in it;
these are stated about `BitVec.append` itself. -/

section Append

variable {v w start len k : Nat} {x : BitVec v} {y : BitVec w}

theorem extractLsb'_append_high (h : w ≤ start) : (BitVec.append x y).extractLsb' start len = x.extractLsb' (start - w) len :=
  BitVec.extractLsb'_append_eq_of_le h

theorem extractLsb'_append_low (h : start + len ≤ w) : (BitVec.append x y).extractLsb' start len = y.extractLsb' start len :=
  BitVec.extractLsb'_append_eq_of_add_le h

theorem getLsbD_append_high (h : w ≤ k) : (BitVec.append x y).getLsbD k = x.getLsbD (k - w) :=
  BitVec.getLsbD_append.trans (if_neg (Nat.not_lt.2 h))

theorem getLsbD_append_low (h : k < w) : (BitVec.append x y).getLsbD k = y.getLsbD k :=
  BitVec.getLsbD_append.trans (if_pos h)

/-- Two fields side by side are one field. -/
theorem append_adjacent {m : Nat} (h : start = k + m) :
    BitVec.append (x.extractLsb' start len) (x.extractLsb' k m) = x.extractLsb' k (len + m) :=
  BitVec.extractLsb'_append_extractLsb'_eq_extractLsb' h

theorem ofBool_getLsbD (k : Nat) : BitVec.ofBool (x.getLsbD k) = x.extractLsb' k 1 := by
  ext i hi
  obtain rfl : i = 0 := by omega
  simp

theorem getLsbD_ofBool_zero (b : Bool) : (BitVec.ofBool b).getLsbD 0 = b := by cases b <;> rfl

end Append

/-! ### The head (R219) -/

section Head

variable (s x : BitVec 1) (op : BitVec 8) (h : Head)

theorem headOf_headWord : headOf (headWord s x op h) = h := by
  simp (disch := decide) only [headOf, headWord, HAppend.hAppend, extractLsb'_append_high, extractLsb'_append_low, Nat.reduceSub,
    BitVec.extractLsb'_eq_self]

theorem opcode_headWord : (headWord s x op h).extractLsb' 16 8 = op := by
  simp (disch := decide) only [headWord, HAppend.hAppend, extractLsb'_append_high, extractLsb'_append_low, Nat.reduceSub,
    BitVec.extractLsb'_eq_self]

theorem set_headWord : (headWord s x op h).getLsbD 31 = s.getLsbD 0 := by
  simp (disch := decide) only [headWord, HAppend.hAppend, getLsbD_append_high, Nat.reduceSub]

theorem form_headWord : (headWord s x op h).getLsbD 30 = x.getLsbD 0 := by
  simp (disch := decide) only [headWord, HAppend.hAppend, getLsbD_append_high, getLsbD_append_low, Nat.reduceSub]

theorem headWord_headOf (w : BitVec 32) :
    headWord (BitVec.ofBool (w.getLsbD 31)) (BitVec.ofBool (w.getLsbD 30)) (w.extractLsb' 16 8) (headOf w) = w := by
  simp only [headWord, headOf, HAppend.hAppend, ofBool_getLsbD, append_adjacent, Nat.reduceAdd, BitVec.extractLsb'_eq_self]

end Head

/-! ### The extensions (R223 to R228) -/

theorem gOf_gWord (g : GExt) : gOf (gWord g) = g := by
  simp (disch := decide) only [gOf, gWord, HAppend.hAppend, extractLsb'_append_high, extractLsb'_append_low, getLsbD_append_high,
    getLsbD_append_low, getLsbD_ofBool_zero, Nat.reduceSub, BitVec.extractLsb'_eq_self]

theorem iOf_iWord (e : IExt) : iOf (iWord e) = e := by
  simp (disch := decide) only [iOf, iWord, HAppend.hAppend, extractLsb'_append_high, extractLsb'_append_low, getLsbD_append_high,
    getLsbD_append_low, getLsbD_ofBool_zero, Nat.reduceSub, BitVec.extractLsb'_eq_self]

theorem mOf_mWord (m : MExt) : mOf (mWord m) = m := by
  simp (disch := decide) only [mOf, mWord, HAppend.hAppend, extractLsb'_append_high, extractLsb'_append_low, Nat.reduceSub,
    BitVec.extractLsb'_eq_self]

theorem bOf_bWord (t : BExt) : bOf (bWord t) = t := by
  simp (disch := decide) only [bOf, bWord, HAppend.hAppend, extractLsb'_append_high, extractLsb'_append_low, getLsbD_append_high,
    getLsbD_append_low, getLsbD_ofBool_zero, Nat.reduceSub, BitVec.extractLsb'_eq_self]

theorem nOf_nWord (n : NExt) : nOf (nWord n) = n := by
  simp (disch := decide) only [nOf, nWord, HAppend.hAppend, extractLsb'_append_high, extractLsb'_append_low, getLsbD_append_high,
    getLsbD_append_low, getLsbD_ofBool_zero, Nat.reduceSub, BitVec.extractLsb'_eq_self]

section Written

variable (e : BitVec 32)

theorem gWord_gOf : gWord (gOf e) = e := by
  simp only [gOf, gWord, HAppend.hAppend, ofBool_getLsbD, append_adjacent, Nat.reduceAdd, BitVec.extractLsb'_eq_self]

theorem iWord_iOf : iWord (iOf e) = e := by
  simp only [iOf, iWord, HAppend.hAppend, ofBool_getLsbD, append_adjacent, Nat.reduceAdd, BitVec.extractLsb'_eq_self]

theorem mWord_mOf : mWord (mOf e) = e := by
  simp only [mOf, mWord, HAppend.hAppend, append_adjacent, Nat.reduceAdd, BitVec.extractLsb'_eq_self]

theorem bWord_bOf : bWord (bOf e) = e := by
  simp only [bOf, bWord, HAppend.hAppend, ofBool_getLsbD, append_adjacent, Nat.reduceAdd, BitVec.extractLsb'_eq_self]

theorem nWord_nOf : nWord (nOf e) = e := by
  simp only [nOf, nWord, HAppend.hAppend, ofBool_getLsbD, append_adjacent, Nat.reduceAdd, BitVec.extractLsb'_eq_self]

end Written

/-! ### Bytes (R6) -/

theorem word4_wordBytes (w : BitVec 32) :
    word4 (w.extractLsb' 0 8) (w.extractLsb' 8 8) (w.extractLsb' 16 8) (w.extractLsb' 24 8) = w := by
  simp only [word4, HAppend.hAppend, append_adjacent, Nat.reduceAdd, BitVec.extractLsb'_eq_self]

end Sys2Proof.Machine
end

section
/-! The opcode maps (R220, R230) and the encoder are each other's inverse: the words that the maps read as an instruction are its own,
and the words of a well-formed instruction are read as it. -/

namespace Sys2Proof.Machine

/-! ### What the maps answer -/

section Maps

variable (op : Nat) (h : Head) (e : BitVec 32)

/-- In each arm of the map the extension is written again from its fields. -/
theorem encode_of_mem_laneExt :
    ∀ i ∈ laneExt op h e, encode i = lx (BitVec.ofNat 8 op) h e ∧ listedOpcode false true op = true := by
  unfold laneExt
  repeat' split
  all_goals rintro i ⟨⟩
  all_goals refine ⟨?_, rfl⟩
  all_goals change lx _ _ _ = _
  all_goals simp only [gWord_gOf, iWord_iOf, mWord_mOf, bWord_bOf, nWord_nOf, BitVec.ofNat_eq_ofNat]

theorem encode_of_mem_laneShort :
    ∀ i ∈ laneShort op h, encode i = ls (BitVec.ofNat 8 op) h ∧ listedOpcode false false op = true := by
  unfold laneShort
  split
  all_goals rintro i ⟨⟩
  all_goals exact ⟨rfl, rfl⟩

theorem encode_of_mem_uniExt :
    ∀ i ∈ uniExt op h e, encode i = ux (BitVec.ofNat 8 op) h e ∧ listedOpcode true true op = true := by
  unfold uniExt
  repeat' split
  all_goals rintro i ⟨⟩
  all_goals refine ⟨?_, rfl⟩
  all_goals change ux _ _ _ = _
  all_goals simp only [gWord_gOf, iWord_iOf, mWord_mOf, bWord_bOf, nWord_nOf, BitVec.ofNat_eq_ofNat]

theorem encode_of_mem_uniShort :
    ∀ i ∈ uniShort op h, encode i = us (BitVec.ofNat 8 op) h ∧ listedOpcode true false op = true := by
  unfold uniShort
  split
  all_goals rintro i ⟨⟩
  all_goals exact ⟨rfl, rfl⟩

end Maps

/-- R220: an instruction that words are read as has a listed opcode, and is encoded in those words, the second only where the head says
that one follows. -/
theorem encode_of_rawOf {w e : BitVec 32} {i : Instr} (hi : rawOf w e = some i) :
    encode i = (if hasExt w then [w, e] else [w]) ∧
      listedOpcode (w.getLsbD 31) (w.getLsbD 30) (w.extractLsb' 16 8).toNat = true := by
  have hhead : headWord (BitVec.ofBool (w.getLsbD 31)) (BitVec.ofBool (w.getLsbD 30)) (BitVec.ofNat 8 (w.extractLsb' 16 8).toNat)
      (headOf w) = w := by
    rw [BitVec.ofNat_toNat, BitVec.setWidth_eq, headWord_headOf]
  unfold rawOf at hi
  unfold hasExt
  dsimp only at hi
  cases hs : w.getLsbD 31 <;> cases hx : w.getLsbD 30 <;> rw [hs, hx] at hi hhead
  case false.true => exact (encode_of_mem_laneExt _ _ _ i hi).imp_left fun henc => henc.trans (congrArg ([·, e]) hhead)
  case false.false => exact (encode_of_mem_laneShort _ _ i hi).imp_left fun henc => henc.trans (congrArg ([·]) hhead)
  case true.true => exact (encode_of_mem_uniExt _ _ _ i hi).imp_left fun henc => henc.trans (congrArg ([·, e]) hhead)
  case true.false => exact (encode_of_mem_uniShort _ _ i hi).imp_left fun henc => henc.trans (congrArg ([·]) hhead)

/-! ### What the maps read -/

/-- R219, R220: the words are a head and, where it says that one follows, an extension, which the maps read as the instruction. -/
def Reads (ws : List (BitVec 32)) (i : Instr) : Prop :=
  ∃ w e, rawOf w e = some i ∧ (hasExt w = true ∧ ws = [w, e] ∨ hasExt w = false ∧ e = 0 ∧ ws = [w])

/-- R220: the map of a set and a form reads the opcode of a head word of theirs. -/
theorem rawOf_headWord (s x : Bool) (op : BitVec 8) (h : Head) (e : BitVec 32) :
    rawOf (headWord (BitVec.ofBool s) (BitVec.ofBool x) op h) e = if s then (if x then uniExt op.toNat h e else uniShort op.toNat h)
      else if x then laneExt op.toNat h e else laneShort op.toNat h := by
  simp only [rawOf, set_headWord, form_headWord, opcode_headWord, headOf_headWord, getLsbD_ofBool_zero]
  cases s <;> cases x <;> rfl

section Reads

variable {op : BitVec 8} {h : Head} {e : BitVec 32} {i : Instr}

theorem reads_lx (hi : laneExt op.toNat h e = some i) : Reads (lx op h e) i :=
  ⟨headWord 0 1 op h, e, (rawOf_headWord false true op h _).trans hi,
    .inl ⟨form_headWord .., rfl⟩⟩

theorem reads_ls (hi : laneShort op.toNat h = some i) : Reads (ls op h) i :=
  ⟨headWord 0 0 op h, 0, (rawOf_headWord false false op h _).trans hi,
    .inr ⟨form_headWord .., rfl, rfl⟩⟩

theorem reads_ux (hi : uniExt op.toNat h e = some i) : Reads (ux op h e) i :=
  ⟨headWord 1 1 op h, e, (rawOf_headWord true true op h _).trans hi,
    .inl ⟨form_headWord .., rfl⟩⟩

theorem reads_us (hi : uniShort op.toNat h = some i) : Reads (us op h) i :=
  ⟨headWord 1 0 op h, 0, (rawOf_headWord true false op h _).trans hi,
    .inr ⟨form_headWord .., rfl, rfl⟩⟩

/-- An extended instruction is read with its own extension where the layout of the extension is read back. -/
theorem reads_lx_of {E : Type} {word : E → BitVec 32} {ofWord : BitVec 32 → E} (hround : ∀ x, ofWord (word x) = x)
    {f : Head → E → Instr} {x : E} (hi : laneExt op.toNat h (word x) = some (f h (ofWord (word x)))) :
    Reads (lx op h (word x)) (f h x) :=
  reads_lx (hi.trans (by rw [hround]))

theorem reads_ux_of {E : Type} {word : E → BitVec 32} {ofWord : BitVec 32 → E} (hround : ∀ x, ofWord (word x) = x)
    {f : Head → E → Instr} {x : E} (hi : uniExt op.toNat h (word x) = some (f h (ofWord (word x)))) :
    Reads (ux op h (word x)) (f h x) :=
  reads_ux (hi.trans (by rw [hround]))

end Reads

/-! ### Two instructions of one opcode: the bit of the extension that tells them apart -/

theorem gWord_getLsbD_four (g : GExt) : (gWord g).getLsbD 4 = g.t.getLsbD 4 := by
  simp (disch := decide) only [gWord, HAppend.hAppend, getLsbD_append_low]

theorem mWord_getLsbD_three (m : MExt) : (mWord m).getLsbD 3 = m.sz.getLsbD 0 := by
  simp (disch := decide) only [mWord, HAppend.hAppend, getLsbD_append_high, getLsbD_append_low, Nat.reduceSub]

theorem nWord_getLsbD_five (n : NExt) : (nWord n).getLsbD 5 = n.shape.getLsbD 0 := by
  simp (disch := decide) only [nWord, HAppend.hAppend, getLsbD_append_high, getLsbD_append_low, Nat.reduceSub]

theorem gOk_type {h : Head} {g : GExt} {a b c e : Use} {rm sat : Bool} {ts : Nat → Bool} {sp : Spec}
    (hw : gOk h g a b c e rm sat ts sp = true) : ts (gT g) = true := by
  simp only [gOk, Bool.and_eq_true] at hw
  obtain ⟨⟨-, htype⟩, -⟩ := hw
  exact htype

theorem mOk_size {m : MExt} {szs ords : List Nat} {sp : Spec} (hw : mOk m szs ords sp = true) : m.sz.toNat ∈ szs := by
  simp only [mOk, Bool.and_eq_true, List.contains_iff_mem] at hw
  obtain ⟨⟨⟨-, hsize⟩, -⟩, -⟩ := hw
  exact hsize

theorem nOk_shape {h : Head} {n : NExt} {a b c e : Use} {ec : Bool} {shapes : Nat → Bool} {sp : Spec}
    (hw : nOk h n a b c e ec shapes sp = true) : shapes n.shape.toNat = true := by
  simp only [nOk, Bool.and_eq_true] at hw
  obtain ⟨⟨-, hshape⟩, -⟩ := hw
  exact hshape

section Pairs

variable {h : Head}

theorem reads_vcompact {g : GExt} (hw : WellFormed (.vcompact h g) = true) : Reads (encode (.vcompact h g)) (.vcompact h g) := by
  have hok : (gOk _ _ _ _ _ _ _ _ _ _ && !g.tc) = true := hw
  rw [Bool.and_eq_true] at hok
  have htype : gT g < 12 := of_decide_eq_true (gOk_type hok.1)
  have hbit : (gWord g).getLsbD 4 = false :=
    (gWord_getLsbD_four g).trans (Nat.testBit_lt_two_pow (Nat.lt_of_lt_of_le htype (by decide)))
  exact reads_lx_of gOf_gWord (congrArg some (if_neg (Bool.eq_false_iff.1 hbit)))

theorem reads_vcompactRow {g : GExt} (hw : WellFormed (.vcompactRow h g) = true) :
    Reads (encode (.vcompactRow h g)) (.vcompactRow h g) := by
  have hok : gOk h g .reg .reg .reg .pred false false (fun t => t = 16 || t = 20) _ = true := hw
  have htype : gT g = 16 ∨ gT g = 20 := by simpa using gOk_type hok
  have hbit : (gT g).testBit 4 = true := by obtain htype | htype := htype <;> rw [htype] <;> rfl
  exact reads_lx_of gOf_gWord (congrArg some (if_pos ((gWord_getLsbD_four g).trans hbit)))

theorem reads_callDirect {t : BExt} (hw : WellFormed (.callDirect h t) = true) : Reads (encode (.callDirect h t)) (.callDirect h t) := by
  have hok : (bOk _ _ _ && decide (h.b = 255)) = true := hw
  rw [Bool.and_eq_true, decide_eq_true_eq] at hok
  exact reads_lx_of bOf_bWord (congrArg some (if_pos hok.2))

theorem reads_callRegister {t : BExt} (hw : WellFormed (.callRegister h t) = true) :
    Reads (encode (.callRegister h t)) (.callRegister h t) := by
  have hok : (bOk _ _ _ && decide (h.b ≠ 255)) = true := hw
  rw [Bool.and_eq_true, decide_eq_true_eq] at hok
  exact reads_lx_of bOf_bWord (congrArg some (if_neg hok.2))

theorem reads_msflushRange {m : MExt} (hw : WellFormed (.msflushRange h m) = true) :
    Reads (encode (.msflushRange h m)) (.msflushRange h m) := by
  have hok : (mOk m [0] [0] _ && _ && _ && _) = true := hw
  simp only [Bool.and_eq_true] at hok
  obtain ⟨⟨⟨hok, -⟩, -⟩, -⟩ := hok
  have hbit : (mWord m).getLsbD 3 = false := by
    rw [mWord_getLsbD_three, BitVec.getLsbD, List.mem_singleton.1 (mOk_size hok)]
    rfl
  exact reads_ux_of mOf_mWord (congrArg some (if_neg (Bool.eq_false_iff.1 hbit)))

theorem reads_msflushStack {m : MExt} (hw : WellFormed (.msflushStack h m) = true) :
    Reads (encode (.msflushStack h m)) (.msflushStack h m) := by
  have hok : (mOk m [1] [0] _ && _ && _ && _ && _) = true := hw
  simp only [Bool.and_eq_true] at hok
  obtain ⟨⟨⟨⟨hok, -⟩, -⟩, -⟩, -⟩ := hok
  have hbit : (mWord m).getLsbD 3 = true := by
    rw [mWord_getLsbD_three, BitVec.getLsbD, List.mem_singleton.1 (mOk_size hok)]
    rfl
  exact reads_ux_of mOf_mWord (congrArg some (if_pos hbit))

theorem reads_mbpass {n : NExt} (hw : WellFormed (.mbpass h n) = true) : Reads (encode (.mbpass h n)) (.mbpass h n) := by
  have hok : nOk _ _ _ _ _ _ _ (fun v => decide (v = 0)) _ = true := hw
  have hbit : (nWord n).getLsbD 5 = false := by
    rw [nWord_getLsbD_five, BitVec.getLsbD, of_decide_eq_true (nOk_shape hok)]
    rfl
  exact reads_ux_of nOf_nWord (congrArg some (if_neg (Bool.eq_false_iff.1 hbit)))

theorem reads_mbpassNone {n : NExt} (hw : WellFormed (.mbpassNone h n) = true) :
    Reads (encode (.mbpassNone h n)) (.mbpassNone h n) := by
  have hok : nOk _ _ _ _ _ _ _ (fun v => decide (v = 1)) _ = true := hw
  have hbit : (nWord n).getLsbD 5 = true := by
    rw [nWord_getLsbD_five, BitVec.getLsbD, of_decide_eq_true (nOk_shape hok)]
    rfl
  exact reads_ux_of nOf_nWord (congrArg some (if_pos hbit))

end Pairs

/-! ### Every instruction -/

/-- R219, R230: the words of a well-formed instruction are read as it. -/
theorem reads_encode {i : Instr} (hw : WellFormed i = true) : Reads (encode i) i := by
  cases i
  case vmov | vsel | vadd | vsub | vmul | vmulh | vmad | vmadw | vmin | vmax | vabsd | vand | vor | vxor | vandn | vshl | vshr |
    vsar | vrot | vbfe | vbfi | vclz | vpopc | vbrev | vperm | vcmp | vplog | vpmov | vlea | vfadd | vfsub | vfmul | vfma |
    vfmin | vfmax | vfcmp | vfclass | vfrnd | vfract | vrcp | vrsq | vsqrt | vexp2 | vlog2 | vsinp | vcosp | vfdiv | vpfma |
    vpfadd | vpfmul | vcvt | vscl | vpack | vunpk | vdot4 | vdot8 | vfdot2 | vftag | vshfl | vbcst | vvote | vredu | vscan |
    vrdln | vwrln | vmatch | vexpand =>
    exact reads_lx_of gOf_gWord rfl
  case vmovi | vmovh | vaddi | vcmpi | vidx => exact reads_lx_of iOf_iWord rfl
  case ld | st | ldl | stl | ldq | stq | lda | sta | atom | red | atoml | pfx | cprop | cget | crecyc | cprobe | fence |
    wsync =>
    exact reads_lx_of mOf_mWord rfl
  case br | jmp | ret | exitL => exact reads_lx_of bOf_bWord rfl
  case rast | hitbin | attr | travs | travr | hvpost => exact reads_lx_of nOf_nWord rfl
  case vmovShort | vaddShort | vsubShort | vmulShort | vmulhShort | vminShort | vmaxShort | vabsdShort | vandShort | vorShort |
    vxorShort | vandnShort | vshlShort | vshrShort | vsarShort | vrotShort | vclzShort | vpopcShort | vbrevShort | vfaddShort |
    vfsubShort | vfmulShort | vfminShort | vfmaxShort | vfrndShort | vfractShort | vrcpShort | vrsqShort | vsqrtShort |
    vexp2Short | vlog2Short | vsinpShort | vcospShort | vfdivShort | wsyncShort | retShort | land | exitShort =>
    exact reads_ls rfl
  case smov | ssel | sadd | ssub | smul | smulh | smin | smax | sand | sor | sxor | sshl | sshr | ssar | sbfe | sclz | spopc |
    scmp | sqlog | slea | guardW | elect =>
    exact reads_ux_of gOf_gWord rfl
  case sidx | yieldW | trapSw | sgetr | ssetr | rclaim | rfree => exact reads_ux_of iOf_iWord rfl
  case sld | sst | satom | barinit | barexp | bararr | barwait | waddr | kick | pub | sbank => exact reads_ux_of mOf_mWord rfl
  case ubr | ujmp | ucall | uret | endW => exact reads_ux_of bOf_bWord rfl
  case mma | mmas | mmap | mzero | mfill | mdrain | mscale | mbtake | pgload | pgctx | pgemit | rflush | tvrel | nfmt | coll |
    launchDev =>
    exact reads_ux_of nOf_nWord rfl
  case smovShort | saddShort | ssubShort | smulShort | smulhShort | sminShort | smaxShort | sandShort | sorShort | sxorShort |
    sshlShort | sshrShort | ssarShort | sclzShort | spopcShort | nop | rfe | uretShort | endShort | yieldShort =>
    exact reads_us rfl
  case vcompact => exact reads_vcompact hw
  case vcompactRow => exact reads_vcompactRow hw
  case callDirect => exact reads_callDirect hw
  case callRegister => exact reads_callRegister hw
  case msflushRange => exact reads_msflushRange hw
  case msflushStack => exact reads_msflushStack hw
  case mbpass => exact reads_mbpass hw
  case mbpassNone => exact reads_mbpassNone hw
  case smovi => exact reads_ux rfl
  -- What is left are the events, none of which is well-formed.
  all_goals exact absurd hw Bool.false_ne_true

end Sys2Proof.Machine
end

section
/-! The decoder (R219, R231): words that the opcode maps do not read are rejected, and those of an instruction decode to it. -/

namespace Sys2Proof.Machine

section Decoder

variable {w e : BitVec 32} {i : Instr}

theorem rawOf_of_decodeWords (hi : decodeWords w e = .ok i) : rawOf w e = some i := by
  cases hraw : rawOf w e with
  | none => simp only [decodeWords, hraw, reduceCtorEq] at hi
  | some j =>
    simp only [decodeWords, hraw] at hi
    split at hi
    · rw [Except.ok.inj hi]
    · cases hi

theorem decodeWords_of_rawOf (hraw : rawOf w e = some i) (hw : WellFormed i = true) : decodeWords w e = .ok i := by
  simp only [decodeWords, hraw, hw, if_true]

/-- The bytes of words that are read as a well-formed instruction decode to it. -/
theorem decode_of_reads {ws : List (BitVec 32)} {rest : List Byte} (hi : Reads ws i) (hw : WellFormed i = true) :
    decode (ws.flatMap wordBytes ++ rest) = .ok (i, rest) := by
  obtain ⟨w, e, hraw, ⟨hx, rfl⟩ | ⟨hx, rfl, rfl⟩⟩ := hi
  all_goals
    simp only [decode, wordBytes, List.flatMap_cons, List.flatMap_nil, List.cons_append, List.nil_append, word4_wordBytes, hx,
      decodeWords_of_rawOf hraw hw, Bool.false_eq_true, if_true, if_false]
    rfl

end Decoder

/-- Settles O1: the opcode maps read the words of a well-formed instruction as it. -/
theorem decodeEncode : Obligations.DecodeEncode := by
  unfold Obligations.DecodeEncode
  exact fun i rest hw => decode_of_reads (reads_encode hw) hw

/-- Settles O2: what the opcode maps read words as is encoded in those words. -/
theorem encodeDecode : Obligations.EncodeDecode := by
  unfold Obligations.EncodeDecode
  intro w e i hi
  obtain ⟨henc, -⟩ := encode_of_rawOf (rawOf_of_decodeWords hi)
  exact henc

/-- Settles O3: the list is finite and closed, and the decoder runs on it. -/
theorem specWordsDecode : Obligations.SpecWordsDecode := by
  unfold Obligations.SpecWordsDecode
  decide +kernel

/-- Settles O4: what the opcode maps read has a listed opcode. -/
theorem unlistedOpcodesRejected : Obligations.UnlistedOpcodesRejected := by
  unfold Obligations.UnlistedOpcodesRejected
  intro w e hunlisted
  cases hraw : rawOf w e with
  | none => rw [decodeWords, hraw]
  | some i =>
    obtain ⟨-, hlisted⟩ := encode_of_rawOf hraw
    exact absurd (hunlisted.symm.trans hlisted) Bool.false_ne_true

/-- Settles O33: the arm of the fetch in which the words at hand are rejected. -/
theorem illegalEncodingTraps : Obligations.IllegalEncodingTraps := by
  unfold Obligations.IllegalEncodingTraps
  intro s s1 s2 h e x v hhead hshort hlong hreject
  cases hx : hasExt (BitVec.ofNat 32 h) with
  | false =>
    obtain ⟨rfl, rfl⟩ := hshort hx
    have hreject : decodeWords (BitVec.ofNat 32 h) 0 = .error x := hreject
    simp only [fetchCur, hhead, hx, hreject, Bool.false_eq_true, if_false, v]
  | true => simp only [fetchCur, hhead, hlong hx, hx, hreject, if_true, v]

end Sys2Proof.Machine
end

section
/-! Integer and bit operations on 32-bit words (R248 to R254): what an operation on numbers makes of the numbers of words is the number of
what the operation of `BitVec 32` makes of the words. -/

namespace Sys2Proof.Machine

/-! ### Numbers and words -/

theorem sext_eq_toInt {w : Nat} (x : BitVec w) : sext w x.toNat = x.toInt := by
  have hlt := x.isLt
  rw [sext, BitVec.toInt_eq_toNat_cond, Nat.mod_eq_of_lt hlt]
  cases w with
  | zero => rw [Subsingleton.elim x 0#0]; rfl
  | succ w =>
    rw [Nat.add_sub_cancel, Nat.pow_succ]
    split <;> split <;> omega

theorem wrap_eq_toNat (w : Nat) (z : Int) : wrap w z = (BitVec.ofInt w z).toNat := (BitVec.toNat_ofInt z).symm

theorem bit_eq_getLsbD {w : Nat} (x : BitVec w) (k : Nat) : bit x.toNat k = x.getLsbD k := by
  rw [bit, BitVec.getLsbD, Nat.testBit_eq_decide_div_mod_eq, Nat.shiftRight_eq_div_pow]

theorem ofInt_sub_toInt {w : Nat} (x y : BitVec w) : BitVec.ofInt w (x.toInt - y.toInt) = x - y := by
  rw [Int.sub_eq_add_neg, BitVec.ofInt_add, BitVec.ofInt_neg, BitVec.ofInt_toInt, BitVec.ofInt_toInt, BitVec.sub_eq_add_neg]

/-! ### Operations of two words (R249, R252), with the type fields of a short form (R222) -/

/-- On the numbers of words, `op` answers the number of what `f` makes of the words. -/
def OnWords (op : Nat → Nat → Nat) (f : Word → Word → Word) : Prop := ∀ x y : Word, op x.toNat y.toNat = (f x y).toNat

section Short

variable (c : BitVec 8)

/-- R222, R248: a short form has one signed element of 32 bits. -/
theorem elem_shortG (x : Word) : elem (gT (shortG c)) x.toNat 0 = x.toInt := sext_eq_toInt x

theorem intOp_shortG (f : Int → Int → Int) (x y : Word) :
    intOp (shortG c) f x.toNat y.toNat = (BitVec.ofInt 32 (f x.toInt y.toInt)).toNat := by
  have hone : intOp (shortG c) f x.toNat y.toNat =
      0 + (wrap 32 (f (elem (gT (shortG c)) x.toNat 0) (elem (gT (shortG c)) y.toNat 0)) % 2 ^ 32) <<< 0 := rfl
  rw [hone, elem_shortG, elem_shortG, wrap_eq_toNat, Nat.zero_add, Nat.shiftLeft_zero, Nat.mod_eq_of_lt (BitVec.isLt _)]

theorem onWords_intOp {f : Int → Int → Int} {g : Word → Word → Word} (h : ∀ x y : Word, BitVec.ofInt 32 (f x.toInt y.toInt) = g x y) :
    OnWords (intOp (shortG c) f) g :=
  fun x y => (intOp_shortG c f x y).trans (congrArg BitVec.toNat (h x y))

theorem onWords_add : OnWords (intOp (shortG c) (· + ·)) (· + ·) :=
  onWords_intOp c fun x y => by rw [BitVec.ofInt_add, BitVec.ofInt_toInt, BitVec.ofInt_toInt]

theorem onWords_sub : OnWords (intOp (shortG c) (· - ·)) (· - ·) := onWords_intOp c ofInt_sub_toInt

theorem onWords_mul : OnWords (intOp (shortG c) (· * ·)) (· * ·) :=
  onWords_intOp c fun x y => by rw [BitVec.ofInt_mul, BitVec.ofInt_toInt, BitVec.ofInt_toInt]

theorem onWords_mulh :
    OnWords (mulhOp (shortG c)) fun x y => (x.signExtend 64 * y.signExtend 64).extractLsb' 32 32 := fun x y => by
  have hprod : x.signExtend 64 * y.signExtend 64 = BitVec.ofInt 64 (x.toInt * y.toInt) := by
    rw [BitVec.ofInt_mul]; rfl
  dsimp only
  rw [mulhOp, elem_shortG, elem_shortG, hprod, BitVec.extractLsb'_toNat, BitVec.toNat_ofInt, wrap, Nat.shiftRight_eq_div_pow]
  generalize x.toInt * y.toInt = z
  omega

theorem onWords_min : OnWords (minOp (shortG c)) fun x y => if x.sle y then x else y :=
  onWords_intOp (f := fun a b => if a ≤ b then a else b) c fun x y => by
    simp only [BitVec.sle_iff_toInt_le, apply_ite (BitVec.ofInt 32), BitVec.ofInt_toInt]

theorem onWords_max : OnWords (maxOp (shortG c)) fun x y => if x.sle y then y else x :=
  onWords_intOp (f := fun a b => if a ≤ b then b else a) c fun x y => by
    simp only [BitVec.sle_iff_toInt_le, apply_ite (BitVec.ofInt 32), BitVec.ofInt_toInt]

theorem onWords_absd : OnWords (absdOp (shortG c)) fun x y => if x.sle y then y - x else x - y :=
  onWords_intOp (f := fun a b => ((a - b).natAbs : Int)) c fun x y => by
    by_cases h : x.toInt ≤ y.toInt
    · have hdist : ((x.toInt - y.toInt).natAbs : Int) = y.toInt - x.toInt := by omega
      rw [if_pos (BitVec.sle_iff_toInt_le.2 h), hdist, ofInt_sub_toInt]
    · have hdist : ((x.toInt - y.toInt).natAbs : Int) = x.toInt - y.toInt := by omega
      rw [if_neg (h ∘ BitVec.sle_iff_toInt_le.1), hdist, ofInt_sub_toInt]

theorem onWords_and : OnWords (bitOp (shortG c) (· &&& ·)) (· &&& ·) := fun x y => (BitVec.toNat_and x y).symm

theorem onWords_or : OnWords (bitOp (shortG c) (· ||| ·)) (· ||| ·) := fun x y => (BitVec.toNat_or x y).symm

theorem onWords_xor : OnWords (bitOp (shortG c) (· ^^^ ·)) (· ^^^ ·) := fun x y => (BitVec.toNat_xor x y).symm

theorem onWords_andn : OnWords (andnOp (shortG c)) fun x y => x &&& ~~~y := fun x y => by
  rw [BitVec.toNat_and, ← BitVec.allOnes_xor, BitVec.toNat_xor, BitVec.toNat_allOnes]
  change x.toNat &&& ((2 ^ 32 - 1) ^^^ (y.toNat % 2 ^ 32)) = _
  rw [Nat.mod_eq_of_lt y.isLt]

theorem onWords_shl : OnWords (shlOp (shortG c)) fun x y => x <<< (y.toNat % 256) := fun _ _ => (BitVec.toNat_shiftLeft ..).symm

theorem onWords_shr : OnWords (shrOp (shortG c)) fun x y => x >>> (y.toNat % 256) := fun x y => by
  rw [BitVec.toNat_ushiftRight]
  change (x.toNat % 2 ^ 32) >>> _ = _
  rw [Nat.mod_eq_of_lt x.isLt]

theorem onWords_sar : OnWords (sarOp (shortG c)) fun x y => x.sshiftRight (y.toNat % 256) := fun x y => by
  change wrap 32 (sext 32 x.toNat / _) = _
  rw [sext_eq_toInt, ← Int.shiftRight_eq_div_pow, ← BitVec.toInt_sshiftRight, wrap_eq_toNat, BitVec.ofInt_toInt]

theorem onWords_rot : OnWords (rotOp (shortG c)) fun x y => x.rotateLeft (y.toNat % 32) := fun x y => by
  change ((x.toNat <<< (y.toNat % 256 % 32)) ||| ((x.toNat % 2 ^ 32) >>> (32 - y.toNat % 256 % 32))) % 2 ^ 32 = _
  rw [BitVec.toNat_rotateLeft, Nat.mod_mod_of_dvd _ (by decide), Nat.mod_mod, Nat.mod_eq_of_lt x.isLt, Nat.or_mod_two_pow,
    Nat.mod_eq_of_lt (a := x.toNat >>> _) (Nat.lt_of_le_of_lt (Nat.shiftRight_le ..) x.isLt)]

end Short

/-! ### Operations of one word (R254) -/

theorem popcOp_word (x : Word) : popcOp x.toNat = (BitVec.ofNat 32 ((List.range 32).filter fun k => x.getLsbD k).length).toNat := by
  have hle : ((List.range 32).filter fun k => x.getLsbD k).length ≤ 32 := List.length_filter_le ..
  rw [popcOp, BitVec.toNat_ofNat, Nat.mod_eq_of_lt (by omega)]
  simp only [bit_eq_getLsbD]

/-- The first 1 from the top is the bit of the logarithm. -/
theorem clzOp_word (x : Word) :
    clzOp x.toNat = (BitVec.ofNat 32 ((List.range 32).takeWhile fun k => !(x.getLsbD (31 - k))).length).toNat := by
  have hle : ((List.range 32).takeWhile fun k => !(x.getLsbD (31 - k))).length ≤ 32 := (List.takeWhile_prefix _).length_le
  rw [BitVec.toNat_ofNat, Nat.mod_eq_of_lt (by omega), clzOp]
  by_cases h : x.toNat = 0
  · obtain rfl : x = 0 := BitVec.eq_of_toNat_eq h
    rfl
  · have hlog : x.toNat.log2 < 32 := (Nat.log2_lt h).2 x.isLt
    have hfirst : (List.range 32).findIdx (fun k => !!(x.getLsbD (31 - k))) = 31 - x.toNat.log2 := by
      rw [List.findIdx_eq (by rw [List.length_range]; omega)]
      simp only [List.getElem_range, Bool.not_not, BitVec.getLsbD]
      refine ⟨?_, fun j hj => Nat.testBit_lt_two_pow ((Nat.log2_lt h).1 (by omega))⟩
      rw [show 31 - (31 - x.toNat.log2) = x.toNat.log2 by omega]
      exact Nat.testBit_log2 h
    rw [if_neg h, List.takeWhile_eq_take_findIdx_not, hfirst, List.length_take, List.length_range]
    omega

/-- A sum of powers of two with every place one higher is twice the sum. -/
theorem foldl_places_double (p : Nat → Bool) (w : Nat) : ∀ (l : List Nat) (a : Nat), (∀ k ∈ l, k < w) →
    l.foldl (fun x k => if p k then x + 2 ^ (w - k) else x) (2 * a) = 2 * l.foldl (fun x k => if p k then x + 2 ^ (w - 1 - k) else x) a
  | [], _, _ => rfl
  | k :: l, a, h => by
    have hplace : w - k = w - 1 - k + 1 := by have := h k (List.mem_cons_self ..); omega
    have hhead : (if p k then 2 * a + 2 ^ (w - k) else 2 * a) = 2 * (if p k then a + 2 ^ (w - 1 - k) else a) := by
      rw [hplace, Nat.pow_succ]
      split <;> omega
    rw [List.foldl_cons, hhead, foldl_places_double p w l _ fun j hj => h j (List.mem_cons_of_mem _ hj), List.foldl_cons]

/-- The bits of a word added up with bit `k` at place `w - 1 - k`, by induction on the width: the top bit of the word comes to place 0. -/
theorem foldl_places_reverse : ∀ (w : Nat) (x : BitVec w),
    (List.range w).foldl (fun a k => if x.getLsbD k then a + 2 ^ (w - 1 - k) else a) 0 = x.reverse.toNat
  | 0, x => by rw [Subsingleton.elim x.reverse 0#0]; rfl
  | w + 1, x => by
    have hlow : (List.range w).foldl (fun a k => if x.getLsbD k then a + 2 ^ (w - 1 - k) else a) 0 = (x.setWidth w).reverse.toNat := by
      rw [← foldl_places_reverse w (x.setWidth w)]
      refine List.foldl_rel (r := Eq) rfl fun k hk a b hab => ?_
      rw [hab, BitVec.getLsbD_setWidth, decide_eq_true (List.mem_range.1 hk), Bool.true_and]
    have hdouble := foldl_places_double x.getLsbD w (List.range w) 0 fun k => List.mem_range.1
    rw [List.range_succ, List.foldl_append, Nat.add_sub_cancel, hdouble, hlow, BitVec.reverse, BitVec.toNat_concat,
      BitVec.msb_eq_getLsbD_last, Nat.add_sub_cancel, List.foldl_cons, List.foldl_nil, Nat.sub_self, Nat.mul_comm]
    cases x.getLsbD w <;> rfl

theorem brevOp_word (x : Word) : brevOp x.toNat = x.reverse.toNat := by
  simp only [brevOp, bit_eq_getLsbD]
  exact foldl_places_reverse 32 x

end Sys2Proof.Machine
end

section
/-! The short forms of the integer instructions (R222) under the conditions of issue: which word of A and B each computes. -/

namespace Sys2Proof.Machine

/-! ### Operands of one register -/

theorem srcVal_laneWord (v : Wave) (l : Nat) (f : Fld) (b : BitVec 8) :
    srcVal v l (lsrc f b.toNat 1 1 false .any) = (vread v l b.toNat).toNat :=
  srcVal_word v l b.toNat

theorem srcVal_uniWord (v : Wave) (l : Nat) (f : Fld) (b : BitVec 8) :
    srcVal v l (usrc f b.toNat 1 1 false) = (uniWord v b).toNat := by
  unfold uniWord
  by_cases h : b.toNat < 128
  · simp [srcVal, usrc, srun, wordsNat, h, Nat.not_le.2 h]
  · have hb := b.isLt
    rw [if_neg h, BitVec.toNat_ofNat, Nat.mod_eq_of_lt (by omega)]
    simp [srcVal, usrc, Nat.not_lt.1 h]

/-! ### What a short form computes -/

/-- The lane instruction writes in each active lane the word that `f` makes of its registers A and B. -/
def LaneComputes (i : Head → Instr) (f : Word → Word → Word) : Prop :=
  ∀ h s, Issuable (i h) s → exec (i h) s = .next (issuedWith (i h) (laneResult (i h) s fun l =>
    [(f (vread (curWave s) l h.a.toNat) (vread (curWave s) l h.b.toNat), .untyped)]) s)

/-- The uniform instruction writes the word that `f` makes of its operands A and B. -/
def UniComputes (i : Head → Instr) (f : Word → Word → Word) : Prop :=
  ∀ h s, Issuable (i h) s → exec (i h) s = .next (issuedWith (i h)
    (uniResult (i h) s (f (uniWord (curWave s) h.a) (uniWord (curWave s) h.b)).toNat) s)

section Computes

variable {i : Head → Instr}

/-- The model gives the instruction its meaning `op` and its two sources by definition, which the last two hypotheses read off. -/
theorem laneComputes_of_onWords {op : BitVec 8 → Nat → Nat → Nat} {f : Word → Word → Word}
    (hop : ∀ c, OnWords (op c) f)
    (hexec : ∀ h s, exec (i h) s = laneAlu (i h) (fun _ _ xs => outReg (op h.b (xs.getD 0 0) (xs.getD 1 0)) .untyped) s := by
      exact fun _ _ => rfl)
    (hsrcs : ∀ h, (specOf (i h)).srcs = [lsrc .b h.a.toNat 1 1 false .any, lsrc .c h.b.toNat 1 1 false .any] := by
      exact fun _ => rfl) : LaneComputes i f := fun h s hi => by
  rw [hexec, laneAlu_words hi (fun _ _ _ => rfl) fun _ _ _ => rfl]
  simp only [hsrcs, List.map_cons, List.map_nil, srcVal_laneWord, List.getD_cons_zero, List.getD_cons_succ, outReg, hop h.b _ _,
    BitVec.ofNat_toNat, BitVec.setWidth_eq]

theorem uniComputes_of_onWords {op : BitVec 8 → Nat → Nat → Nat} {f : Word → Word → Word}
    (hop : ∀ c, OnWords (op c) f)
    (hexec : ∀ h s, exec (i h) s = uniAlu (i h) (fun _ xs => op h.b (xs.getD 0 0) (xs.getD 1 0)) s := by exact fun _ _ => rfl)
    (hsrcs : ∀ h, (specOf (i h)).srcs = [usrc .b h.a.toNat 1 1 false, usrc .c h.b.toNat 1 1 false] := by
      exact fun _ => rfl) : UniComputes i f := fun h s hi => by
  rw [hexec, uniAlu_result hi]
  simp only [hsrcs, List.map_cons, List.map_nil, srcVal_uniWord, List.getD_cons_zero, List.getD_cons_succ, hop h.b _ _]

/-- The same for a source in B alone. -/
theorem laneComputes_of_word {op : Nat → Nat} {f : Word → Word} (hop : ∀ x : Word, op x.toNat = (f x).toNat)
    (hexec : ∀ h s, exec (i h) s = laneAlu (i h) (fun _ _ xs => outReg (op (xs.getD 0 0)) .untyped) s := by exact fun _ _ => rfl)
    (hsrcs : ∀ h, (specOf (i h)).srcs = [lsrc .b h.b.toNat 1 1 false .any] := by exact fun _ => rfl) :
    LaneComputes i fun _ b => f b := fun h s hi => by
  rw [hexec, laneAlu_words hi (fun _ _ _ => rfl) fun _ _ _ => rfl]
  simp only [hsrcs, List.map_cons, List.map_nil, srcVal_laneWord, List.getD_cons_zero, outReg, hop, BitVec.ofNat_toNat,
    BitVec.setWidth_eq]

theorem uniComputes_of_word {op : Nat → Nat} {f : Word → Word} (hop : ∀ x : Word, op x.toNat = (f x).toNat)
    (hexec : ∀ h s, exec (i h) s = uniAlu (i h) (fun _ xs => op (xs.getD 0 0)) s := by exact fun _ _ => rfl)
    (hsrcs : ∀ h, (specOf (i h)).srcs = [usrc .b h.b.toNat 1 1 false] := by exact fun _ => rfl) :
    UniComputes i fun _ b => f b := fun h s hi => by
  rw [hexec, uniAlu_result hi]
  simp only [hsrcs, List.map_cons, List.map_nil, srcVal_uniWord, List.getD_cons_zero, hop]

end Computes

/-! ### The tables -/

theorem shortPairs_compute : ∀ p ∈ shortPairs, LaneComputes p.1 p.2.2 ∧ UniComputes p.2.1 p.2.2 := by
  simp only [shortPairs, List.forall_mem_cons, List.not_mem_nil, false_imp_iff, implies_true, and_true]
  exact ⟨⟨laneComputes_of_onWords onWords_add, uniComputes_of_onWords onWords_add⟩,
    ⟨laneComputes_of_onWords onWords_sub, uniComputes_of_onWords onWords_sub⟩,
    ⟨laneComputes_of_onWords onWords_mul, uniComputes_of_onWords onWords_mul⟩,
    ⟨laneComputes_of_onWords onWords_mulh, uniComputes_of_onWords onWords_mulh⟩,
    ⟨laneComputes_of_onWords onWords_min, uniComputes_of_onWords onWords_min⟩,
    ⟨laneComputes_of_onWords onWords_max, uniComputes_of_onWords onWords_max⟩,
    ⟨laneComputes_of_onWords onWords_and, uniComputes_of_onWords onWords_and⟩,
    ⟨laneComputes_of_onWords onWords_or, uniComputes_of_onWords onWords_or⟩,
    ⟨laneComputes_of_onWords onWords_xor, uniComputes_of_onWords onWords_xor⟩,
    ⟨laneComputes_of_onWords onWords_shl, uniComputes_of_onWords onWords_shl⟩,
    ⟨laneComputes_of_onWords onWords_shr, uniComputes_of_onWords onWords_shr⟩,
    ⟨laneComputes_of_onWords onWords_sar, uniComputes_of_onWords onWords_sar⟩⟩

theorem shortLanePairs_compute : ∀ p ∈ shortLanePairs, LaneComputes p.1 p.2 := by
  simp only [shortLanePairs, List.forall_mem_cons, List.not_mem_nil, false_imp_iff, implies_true, and_true]
  exact ⟨laneComputes_of_onWords onWords_absd, laneComputes_of_onWords onWords_andn, laneComputes_of_onWords onWords_rot⟩

theorem shortSingles_compute :
    ∀ p ∈ shortSingles, LaneComputes p.1 (fun _ b => p.2.2 b) ∧ UniComputes p.2.1 fun _ b => p.2.2 b := by
  simp only [shortSingles, List.forall_mem_cons, List.not_mem_nil, false_imp_iff, implies_true, and_true]
  exact ⟨⟨laneComputes_of_word clzOp_word, uniComputes_of_word clzOp_word⟩,
    ⟨laneComputes_of_word popcOp_word, uniComputes_of_word popcOp_word⟩⟩

/-- Settles O5: each entry's operation on numbers is its operation on words, and the words are those of its sources. -/
theorem shortFormsComputeAOpB : Obligations.ShortFormsComputeAOpB := by
  unfold Obligations.ShortFormsComputeAOpB
  refine ⟨fun p hp h s => ?_, fun p hp => shortLanePairs_compute p hp⟩
  obtain ⟨hlane, huni⟩ := shortPairs_compute p hp
  exact ⟨hlane h s, huni h s⟩

/-- Settles O6: the same for the operations of one word. -/
theorem shortFormsComputeOpB : Obligations.ShortFormsComputeOpB := by
  unfold Obligations.ShortFormsComputeOpB
  refine ⟨fun p hp h s => ?_, laneComputes_of_word brevOp_word⟩
  obtain ⟨hlane, huni⟩ := shortSingles_compute p hp
  exact ⟨hlane h s, huni h s⟩

end Sys2Proof.Machine
end

section
/-! What the lanes of an instruction compute, and what follows at issue (R168, R246): their writes, or the precise ARITH trap of an enabled
exception. -/

namespace Sys2Proof.Machine

/-! ### Bits of a number, and the lanes of a set -/

theorem b2n_eq_toNat (b : Bool) : b2n b = b.toNat := by cases b <;> rfl

theorem bit_eq_testBit (x k : Nat) : bit x k = x.testBit k := by
  rw [bit, Nat.testBit_eq_decide_div_mod_eq, Nat.shiftRight_eq_div_pow]

theorem lanesOf_ascending (m : Lanes) : (lanesOf m).Pairwise (· < ·) := List.pairwise_lt_range.filter _

theorem lanesOf_nodup (m : Lanes) : (lanesOf m).Nodup := List.nodup_range.filter _

theorem eq_zero_of_lanesOf_eq_nil {m : Lanes} (h : lanesOf m = []) : m = 0 :=
  BitVec.eq_of_getLsbD_eq fun l hl => by
    have hout := List.filter_eq_nil_iff.1 h l (List.mem_range.2 hl)
    simpa [inLanes] using hout

/-! ### The lanes' outputs -/

/-- The flags that the active lanes raise together. -/
def lanesRaise (i : Instr) (s : State) (out : Nat → LaneOut) : Word :=
  (lanesOf (active (specOf i) s)).foldl (fun x l => x ||| (out l).raised) 0

/-- The writes of lane results, with the flags `more` of steps whose results are not delivered (R278). -/
def stickyWrites (sp : Spec) (more : Word) (xs : List (Nat × LaneOut)) : Alu :=
  let a := laneWrites sp xs
  { a with writes := { a.writes with sticky := more } }

/-- What active lanes that compute `out` make the result of their instruction. -/
def lanesAlu (i : Instr) (s : State) (out : Nat → LaneOut) (more : Word) : Alu :=
  stickyWrites (specOf i) more ((lanesOf (active (specOf i) s)).map fun l => (l, out l))

section Outputs

variable {i : Instr} {s : State} {out : Nat → LaneOut} {more : Word}

theorem lanesAlu_flags : (lanesAlu i s out more).flags = lanesRaise i s out := by
  simp only [lanesAlu, stickyWrites, laneWrites, Alu.flags, lanesRaise, List.map_map, List.foldl_map, Function.comp]

theorem raisesEnabled_iff : raisesEnabled i out s ↔ arithCause (curWave s).fmode (lanesRaise i s out) ≠ 0 := Iff.rfl

theorem not_raisesEnabled_of_untrapped (h : noArithTraps (curWave s)) : ¬ raisesEnabled i out s :=
  not_not_intro (arithCause_of_off h _)

/-- Lanes that raise nothing raise nothing together. -/
theorem lanesRaise_eq_zero (h : ∀ l, (out l).raised = 0) : lanesRaise i s out = 0 := by
  rw [← lanesAlu_flags (more := 0)]
  exact flags_zero fun x hx => mem_map_lane hx h

theorem not_raisesEnabled_of_quiet (h : ∀ l, (out l).raised = 0) : ¬ raisesEnabled i out s := by
  rw [raisesEnabled_iff, lanesRaise_eq_zero h]
  exact not_not_intro (arithCause_zero _)

/-! ### Issue -/

/-- With no active lane nothing is written. -/
theorem issuedWith_inactive {i : Instr} {s : State} (h : active (specOf i) s = 0) (ws : Writes) :
    issuedWith i ws s = advance (specOf i) s := by
  unfold issuedWith
  dsimp only
  rw [if_pos h]

@[simp] theorem issuedWith_cur (i : Instr) (ws : Writes) (s : State) : (issuedWith i ws s).cur = s.cur := by
  unfold issuedWith
  dsimp only
  split
  · exact advance_cur ..
  · split <;> exact advance_cur ..

/-- With no enabled exception the results are written, and every flag raised is made sticky. -/
theorem aluEff_lanesAlu_completes (h : ¬ raisesEnabled i out s) :
    aluEff i (specOf i) (lanesAlu i s out more) (active (specOf i) s) s =
      issuedWith i { laneOutputs i s out with sticky := more ||| lanesRaise i s out } s := by
  rw [aluEff_issuedWith (by rw [lanesAlu_flags]; exact not_not.1 h), lanesAlu_flags]
  rfl

/-- R246: the lanes of the trap are the active ones that raise an enabled exception. -/
theorem lanesAlu_trapLanes :
    (lanesWhere fun l => (lanesAlu i s out more).raised.any fun r => decide (r.1 = l ∧ arithCause (curWave s).fmode r.2 ≠ 0)) =
      lanesWhere fun l => inLanes (active (specOf i) s) l && decide (arithCause (curWave s).fmode (out l).raised ≠ 0) := by
  refine List.foldl_rel (r := Eq) rfl fun l hl m m' hm => ?_
  subst hm
  congr 2
  rw [Bool.eq_iff_iff]
  have hmem : l ∈ lanesOf (active (specOf i) s) ↔ inLanes (active (specOf i) s) l = true := by
    rw [lanesOf, List.mem_filter, and_iff_right hl]
  simp only [lanesAlu, stickyWrites, laneWrites, List.map_map, List.any_map, List.any_eq_true, Function.comp, decide_eq_true_eq,
    Bool.and_eq_true, ← hmem]
  constructor
  · rintro ⟨k, hk, rfl, hc⟩
    exact ⟨hk, hc⟩
  · exact fun ⟨hk, hc⟩ => ⟨l, hk, rfl, hc⟩

theorem aluEff_lanesAlu_traps (h : raisesEnabled i out s) :
    aluEff i (specOf i) (lanesAlu i s out more) (active (specOf i) s) s = arithTrapped i out more s := by
  have hcause : arithCause (wv s s.cur.wave).fmode (lanesAlu i s out more).flags ≠ 0 := by rw [lanesAlu_flags]; exact h
  have hlanes := lanesAlu_trapLanes (i := i) (s := s) (out := out) (more := more)
  rw [curWave] at hlanes
  unfold aluEff
  dsimp only
  rw [if_pos hcause, hlanes, lanesAlu_flags]
  rfl

end Outputs

/-! ### Instructions of lanes -/

/-- `o` is the outcome of the instruction where its active lanes compute `out`, with the flags `more` of steps whose results are not
delivered. -/
def LanesCompute (i : Instr) (s : State) (out : Nat → LaneOut) (more : Word) (o : Host.Outcome State Fault Refusal) : Prop :=
  ∃ f, o = alu i (specOf i) f s ∧ f (curWave s) (active (specOf i) s) = lanesAlu i s out more

/-- The lanes of the instruction compute `out`, which may take draws for its rounding field `rm` (log 12). -/
def LanesRound (i : Instr) (s : State) (rm : BitVec 3) (out : Nat → LaneOut) (more : Word) : Prop :=
  ∃ o, exec i s = bumpDraws rm s o ∧ LanesCompute i s out more o

section Shapes

variable {i : Instr} {s : State} {out : Nat → LaneOut} {more : Word} {o : Host.Outcome State Fault Refusal} {rm : BitVec 3}

theorem lanesCompute_of_exchange {f : Wave → Lanes → Nat → LaneOut} (ho : o = exchange i f s)
    (hout : ∀ l ∈ lanesOf (active (specOf i) s), f (curWave s) (active (specOf i) s) l = out l) : LanesCompute i s out 0 o := by
  have hmap : (lanesOf (active (specOf i) s)).map (fun l => (l, f (curWave s) (active (specOf i) s) l)) =
      (lanesOf (active (specOf i) s)).map fun l => (l, out l) :=
    List.map_congr_left fun l hl => by rw [hout l hl]
  exact ⟨fun v m => laneWrites (specOf i) ((lanesOf m).map fun l => (l, f v m l)), ho, congrArg (laneWrites (specOf i)) hmap⟩

/-- R243: an instruction that computes each lane alone is an exchange that reads no other lane. -/
theorem lanesCompute_of_laneAlu {f : Wave → Nat → List Nat → LaneOut} (ho : o = laneAlu i f s)
    (hout : ∀ l ∈ lanesOf (active (specOf i) s), f (curWave s) l ((specOf i).srcs.map (srcVal (curWave s) l)) = out l) :
    LanesCompute i s out 0 o :=
  lanesCompute_of_exchange (f := fun v _ l => f v l ((specOf i).srcs.map (srcVal v l))) ho hout

theorem LanesCompute.completes (h : LanesCompute i s out more o) (hi : Issuable i s) (hq : ¬ raisesEnabled i out s) :
    o = .next (issuedWith i { laneOutputs i s out with sticky := more ||| lanesRaise i s out } s) := by
  obtain ⟨f, rfl, hf⟩ := h
  rw [alu, runOp_go hi, ← aluEff_lanesAlu_completes hq, ← hf]
  rfl

/-- With no more flags than the lanes' own, those are the ones made sticky. -/
theorem laneOutputs_sticky : { laneOutputs i s out with sticky := 0 ||| lanesRaise i s out } = laneOutputs i s out := by
  rw [show (0 : Word) ||| lanesRaise i s out = lanesRaise i s out from BitVec.zero_or, ← lanesAlu_flags (more := 0)]
  rfl

theorem LanesCompute.completes_outputs (h : LanesCompute i s out 0 o) (hi : Issuable i s) (hq : ¬ raisesEnabled i out s) :
    o = .next (issuedWith i (laneOutputs i s out) s) := by
  rw [h.completes hi hq, laneOutputs_sticky]

theorem LanesCompute.traps (h : LanesCompute i s out more o) (hi : Issuable i s) (hr : raisesEnabled i out s) :
    o = .next (arithTrapped i out more s) := by
  obtain ⟨f, rfl, hf⟩ := h
  rw [alu, runOp_go hi, ← aluEff_lanesAlu_traps hr, ← hf]
  rfl

/-- Only what the active lanes compute matters. -/
theorem LanesRound.congr {out' : Nat → LaneOut} (h : LanesRound i s rm out more)
    (hout : ∀ l ∈ lanesOf (active (specOf i) s), out l = out' l) : LanesRound i s rm out' more := by
  have hsame : lanesAlu i s out more = lanesAlu i s out' more := by
    rw [lanesAlu, lanesAlu, List.map_congr_left fun l hl => congrArg (Prod.mk l) (hout l hl)]
  obtain ⟨o, ho, f, hf, hlanes⟩ := h
  exact ⟨o, ho, f, hf, hlanes.trans hsame⟩

/-- The draws are counted in the state that the instruction leaves. -/
theorem bumpDraws_next (t : State) : bumpDraws rm s (.next t) = .next (drawn rm s t) := by
  rw [bumpDraws, drawn]
  exact congrArg _ (if_congr (and_congr_right' (by rw [Bool.not_eq_true', curWave])) rfl rfl)

theorem LanesRound.completes (h : LanesRound i s rm out more) (hi : Issuable i s) (hq : ¬ raisesEnabled i out s) :
    exec i s = .next (drawn rm s (issuedWith i { laneOutputs i s out with sticky := more ||| lanesRaise i s out } s)) := by
  obtain ⟨o, ho, hc⟩ := h
  rw [ho, hc.completes hi hq, bumpDraws_next]

theorem LanesRound.completes_outputs (h : LanesRound i s rm out 0) (hi : Issuable i s) (hq : ¬ raisesEnabled i out s) :
    exec i s = .next (drawn rm s (issuedWith i (laneOutputs i s out) s)) := by
  rw [h.completes hi hq, laneOutputs_sticky]

theorem LanesRound.traps (h : LanesRound i s rm out more) (hi : Issuable i s) (hr : raisesEnabled i out s) :
    exec i s = .next (drawn rm s (arithTrapped i out more s)) := by
  obtain ⟨o, ho, hc⟩ := h
  rw [ho, hc.traps hi hr, bumpDraws_next]

end Shapes

/-! ### Lanes that write words alone -/

/-- A lane that writes words, and neither decides a predicate nor raises a flag. -/
def wordsOut (x : List (Word × Tag)) : LaneOut := { regs := x, preds := [], raised := 0 }

/-- Lanes that decide no predicate write their words, whatever flags `w` go with them. -/
theorem laneOutputs_regs {i : Instr} {s : State} {out : Nat → LaneOut} (w : Word) (h : ∀ l, (out l).preds = []) :
    { laneOutputs i s out with sticky := w } = { laneResult i s (fun l => (out l).regs) with sticky := w } := by
  have hpreds : (lanesOf (active (specOf i) s)).flatMap (fun _ => ([] : List (Nat × Nat × Bool))) = [] := by simp
  simp only [laneOutputs, laneWrites, laneResult, List.flatMap_map, h, List.map_nil, hpreds]
  rfl

theorem laneOutputs_words (i : Instr) (s : State) (f : Nat → List (Word × Tag)) :
    (laneOutputs i s fun l => wordsOut (f l)) = laneResult i s f := by
  rw [← laneOutputs_sticky, lanesRaise_eq_zero fun _ => rfl]
  exact laneOutputs_regs _ fun _ => rfl

theorem LanesCompute.writes {i : Instr} {s : State} {o : Host.Outcome State Fault Refusal} {f : Nat → List (Word × Tag)}
    (h : LanesCompute i s (fun l => wordsOut (f l)) 0 o) (hi : Issuable i s) : o = .next (issuedWith i (laneResult i s f) s) := by
  rw [h.completes_outputs hi (not_raisesEnabled_of_quiet fun _ => rfl), laneOutputs_words]

theorem LanesRound.writes {i : Instr} {s : State} {rm : BitVec 3} {f : Nat → List (Word × Tag)}
    (h : LanesRound i s rm (fun l => wordsOut (f l)) 0) (hi : Issuable i s) :
    exec i s = .next (drawn rm s (issuedWith i (laneResult i s f) s)) := by
  rw [h.completes_outputs hi (not_raisesEnabled_of_quiet fun _ => rfl), laneOutputs_words]

end Sys2Proof.Machine
end

section
/-! Floating-point instructions, conversions and what goes with them (R259 to R273): what each active lane computes, and that they complete
where no trap is enabled. -/

namespace Sys2Proof.Machine

/-! ### Elements (R259, R266) -/

theorem bits_element {w : Nat} (hw : 0 < w) (x k : Nat) : bits x (w * k + w - 1) (w * k) = x / 2 ^ (w * k) % 2 ^ w := by
  rw [bits, Nat.shiftRight_eq_div_pow]
  congr 2
  omega

theorem fmtOf_width_pos (t : Nat) : 0 < (fmtOf t).width := by
  unfold fmtOf
  split <;> decide

theorem elements_eq_bits {i : Instr} {s : State} {w : Nat} (hw : 0 < w) (l k : Nat) :
    ((specOf i).srcs.map (srcVal (curWave s) l)).map (fun x => bits x (w * k + w - 1) (w * k)) = elements i s w l k := by
  simp only [elements, List.map_map, Function.comp_def, bits_element hw]

section Shapes

variable {i : Instr} {s : State} {g : GExt} {f : Fmt → Rnd → List Nat → FRes} {rm : BitVec 3}

theorem lanesRound_of_laneAlu {r : Wave → Nat → List Nat → LaneOut} {out : Nat → LaneOut}
    (h : exec i s = bumpDraws rm s (laneAlu i r s))
    (hout : ∀ l ∈ lanesOf (active (specOf i) s), r (curWave s) l ((specOf i).srcs.map (srcVal (curWave s) l)) = out l) :
    LanesRound i s rm out 0 :=
  ⟨_, h, lanesCompute_of_laneAlu rfl hout⟩

theorem lanesRound_of_fpAlu (h : exec i s = fpAlu i g f s) : LanesRound i s g.rm (floatLane i g f s) 0 := by
  refine ⟨_, h, lanesCompute_of_laneAlu rfl fun l _ => ?_⟩
  simp only [elements_eq_bits (fmtOf_width_pos _)]
  rfl

theorem lanesRound_of_fp8Alu (h : exec i s = fp8Alu i g f s) : LanesRound i s g.rm (fp8Lane i g f s) 0 := by
  refine ⟨_, h, lanesCompute_of_laneAlu rfl fun l _ => ?_⟩
  simp only [show ∀ k, 8 * k + 7 = 8 * k + 8 - 1 from fun _ => rfl, elements_eq_bits (w := 8) (by decide)]
  rfl

end Shapes

/-! ### The tables -/

theorem floatTable_rounds (h : Head) (g : GExt) (s : State) :
    ∀ p ∈ floatTable, LanesRound (p.1 h g) s g.rm (floatLane (p.1 h g) g p.2 s) 0 := by
  have hexec : ∀ p ∈ floatTable, exec (p.1 h g) s = fpAlu (p.1 h g) g p.2 s := by
    simp only [floatTable, List.forall_mem_cons, List.not_mem_nil, false_imp_iff, implies_true, and_true]
    exact ⟨rfl, rfl, rfl, rfl, rfl, rfl, rfl, rfl, rfl, rfl, rfl, rfl, rfl, rfl, rfl, rfl⟩
  exact fun p hp => lanesRound_of_fpAlu (hexec p hp)

theorem floatShorts_round (h : Head) (s : State) :
    ∀ p ∈ floatShorts, LanesRound (p.1 h) s 0 (floatLane (p.1 h) (shortG h.b) p.2 s) 0 := by
  have hexec : ∀ p ∈ floatShorts, exec (p.1 h) s = fpAlu (p.1 h) (shortG h.b) p.2 s := by
    simp only [floatShorts, List.forall_mem_cons, List.not_mem_nil, false_imp_iff, implies_true, and_true]
    exact ⟨rfl, rfl, rfl, rfl, rfl, rfl, rfl, rfl, rfl, rfl, rfl, rfl, rfl, rfl, rfl⟩
  exact fun p hp => lanesRound_of_fpAlu (hexec p hp)

theorem fp8Table_rounds (h : Head) (g : GExt) (s : State) :
    ∀ p ∈ fp8Table, LanesRound (p.1 h g) s g.rm (fp8Lane (p.1 h g) g p.2 s) 0 := by
  have hexec : ∀ p ∈ fp8Table, exec (p.1 h g) s = fp8Alu (p.1 h g) g p.2 s := by
    simp only [fp8Table, List.forall_mem_cons, List.not_mem_nil, false_imp_iff, implies_true, and_true]
    exact ⟨rfl, rfl, rfl⟩
  exact fun p hp => lanesRound_of_fp8Alu (hexec p hp)

/-- Settles O16: each entry's lanes round their elements, and no flag that they raise is enabled. -/
theorem floatCompletes : Obligations.FloatCompletes := by
  unfold Obligations.FloatCompletes
  refine ⟨fun p hp h g s hi ht => ?_, fun p hp h s hi ht => ?_, fun p hp h g s hi ht => ?_⟩
  · exact (floatTable_rounds h g s p hp).completes_outputs hi (not_raisesEnabled_of_untrapped ht)
  · exact (floatShorts_round h s p hp).completes_outputs hi (not_raisesEnabled_of_untrapped ht)
  · exact (fp8Table_rounds h g s p hp).completes_outputs hi (not_raisesEnabled_of_untrapped ht)

/-! ### Conversions, packs, scales and the dot product (R267 to R272) -/

/-- The lanes of `i` each compute `f` of their sources, rounded by the field `rm`. -/
def Converts (i : Instr) (s : State) (rm : BitVec 3) (f : Nat → (Nat → Nat) → LaneOut) : Prop :=
  LanesRound i s rm (fun l => f l (source i s l)) 0

section Conversions

variable (h : Head) (g : GExt) (s : State)

theorem vcvt_converts :
    Converts (.vcvt h g) s g.rm fun l x => cvtOp (gT g) (fun k => rndOf (curWave s) g.rm g.sat s.draws l k) (x 0) :=
  lanesRound_of_laneAlu (rfl : _ = execVcvt h g s) fun _ _ => rfl

theorem vpack_converts : Converts (.vpack h g) s g.rm fun l x =>
    packOp (gT g) (fun k => rndOf (curWave s) g.rm g.sat s.draws l k) (x 0) (x 1) (x 2) :=
  lanesRound_of_laneAlu (rfl : _ = execVpack h g s) fun _ _ => rfl

theorem vscl_converts :
    Converts (.vscl h g) s g.rm fun l x => sclOp (gT g) (fun k => rndOf (curWave s) g.rm g.sat s.draws l k) (x 0) (x 1) :=
  lanesRound_of_laneAlu (rfl : _ = execVscl h g s) fun _ _ => rfl

theorem vfdot2_converts : Converts (.vfdot2 h g) s g.rm fun l x =>
    fdot2Op (gT g) (rndOf (curWave s) g.rm g.sat s.draws l 0) (x 0) (x 1) (x 2) :=
  lanesRound_of_laneAlu (rfl : _ = execVfdot2 h g s) fun _ _ => rfl

theorem vunpk_computes : LanesCompute (.vunpk h g) s
    (fun l => unpkOp (gT g) { rndOf (curWave s) 1 false 0 l 0 with sat := false } (source (.vunpk h g) s l 0)
      (source (.vunpk h g) s l 1) (source (.vunpk h g) s l 2)) 0 (exec (.vunpk h g) s) :=
  lanesCompute_of_laneAlu (rfl : _ = execVunpk h g s) fun _ _ => rfl

/-- R262: the relation that lane `l` of a comparison finds, with the flag it raises. -/
def compared (l : Nat) : Bool × Word :=
  let f := fmtOf (gT g % 4)
  fcmpOp (gT g / 4) (readVal f (den (curWave s)) (source (.vfcmp h g) s l 0)) (readVal f (den (curWave s)) (source (.vfcmp h g) s l 1))

theorem vfcmp_computes : LanesCompute (.vfcmp h g) s
    (fun l => { regs := [], preds := [(h.a.toNat, combine g.e.toNat (compared h g s l).1 (pred (curWave s) l (g.e.toNat % 8)))],
                raised := (compared h g s l).2 }) 0 (exec (.vfcmp h g) s) :=
  lanesCompute_of_laneAlu (rfl : _ = execVfcmp h g s) fun _ _ => rfl

theorem vfclass_computes : LanesCompute (.vfclass h g) s
    (fun l => outReg (pack 16 (fpN (gT g)) fun k =>
      classOf (fmtOf (gT g)) (source (.vfclass h g) s l 0 / 2 ^ ((fmtOf (gT g)).width * k) % 2 ^ (fmtOf (gT g)).width)) .untyped)
    0 (exec (.vfclass h g) s) := by
  refine lanesCompute_of_laneAlu (rfl : _ = execVfclass h g s) fun l _ => ?_
  simp only [bits_element (fmtOf_width_pos _)]
  rfl

theorem vftag_computes : LanesCompute (.vftag h g) s
    (fun l => { regs := [if gT g = 16 then (BitVec.ofNat 32 (tagCode (vreg (curWave s) l h.b.toNat).tag), .untyped)
                  else (BitVec.ofNat 32 (source (.vftag h g) s l 0), tagOfCode (gT g))],
                preds := [], raised := 0 }) 0 (exec (.vftag h g) s) := by
  refine lanesCompute_of_laneAlu (rfl : _ = execVftag h g s) fun l _ => ?_
  split <;> rfl

end Conversions

/-- Settles O17: each lane computes from its own sources, and no flag that it raises is enabled. -/
theorem conversionsComplete : Obligations.ConversionsComplete := by
  unfold Obligations.ConversionsComplete
  intro h g s ht v t r goes rounds
  refine ⟨fun hi => ?_, fun hi => ?_, fun hi => ?_, fun hi => ?_, fun hi => ?_, fun hi => ?_, fun hi => ?_, fun hi => ?_⟩
  · exact (vcvt_converts h g s).completes_outputs hi (not_raisesEnabled_of_untrapped ht)
  · exact (vpack_converts h g s).completes_outputs hi (not_raisesEnabled_of_untrapped ht)
  · exact (vscl_converts h g s).completes_outputs hi (not_raisesEnabled_of_untrapped ht)
  · exact (vfdot2_converts h g s).completes_outputs hi (not_raisesEnabled_of_untrapped ht)
  · exact (vunpk_computes h g s).completes_outputs hi (not_raisesEnabled_of_untrapped ht)
  · exact (vfcmp_computes h g s).completes_outputs hi (not_raisesEnabled_of_untrapped ht)
  · exact (vfclass_computes h g s).completes_outputs hi (not_raisesEnabled_of_untrapped ht)
  · exact (vftag_computes h g s).completes_outputs hi (not_raisesEnabled_of_untrapped ht)

end Sys2Proof.Machine
end

section
/-! The exchanges between active lanes (R274 to R277, R279): the register or the number that each active lane takes. -/

namespace Sys2Proof.Machine

/-! ### Exchanges (R275 to R277) -/

section Exchanges

variable {h : Head} {g : GExt} {s : State}

/-- R245: a lane takes the tag of a register with its bits. -/
def taggedReg (v : Wave) (l r : Nat) : List (Word × Tag) := [(vread v l r, (vreg v l r).tag)]

/-- R275: a lane whose source lane is not active or not valid takes the register of the E field. -/
theorem vshfl_computes : LanesCompute (.vshfl h g) s (fun l => wordsOut
    (match shflSource (gT g) l ((vread (curWave s) l g.c.toNat).toNat % 32) with
      | some k => if inLanes (active (specOf (.vshfl h g)) s) k then taggedReg (curWave s) k h.b.toNat else taggedReg (curWave s) l g.e.toNat
      | none => taggedReg (curWave s) l g.e.toNat)) 0 (exec (.vshfl h g) s) := by
  refine lanesCompute_of_exchange (rfl : _ = execVshfl h g s) fun l _ => ?_
  cases shflSource (gT g) l ((vread (curWave s) l g.c.toNat).toNat % 32) with
  | none => rfl
  | some k => exact (apply_ite wordsOut _ _ _).symm

/-- R276: the lane that a broadcast reads. -/
def bcstLane (v : Wave) (g : GExt) (m : Lanes) : Nat :=
  if gT g = 0 then firstLane m else if gT g = 1 then (lanesOf m).getLastD 0 else (vread v (firstLane m) g.c.toNat).toNat % 32

theorem vbcst_computes : LanesCompute (.vbcst h g) s (fun l => wordsOut
    (let k := bcstLane (curWave s) g (active (specOf (.vbcst h g)) s)
     if inLanes (active (specOf (.vbcst h g)) s) k then taggedReg (curWave s) k h.b.toNat else taggedReg (curWave s) l g.e.toNat))
    0 (exec (.vbcst h g) s) := by
  refine lanesCompute_of_exchange (rfl : _ = execVbcst h g s) fun l _ => ?_
  unfold bcstLane
  generalize active (specOf (.vbcst h g)) s = m
  match gT g with
  | 0 | 1 | _ + 2 => exact (apply_ite wordsOut _ _ _).symm

/-- R277: the number that a vote gives every active lane. -/
def voteOf (v : Wave) (h : Head) (g : GExt) (m : Lanes) : Nat :=
  let x := fun k => (vread v k h.b.toNat).toNat
  match gT g with
  | 0 => ((lanesOf m).all fun k => decide (x k ≠ 0)).toNat
  | 1 => ((lanesOf m).any fun k => decide (x k ≠ 0)).toNat
  | 2 => (lanesWhere fun k => inLanes m k && decide (x k ≠ 0)).toNat
  | 3 => ((lanesOf m).all fun k => decide (x k = x (firstLane m))).toNat
  | _ => m.toNat

theorem vvote_computes : LanesCompute (.vvote h g) s
    (fun _ => wordsOut [(BitVec.ofNat 32 (voteOf (curWave s) h g (active (specOf (.vvote h g)) s)), .untyped)]) 0 (exec (.vvote h g) s) := by
  refine lanesCompute_of_exchange (rfl : _ = execVvote h g s) fun l _ => ?_
  unfold voteOf
  generalize active (specOf (.vvote h g)) s = m
  simp only [b2n_eq_toNat]
  match gT g with
  | 0 | 1 | 2 | 3 | _ + 4 => rfl

theorem vmatch_computes : LanesCompute (.vmatch h g) s
    (fun l => wordsOut [(BitVec.ofNat 32 (lanesWhere fun k => inLanes (active (specOf (.vmatch h g)) s) k &&
      decide (vrun (curWave s) k h.b.toNat (wide (gT g)) = vrun (curWave s) l h.b.toNat (wide (gT g)))).toNat, .untyped)])
    0 (exec (.vmatch h g) s) :=
  lanesCompute_of_exchange (rfl : _ = execVmatch h g s) fun _ _ => rfl

end Exchanges

/-! ### A register of a lane that is named (R279) -/

section Named

variable {h : Head} {g : GExt} {s : State}

/-- R279: the lane that lane `l` names. -/
def namedLane (v : Wave) (g : GExt) (l : Nat) : Nat := (vread v l g.c.toNat).toNat % 32

/-- A read of registers none of which is empty is an exchange. -/
theorem vrdln_computes (hb : h.b.toNat < 8 * (curWave s).h)
    (hfull : ∀ l ∈ lanesOf (active (specOf (.vrdln h g)) s),
      (ln (curWave s) (namedLane (curWave s) g l)).exited = true ∨ vEmpty (curWave s) (namedLane (curWave s) g l) h.b.toNat = false) :
    LanesCompute (.vrdln h g) s (fun l => wordsOut
      (if (ln (curWave s) (namedLane (curWave s) g l)).exited then [(BitVec.ofNat 32 0, .untyped)]
        else taggedReg (curWave s) (namedLane (curWave s) g l) h.b.toNat)) 0 (exec (.vrdln h g) s) := by
  have hbusy : ((lanesOf (active (specOf (.vrdln h g)) s)).any fun l =>
      !(ln (curWave s) (namedLane (curWave s) g l)).exited && vEmpty (curWave s) (namedLane (curWave s) g l) h.b.toNat) = false :=
    List.any_eq_false.2 fun l hl => by
      obtain hx | hx := hfull l hl <;> simp [hx]
  have hbad : decide (8 * (curWave s).h ≤ h.b.toNat) = false := decide_eq_false (Nat.not_le.2 hb)
  have hexec : exec (.vrdln h g) s = exchange (.vrdln h g) (fun v _ l =>
      if (ln v (namedLane v g l)).exited then outReg 0 .untyped else copyReg v (namedLane v g l) h.b.toNat) s := by
    change execVrdln h g s = _
    unfold namedLane curWave at hbusy
    rw [curWave] at hbad
    unfold execVrdln exchange alu
    dsimp only
    rw [hbusy, hbad, Bool.and_false, Bool.false_and]
    exact if_neg Bool.false_ne_true
  exact lanesCompute_of_exchange hexec fun l _ => (apply_ite wordsOut _ _ _).symm

theorem vwrln_writes (hi : Issuable (.vwrln h g) s) (ha : h.a.toNat < 8 * (curWave s).h)
    (hfull : vEmpty (curWave s) (gT g) h.a.toNat = false) :
    exec (.vwrln h g) s = .next (
      if active (specOf (.vwrln h g)) s = 0 ∨ (ln (curWave s) (gT g)).exited then advance (specOf (.vwrln h g)) s
      else
        let first := firstLane (active (specOf (.vwrln h g)) s)
        modWv (issuedWith (.vwrln h g) { noWrites with
            regs := [(gT g, h.a.toNat, vread (curWave s) first h.b.toNat, (vreg (curWave s) first h.b.toNat).tag)] } s) s.cur.wave
          fun u => setVreg u (gT g) h.a.toNat { vreg u (gT g) h.a.toNat with full := false }) := by
  have hbad : decide (8 * (wv s s.cur.wave).h ≤ h.a.toNat) = false := decide_eq_false (Nat.not_le.2 ha)
  have hbusy : vEmpty (wv s s.cur.wave) (gT g) h.a.toNat = false := hfull
  change execVwrln h g s = _
  unfold execVwrln
  dsimp only
  rw [runOp_go_of hi hbad (by rw [hbusy, Bool.and_false]) rfl]
  by_cases hx : active (specOf (.vwrln h g)) s = 0 ∨ (ln (curWave s) (gT g)).exited = true
  · rw [if_pos hx, if_pos (by simpa [curWave] using hx)]
  · rw [if_neg hx, if_neg (by simpa [curWave] using hx), aluEff_unraised, issuedWith_cur]
    rfl

end Named

/-- Settles O19: what each active lane takes is a word, and no flag goes with it. -/
theorem exchangesComplete : Obligations.ExchangesComplete := by
  unfold Obligations.ExchangesComplete
  intro h g s v b copy one act
  refine ⟨fun hi => ?_, fun hi => ?_, fun hi => ?_, fun hi => ?_, fun hi hb hfull => ?_, fun hi ha hfull => ?_⟩
  · exact vshfl_computes.writes hi
  · exact vbcst_computes.writes hi
  · exact vvote_computes.writes hi
  · exact vmatch_computes.writes hi
  · exact (vrdln_computes hb hfull).writes hi
  · exact vwrln_writes hi ha hfull

end Sys2Proof.Machine
end

section
/-! Reductions and scans (R278): the tree over the active lanes, whose shape an integer operation does not feel, and the combinations that a
scan makes on its way; and the enabled exceptions of every floating-point family (R246). -/

namespace Sys2Proof.Machine

/-! ### Flags gathered over a list -/

section Flags

variable {α β : Type}

/-- All the flags that `r` gives the entries of a list, beside those of `w`. -/
def orFlags (r : α → Word) (w : Word) (l : List α) : Word := l.foldl (fun w e => w ||| r e) w

theorem getLsbD_orFlags (r : α → Word) (k : Nat) : ∀ (l : List α) (w : Word),
    (orFlags r w l).getLsbD k = (w.getLsbD k || l.any fun e => (r e).getLsbD k)
  | [], w => (Bool.or_false _).symm
  | e :: l, w => by
    rw [List.any_cons, ← Bool.or_assoc, ← BitVec.getLsbD_or]
    exact getLsbD_orFlags r k l (w ||| r e)

theorem orFlags_quiet {r : α → Word} {l : List α} (w : Word) (h : ∀ e ∈ l, r e = 0) : orFlags r w l = w := by
  refine BitVec.eq_of_getLsbD_eq fun k _ => ?_
  rw [getLsbD_orFlags, List.any_eq_false.2 fun e he => by simp [h e he], Bool.or_false]

/-- The flags of parts of a list are among those of the whole. -/
theorem orFlags_or_parts (r : α → Word) (p : β → α → Bool) (l : List α) (bs : List β) :
    orFlags r 0 l ||| orFlags (fun b => orFlags r 0 (l.filter (p b))) 0 bs = orFlags r 0 l := by
  refine BitVec.eq_of_getLsbD_eq fun k _ => ?_
  rw [Bool.eq_iff_iff]
  simp only [BitVec.getLsbD_or, getLsbD_orFlags, Bool.or_eq_true, List.any_eq_true, List.mem_filter]
  refine or_iff_left_of_imp ?_
  rintro (h | ⟨b, -, h | ⟨e, ⟨he, -⟩, hbit⟩⟩)
  · exact .inl h
  · exact .inl h
  · exact .inr ⟨e, he, hbit⟩

end Flags

/-! ### Integer operations -/

section Integer

variable {op : Nat} (hop : op < 8)
include hop

theorem reduIn_int (v : Wave) (x : Nat) : reduIn v op x = { bits := x, raised := 0 } := if_pos hop

theorem reduStep_int (v : Wave) (rm : BitVec 3) (free lane elem b c : Nat) :
    reduStep v rm free op lane elem b c = { bits := reduInt op b c, raised := 0 } := by
  unfold reduStep
  split
  · omega
  · omega
  · omega
  · rfl

theorem reduInt_assoc (a b c : Nat) : reduInt op (reduInt op a b) c = reduInt op a (reduInt op b c) := by
  have hlt : op = 0 ∨ op = 1 ∨ op = 2 ∨ op = 3 ∨ op = 4 ∨ op = 5 ∨ op = 6 ∨ op = 7 := by omega
  obtain rfl | rfl | rfl | rfl | rfl | rfl | rfl | rfl := hlt
  · simp only [reduInt]
    omega
  · simp only [reduInt]
    grind
  · simp only [reduInt]
    grind
  · exact Nat.min_assoc ..
  · exact Nat.max_assoc ..
  · exact Nat.and_assoc ..
  · exact Nat.or_assoc ..
  · exact Nat.xor_assoc ..

end Integer

/-! ### The tree -/

section Tree

variable {op : Nat → Nat → Nat} {f : Nat → Nat → Nat → FRes} {F : Nat → Nat → Nat → Nat → FRes}

/-- A level whose steps raise nothing raises nothing. -/
theorem reduLevel_quiet (hf : ∀ j b c, (f j b c).raised = 0) : ∀ (j : Nat) (xs : List (Option Nat)), (reduLevel f j xs).2 = 0
  | _, [] => rfl
  | _, [_] => rfl
  | j, a :: b :: r => by
    have ih := reduLevel_quiet hf (j + 1) r
    cases a <;> cases b <;> simp [reduLevel, ih, hf]

theorem reduTree_quiet (hf : ∀ level j b c, (F level j b c).raised = 0) : ∀ (n level : Nat) (xs : List (Option Nat)),
    (reduTree F n level xs).2 = 0
  | 0, _, _ => rfl
  | n + 1, level, xs => by
    simp only [reduTree, reduLevel_quiet (hf level), reduTree_quiet hf n]
    rfl

/-- A level halves the number of nodes. -/
theorem reduLevel_length : ∀ (j : Nat) (xs : List (Option Nat)), (reduLevel f j xs).1.length = (xs.length + 1) / 2
  | _, [] => rfl
  | _, [_] => by simp [reduLevel]
  | j, a :: b :: r => by
    have ih := reduLevel_length (j + 1) r
    cases a <;> cases b <;> simp only [reduLevel, List.length_cons, ih] <;> omega

theorem reduTree_length : ∀ (n level : Nat) (xs : List (Option Nat)), xs.length ≤ 2 ^ n → (reduTree F n level xs).1.length ≤ 1
  | 0, _, _, h => h
  | n + 1, level, xs, h => by
    refine reduTree_length n (level + 1) _ ?_
    rw [reduLevel_length]
    rw [Nat.pow_succ] at h
    omega

/-- Two neighbours become one node, an absent one leaving the other as it is. -/
theorem reduLevel_cons (hf : ∀ j b c, (f j b c).bits = op b c) (j : Nat) (a b : Option Nat) (r : List (Option Nat)) :
    (reduLevel f j (a :: b :: r)).1 = Option.merge op a b :: (reduLevel f (j + 1) r).1 := by
  cases a <;> cases b <;> simp [reduLevel, hf]

variable (hassoc : ∀ a b c, op (op a b) c = op a (op b c))
include hassoc

/-- A level combines neighbours: with an associative operation the combination of all is the same after it. -/
theorem reduLevel_foldl (hf : ∀ j b c, (f j b c).bits = op b c) : ∀ (j : Nat) (xs : List (Option Nat)) (z : Option Nat),
    (reduLevel f j xs).1.foldl (Option.merge op) z = xs.foldl (Option.merge op) z
  | _, [], _ => rfl
  | _, [_], _ => rfl
  | j, a :: b :: r, z => by
    have hop : Std.Associative op := ⟨hassoc⟩
    have hnode : Option.merge op z (Option.merge op a b) = Option.merge op (Option.merge op z a) b :=
      (Std.Associative.assoc z a b).symm
    rw [reduLevel_cons hf, List.foldl_cons, reduLevel_foldl hf, hnode]
    rfl

theorem reduTree_foldl (hf : ∀ level j b c, (F level j b c).bits = op b c) : ∀ (n level : Nat) (xs : List (Option Nat)) (z : Option Nat),
    (reduTree F n level xs).1.foldl (Option.merge op) z = xs.foldl (Option.merge op) z
  | 0, _, _, _ => rfl
  | n + 1, level, xs, z =>
    (reduTree_foldl hf n (level + 1) _ z).trans (reduLevel_foldl hassoc (hf level) 0 xs z)

/-- The one node that the last level leaves is the combination of all. -/
theorem reduTree_root (hf : ∀ level j b c, (F level j b c).bits = op b c) {n : Nat} (level : Nat) {xs : List (Option Nat)}
    (h : xs.length ≤ 2 ^ n) : (reduTree F n level xs).1.headD none = xs.foldl (Option.merge op) none := by
  rw [← reduTree_foldl hassoc hf n level]
  have hlen := reduTree_length (F := F) n level xs h
  match (reduTree F n level xs).1, hlen with
  | [], _ => rfl
  | [none], _ => rfl
  | [some _], _ => rfl

end Tree

/-- R278: the combination of the numbers `x` of the lanes of a list, in their order. -/
def combined (op : Nat) (x : Nat → Nat) : List Nat → Nat
  | [] => reduId op
  | l :: r => r.foldl (fun a k => reduInt op a (x k)) (x l)

section Present

variable (op : Nat → Nat → Nat) (x : Nat → Nat) (p : Nat → Bool)

/-- Absent nodes add nothing to a number. -/
theorem foldl_merge_some : ∀ (ls : List Nat) (a : Nat),
    (ls.map fun l => if p l then some (x l) else none).foldl (Option.merge op) (some a) =
      some ((ls.filter p).foldl (fun a k => op a (x k)) a)
  | [], _ => rfl
  | l :: r, a => by
    cases hl : p l
    · simpa [hl] using foldl_merge_some r a
    · simpa [hl] using foldl_merge_some r (op a (x l))

theorem foldl_merge_none : ∀ (ls : List Nat) {l : Nat} {r : List Nat}, ls.filter p = l :: r →
    (ls.map fun l => if p l then some (x l) else none).foldl (Option.merge op) none = some (r.foldl (fun a k => op a (x k)) (x l))
  | k :: ks, l, r, h => by
    cases hk : p k
    · rw [List.filter_cons_of_neg (by simp [hk])] at h
      simpa [hk] using foldl_merge_none ks h
    · rw [List.filter_cons_of_pos hk, List.cons.injEq] at h
      obtain ⟨rfl, rfl⟩ := h
      simpa [hk] using foldl_merge_some op x p ks (x k)

end Present

/-! ### `vredu` -/

section Vredu

variable (h : Head) (g : GExt) (s : State)

/-- The operand of lane `l` as a reduction or a scan reads it. -/
def reduOperand (l : Nat) : FRes := reduIn (curWave s) (gT g % 16) (vread (curWave s) l h.b.toNat).toNat

/-- The tree over the active lanes. -/
def reduRoot : List (Option Nat) × Word :=
  reduTree (fun level j b c => reduStep (curWave s) g.rm s.draws (gT g % 16) (2 ^ level * j) level b c) 5 1
    ((List.range 32).map fun l => if inLanes (active (specOf (.vredu h g)) s) l then some (reduOperand h g s l).bits else none)

theorem filterMap_present {α : Type} (p : Nat → Bool) (f : Nat → α) (ls : List Nat) :
    ((ls.map fun l => if p l then some (f l) else none).filterMap fun x => x) = (ls.filter p).map f := by
  induction ls with
  | nil => rfl
  | cons l r ih => cases hl : p l <;> simp [hl, ih]

/-- What every active lane of a reduction computes. -/
def reduLaneOut : LaneOut :=
  { regs := [(BitVec.ofNat 32 (((reduRoot h g s).1.headD none).getD 0), if 8 ≤ gT g % 16 then .f32 else .untyped)], preds := []
    raised := orFlags (fun l => (reduOperand h g s l).raised) 0 (lanesOf (active (specOf (.vredu h g)) s)) ||| (reduRoot h g s).2 }

theorem vredu_rounds : LanesRound (.vredu h g) s g.rm (fun _ => reduLaneOut h g s) 0 := by
  refine ⟨_, (rfl : _ = execVredu h g s), lanesCompute_of_exchange rfl fun l _ => ?_⟩
  have hbits : ((List.range 32).map fun l => if inLanes (active (specOf (.vredu h g)) s) l then some (reduOperand h g s l) else none).map
      (fun x => x.map (·.bits)) =
      (List.range 32).map fun l => if inLanes (active (specOf (.vredu h g)) s) l then some (reduOperand h g s l).bits else none := by
    rw [List.map_map]
    exact List.map_congr_left fun l _ => apply_ite (Option.map FRes.bits) ..
  have hread := filterMap_present (inLanes (active (specOf (.vredu h g)) s)) (reduOperand h g s) (List.range 32)
  dsimp only
  unfold reduOperand at hbits hread
  rw [hbits, hread, List.foldl_map]
  rfl

/-- R278: the integer operations are associative, so the tree gives the combination of the active lanes in their order. -/
theorem vredu_combines (hop : gT g % 16 < 8) : LanesRound (.vredu h g) s g.rm
    (fun _ => wordsOut [(BitVec.ofNat 32 (combined (gT g % 16) (fun l => (vread (curWave s) l h.b.toNat).toNat)
      (lanesOf (active (specOf (.vredu h g)) s))), .untyped)]) 0 := by
  refine (vredu_rounds h g s).congr fun l hl => ?_
  have hread : orFlags (fun l => (reduOperand h g s l).raised) 0 (lanesOf (active (specOf (.vredu h g)) s)) = 0 :=
    orFlags_quiet _ fun k _ => by rw [reduOperand, reduIn_int hop]
  have hquiet : (reduRoot h g s).2 = 0 := reduTree_quiet (fun _ _ _ _ => by rw [reduStep_int hop]) ..
  have hroot : (reduRoot h g s).1.headD none = _ :=
    reduTree_root (reduInt_assoc hop) (fun _ _ _ _ => by rw [reduStep_int hop]) 1 (by simp)
  obtain ⟨k, r, hlanes⟩ := List.exists_cons_of_ne_nil (List.ne_nil_of_mem hl)
  simp only [reduOperand, reduIn_int hop] at hroot
  rw [foldl_merge_none _ _ _ _ hlanes] at hroot
  rw [reduLaneOut, hroot, hread, hquiet, word_or_zero, if_neg (Nat.not_le.2 hop), hlanes]
  rfl

/-- A floating-point reduction tags its number. -/
theorem vredu_rounds_reduOut (hop : 8 ≤ gT g % 16) : LanesRound (.vredu h g) s g.rm (fun _ => reduOut h g s) 0 := by
  have hrounds := vredu_rounds h g s
  rw [reduLaneOut, if_pos hop] at hrounds
  exact hrounds

end Vredu

/-! ### Scans -/

section Scan

variable {f : Nat → Nat → Nat → FRes} {x : Nat → Nat} {p : Nat → Bool}

/-- A step of a scan: the number and the flags so far go on with those of lane `k`. -/
def scanStep (f : Nat → Nat → Nat → FRes) (x : Nat → Nat) (a : Nat × Word) (k : Nat) : Nat × Word :=
  ((f k a.1 (x k)).bits, a.2 ||| (f k a.1 (x k)).raised)

/-- The number and the flags of the last of a scan's entries, after those of `a`. -/
def scanLast (a : Nat × Word) (es : List (Nat × Nat × Word)) : Nat × Word := (es.getLast?.elim a.1 (·.2.1), orFlags (·.2.2) a.2 es)

theorem scanLast_cons (a : Nat × Word) (e : Nat × Nat × Word) (es : List (Nat × Nat × Word)) :
    scanLast a (e :: es) = scanLast (e.2.1, a.2 ||| e.2.2) es := by
  rw [scanLast, List.getLast?_cons]
  cases hes : es.getLast? <;> simp [scanLast, orFlags, hes]

theorem scanFrom_lanes : ∀ (ls : List Nat) (acc : Nat), (scanFrom f x acc ls).map Prod.fst = ls
  | [], _ => rfl
  | _ :: r, _ => congrArg _ (scanFrom_lanes r _)

theorem filter_scanFrom_eq_nil {ls : List Nat} (acc : Nat) (h : ∀ l ∈ ls, p l = false) :
    (scanFrom f x acc ls).filter (fun e => p e.1) = [] := by
  refine List.filter_eq_nil_iff.2 fun e he => ?_
  have hmem : e.1 ∈ ls := scanFrom_lanes (f := f) (x := x) ls acc ▸ List.mem_map_of_mem he
  rw [h e.1 hmem]
  exact Bool.false_ne_true

/-- Of a scan over ascending lanes the entries up to some lane are those of the scan over these lanes alone. -/
theorem scanLast_scanFrom : ∀ {ls : List Nat} (a : Nat × Word), ls.Pairwise (fun k l => p l → p k) →
    scanLast a ((scanFrom f x a.1 ls).filter fun e => p e.1) = (ls.filter p).foldl (scanStep f x) a
  | [], _, _ => rfl
  | l :: r, a, h => by
    obtain ⟨hl, hr⟩ := List.pairwise_cons.1 h
    by_cases hp : p l
    · rw [scanFrom, List.filter_cons, if_pos hp, scanLast_cons, List.filter_cons_of_pos hp, List.foldl_cons]
      exact scanLast_scanFrom (scanStep f x a l) hr
    · have hrest : ∀ k ∈ l :: r, p k = false := by
        simpa [hp] using fun k hk => mt (hl k hk) hp
      rw [filter_scanFrom_eq_nil a.1 hrest, List.filter_eq_nil_iff.2 fun k hk => by simp [hrest k hk]]
      rfl

end Scan

/-! ### `vscan` -/

section Vscan

variable (h : Head) (g : GExt) (s : State)

/-- The entries of the scan over the lanes of a list. -/
def scanEntries : List Nat → List (Nat × Nat × Word)
  | [] => []
  | l :: r => (l, (reduOperand h g s l).bits, (reduOperand h g s l).raised) ::
      scanFrom (fun k b c => reduStep (curWave s) g.rm s.draws (gT g % 16) k 0 b c) (fun k => (vread (curWave s) k h.b.toNat).toNat)
        (reduOperand h g s l).bits r

theorem scanLast_scanEntries {p : Nat → Bool} {ls : List Nat} (hp : ls.Pairwise fun k l => p l → p k) :
    scanLast (reduId (gT g % 16), 0) ((scanEntries h g s ls).filter fun e => p e.1) = scanOf h g s (ls.filter p) := by
  cases ls with
  | nil => rfl
  | cons l r =>
    obtain ⟨hl, hr⟩ := List.pairwise_cons.1 hp
    by_cases hpl : p l
    · rw [scanEntries, List.filter_cons, if_pos hpl, scanLast_cons, List.filter_cons_of_pos hpl]
      have hfrom := scanLast_scanFrom (f := fun k b c => reduStep (curWave s) g.rm s.draws (gT g % 16) k 0 b c)
        (x := fun k => (vread (curWave s) k h.b.toNat).toNat) ((reduOperand h g s l).bits, (reduOperand h g s l).raised) hr
      rw [show (0 : Word) ||| (reduOperand h g s l).raised = (reduOperand h g s l).raised from BitVec.zero_or]
      exact hfrom
    · have hrest : ∀ k ∈ r, p k = false := by
        simpa using fun k hk => mt (hl k hk) hpl
      rw [scanEntries, List.filter_cons, if_neg hpl, filter_scanFrom_eq_nil _ hrest, List.filter_cons_of_neg hpl,
        List.filter_eq_nil_iff.2 fun k hk => by simp [hrest k hk]]
      rfl

/-- R278: the lanes that the combination of lane `l` takes in: those up to it, or below it. -/
def scanReaches (l k : Nat) : Bool := decide (k < l) || (!(gT g).testBit 4 && decide (k = l))

theorem scanReaches_ascending (l : Nat) (m : Lanes) : (lanesOf m).Pairwise fun j k => scanReaches g l k → scanReaches g l j := by
  refine (lanesOf_ascending m).imp fun {j k} hlt hk => ?_
  simp only [scanReaches, Bool.or_eq_true, Bool.and_eq_true, decide_eq_true_eq] at hk ⊢
  omega

/-- The number and the flags of lane `l` of a scan. -/
def scanLane (l : Nat) : Nat × Word := scanOf h g s ((lanesOf (active (specOf (.vscan h g)) s)).filter (scanReaches g l))

/-- What lane `l` of a scan computes. -/
def scanLaneOut (l : Nat) : LaneOut :=
  { regs := [(BitVec.ofNat 32 (scanLane h g s l).1, if 8 ≤ gT g % 16 then .f32 else .untyped)], preds := []
    raised := (scanLane h g s l).2 }

/-- Its entries over the active lanes, and those that lane `l` takes in. -/
theorem scanLane_eq (l : Nat) : scanLane h g s l = scanLast (reduId (gT g % 16), 0)
    ((scanEntries h g s (lanesOf (active (specOf (.vscan h g)) s))).filter fun e => scanReaches g l e.1) :=
  (scanLast_scanEntries h g s (scanReaches_ascending g l _)).symm

/-- The flags of every step. -/
theorem scanOf_flags (m : Lanes) : (scanOf h g s (lanesOf m)).2 = orFlags (·.2.2) 0 (scanEntries h g s (lanesOf m)) := by
  have hall := scanLast_scanEntries h g s (p := fun _ => true) (ls := lanesOf m) ((lanesOf_ascending m).imp fun _ h => h)
  rw [List.filter_eq_self.2 fun _ _ => rfl, List.filter_eq_self.2 fun _ _ => rfl] at hall
  exact congrArg Prod.snd hall.symm

/-- A lane's number is the one that the last of its entries delivers, or else the identity. -/
theorem scanLast_output (d : Nat) (t : Tag) (es : List (Nat × Nat × Word)) :
    { outReg (match es.getLast? with | some e => e.2.1 | none => d) t with raised := es.foldl (fun w e => w ||| e.2.2) 0 } =
      ({ regs := [(BitVec.ofNat 32 (scanLast (d, 0) es).1, t)], preds := [], raised := (scanLast (d, 0) es).2 } : LaneOut) := by
  unfold scanLast
  cases es.getLast? <;> rfl

theorem vscan_rounds : LanesRound (.vscan h g) s g.rm (scanLaneOut h g s)
    (scanOf h g s (lanesOf (active (specOf (.vscan h g)) s))).2 := by
  refine ⟨_, (rfl : _ = execVscan h g s), _, rfl, ?_⟩
  generalize hm : active (specOf (.vscan h g)) s = m
  simp only [scanLaneOut, scanLane_eq, scanOf_flags, lanesAlu, hm, bit_eq_testBit]
  cases hls : lanesOf m with
  | nil =>
    rw [eq_zero_of_lanesOf_eq_nil hls]
    rfl
  | cons k r =>
    have hne : m ≠ 0 := by
      rintro rfl
      exact List.cons_ne_nil k r (hls.symm.trans (by decide))
    rw [firstLane, hls, if_neg hne]
    exact congrArg (stickyWrites _ _) (List.map_congr_left fun l _ => congrArg (Prod.mk l) (scanLast_output ..))

/-- Steps that raise nothing combine as integers do. -/
theorem scanOf_int (hop : gT g % 16 < 8) (ls : List Nat) :
    scanOf h g s ls = (combined (gT g % 16) (fun l => (vread (curWave s) l h.b.toNat).toNat) ls, 0) := by
  have hsteps : ∀ (r : List Nat) (a : Nat), r.foldl
      (scanStep (fun k b c => reduStep (curWave s) g.rm s.draws (gT g % 16) k 0 b c) fun k => (vread (curWave s) k h.b.toNat).toNat)
      (a, 0) = (r.foldl (fun a k => reduInt (gT g % 16) a (vread (curWave s) k h.b.toNat).toNat) a, 0) := by
    intro r
    induction r with
    | nil => exact fun _ => rfl
    | cons k r ih =>
      intro a
      rw [List.foldl_cons, scanStep, reduStep_int hop, word_or_zero]
      exact ih _
  cases ls with
  | nil => rfl
  | cons l r =>
    have hfirst := hsteps r (vread (curWave s) l h.b.toNat).toNat
    simp only [scanOf, reduIn_int hop]
    exact hfirst

theorem vscan_combines (hop : gT g % 16 < 8) : LanesRound (.vscan h g) s g.rm
    (fun l => wordsOut [(BitVec.ofNat 32 (combined (gT g % 16) (fun k => (vread (curWave s) k h.b.toNat).toNat)
      ((lanesOf (active (specOf (.vscan h g)) s)).filter (scanReaches g l))), .untyped)]) 0 := by
  have hrounds := vscan_rounds h g s
  rw [scanOf_int h g s hop] at hrounds
  refine hrounds.congr fun l _ => ?_
  rw [scanLaneOut, scanLane, scanOf_int h g s hop, if_neg (Nat.not_le.2 hop)]
  rfl

/-- The flags of the steps of any lane are among those of all steps. -/
theorem scan_flags_absorb : (scanOf h g s (lanesOf (active (specOf (.vscan h g)) s))).2 ||| lanesRaise (.vscan h g) s (scanLaneOut h g s) =
    (scanOf h g s (lanesOf (active (specOf (.vscan h g)) s))).2 := by
  have hraise : lanesRaise (.vscan h g) s (scanLaneOut h g s) =
      orFlags (fun l => (scanLane h g s l).2) 0 (lanesOf (active (specOf (.vscan h g)) s)) := rfl
  simp only [hraise, scanLane_eq, scanOf_flags]
  exact orFlags_or_parts ..

theorem vscan_completes (hop : 8 ≤ gT g % 16) (hi : Issuable (.vscan h g) s) (ht : noArithTraps (curWave s)) :
    exec (.vscan h g) s = .next (drawn g.rm s (issuedWith (.vscan h g)
      { laneResult (.vscan h g) s (fun l => [(BitVec.ofNat 32 (scanLane h g s l).1, .f32)]) with
        sticky := (scanOf h g s (lanesOf (active (specOf (.vscan h g)) s))).2 } s)) := by
  rw [(vscan_rounds h g s).completes hi (not_raisesEnabled_of_untrapped ht), laneOutputs_regs _ fun _ => rfl, scan_flags_absorb]
  simp only [scanLaneOut, if_pos hop]

end Vscan

/-- Settles O20: an integer reduction is the combination of its lanes whatever the tree, and a scan's lanes each deliver their last entry. -/
theorem reductionsComplete : Obligations.ReductionsComplete := by
  unfold Obligations.ReductionsComplete
  intro h g s v op x fold rounds upto
  refine ⟨fun hi => ⟨fun hop => ?_, fun hop ht => ?_⟩, fun hi => ⟨fun hop => ?_, fun hop ht => ?_⟩⟩
  · exact (vredu_combines h g s hop).writes hi
  · exact (vredu_rounds_reduOut h g s hop).completes_outputs hi (not_raisesEnabled_of_untrapped ht)
  · exact (vscan_combines h g s hop).writes hi
  · exact vscan_completes h g s hop hi ht

/-! ### Enabled exceptions -/

/-- Settles O24: in each family the lanes compute what they deliver where nothing traps, and an enabled exception of theirs traps. -/
theorem enabledExceptionTraps : Obligations.EnabledExceptionTraps := by
  unfold Obligations.EnabledExceptionTraps
  intro h g s v t r traps rounds conv
  refine ⟨fun p hp hi => ?_, fun p hp hi => ?_, fun p hp hi => ?_, fun hi => ?_, fun hi => ?_, fun hi => ?_, fun hi => ?_, fun hi => ?_,
    fun hi hr => ?_, fun hop hi => ?_, fun hop hi hr => ?_⟩
  · exact (floatTable_rounds h g s p hp).traps hi
  · exact (floatShorts_round h s p hp).traps hi
  · exact (fp8Table_rounds h g s p hp).traps hi
  · exact (vcvt_converts h g s).traps hi
  · exact (vpack_converts h g s).traps hi
  · exact (vscl_converts h g s).traps hi
  · exact (vfdot2_converts h g s).traps hi
  · exact (vunpk_computes h g s).traps hi
  · exact (vfcmp_computes h g s).traps hi hr
  · exact (vredu_rounds_reduOut h g s hop).traps hi
  · exact (vscan_rounds h g s).traps hi hr

end Sys2Proof.Machine
end

section
/-! Compaction and expansion (R281 to R284): which of 48 elements are kept, and what each active lane writes. -/

namespace Sys2Proof.Machine

/-! ### The order of magnitude (R281) -/

section Order

variable (rank : Nat → Nat)

/-- Index `i` is kept before `j`: its element is of larger magnitude, or of equal magnitude and lower index. -/
def KeptBefore (i j : Nat) : Prop := rank j < rank i ∨ (rank j = rank i ∧ i < j)

theorem insertMag_perm (i : Nat) : ∀ l : List Nat, (insertMag rank i l).Perm (i :: l)
  | [] => .refl _
  | j :: r => by
    rw [insertMag]
    split
    · exact .refl _
    · exact ((insertMag_perm i r).cons j).trans (.swap ..)

/-- An index above all others goes behind those of its magnitude. -/
theorem insertMag_pairwise {i : Nat} : ∀ {l : List Nat}, l.Pairwise (KeptBefore rank) → (∀ j ∈ l, j < i) →
    (insertMag rank i l).Pairwise (KeptBefore rank)
  | [], _, _ => List.pairwise_singleton ..
  | j :: r, hl, hlt => by
    obtain ⟨hj, hr⟩ := List.pairwise_cons.1 hl
    rw [insertMag]
    split
    next hgt =>
      refine List.pairwise_cons.2 ⟨fun k hk => .inl ?_, hl⟩
      obtain rfl | hk := List.mem_cons.1 hk
      · exact hgt
      · obtain h | h := hj k hk <;> omega
    next hle =>
      refine List.pairwise_cons.2 ⟨fun k hk => ?_, insertMag_pairwise hr fun k hk => hlt k (List.mem_cons_of_mem _ hk)⟩
      obtain rfl | hk := List.mem_cons.1 ((insertMag_perm rank i r).mem_iff.1 hk)
      · have hji := hlt j (List.mem_cons_self ..)
        unfold KeptBefore
        omega
      · exact hj k hk

/-- Indices inserted in turn. -/
def inserted (l acc : List Nat) : List Nat := l.foldl (fun acc i => insertMag rank i acc) acc

theorem inserted_perm : ∀ l acc : List Nat, (inserted rank l acc).Perm (l ++ acc)
  | [], _ => .refl _
  | i :: r, acc =>
    (inserted_perm r (insertMag rank i acc)).trans (((insertMag_perm rank i acc).append_left r).trans List.perm_middle)

/-- Indices inserted in ascending order stand in the order in which they are kept. -/
theorem inserted_pairwise : ∀ {l acc : List Nat}, l.Pairwise (· < ·) → (∀ i ∈ l, ∀ j ∈ acc, j < i) →
    acc.Pairwise (KeptBefore rank) → (inserted rank l acc).Pairwise (KeptBefore rank)
  | [], _, _, _, hacc => hacc
  | i :: r, acc, hl, hlt, hacc => by
    obtain ⟨hi, hr⟩ := List.pairwise_cons.1 hl
    have hlast : ∀ j ∈ acc, j < i := hlt i (List.mem_cons_self ..)
    refine inserted_pairwise (l := r) (acc := insertMag rank i acc) hr (fun k hk j hj => ?_) (insertMag_pairwise rank hacc hlast)
    obtain rfl | hj := List.mem_cons.1 ((insertMag_perm rank i acc).mem_iff.1 hj)
    · exact hi k hk
    · exact hlt k (List.mem_cons_of_mem _ hk) j hj

/-- The indices of elements that are not zero, and of those that are. -/
def nonzeros : List Nat := (List.range 48).filter fun i => decide (rank i ≠ 0)
def zeros : List Nat := (List.range 48).filter fun i => decide (rank i = 0)

/-- All 48 indices in the order in which they are kept. -/
def keptOrder : List Nat := inserted rank (nonzeros rank) [] ++ zeros rank

theorem mem_inserted {i : Nat} : i ∈ inserted rank (nonzeros rank) [] ↔ i < 48 ∧ rank i ≠ 0 := by
  rw [(inserted_perm rank _ _).mem_iff, List.append_nil, nonzeros, List.mem_filter, List.mem_range, decide_eq_true_eq]

theorem inserted_length : (inserted rank (nonzeros rank) []).length = (nonzeros rank).length :=
  (inserted_perm rank _ _).length_eq.trans (by rw [List.append_nil])

theorem mem_zeros {i : Nat} : i ∈ zeros rank ↔ i < 48 ∧ rank i = 0 := by
  rw [zeros, List.mem_filter, List.mem_range, decide_eq_true_eq]

theorem keptOrder_perm : (keptOrder rank).Perm (List.range 48) := by
  have hsplit : (nonzeros rank ++ zeros rank).Perm (List.range 48) := by
    have h := List.filter_append_perm (fun i => decide (rank i ≠ 0)) (List.range 48)
    simpa [nonzeros, zeros] using h
  exact ((inserted_perm rank _ _).trans (by rw [List.append_nil])).append_right _ |>.trans hsplit

theorem keptOrder_pairwise : (keptOrder rank).Pairwise (KeptBefore rank) := by
  refine List.pairwise_append.2 ⟨?_, ?_, fun i hi j hj => .inl ?_⟩
  · exact inserted_pairwise rank (List.pairwise_lt_range.filter _) (fun _ _ _ h => absurd h List.not_mem_nil) .nil
  · refine (List.pairwise_lt_range.filter _).imp_of_mem fun {i j} hi hj hlt => .inr ⟨?_, hlt⟩
    rw [((mem_zeros rank).1 hi).2, ((mem_zeros rank).1 hj).2]
  · obtain ⟨-, hi⟩ := (mem_inserted rank).1 hi
    obtain ⟨-, hj⟩ := (mem_zeros rank).1 hj
    omega

/-! ### The elements kept -/

/-- The first `n` of the order are kept, ascending. -/
theorem keepOf_kept (n : Nat) : (keepOf rank n).1 = (List.range 48).filter fun i => ((keptOrder rank).take n).contains i := by
  unfold keepOf
  dsimp only
  split
  next hlt =>
    have htake : (keptOrder rank).take n = (inserted rank (nonzeros rank) []).take n :=
      List.take_append_of_le_length (by rw [inserted_length]; exact Nat.le_of_lt hlt)
    rw [htake]
    rfl
  next hge =>
    have hall : (inserted rank (nonzeros rank) []).length ≤ n := by rw [inserted_length]; exact Nat.not_lt.1 hge
    have htake : (keptOrder rank).take n = inserted rank (nonzeros rank) [] ++ (zeros rank).take (n - (nonzeros rank).length) := by
      rw [keptOrder, List.take_append, List.take_of_length_le hall, inserted_length]
    refine List.filter_congr fun i hi => ?_
    rw [htake, Bool.eq_iff_iff]
    simp only [Bool.or_eq_true, List.contains_iff_mem, List.mem_append, mem_inserted, List.mem_range.1 hi, true_and, decide_eq_true_eq]
    rfl

theorem keepOf_overflow (n : Nat) : (keepOf rank n).2 = true ↔ n < (nonzeros rank).length := by
  unfold keepOf
  dsimp only
  split
  next hlt => exact iff_of_true rfl hlt
  next hge => exact iff_of_false Bool.false_ne_true hge

variable {rank}

theorem mem_kept {n i : Nat} : i ∈ (keepOf rank n).1 ↔ i ∈ (keptOrder rank).take n := by
  rw [keepOf_kept, List.mem_filter, List.contains_iff_mem]
  exact and_iff_right_of_imp fun h => (keptOrder_perm rank).mem_iff.1 (List.mem_of_mem_take h)

theorem kept_length {n : Nat} (hn : n ≤ 48) : (keepOf rank n).1.length = n := by
  have hkept : (keepOf rank n).1.Nodup := by
    rw [keepOf_kept]
    exact List.nodup_range.filter _
  have htaken : ((keptOrder rank).take n).Nodup := ((keptOrder_perm rank).nodup_iff.2 List.nodup_range).take
  have hperm : (keepOf rank n).1.Perm ((keptOrder rank).take n) := (List.perm_ext_iff_of_nodup hkept htaken).2 fun _ => mem_kept
  rw [hperm.length_eq, List.length_take, (keptOrder_perm rank).length_eq, List.length_range, Nat.min_eq_left hn]

/-- An index that is kept comes before every one that is not. -/
theorem keptBefore_of_kept {n i j : Nat} (hi : i ∈ (keepOf rank n).1) (hj : j < 48) (hout : j ∉ (keepOf rank n).1) :
    KeptBefore rank i j := by
  have horder := keptOrder_pairwise rank
  have hmem : j ∈ (keptOrder rank).take n ++ (keptOrder rank).drop n := by
    rw [List.take_append_drop]
    exact (keptOrder_perm rank).mem_iff.2 (List.mem_range.2 hj)
  rw [← List.take_append_drop n (keptOrder rank)] at horder
  obtain ⟨-, -, hcross⟩ := List.pairwise_append.1 horder
  exact hcross i (mem_kept.1 hi) j ((List.mem_append.1 hmem).resolve_left (mt mem_kept.2 hout))

end Order

/-- Settles O21: the elements kept are the first `n` of the order of magnitude, in which every index stands. -/
theorem compactionKeepsTheLargest : Obligations.CompactionKeepsTheLargest := by
  unfold Obligations.CompactionKeepsTheLargest
  intro rank n hn
  refine ⟨kept_length hn, ?_, fun i hi => ?_, fun i hi j hj hout => keptBefore_of_kept hi hj hout, keepOf_overflow rank n⟩
  · rw [keepOf_kept]
    exact List.pairwise_lt_range.filter _
  · exact List.mem_range.1 ((keptOrder_perm rank).mem_iff.1 (List.mem_of_mem_take (mem_kept.1 hi)))

/-! ### `vcompact` and `vexpand` -/

section Lanes

variable (h : Head) (g : GExt) (s : State)

theorem vcompact_computes : LanesCompute (.vcompact h g) s
    (fun l => { regs := (compactLane (gT g) (vrun (curWave s) l h.b.toNat 12)).1,
                preds := [(g.e.toNat, (compactLane (gT g) (vrun (curWave s) l h.b.toNat 12)).2)], raised := 0 }) 0
    (exec (.vcompact h g) s) :=
  lanesCompute_of_exchange (rfl : _ = execVcompact h g s) fun _ _ => rfl

theorem vexpand_computes : LanesCompute (.vexpand h g) s
    (fun l => outRun 12 (expandLane (gT g) (wordsNat (vrun (curWave s) l h.b.toNat (compactN (gT g) / 4)))
      (wordsNat (vrun (curWave s) l g.c.toNat (compactQ (gT g))))) (compactTag (gT g))) 0 (exec (.vexpand h g) s) := by
  refine lanesCompute_of_exchange (f := fun v _ l => outRun 12 (expandLane (gT g) (wordsNat (vrun v l h.b.toNat (compactN (gT g) / 4)))
    (wordsNat (vrun v l g.c.toNat (compactQ (gT g))))) (compactTag (gT g))) ?_ fun _ _ => rfl
  unfold exec execVexpand
  rfl

/-! ### The row form (R282, R283) -/

/-- The active lanes whose element is kept. -/
def rowKept : List Nat :=
  (lanesOf (active (specOf (.vcompactRow h g)) s)).filter fun l =>
    if (gT g).testBit 2 then !(isZero (readVal F32 (den (curWave s)) (vread (curWave s) l h.b.toNat).toNat))
    else decide ((vread (curWave s) l h.b.toNat).toNat ≠ 0)

/-- The counts before the row. -/
def rowCounts : Nat := (vread (curWave s) (firstLane (active (specOf (.vcompactRow h g)) s)) g.c.toNat).toNat

/-- A count of the row is saturated. -/
abbrev RowFull : Prop := 65535 < rowCounts h g s % 65536 + (rowKept h g s).length ∨ rowCounts h g s / 65536 = 65535

/-- What the lane of rank `r` among the active ones computes. -/
def rowOut (r : Nat) : LaneOut :=
  { regs := (match (rowKept h g s)[r]? with
      | some c => [(vread (curWave s) c h.b.toNat, (vreg (curWave s) c h.b.toNat).tag),
          (BitVec.ofNat 32 (min (rowCounts h g s % 65536 + r) 65535 + 65536 * c), .untyped)]
      | none => [(0, .untyped), (0xFFFFFFFF, .untyped)]) ++
      [(BitVec.ofNat 32 (min (rowCounts h g s % 65536 + (rowKept h g s).length) 65535 +
        65536 * min (rowCounts h g s / 65536 + 1) 65535), .untyped)]
    preds := [(g.e.toNat, decide (RowFull h g s))], raised := 0 }

/-- The true counts are those of the row as a whole: each lane's own is no larger. -/
theorem tooMany_eq (off rows n : Nat) (hrows : rows < 65536) :
    (decide (0xFFFF < off + n) || decide (0xFFFF < rows + 1) || (List.range n).any fun r => decide (0xFFFF < off + r)) =
      decide (65535 < off + n ∨ rows = 65535) := by
  rw [Bool.eq_iff_iff]
  simp only [Bool.or_eq_true, List.any_eq_true, List.mem_range, decide_eq_true_eq]
  constructor
  · rintro ((h | h) | ⟨r, hr, h⟩) <;> omega
  · omega

/-- A list without repetition lists each entry at its own place. -/
theorem mapIdx_eq_map_idxOf {α : Type} (f : Nat → Nat → α) {l : List Nat} (h : l.Nodup) :
    l.mapIdx f = l.map fun a => f (l.idxOf a) a := by
  refine List.ext_getElem (by simp) fun k hk hk' => ?_
  rw [List.getElem_mapIdx, List.getElem_map, h.idxOf_getElem]

/-- The row form traps, or writes what its lanes compute. -/
theorem vcompactRow_eq (hi : Issuable (.vcompactRow h g) s) : exec (.vcompactRow h g) s = .next (
    let m := active (specOf (.vcompactRow h g)) s
    if m ≠ 0 ∧ RowFull h g s ∧ (curWave s).fmode.getLsbD 5 = true then
      raisePrecise (modWv s s.cur.wave fun u => { u with fmode := u.fmode ||| fCsat }) (trapOf (.vcompactRow h g) 4 8 m)
    else aluEff (.vcompactRow h g) (specOf (.vcompactRow h g))
      (lanesAlu (.vcompactRow h g) s (fun l => rowOut h g s ((lanesOf m).idxOf l))
        (if RowFull h g s ∧ m ≠ 0 then fCsat else 0)) m s) := by
  have hrows : (vread (wv s s.cur.wave) (firstLane (active (specOf (.vcompactRow h g)) s)) g.c.toNat).toNat / 65536 < 65536 := by
    have hword := (vread (wv s s.cur.wave) (firstLane (active (specOf (.vcompactRow h g)) s)) g.c.toNat).isLt
    omega
  change execVcompactRow h g s = _
  unfold execVcompactRow
  dsimp only
  rw [runOp_go hi]
  refine congrArg Host.Outcome.next ?_
  rw [tooMany_eq _ _ _ hrows, mapIdx_eq_map_idxOf _ (lanesOf_nodup _)]
  simp only [bit_eq_testBit, decide_eq_true_eq]
  rfl

variable {h g s}

theorem vcompactRow_traps (hi : Issuable (.vcompactRow h g) s) (hfull : RowFull h g s) (htrap : (curWave s).fmode.getLsbD 5 = true)
    (hm : active (specOf (.vcompactRow h g)) s ≠ 0) : exec (.vcompactRow h g) s = .next (raisePrecise
      (modWv s s.cur.wave fun u => { u with fmode := u.fmode ||| fCsat })
      (trapOf (.vcompactRow h g) 4 8 (active (specOf (.vcompactRow h g)) s))) := by
  rw [vcompactRow_eq h g s hi]
  exact congrArg _ (if_pos ⟨hm, hfull, htrap⟩)

theorem vcompactRow_completes (hi : Issuable (.vcompactRow h g) s)
    (hq : ¬ RowFull h g s ∨ (curWave s).fmode.getLsbD 5 = false) : exec (.vcompactRow h g) s = .next (issuedWith (.vcompactRow h g)
      { laneOutputs (.vcompactRow h g) s
          (fun l => rowOut h g s ((lanesOf (active (specOf (.vcompactRow h g)) s)).idxOf l)) with
        sticky := if RowFull h g s then fCsat else 0 } s) := by
  rw [vcompactRow_eq h g s hi]
  dsimp only
  have huntrapped : ¬ (active (specOf (.vcompactRow h g)) s ≠ 0 ∧ RowFull h g s ∧ (curWave s).fmode.getLsbD 5 = true) := by
    rintro ⟨-, hf, ht⟩
    exact hq.elim (absurd hf) fun hoff => Bool.false_ne_true (hoff.symm.trans ht)
  rw [if_neg huntrapped, aluEff_lanesAlu_completes (not_raisesEnabled_of_quiet fun _ => rfl),
    lanesRaise_eq_zero fun _ => rfl, word_or_zero]
  by_cases hm : active (specOf (.vcompactRow h g)) s = 0
  · rw [issuedWith_inactive hm, issuedWith_inactive hm]
  · simp only [ne_eq, hm, not_false_eq_true, and_true]

end Lanes

/-- Settles O22: the row form by whether a count is saturated. -/
theorem compactionCompletes : Obligations.CompactionCompletes := by
  unfold Obligations.CompactionCompletes
  intro h g s v
  refine ⟨fun hi => ?_, fun hi => ⟨fun hfull htrap hm => ?_, fun hq => ?_⟩, fun hi => ?_⟩
  · exact (vcompact_computes h g s).completes_outputs hi (not_raisesEnabled_of_quiet fun _ => rfl)
  · exact vcompactRow_traps hi hfull htrap hm
  · exact vcompactRow_completes hi hq
  · exact (vexpand_computes h g s).completes_outputs hi (not_raisesEnabled_of_quiet fun _ => rfl)

end Sys2Proof.Machine
end

section
/-! Integer arithmetic of elements, shifts and scaled sums (R248, R252, R257): what an operation on numbers makes of each element. -/

namespace Sys2Proof.Machine

/-! ### Packed elements (R248) -/

section Pack

variable {w n : Nat} {f : Nat → Nat}

theorem pack_succ (w n : Nat) (f : Nat → Nat) : pack w (n + 1) f = pack w n f + f n % 2 ^ w * 2 ^ (w * n) := by
  rw [pack, List.range_succ, List.foldl_append, List.foldl_cons, List.foldl_nil, Nat.shiftLeft_eq]
  rfl

theorem pack_lt (w n : Nat) (f : Nat → Nat) : pack w n f < 2 ^ (w * n) := by
  induction n with
  | zero => simp [pack]
  | succ n ih =>
    have hlt : f n % 2 ^ w < 2 ^ w := Nat.mod_lt _ (Nat.two_pow_pos w)
    calc pack w (n + 1) f = pack w n f + f n % 2 ^ w * 2 ^ (w * n) := pack_succ w n f
      _ < 2 ^ (w * n) + f n % 2 ^ w * 2 ^ (w * n) := Nat.add_lt_add_right ih _
      _ = (f n % 2 ^ w + 1) * 2 ^ (w * n) := by rw [Nat.add_mul, Nat.one_mul, Nat.add_comm]
      _ ≤ 2 ^ w * 2 ^ (w * n) := Nat.mul_le_mul_right _ hlt
      _ = 2 ^ (w * (n + 1)) := by rw [← Nat.pow_add, Nat.mul_succ, Nat.add_comm]

/-- Element `k` holds what was packed there. -/
theorem pack_element {k : Nat} (hk : k < n) : pack w n f / 2 ^ (w * k) % 2 ^ w = f k % 2 ^ w := by
  induction n with
  | zero => exact absurd hk (Nat.not_lt_zero k)
  | succ n ih =>
    rw [pack_succ]
    obtain rfl | hk := Nat.eq_or_lt_of_le (Nat.le_of_lt_succ hk)
    · rw [Nat.add_mul_div_right _ _ (Nat.two_pow_pos _), Nat.div_eq_of_lt (pack_lt ..), Nat.zero_add, Nat.mod_mod]
    · have hplaces : w * n = w * k + (w + w * (n - k - 1)) := by
        have hn : n = k + (1 + (n - k - 1)) := by omega
        calc w * n = w * (k + (1 + (n - k - 1))) := by rw [← hn]
          _ = w * k + (w + w * (n - k - 1)) := by rw [Nat.mul_add, Nat.mul_add, Nat.mul_one]
      have habove : f n % 2 ^ w * 2 ^ (w * n) = 2 ^ (w * k) * (2 ^ w * (f n % 2 ^ w * 2 ^ (w * (n - k - 1)))) := by
        rw [hplaces, Nat.pow_add, Nat.pow_add]
        ac_rfl
      rw [habove, Nat.add_mul_div_left _ _ (Nat.two_pow_pos _), Nat.add_mul_mod_self_left, ih hk]

end Pack

theorem wrap_cast (w : Nat) (x : Int) : (wrap w x : Int) = x % 2 ^ w := by
  have hpos : (0 : Int) < (2 ^ w : Nat) := Int.natCast_pos.2 (Nat.two_pow_pos w)
  rw [wrap, Int.toNat_of_nonneg (Int.emod_nonneg _ (Int.ne_of_gt hpos)), Nat.cast_pow, Nat.cast_ofNat]

theorem wrap_mod (w : Nat) (x : Int) : wrap w x % 2 ^ w = wrap w x := by
  rw [wrap_eq_toNat]
  exact Nat.mod_eq_of_lt (BitVec.isLt _)

theorem clamp_eq {lo hi : Int} (h : lo ≤ hi) (x : Int) : clamp lo hi x = max lo (min x hi) := by
  unfold clamp
  split <;> [skip; split] <;> omega

/-- R248: without SAT the result is wrapped, with it clamped to the unsigned or the signed range. -/
theorem narrow_cast (w : Nat) (uns sat : Bool) (x : Int) :
    (sat = false → (narrow w uns sat x : Int) = x % 2 ^ w) ∧
    (sat = true → uns = true → (narrow w uns sat x : Int) = max 0 (min x (2 ^ w - 1))) ∧
    (sat = true → uns = false → (narrow w uns sat x : Int) = max (-(2 ^ (w - 1))) (min x (2 ^ (w - 1) - 1)) % 2 ^ w) := by
  have hpos : (0 : Int) < 2 ^ w := by positivity
  have hhalf : (0 : Int) < 2 ^ (w - 1) := by positivity
  have hcast : ((2 ^ w - 1 : Nat) : Int) = 2 ^ w - 1 := by
    rw [Nat.cast_sub Nat.one_le_two_pow, Nat.cast_pow, Nat.cast_ofNat, Nat.cast_one]
  refine ⟨?_, ?_, ?_⟩
  · rintro rfl
    exact wrap_cast ..
  · rintro rfl rfl
    rw [narrow, wrap_cast, if_pos rfl, if_pos rfl, hcast, clamp_eq (by omega)]
    exact Int.emod_eq_of_lt (by omega) (by omega)
  · rintro rfl rfl
    rw [narrow, wrap_cast, if_pos rfl, if_neg Bool.false_ne_true, Nat.cast_pow, Nat.cast_ofNat, clamp_eq (by omega)]

/-- Settles O8: an element of the packed result is the narrowed result of the elements. -/
theorem elementsAreIndependent : Obligations.ElementsAreIndependent := by
  unfold Obligations.ElementsAreIndependent
  intro g f b c
  refine ⟨pack_lt .., fun k hk => ?_⟩
  intro w x r
  have hr : r = (narrow w (decide (16 ≤ gT g)) g.sat x : Int) := congrArg Nat.cast ((pack_element hk).trans (wrap_mod ..))
  obtain ⟨hwrap, huns, hsig⟩ := narrow_cast (elemW (gT g)) (decide (16 ≤ gT g)) g.sat x
  rw [hr]
  exact ⟨hwrap, fun hs ht => huns hs (decide_eq_true ht), fun hs ht => hsig hs (decide_eq_false (Nat.not_le.2 ht))⟩

/-! ### Shifts and the rotate (R252) -/

section Shifts

variable {w : Nat} {g : GExt} (hw : elemW (gT g) = w) (x : BitVec w) (c : Nat)
include hw

theorem shlOp_word : shlOp g x.toNat c = (x <<< (c % 256)).toNat := by
  rw [shlOp, hw, BitVec.toNat_shiftLeft]

theorem shrOp_word : shrOp g x.toNat c = (x >>> (c % 256)).toNat := by
  rw [shrOp, hw, BitVec.toNat_ushiftRight, Nat.mod_eq_of_lt x.isLt]

theorem sarOp_word : sarOp g x.toNat c = (x.sshiftRight (c % 256)).toNat := by
  rw [sarOp, hw, sext_eq_toInt, ← Int.shiftRight_eq_div_pow, ← BitVec.toInt_sshiftRight, wrap_eq_toNat, BitVec.ofInt_toInt]

theorem rotOp_word : rotOp g x.toNat c = (x.rotateLeft (c % 256 % w)).toNat := by
  rw [rotOp, hw, BitVec.toNat_rotateLeft, Nat.mod_mod, Nat.mod_eq_of_lt x.isLt, Nat.or_mod_two_pow,
    Nat.mod_eq_of_lt (a := x.toNat >>> _) (Nat.lt_of_le_of_lt (Nat.shiftRight_le ..) x.isLt)]

end Shifts

/-- Settles O9: each is the operation of words of the width that T names. -/
theorem shiftsAndRotate : Obligations.ShiftsAndRotate := by
  unfold Obligations.ShiftsAndRotate
  intro g b c _ n
  refine ⟨fun ht => ?_, fun ht => ?_⟩
  · have hw : elemW (gT g) = 32 := by rw [ht]; rfl
    exact ⟨shlOp_word hw _ c, shrOp_word hw _ c, sarOp_word hw _ c, rotOp_word hw _ c⟩
  · have hw : elemW (gT g) = 64 := by rw [ht]; rfl
    exact ⟨shlOp_word hw b c, shrOp_word hw b c, sarOp_word hw b c, rotOp_word hw b c⟩

/-! ### Scaled sums (R257) -/

/-- A 64-bit number as the words of a pair. -/
theorem natWords_two (r : BitVec 64) : natWords 2 r.toNat = [r.extractLsb' 0 32, r.extractLsb' 32 32] := by
  have hlow : BitVec.ofNat 32 r.toNat = r.extractLsb' 0 32 := by
    apply BitVec.eq_of_toNat_eq
    simp
  have hhigh : BitVec.ofNat 32 (r.toNat / 2 ^ 32) = r.extractLsb' 32 32 := by
    apply BitVec.eq_of_toNat_eq
    simp [Nat.shiftRight_eq_div_pow]
  rw [natWords, natWords, natWords, hlow, hhigh]

/-- A word above another. -/
theorem append_toNat {m n : Nat} (hi : BitVec m) (lo : BitVec n) : (hi ++ lo).toNat = lo.toNat + 2 ^ n * hi.toNat := by
  rw [BitVec.toNat_append, ← Nat.shiftLeft_add_eq_or_of_lt lo.isLt, Nat.shiftLeft_eq, Nat.mul_comm, Nat.add_comm]

theorem ofInt_mul_two_pow {w : Nat} (x : Int) (k : Nat) : BitVec.ofInt w (x * (2 ^ k : Nat)) = BitVec.ofInt w x <<< k := by
  have hpow : BitVec.ofNat w (2 ^ k) = BitVec.twoPow w k := BitVec.eq_of_toNat_eq (by rw [BitVec.toNat_ofNat, BitVec.toNat_twoPow])
  rw [BitVec.ofInt_mul, BitVec.ofInt_natCast, hpow, BitVec.shiftLeft_eq_mul_twoPow]

/-- R257: an index sign-extended or zero-extended to 64 bits. -/
def leaIndex (t : Nat) (c : Word) : BitVec 64 := if t.testBit 2 then c.signExtend 64 else c.setWidth 64

/-- R257: the sum of a pair and an index times a power of two. -/
theorem leaOp_words (t : Nat) (lo hi c : Word) :
    leaOp t (lo.toNat + 2 ^ 32 * hi.toNat) c.toNat = (hi ++ lo + leaIndex t c <<< (t % 4)).toNat := by
  have hindex : BitVec.ofInt 64 (if bit t 2 = true then sext 32 c.toNat else ((c.toNat % 2 ^ 32 : Nat) : Int)) = leaIndex t c := by
    rw [bit_eq_testBit, leaIndex, sext_eq_toInt, Nat.mod_eq_of_lt c.isLt]
    split
    · rfl
    · rw [BitVec.ofInt_natCast, BitVec.ofNat_toNat]
  rw [leaOp, wrap_eq_toNat, ← append_toNat, BitVec.ofInt_add, ofInt_mul_two_pow, hindex, BitVec.ofInt_natCast, BitVec.ofNat_toNat,
    BitVec.setWidth_eq]

end Sys2Proof.Machine
end

section
/-! The integer instructions of the lanes, and the moves, selects, literals and indices of both sets (R248 to R258, R309, R311): what each
writes. -/

namespace Sys2Proof.Machine

/-! ### The lane integer table -/

/-- Each entry's meaning is the operation on its sources' values that the table gives. -/
theorem laneTable_exec (h : Head) (g : GExt) (s : State) : ∀ p ∈ laneTable, exec (p.1 h g) s = laneAlu (p.1 h g)
    (fun _ _ xs => wordsOut (plain (p.2.1 g) (p.2.2 g fun k => xs.getD k 0))) s := by
  simp only [laneTable, List.forall_mem_cons, List.not_mem_nil, false_imp_iff, implies_true, and_true]
  exact ⟨rfl, rfl, rfl, rfl, rfl, rfl, rfl, rfl, rfl, rfl, rfl, rfl, rfl, rfl, rfl, rfl, rfl, rfl, rfl, rfl, rfl, rfl, rfl, rfl, rfl, rfl⟩

/-- Settles O7: the lanes of each entry write words and nothing else. -/
theorem laneIntegerCompletes : Obligations.LaneIntegerCompletes := by
  unfold Obligations.LaneIntegerCompletes
  intro p hp h g s hi
  rw [laneTable_exec h g s p hp, laneAlu_words hi (fun _ _ _ => rfl) fun _ _ _ => rfl]
  rfl

/-! ### `vlea` (R257) -/

section Vlea

variable (h : Head) (g : GExt) (s : State)

/-- R221, R231: the pairs of a well-formed `vlea` are even. -/
theorem vlea_even (hw : WellFormed (.vlea h g) = true) : h.a.toNat % 2 = 0 ∧ h.b.toNat % 2 = 0 := by
  have hops : opsOk (specLaneG (.vlea h g)) = true := by
    have hok : okLaneG (.vlea h g) = true := hw
    simp only [okLaneG, gOk, Bool.and_eq_true] at hok
    exact hok.2
  have hruns : (srcOk (lsrc .b h.b.toNat 2 2 g.tb .any) = true ∧ srcOk (lsrc .c g.c.toNat 1 1 g.tc .any) = true) ∧
      dstOk (ldst h.a.toNat 2 2) = true := by
    simpa [opsOk, specLaneG] using hops
  obtain ⟨⟨hb, -⟩, ha⟩ := hruns
  exact ⟨of_decide_eq_true (Bool.and_eq_true_iff.1 ha).2, of_decide_eq_true hb⟩

theorem vlea_writes (hi : Issuable (.vlea h g) s) :
    exec (.vlea h g) s = .next (issuedWith (.vlea h g) (laneResult (.vlea h g) s fun l =>
      let r := vread (curWave s) l (h.b.toNat + 1) ++ vread (curWave s) l h.b.toNat +
        leaIndex (gT g) (vread (curWave s) l g.c.toNat) <<< (gT g % 4)
      [(r.extractLsb' 0 32, .untyped), (r.extractLsb' 32 32, .untyped)]) s) := by
  refine LanesCompute.writes (lanesCompute_of_laneAlu (rfl : _ = execVlea h g s) fun l _ => ?_) hi
  have hsrcs : (specOf (.vlea h g)).srcs.map (srcVal (curWave s) l) =
      [(vread (curWave s) l h.b.toNat).toNat + 2 ^ 32 * (vread (curWave s) l (h.b.toNat + 1)).toNat,
        (vread (curWave s) l g.c.toNat).toNat] :=
    congrArg₂ (fun b c => [b, c]) (srcVal_pair ..) (srcVal_word ..)
  rw [hsrcs]
  simp only [List.getD_cons_zero, List.getD_cons_succ, leaOp_words, outRun, natWords_two]
  rfl

end Vlea

/-- Settles O10: the opcode stands in the head, the pairs are aligned runs, and the sum is that of 64-bit words. -/
theorem leaAddsScaledIndex : Obligations.LeaAddsScaledIndex := by
  unfold Obligations.LeaAddsScaledIndex
  intro h g s
  refine ⟨?_, vlea_even h g, fun hi => ?_⟩
  · exact congrArg some (opcode_headWord ..)
  · exact vlea_writes h g s hi

/-! ### Moves, selects, literals and indices (R251, R258, R309, R311) -/

section Moves

variable (h : Head) (g : GExt) (e : IExt) (x : BitVec 32) (s : State)

/-- The registers of a run with their tags. -/
def runOf (v : Wave) (l r n : Nat) : List (Word × Tag) := (List.range n).map fun k => (vread v l (r + k), (vreg v l (r + k)).tag)

theorem vmov_computes : LanesCompute (.vmov h g) s (fun l => wordsOut (runOf (curWave s) l h.b.toNat (wide (gT g)))) 0
    (exec (.vmov h g) s) :=
  lanesCompute_of_laneAlu (rfl : _ = execVmov h g s) fun _ _ => rfl

theorem vmovShort_computes : LanesCompute (.vmovShort h) s (fun l => wordsOut (runOf (curWave s) l h.b.toNat 1)) 0
    (exec (.vmovShort h) s) :=
  lanesCompute_of_laneAlu (rfl : _ = execVmovShort h s) fun _ _ => rfl

theorem vsel_computes : LanesCompute (.vsel h g) s (fun l => wordsOut
    (if pred (curWave s) l g.e.toNat then runOf (curWave s) l h.b.toNat (wide (gT g)) else runOf (curWave s) l g.c.toNat (wide (gT g))))
    0 (exec (.vsel h g) s) := by
  refine lanesCompute_of_laneAlu (rfl : _ = execVsel h g s) fun l _ => ?_
  cases pred (curWave s) l g.e.toNat <;> rfl

theorem vidx_computes : LanesCompute (.vidx h e) s
    (fun l => wordsOut (plain 1 (indexVal (gp s (curWave s).group) (curWave s) l e.sub.toNat))) 0 (exec (.vidx h e) s) :=
  lanesCompute_of_laneAlu (rfl : _ = execVidx h e s) fun _ _ => rfl

/-- R307: a uniform instruction names one number for the PC group. -/
theorem uniAlu_writes {i : Instr} {f : Wave → List Nat → Nat} {n : Nat} (hexec : exec i s = uniAlu i f s) (hi : Issuable i s)
    (hn : f (curWave s) ((specOf i).srcs.map (srcVal (curWave s) 0)) = n) :
    exec i s = .next (issuedWith i (uniResult i s n) s) := by
  rw [hexec, uniAlu_result hi, hn]

end Moves

/-- Settles O12: the lanes copy or name words, and a uniform instruction names its number. -/
theorem movesSelectsAndLiterals : Obligations.MovesSelectsAndLiterals := by
  unfold Obligations.MovesSelectsAndLiterals
  intro h g e x s v copy
  refine ⟨fun hi => ?_, fun hi => ?_, fun hi => ?_, fun hi => ?_, fun hi => ?_, fun hi => ?_, fun hi => ?_, fun hi => ?_⟩
  · exact (vmov_computes h g s).writes hi
  · exact (vmovShort_computes h s).writes hi
  · exact (vsel_computes h g s).writes hi
  · exact uniAlu_writes s (rfl : _ = execSmovShort h s) hi (srcVal_uniWord _ 0 ..)
  · exact uniAlu_writes s (rfl : _ = execSsel h g s) hi rfl
  · exact uniAlu_writes s (rfl : _ = execSmovi h x s) hi rfl
  · exact (vidx_computes h e s).writes hi
  · exact uniAlu_writes s (rfl : _ = execSidx h e s) hi rfl

/-! ### Lane immediates (R251) -/

section Immediates

variable (h : Head) (e : IExt) (s : State)

/-- R251: the word of an immediate, by the form that SUB names. -/
def immWord (e : IExt) : Word := if e.sub = 0 then e.imm.signExtend 32 else if e.sub = 1 then e.imm.setWidth 32 else e.imm ++ 0#16

/-- A half-word above another. -/
theorem ofNat_halves (hi : BitVec 16) (n : Nat) : BitVec.ofNat 32 (hi.toNat * 65536 + n % 65536) = hi ++ BitVec.ofNat 16 n := by
  refine BitVec.eq_of_toNat_eq ?_
  rw [append_toNat, BitVec.toNat_ofNat, BitVec.toNat_ofNat]
  have hhi := hi.isLt
  omega

/-- An immediate's number as a signed word. -/
theorem ofNat_wrap_sext (imm : BitVec 16) : BitVec.ofNat 32 (wrap 32 (sext 16 imm.toNat)) = imm.signExtend 32 := by
  rw [sext_eq_toInt, wrap_eq_toNat, BitVec.ofNat_toNat, BitVec.setWidth_eq]
  rfl

theorem vmovi_computes : LanesCompute (.vmovi h e) s (fun _ => wordsOut [(immWord e, .untyped)]) 0 (exec (.vmovi h e) s) := by
  refine lanesCompute_of_laneAlu (rfl : _ = execVmovi h e s) fun _ _ => ?_
  refine congrArg (fun w => wordsOut [(w, .untyped)]) ?_
  by_cases h0 : e.sub = 0
  · rw [immWord, if_pos h0, h0]
    exact ofNat_wrap_sext e.imm
  · by_cases h1 : e.sub = 1
    · rw [immWord, if_neg h0, if_pos h1, h1]
      exact BitVec.ofNat_toNat ..
    · obtain ⟨n, hn⟩ : ∃ n, e.sub.toNat = n + 2 := by
        have hne0 : e.sub.toNat ≠ 0 := fun hz => h0 (BitVec.eq_of_toNat_eq hz)
        have hne1 : e.sub.toNat ≠ 1 := fun hz => h1 (BitVec.eq_of_toNat_eq hz)
        exact ⟨e.sub.toNat - 2, by omega⟩
      rw [immWord, if_neg h0, if_neg h1, hn]
      simpa using ofNat_halves e.imm 0

theorem vmovh_computes : LanesCompute (.vmovh h e) s
    (fun l => wordsOut [(e.imm ++ BitVec.ofNat 16 (source (.vmovh h e) s l 0), .untyped)]) 0 (exec (.vmovh h e) s) := by
  refine lanesCompute_of_laneAlu (rfl : _ = execVmovh h e s) fun l _ => ?_
  exact congrArg (fun w => wordsOut [(w, .untyped)]) (ofNat_halves ..)

theorem vaddi_computes : LanesCompute (.vaddi h e) s (fun l => wordsOut
    [(if e.sub.getLsbD 0 then
        BitVec.ofInt 32 (max (-(2 ^ 31)) (min ((vread (curWave s) l h.b.toNat).toInt + (e.imm.signExtend 32).toInt) (2 ^ 31 - 1)))
      else vread (curWave s) l h.b.toNat + e.imm.signExtend 32, .untyped)]) 0 (exec (.vaddi h e) s) := by
  refine lanesCompute_of_laneAlu (rfl : _ = execVaddi h e s) fun l _ => ?_
  refine congrArg (fun w => wordsOut [(w, .untyped)]) ?_
  have hsrc : ((specOf (.vaddi h e)).srcs.map (srcVal (curWave s) l)).getD 0 0 = (vread (curWave s) l h.b.toNat).toNat := srcVal_word ..
  have himm : (e.imm.signExtend 32).toInt = e.imm.toInt := BitVec.toInt_signExtend_of_le (by decide)
  rw [hsrc, sext_eq_toInt, sext_eq_toInt, himm, narrow, wrap_eq_toNat, BitVec.ofNat_toNat, BitVec.setWidth_eq]
  cases e.sub.getLsbD 0 with
  | true => exact congrArg _ (clamp_eq (by decide) _)
  | false => exact (BitVec.ofInt_add ..).trans (congrArg₂ _ BitVec.ofInt_toInt rfl)

end Immediates

/-- Settles O13: each lane writes the word that its immediate makes. -/
theorem laneImmediates : Obligations.LaneImmediates := by
  unfold Obligations.LaneImmediates
  intro h e s v
  refine ⟨fun hi => ?_, fun hi => ?_, fun hi => ?_⟩
  · exact (vmovi_computes h e s).writes hi
  · exact (vmovh_computes h e s).writes hi
  · exact (vaddi_computes h e s).writes hi

end Sys2Proof.Machine
end

section
/-! Comparisons, truth tables and moves of predicates (R255, R256, R310): which predicates they decide. -/

namespace Sys2Proof.Machine

/-! ### Predicates that an instruction decides -/

section Decides

variable {i : Instr} {s : State} {k : Nat}

theorem laneAlu_decides {f : Wave → Nat → List Nat → LaneOut} {b : Wave → Nat → List Nat → Bool} {r : Nat → Bool}
    (hexec : exec i s = laneAlu i f s) (hi : Issuable i s) (hf : ∀ v l xs, f v l xs = outPred k (b v l xs))
    (hr : ∀ l, b (curWave s) l ((specOf i).srcs.map (srcVal (curWave s) l)) = r l) :
    exec i s = .next (issuedWith i (laneDecides i s k r) s) := by
  rw [hexec, laneAlu_pred hi k b hf, funext hr]

theorem uniPred_decides {f : Wave → List Nat → Bool} {r : Bool} (hexec : exec i s = uniPred i k f s) (hi : Issuable i s)
    (hr : f (curWave s) ((specOf i).srcs.map (srcVal (curWave s) 0)) = r) :
    exec i s = .next (issuedWith i { noWrites with qs := [(k, r)] } s) := by
  rw [hexec, uniPred, alu_quiet hi (by simp), hr]
  by_cases hm : active (specOf i) s = 0
  · rw [issuedWith_inactive hm, issuedWith_inactive hm]
  · rw [if_neg hm]

end Decides

theorem tableOp_eq_testBit (t : Nat) (b c : Bool) : tableOp t b c = t.testBit (2 * b.toNat + c.toNat) := by
  rw [tableOp, bit_eq_testBit, b2n_eq_toNat, b2n_eq_toNat]

/-- R255: the relation of a word to an immediate, both unsigned or both signed. -/
theorem relOf_immediate (rel : Nat) (u : Bool) (b : Word) (imm : BitVec 16) :
    relOf rel (if u then ((b.toNat % 2 ^ 32 : Nat) : Int) else sext 32 b.toNat) (if u then (imm.toNat : Int) else sext 16 imm.toNat) =
      if u then relOf rel b.toNat imm.toNat else relOf rel b.toInt imm.toInt := by
  rw [Nat.mod_eq_of_lt b.isLt, sext_eq_toInt, sext_eq_toInt]
  cases u <;> rfl

/-- Settles O14: each decides one predicate, a lane's or the PC group's. -/
theorem predicatesDecided : Obligations.PredicatesDecided := by
  unfold Obligations.PredicatesDecided
  intro h g e s v
  refine ⟨fun hi => ?_, fun hi => ?_, fun hi => ?_, fun hi => ?_, fun hi => ?_⟩
  · exact laneAlu_decides (rfl : _ = execVcmp h g s) hi (fun _ _ _ => rfl) fun _ => rfl
  · refine laneAlu_decides (rfl : _ = execVcmpi h e s) hi (fun _ _ _ => rfl) fun l => ?_
    have hsrc : ((specOf (.vcmpi h e)).srcs.map (srcVal (curWave s) l)).getD 0 0 = (vread (curWave s) l h.b.toNat).toNat := srcVal_word ..
    rw [hsrc, relOf_immediate]
  · exact laneAlu_decides (rfl : _ = execVplog h g s) hi (fun _ _ _ => rfl) fun _ => tableOp_eq_testBit ..
  · exact uniPred_decides (rfl : _ = execScmp h g s) hi rfl
  · exact uniPred_decides (rfl : _ = execSqlog h g s) hi (tableOp_eq_testBit ..)

/-! ### `vpmov` (R256) -/

section Vpmov

variable {h : Head} {g : GExt} {s : State}

theorem vpmov_packs (ht : gT g = 0) : LanesCompute (.vpmov h g) s (fun l => wordsOut
    [(BitVec.ofNat 32 ((List.range 8).foldl (fun x k => x + (pred (curWave s) l k).toNat * 2 ^ k) 0), .untyped)]) 0
    (exec (.vpmov h g) s) := by
  refine lanesCompute_of_laneAlu (rfl : _ = execVpmov h g s) fun l _ => ?_
  simp only [ht, b2n_eq_toNat]
  rfl

/-- The register that a form reads its predicates from. -/
theorem vpmov_source (ht : gT g = 1 ∨ 3 ≤ gT g) (l : Nat) :
    ((specOf (.vpmov h g)).srcs.map (srcVal (curWave s) l)).getD 0 0 = (vread (curWave s) l h.b.toNat).toNat := by
  have hsrcs : (specOf (.vpmov h g)).srcs = [lsrc .b h.b.toNat 1 1 g.tb .any] := by
    change (specLaneG (.vpmov h g)).srcs = _
    unfold specLaneG
    obtain ht | ht := ht
    · simp only [ht]
    · obtain ⟨n, hn⟩ : ∃ n, gT g = n + 3 := ⟨gT g - 3, by omega⟩
      simp only [hn]
  rw [hsrcs]
  exact srcVal_word ..

theorem vpmov_unpacks (ht : gT g = 1) : LanesCompute (.vpmov h g) s
    (fun l => { regs := [], preds := [1, 2, 3, 4, 5, 6, 7].map fun k => (k, (vread (curWave s) l h.b.toNat).getLsbD k), raised := 0 }) 0
    (exec (.vpmov h g) s) := by
  refine lanesCompute_of_laneAlu (rfl : _ = execVpmov h g s) fun l _ => ?_
  simp only [ht, vpmov_source (.inl ht), bit_eq_getLsbD]

theorem vpmov_reads (ht : gT g = 2) : LanesCompute (.vpmov h g) s
    (fun l => wordsOut [(if pred (curWave s) l h.b.toNat then 1 else 0, .untyped)]) 0 (exec (.vpmov h g) s) := by
  refine lanesCompute_of_laneAlu (rfl : _ = execVpmov h g s) fun l _ => ?_
  simp only [ht]
  cases pred (curWave s) l h.b.toNat <;> rfl

theorem vpmov_decides (hi : Issuable (.vpmov h g) s) (ht : 3 ≤ gT g) : exec (.vpmov h g) s = .next (issuedWith (.vpmov h g)
    (laneDecides (.vpmov h g) s h.a.toNat fun l => decide (vread (curWave s) l h.b.toNat ≠ 0)) s) := by
  refine laneAlu_decides (b := fun _ _ xs => decide (xs.getD 0 0 ≠ 0)) (rfl : _ = execVpmov h g s) hi (fun v l xs => ?_) fun l => ?_
  · obtain ⟨n, hn⟩ : ∃ n, gT g = n + 3 := ⟨gT g - 3, by omega⟩
    simp only [hn]
  · rw [vpmov_source (.inr ht), decide_eq_decide]
    exact not_congr (BitVec.toNat_inj (y := 0))

end Vpmov

/-- Settles O15: by the form that T names. -/
theorem predicateMoves : Obligations.PredicateMoves := by
  unfold Obligations.PredicateMoves
  intro h g s hi i v
  refine ⟨fun ht => ?_, fun ht => ?_, fun ht => ?_, fun ht => ?_⟩
  · exact (vpmov_packs ht).writes hi
  · exact (vpmov_unpacks ht).completes_outputs hi (not_raisesEnabled_of_quiet fun _ => rfl)
  · exact (vpmov_reads ht).writes hi
  · exact vpmov_decides hi ht

end Sys2Proof.Machine
end
section
/-! What any step leaves behind (logs 1, 4, 127): the memory it starts from, and that nothing is left waiting. -/

namespace Sys2Proof.Machine

/-- Settles O35: a memory that lists nothing has no entry out of order. -/
theorem resetMemoryCanonical : Obligations.ResetMemoryCanonical := by
  unfold Obligations.ResetMemoryCanonical
  show twf 0 ([] : Tab Byte) = true
  rfl

/-! ### Waits (log 127) -/

theorem orStall_of_wait {s t : State} (h : t.blocked = some 0) : orStall s t = stall s 7 := by
  simp [orStall, h, orWait_of_wait]

theorem orWait_of_recall {s t : State} {f : Nat} (h : t.blocked = some (f + 1)) : orWait s t = startRecall s f [] := by
  simp only [orWait, h]

theorem orStall_of_recall {s t : State} {f : Nat} (h : t.blocked = some (f + 1)) : orStall s t = stall (startRecall s f []) 7 := by
  simp [orStall, h, orWait_of_recall]

/-! ### The schedule (log 4) -/

/-- Choosing what comes next waits for nothing. -/
theorem openMove_blocked (run : Instr → State → Host.Outcome State Fault Refusal) (s : State) :
    (openMove run s).blocked = s.blocked := by
  unfold openMove openTurn
  split
  · rfl
  · split
    · rfl
    · split
      · rfl
      · dsimp only
        split <;> rfl

theorem doMove_event {i : Instr} (hi : isEvent i = true) (a : List Nat) (s : State) :
    doMove (.perform i a) s = mapNext settled (exec i { s with args := a }) := by
  rw [doMove, if_pos hi]

/-- After every move of the schedule nothing is left waiting. -/
theorem doMove_blocked {m : Move} {s t : State} (hs : s.blocked = none) (h : doMove m s = .next t) : t.blocked = none := by
  cases m with
  | perform i a =>
    rw [doMove] at h
    split at h
    · obtain ⟨u, -, rfl⟩ := mapNext_eq_next h
      rfl
    · cases h
      exact hs
  | issue q cands lanes unis chosen =>
    rw [doMove] at h
    split at h
    · cases h
      rfl
    · obtain ⟨u, -, rfl⟩ := mapNext_eq_next h
      rfl
  | tick k =>
    cases h
    rfl

theorem step_blocked {s t : State} (hs : s.blocked = none) (h : step s = .next t) : t.blocked = none := by
  have ho : (openMove exec s).blocked = none := (openMove_blocked exec s).trans hs
  rw [step] at h
  split at h
  · next m r _ => exact doMove_blocked (s := { openMove exec s with moves := r }) ho h
  · cases h
    exact ho

/-- Settles O32: the move is performed, a wait gives back the state before it, and each kind of move ends with nothing waiting. -/
theorem stepRunsEvent : Obligations.StepRunsEvent := by
  unfold Obligations.StepRunsEvent
  exact ⟨fun s i a r hm hi => (step_of_moves hm).trans (doMove_event hi a _),
    fun s t => ⟨fun h => ⟨orWait_of_free h, orStall_go h⟩, fun h => ⟨orWait_of_wait h, orStall_of_wait h⟩,
      fun f h => ⟨orWait_of_recall h, orStall_of_recall h⟩⟩,
    fun s t => step_blocked⟩

end Sys2Proof.Machine
end

section
/-! The extended uniform instructions (R308, R309): the number that each makes of its sources. -/

namespace Sys2Proof.Machine

/-- Each entry's meaning is the operation on its sources' values that the table gives. -/
theorem uniTable_exec (h : Head) (g : GExt) (s : State) : ∀ p ∈ uniTable, exec (p.1 h g) s = uniAlu (p.1 h g)
    (fun _ xs => p.2 g fun k => xs.getD k 0) s := by
  simp only [uniTable, List.forall_mem_cons, List.not_mem_nil, false_imp_iff, implies_true, and_true]
  exact ⟨rfl, rfl, rfl, rfl, rfl, rfl, rfl, rfl, rfl, rfl, rfl, rfl, rfl, rfl, rfl, rfl, rfl⟩

/-- Settles O11: each entry names the number of its operation once for the PC group. -/
theorem uniformIntegerCompletes : Obligations.UniformIntegerCompletes := by
  unfold Obligations.UniformIntegerCompletes
  intro p hp h g s hi
  exact uniAlu_writes s (uniTable_exec h g s p hp) hi rfl

end Sys2Proof.Machine
end

section
/-! Memory, FIFO, tile and barrier instructions (R285 to R302) under the conditions of issue: what opens their operation. -/

namespace Sys2Proof.Machine

/-- Settles O38: each of them is a memory instruction with no condition of its own. -/
theorem memoryInstructionsIssue : Obligations.MemoryInstructionsIssue := by
  unfold Obligations.MemoryInstructionsIssue
  intro i s hp hi hw
  unfold isPlainMemory at hp
  split at hp
  case h_15 => cases hp
  all_goals exact memOp_go hi hw rfl

/-! ### FIFOs and accumulator tiles (R292, R293) -/

/-- R293: an instruction that finds its tile EMPTY traps once nothing waits. -/
theorem memOp_late {i : Instr} {s : State} {full : Bool} {c k : Nat} (h : Issuable i s) (hw : memWaits i s = false) (hf : full = false)
    (hm : active (specOf i) s ≠ 0) :
    memOp i false false full (some (c, k)) s = .next (raisePrecise s (trapOf i c k s.cur.lanes)) := by
  unfold memOp
  dsimp only
  rw [hw, hf, Bool.or_false, inSlotOrder_go h, runOp_go h, decide_eq_false hm]

/-- R293: `lda` of a tile that the group has. -/
theorem exec_lda {h : Head} {m : MExt} {s : State} (ht : m.c.toNat < (groupOf s s.cur.wave).kernel.accum) : exec (.lda h m) s =
    memOp (.lda h m) false false (tileBusy s m.c.toNat)
      (if (accTile s (curWave s).core (tileIdx (groupOf s s.cur.wave) m.c.toNat)).empty then some (3, 0) else none) s :=
  congrArg (fun b => memOp (.lda h m) b false (tileBusy s m.c.toNat) _ s) (decide_eq_false (Nat.not_le.2 ht))

theorem exec_sta {h : Head} {m : MExt} {s : State} (ht : m.c.toNat < (groupOf s s.cur.wave).kernel.accum) : exec (.sta h m) s =
    memOp (.sta h m) false false (tileBusy s m.c.toNat) none s :=
  congrArg (fun b => memOp (.sta h m) b false (tileBusy s m.c.toNat) none s) (decide_eq_false (Nat.not_le.2 ht))

/-- Settles O39: each by its own conditions, an EMPTY tile by the trap that follows them. -/
theorem fifoAndTileAccessesIssue : Obligations.FifoAndTileAccessesIssue := by
  unfold Obligations.FifoAndTileAccessesIssue
  intro h m s g full
  refine ⟨fun hi hw hf => memOp_go hi hw hf, fun hi hw hf => memOp_go hi hw hf, fun hi hw ht hb => ?_, fun hi hw ht hb hfull => ?_,
    fun hi hw ht hb hempty hm => ?_⟩
  · rw [exec_sta ht]
    exact memOp_go hi hw hb
  · have hempty : (accTile s (curWave s).core (tileIdx g m.c.toNat)).empty = false := by simpa [full] using hfull
    rw [exec_lda ht, hempty]
    exact memOp_go hi hw hb
  · have hempty : (accTile s (curWave s).core (tileIdx g m.c.toNat)).empty = true := by simpa [full] using hempty
    rw [exec_lda ht, hempty]
    exact memOp_late hi hw hb hm

/-- Settles O45: all five are the one operation on a barrier's object. -/
theorem barrierInstructionsIssue : Obligations.BarrierInstructionsIssue := by
  unfold Obligations.BarrierInstructionsIssue
  intro h m s i hmem hi hw
  have hexec : exec i s = barOp i s := by
    simp only [List.mem_cons, List.not_mem_nil, or_false] at hmem
    obtain rfl | rfl | rfl | rfl | rfl := hmem <;> rfl
  rw [hexec, barOp_go hi hw]

end Sys2Proof.Machine
end

section
/-! Scratch accesses at the bank (R63, R64, R108, R226, R291): the bytes that a store of several lanes leaves, what an operation's
bookkeeping leaves alone, and `ldl` and `stl` under the conditions of issue. -/

namespace Sys2Proof.Machine
open Sys2Proof.Machine.State

/-! ### What an operation's bookkeeping leaves alone -/

/-- Nothing has changed but waves' registers, operations and results, names and the cores' counts: the SRAM of every pair, the groups,
memory, the accesses, the FIFOs, what
issues, and where each wave stands. -/
structure KeepsBanks (s t : State) : Prop where
  pairs : t.pairs = s.pairs
  groups : t.groups = s.groups
  mem : t.mem = s.mem
  accs : t.accs = s.accs
  group : ∀ w, (wv t w).group = (wv s w).group
  core : ∀ w, (wv t w).core = (wv s w).core
  daf : ∀ c, (cr t c).daf = (cr s c).daf
  cur : t.cur = s.cur

namespace KeepsBanks

variable {s t u : State}

theorem refl (s : State) : KeepsBanks s s := ⟨rfl, rfl, rfl, rfl, fun _ => rfl, fun _ => rfl, fun _ => rfl, rfl⟩

theorem trans (h : KeepsBanks s t) (h' : KeepsBanks t u) : KeepsBanks s u :=
  ⟨h'.pairs.trans h.pairs, h'.groups.trans h.groups, h'.mem.trans h.mem, h'.accs.trans h.accs,
    fun w => (h'.group w).trans (h.group w), fun w => (h'.core w).trans (h.core w), fun c => (h'.daf c).trans (h.daf c),
    h'.cur.trans h.cur⟩

theorem pr_eq (h : KeepsBanks s t) (p : Nat) : pr t p = pr s p := by rw [pr, pr, h.pairs]

theorem bank_eq (h : KeepsBanks s t) (p k : Nat) : bank t p k = bank s p k := by rw [bank, bank, h.pr_eq]

theorem groupOf_eq (h : KeepsBanks s t) (w : Nat) : groupOf t w = groupOf s w := by rw [groupOf, groupOf, gp, gp, h.groups, h.group]

theorem scrFault_eq (h : KeepsBanks s t) (g : Group) (a : Int) (n : Nat) : scrFault t g a n = scrFault s g a n := by
  unfold scrFault scrMode
  rw [h.bank_eq, h.bank_eq]

theorem scrRead_eq (h : KeepsBanks s t) (g : Group) (o n : Nat) : scrRead t g o n = scrRead s g o n := by rw [scrRead, scrRead, h.pr_eq]

/-- A change of one wave that leaves it on its core and in its group. -/
theorem modWv {s : State} {w : Nat} {f : Wave → Wave} (hg : (f (wv s w)).group = (wv s w).group)
    (hc : (f (wv s w)).core = (wv s w).core) : KeepsBanks s (modWv s w f) := by
  refine ⟨rfl, rfl, rfl, rfl, fun u => ?_, fun u => ?_, fun _ => rfl, rfl⟩
  all_goals
    by_cases hu : u = w
    · subst hu
      rw [wv_modWv_same]
      assumption
    · rw [wv_modWv_other s hu]

end KeepsBanks

theorem fresh_keepsBanks (s : State) : KeepsBanks s (fresh s).2 := ⟨rfl, rfl, rfl, rfl, fun _ => rfl, fun _ => rfl, fun _ => rfl, rfl⟩

/-- What completing an operation leaves of its wave. -/
theorem completeOp_keepsBanks (s : State) (w id : Nat) (m : Lanes) (k : Nat) : KeepsBanks s (completeOp s w id m k) :=
  .modWv (congrArg Wave.group (complete_frame (wv s w) id m k) :) (congrArg Wave.core (complete_frame (wv s w) id m k) :)

theorem failLanes_keepsBanks (s : State) (w id cls : Nat) (fs : List (Nat × Nat × Nat)) : KeepsBanks s (failLanes s w id cls fs) := by
  cases fs with
  | nil => exact .refl s
  | cons x r =>
    obtain ⟨l, code, addr⟩ := x
    exact .modWv (f := fun v => modOp v id _) rfl rfl

theorem addResultIn_keepsBanks (n : Nat) (s : State) (w id : Nat) (m : Lanes) (ws : Writes) : KeepsBanks s (addResultIn n s w id m ws) := by
  unfold addResultIn
  split
  · exact .refl s
  · exact (fresh_keepsBanks s).trans (.modWv rfl rfl)

theorem refreshWindow_keepsBanks (s : State) (w op : Nat) : KeepsBanks s (refreshWindow s w op) := by
  unfold refreshWindow
  split
  · exact .refl s
  · exact .modWv rfl rfl

/-- But for the list of accesses. -/
theorem putAcc_keepsBanks (s : State) (a : Acc) :
    KeepsBanks { s with accs := s.accs.map fun b => if b.id = a.id then a else b } (putAcc s a) := refreshWindow_keepsBanks ..

theorem dropAcc_keepsBanks (s : State) (a : Acc) :
    KeepsBanks { s with accs := s.accs.filter fun b => b.id ≠ a.id } (dropAcc s a) := refreshWindow_keepsBanks ..

theorem skipHelpers_keepsBanks (s : State) (w id : Nat) (m : Lanes) : KeepsBanks s (skipHelpers s w id m) := by
  unfold skipHelpers
  split
  · exact .refl s
  · split
    · exact .refl s
    · split
      · exact completeOp_keepsBanks ..
      · exact addResultIn_keepsBanks ..

theorem modCr_daf (s : State) (k : Nat) {f : Core → Core} (hf : (f (cr s k)).daf = (cr s k).daf) (c : Nat) :
    (cr (modCr s k f) c).daf = (cr s c).daf := by
  by_cases hc : c = k
  · subst hc
    rw [cr_modCr_same, hf]
  · rw [cr_modCr_other s hc]

theorem countIssue_daf (s : State) (k g w c : Nat) : (cr (countIssue s k g w) c).daf = (cr s c).daf := by
  unfold countIssue
  dsimp only
  split
  · unfold leavePrefetch fillPrefetch
    dsimp only
    rw [modCr_daf _ k (by rfl), modCr_daf _ k (by rfl), modCr_daf _ k (by rfl)]
  · exact modCr_daf s k rfl c

theorem debit_daf (s : State) (k x : Nat) (sp : Spec) (c : Nat) : (cr (debit s k x sp) c).daf = (cr s c).daf := by
  unfold debit
  split
  · rfl
  · split
    · rfl
    · exact modCr_daf s k rfl c

theorem advance_keepsBanks (sp : Spec) (s : State) : KeepsBanks s (advance sp s) where
  pairs := advance_pairs sp s
  groups := advance_groups sp s
  mem := by rw [advance_frame]; rfl
  accs := advance_accs sp s
  group w := by
    by_cases hw : w = s.cur.wave
    · subst hw
      rw [wv_advance]
      rfl
    · rw [wv_advance_other sp s hw]
  core w := by
    by_cases hw : w = s.cur.wave
    · subst hw
      rw [wv_advance]
      rfl
    · rw [wv_advance_other sp s hw]
  daf c := by
    unfold advance
    dsimp only
    rw [debit_daf, countIssue_daf]
    rfl
  cur := advance_cur sp s

theorem openOp_keepsBanks (i : Instr) (sp : Spec) (m : Lanes) (n : Nat) (ws : List (List Word)) (s : State) :
    KeepsBanks s (openOp i sp m n ws s).2 := by
  refine (fresh_keepsBanks s).trans (.modWv (f := fun v => flagUp { emptyDsts v sp m with ops := _ } sp.flag) ?_ ?_)
  · exact (congrArg Wave.group (emptyDsts_rest _ sp m) :)
  · exact (congrArg Wave.core (emptyDsts_rest _ sp m) :)

theorem opened_keepsBanks (i : Instr) (n : Nat) (s : State) : KeepsBanks s (opened i n s) :=
  (advance_keepsBanks _ s).trans (openOp_keepsBanks ..)

/-! ### The operation that has been opened -/

/-- R170: the operation that an instruction opens for its active lanes, with `n` further parts. -/
def openedOp (i : Instr) (n : Nat) (s : State) : Opr :=
  { id := s.nextId, instr := i, pc := s.cur.pc, lanes := active (specOf i) s, todo := active (specOf i) s, window := (specOf i).win,
    flag := (specOf i).flag, flanes := 0, status := 0, cls := 0, faddr := 0, kind := entryKind i (specOf i), slot := 0,
    words := capture (curWave s) (specOf i), left := n, skid := 0, issuedAt := cycAt s (curWave s).core }

/-- The wave that issues, once its operation is open. -/
theorem wv_opened (i : Instr) (n : Nat) (s : State) : wv (opened i n s) s.cur.wave =
    let v := issueWave (specOf i) s.cur (cycAt s (curWave s).core) (curWave s)
    flagUp { emptyDsts v (specOf i) (active (specOf i) s) with ops := v.ops.filter (fun x => x.id ≠ s.nextId) ++ [openedOp i n s] }
      (specOf i).flag := by
  have hcur : (fresh (advance (specOf i) s)).2.cur = s.cur := advance_cur _ _
  have hwave : wv (fresh (advance (specOf i) s)).2 s.cur.wave =
      issueWave (specOf i) s.cur (cycAt s (curWave s).core) (curWave s) := wv_advance (specOf i) s
  have hcyc (c : Nat) : cycAt (fresh (advance (specOf i) s)).2 c = cycAt s c := cycAt_advance (specOf i) s c
  unfold opened openOp
  dsimp only
  rw [hcur, wv_modWv_same, hwave, hcyc, fresh_fst, advance_nextId]
  rfl

/-- R170: the operation is found. -/
theorem findOp_opened (i : Instr) (n : Nat) (s : State) :
    findOp (wv (opened i n s) s.cur.wave) s.nextId = some (openedOp i n s) := by
  rw [wv_opened]
  show List.find? _ (_ ++ [openedOp i n s]) = _
  rw [List.find?_append, List.find?_eq_none.2 fun x hx => by simpa using (List.mem_filter.1 hx).2]
  simp [openedOp]

/-- Nothing is a result yet that was not one. -/
theorem opened_results (i : Instr) (n : Nat) (s : State) : (wv (opened i n s) s.cur.wave).results = (curWave s).results := by
  rw [wv_opened]
  exact (congrArg Wave.results (emptyDsts_rest ..) :)

theorem findOp_modOp {v : Wave} {id : Nat} {f : Opr → Opr} (hf : ∀ o, (f o).id = o.id) :
    findOp (modOp v id f) id = (findOp v id).map f := by
  have hkey : ((fun o : Opr => decide (o.id = id)) ∘ fun o => if o.id = id then f o else o) = fun o => decide (o.id = id) := by
    funext o
    by_cases h : o.id = id <;> simp [h, hf]
  rw [findOp, modOp, List.find?_map, hkey, findOp]
  cases h : v.ops.find? fun o => decide (o.id = id) with
  | none => rfl
  | some o =>
    have hid : o.id = id := by simpa using List.find?_some h
    simp [hid]

/-- R362: with the helper lanes over, the operation is found with the others to do. -/
theorem findOp_skipHelpers {s : State} {w id : Nat} {o : Opr} {m : Lanes} (ho : findOp (wv s w) id = some o)
    (hdst : dstRegs (specOf o.instr) = []) (hleft : o.todo &&& ~~~m ≠ 0) :
    ∃ x, findOp (wv (skipHelpers s w id m) w) id = some { o with todo := x } := by
  have hid : o.id = id := by simpa using List.find?_some ho
  unfold skipHelpers
  by_cases hm : m = 0
  · rw [if_pos hm]
    exact ⟨o.todo, ho⟩
  · have hmod : findOp (modOp (wv s w) id fun o => { o with todo := o.todo &&& ~~~m, left := o.left - 0 }) id =
        some { o with todo := o.todo &&& ~~~m } := by
      rw [findOp_modOp (f := fun o => { o with todo := o.todo &&& ~~~m, left := o.left - 0 }) fun _ => rfl, ho]
      rfl
    rw [if_neg hm]
    simp only [ho, hdst, List.isEmpty_nil, if_true]
    refine ⟨o.todo &&& ~~~m, ?_⟩
    rw [completeOp, wv_modWv_same, complete]
    simp only [hmod]
    rw [if_neg fun h => hleft h.1]
    exact hmod

/-! ### Bytes of a scratch run -/

/-- Byte `j` of a number's low `n` bytes is byte `j` of the number. -/
theorem ofNat_byte_mod (x : Nat) {n j : Nat} (h : j < n) : BitVec.ofNat 8 (x % 2 ^ (8 * n) / 256 ^ j) = BitVec.ofNat 8 (x / 256 ^ j) := by
  refine BitVec.eq_of_toNat_eq ?_
  have hn : 2 ^ (8 * n) = 256 ^ j * 256 ^ (n - j) := by
    rw [← Nat.pow_add, Nat.add_sub_cancel' h.le, Nat.pow_mul]
  have hd : 256 ∣ 256 ^ (n - j) := dvd_pow_self 256 (by omega)
  rw [BitVec.toNat_ofNat, BitVec.toNat_ofNat, hn, Nat.mod_mul_right_div_self]
  exact Nat.mod_mod_of_dvd _ hd

theorem pr_scrWrite_same (s : State) (g : Group) (o n v : Nat) :
    (pr (scrWrite s g o n v) g.pair).scratch = memWrite (pr s g.pair).scratch (scrAddr g o) n v := by
  rw [scrWrite, pr_modPr_same]
  rfl

theorem pr_scrWrite_other (s : State) (g : Group) (o n v : Nat) {p : Nat} (h : p ≠ g.pair) : pr (scrWrite s g o n v) p = pr s p := by
  rw [scrWrite, pr_modPr_other _ h]
  rfl

/-- A lane's run of `n` bytes from `at_ l` holds the byte at `a`. -/
def writesByte (n : Nat) (at_ : Nat → Nat) (l a : Nat) : Bool := decide (at_ l ≤ a) && decide (a < at_ l + n)

theorem writesByte_iff {n : Nat} {at_ : Nat → Nat} {l a : Nat} : writesByte n at_ l a = true ↔ at_ l ≤ a ∧ a < at_ l + n := by
  simp [writesByte]

/-- R108, R291: between `s` and `t` the lanes of `ls`, in ascending order, have written `n` bytes of `x l` each, from `at_ l`. -/
def ScratchWritten (s t : State) (g : Group) (n : Nat) (ls : List Nat) (at_ x : Nat → Nat) : Prop :=
  t.mem = s.mem ∧ (∀ p, p ≠ g.pair → pr t p = pr s p) ∧
  (∀ a, (∀ l ∈ ls, writesByte n at_ l a = false) → memByte (pr t g.pair).scratch a = memByte (pr s g.pair).scratch a) ∧
  (∀ l ∈ ls, ∀ a, writesByte n at_ l a = true → (∀ k ∈ ls, l < k → writesByte n at_ k a = false) →
    memByte (pr t g.pair).scratch a = BitVec.ofNat 8 (x l / 256 ^ (a - at_ l)))

/-- Of the same numbers cut to `n` bytes. -/
theorem ScratchWritten.of_mod {s t : State} {g : Group} {n : Nat} {ls : List Nat} {at_ x : Nat → Nat}
    (h : ScratchWritten s t g n ls at_ fun l => x l % 2 ^ (8 * n)) : ScratchWritten s t g n ls at_ x := by
  obtain ⟨hmem, hpairs, hrest, hbytes⟩ := h
  refine ⟨hmem, hpairs, hrest, fun l hl a ha hlast => (hbytes l hl a ha hlast).trans (ofNat_byte_mod _ ?_)⟩
  have := writesByte_iff.1 ha
  omega

/-- What stands before and after is of no account. -/
theorem ScratchWritten.of_keeps {s s' t t' : State} {g : Group} {n : Nat} {ls : List Nat} {at_ x : Nat → Nat}
    (h : ScratchWritten s' t g n ls at_ x) (hs : KeepsBanks s s') (ht : KeepsBanks t t') : ScratchWritten s t' g n ls at_ x := by
  unfold ScratchWritten
  simp only [ht.pr_eq, ht.mem, ← hs.pr_eq, ← hs.mem]
  exact h

/-- Only the lanes that write are of account. -/
theorem ScratchWritten.congr {s t : State} {g : Group} {n : Nat} {ls : List Nat} {at_ at' x x' : Nat → Nat}
    (h : ScratchWritten s t g n ls at_ x) (hat : ∀ l ∈ ls, at_ l = at' l) (hx : ∀ l ∈ ls, x l = x' l) :
    ScratchWritten s t g n ls at' x' := by
  obtain ⟨hmem, hpairs, hrest, hbytes⟩ := h
  have hw {l : Nat} (hl : l ∈ ls) (a : Nat) : writesByte n at_ l a = writesByte n at' l a := by rw [writesByte, hat l hl, ← writesByte]
  refine ⟨hmem, hpairs, fun a ha => hrest a fun l hl => (hw hl a).trans (ha l hl), fun l hl a ha hlast => ?_⟩
  rw [← hat l hl, ← hx l hl]
  exact hbytes l hl a ((hw hl a).trans ha) fun k hk hlt => (hw hk a).trans (hlast k hk hlt)

/-- R108: writes in ascending lane order. -/
theorem foldl_scrWrite_written (g : Group) (n : Nat) (off x : Nat → Nat) : ∀ {ls : List Nat} (s : State), ls.Pairwise (· < ·) →
    ScratchWritten s (ls.foldl (fun s l => scrWrite s g (off l) n (x l)) s) g n ls (fun l => scrAddr g (off l)) x
  | [], s, _ => ⟨rfl, fun _ _ => rfl, fun _ _ => rfl, fun _ hl => absurd hl List.not_mem_nil⟩
  | l :: r, s, h => by
    obtain ⟨hfirst, hr⟩ := List.pairwise_cons.1 h
    obtain ⟨hmem, hpairs, hrest, hbytes⟩ := foldl_scrWrite_written g n off x (scrWrite s g (off l) n (x l)) hr
    refine ⟨hmem, fun p hp => (hpairs p hp).trans (pr_scrWrite_other s g _ _ _ hp), fun a ha => ?_, fun k hk a ha hlast => ?_⟩
    · have hout : ¬ (scrAddr g (off l) ≤ a ∧ a < scrAddr g (off l) + n) := by
        rw [← writesByte_iff (at_ := fun l => scrAddr g (off l)), ha l List.mem_cons_self]
        decide
      rw [List.foldl_cons, hrest a fun k hk => ha k (List.mem_cons_of_mem _ hk), pr_scrWrite_same]
      exact memByte_memWrite_other n _ _ _ (by omega)
    · obtain rfl | hk := List.mem_cons.1 hk
      · have hin := writesByte_iff.1 ha
        have hbyte := memByte_memWrite_in n (pr s g.pair).scratch (scrAddr g (off k)) (x k) (a - scrAddr g (off k)) (by omega)
        rw [Nat.add_sub_cancel' hin.1] at hbyte
        rw [List.foldl_cons, hrest a fun j hj => hlast j (List.mem_cons_of_mem _ hj) (hfirst j hj), pr_scrWrite_same, hbyte]
      · exact hbytes k hk a ha fun j hj => hlast j (List.mem_cons_of_mem _ hj)

/-! ### The addresses of `ldl` and `stl` (R226) -/

/-- The offset of a lane: B's register, C's uniform value where it names one, and the immediate. -/
theorem laneScrOff_eq {i : Instr} {o : Opr} {h : Head} {m : MExt} {v : Wave} {k l : Nat} (hm : mExtOf i = some m)
    (hsrcs : (specOf i).srcs.drop k = laneScr h m) (ho : o.words = capture v (specOf i)) (hl : l < 32) :
    laneScrOff i o k l = ((vread v l h.b.toNat).toNat : Int) + (uniWord v m.c).toNat + m.imm.toInt := by
  have hoff : offOf i = m.imm.toInt := by rw [offOf, immOf, hm]; exact sext_toNat m.imm
  have hat (j : Nat) : (specOf i).srcs[k + j]? = (laneScr h m)[j]? := by rw [← List.getElem?_drop, hsrcs]
  have hread {j : Nat} {x : Src} (hx : (laneScr h m)[j]? = some x) : opVal (specOf i) o.words (k + j) l = srcVal v l x := by
    rw [ho]
    exact opVal_capture ((hat j).trans hx) hl
  unfold laneScrOff
  dsimp only
  rw [hoff, hat 1]
  by_cases h128 : m.c = 128
  · have hs : laneScr h m = [lsrc .b h.b.toNat 1 1 false .any] := if_pos h128
    rw [show opVal (specOf i) o.words k l = _ from hread (j := 0) (by rw [hs]; rfl), srcVal_word, hs, h128]
    rfl
  · have hs : laneScr h m = [lsrc .b h.b.toNat 1 1 false .any, usrc .c m.c.toNat 1 1 false] := if_neg h128
    rw [show opVal (specOf i) o.words k l = _ from hread (j := 0) (by rw [hs]; rfl), srcVal_word,
      hread (j := 1) (by rw [hs]; rfl), srcVal_uniWord, hs]
    simp [usrc]

/-! ### Lanes that all proceed -/

theorem scrSplit_of_ok {s : State} {g : Group} {n : Nat} : ∀ {xs : List (Nat × Int)}, (∀ x ∈ xs, scrFault s g x.2 n = none) →
    scrSplit s g n xs = ([], xs.map fun x => (x.1, x.2.toNat))
  | [], _ => rfl
  | x :: r, h => by
    have ih := scrSplit_of_ok fun y hy => h y (List.mem_cons_of_mem _ hy)
    have hx := h x List.mem_cons_self
    simp only [scrSplit, Prod.mk.injEq] at ih ⊢
    simp [hx, ih.1, ih.2]

end Sys2Proof.Machine
end

section
/-! `ldl` and `stl` at the bank (R108, R226, R291, R93, R94): what the lanes read, what they write, and when. -/

namespace Sys2Proof.Machine
open Sys2Proof.Machine.State

/-! ### Lanes of a set -/

theorem lanes_ext {m m' : Lanes} (h : ∀ l < 32, inLanes m l = inLanes m' l) : m = m' := BitVec.eq_of_getLsbD_eq h

theorem mem_lanesOf {m : Lanes} {l : Nat} : l ∈ lanesOf m ↔ l < 32 ∧ inLanes m l = true := by simp [lanesOf]

/-- The lanes that a list with one entry for each lane of a set names. -/
theorem lanesWhere_any_map {α : Type} (m : Lanes) (f : Nat → α) :
    (lanesWhere fun l => ((lanesOf m).map fun l => (l, f l)).any fun x => decide (x.1 = l)) = m := by
  refine lanes_ext fun l hl => ?_
  rw [inLanes_lanesWhere _ hl, Bool.eq_iff_iff, List.any_map, List.any_eq_true]
  simp [mem_lanesOf, hl]

/-! ### Scratch accesses of which no lane faults -/

section NoFault

variable {s : State} {w n : Nat} {o : Opr} {m : Lanes} {off : Nat → Int}

theorem scrLoad_of_ok (hn : sizeOf_ o.instr = n) (hu : (specOf o.instr).uni = false)
    (hok : ∀ l ∈ lanesOf m, scrFault s (groupOf s w) (off l) n = none) :
    scrLoad s w o ((lanesOf m).map fun l => (l, off l)) = addResultIn 6 s w o.id m
      (loadWrites o n .untyped ((lanesOf m).map fun l => (l, scrRead s (groupOf s w) (off l).toNat n))) := by
  subst hn
  have hsplit := scrSplit_of_ok (s := s) (g := groupOf s w) (n := sizeOf_ o.instr) (xs := (lanesOf m).map fun l => (l, off l))
    (List.forall_mem_map.2 hok)
  unfold scrLoad
  simp only [hsplit, hu, List.map_map, Function.comp_def, lanesWhere_any_map, Bool.false_eq_true, if_false]
  rfl

theorem scrStore_of_ok {f : Nat → Nat} (hn : sizeOf_ o.instr = n) (hu : (specOf o.instr).uni = false)
    (hok : ∀ l ∈ lanesOf m, scrFault s (groupOf s w) (off l) n = none) :
    scrStore s w o f ((lanesOf m).map fun l => (l, off l)) =
      completeOp ((lanesOf m).foldl (fun t l => scrWrite t (groupOf s w) (off l).toNat n (f l % 2 ^ (8 * n))) s) w o.id m 0 := by
  subst hn
  have hsplit := scrSplit_of_ok (s := s) (g := groupOf s w) (n := sizeOf_ o.instr) (xs := (lanesOf m).map fun l => (l, off l))
    (List.forall_mem_map.2 hok)
  unfold scrStore
  simp only [hsplit, hu, List.map_map, Function.comp_def, lanesWhere_any_map, List.foldl_map, Bool.false_eq_true, if_false]
  rfl

/-- R108: what such a store leaves. -/
theorem scrStore_written {f : Nat → Nat} (hn : sizeOf_ o.instr = n) (hu : (specOf o.instr).uni = false)
    (hok : ∀ l ∈ lanesOf m, scrFault s (groupOf s w) (off l) n = none) :
    ScratchWritten s (scrStore s w o f ((lanesOf m).map fun l => (l, off l))) (groupOf s w) n (lanesOf m)
      (fun l => scrAddr (groupOf s w) (off l).toNat) fun l => f l % 2 ^ (8 * n) := by
  rw [scrStore_of_ok hn hu hok]
  exact (foldl_scrWrite_written _ _ _ _ s (lanesOf_ascending m)).of_keeps (.refl s) (completeOp_keepsBanks ..)

end NoFault

/-! ### `ldl` -/

section Ldl

variable {h : Head} {m : MExt} {s : State}

theorem memIssued_ldl (hm : active (specOf (.ldl h m)) s ≠ 0) : memIssued (.ldl h m) s =
    refreshWindow (acquireNow (scrLoad (opened (.ldl h m) 0 s) s.cur.wave (openedOp (.ldl h m) 0 s)
      ((lanesOf (active (specOf (.ldl h m)) s)).map fun l => (l, laneScrOff (.ldl h m) (openedOp (.ldl h m) 0 s) 0 l)))
      s.cur.wave (.ldl h m)) s.cur.wave s.nextId := by
  have hnone : active (specOf (.ldl h m)) s &&& ~~~(active (specOf (.ldl h m)) s) = 0 := by simp
  have hwork : workLanes (.ldl h m) (curWave s) (active (specOf (.ldl h m)) s) = active (specOf (.ldl h m)) s := rfl
  unfold memIssued
  simp only [hm, if_false, hwork, hnone]
  rw [skipHelpers, if_pos rfl, startMem, findOp_opened]
  rfl

/-- R291, R226: each lane's address. -/
theorem laneScrOff_ldl {l : Nat} (hl : l < 32) :
    laneScrOff (.ldl h m) (openedOp (.ldl h m) 0 s) 0 l = scratchOffset h m s l :=
  laneScrOff_eq (v := curWave s) rfl rfl rfl hl

/-- R79: an acquire drops copies of the core's L1, and changes no wave and no pair. -/
theorem acquireNow_frame (s : State) (w : Nat) (i : Instr) :
    (acquireNow s w i).pairs = s.pairs ∧ (acquireNow s w i).waves = s.waves ∧ (acquireNow s w i).cur = s.cur := by
  unfold acquireNow
  split <;> exact ⟨rfl, rfl, rfl⟩

theorem refreshWindow_results (s : State) (w op : Nat) : (wv (refreshWindow s w op) w).results = (wv s w).results := by
  unfold refreshWindow
  split
  · rfl
  · rw [wv_modWv_same]
    rfl

theorem addResultIn_results {n : Nat} {s : State} {w id : Nat} {m : Lanes} {ws : Writes} {o : Opr} (hm : m ≠ 0)
    (ho : findOp (wv s w) id = some o) : (wv (addResultIn n s w id m ws) w).results = (wv s w).results ++
      [{ id := s.nextId, op := id, lanes := m, due := o.issuedAt + n, writes := ws }] := by
  unfold addResultIn
  rw [if_neg hm]
  dsimp only
  rw [wv_modWv_same]
  show (wv s w).results ++ [{ due := ((findOp (wv s w) id).map (·.issuedAt)).getD 0 + n, .. }] = _
  rw [ho]
  rfl

end Ldl

/-- Settles O41: what is read is what the scratch held at issue, and the operation's result is the one it adds. -/
theorem scratchLoadReads : Obligations.ScratchLoadReads := by
  unfold Obligations.ScratchLoadReads
  intro h m s i n g ls _ hi hwait hm hok
  have keeps := opened_keepsBanks i 0 s
  have hgroup : groupOf (opened i 0 s) s.cur.wave = g := keeps.groupOf_eq _
  have hoff : ((lanesOf (active (specOf i) s)).map fun l => (l, laneScrOff i (openedOp i 0 s) 0 l)) =
      (lanesOf (active (specOf i) s)).map fun l => (l, scratchOffset h m s l) :=
    List.map_congr_left fun l hl => by rw [laneScrOff_ldl (lt_of_mem_lanesOf hl)]
  have hload := scrLoad_of_ok (s := opened i 0 s) (w := s.cur.wave) (o := openedOp i 0 s) (m := active (specOf i) s)
    (off := scratchOffset h m s) (n := n) rfl rfl fun l hl => by
      rw [hgroup, keeps.scrFault_eq]
      exact hok l hl
  have hissued := memIssued_ldl hm
  rw [hoff, hload] at hissued
  have hcur : (memIssued i s).cur = s.cur := by
    rw [hissued, (refreshWindow_keepsBanks ..).cur, (acquireNow_frame ..).2.2, (addResultIn_keepsBanks ..).cur, keeps.cur]
  refine ⟨memIssued i s, memOp_go hi hwait rfl, ⟨(opened i 0 s).nextId, ?_⟩, ?_, ?_⟩
  · show (wv (memIssued i s) (memIssued i s).cur.wave).results = _
    rw [hcur, hissued, refreshWindow_results, wv, (acquireNow_frame ..).2.1, ← wv, addResultIn_results (id := (openedOp i 0 s).id) hm
      (findOp_opened i 0 s), opened_results]
    simp only [hgroup, keeps.scrRead_eq]
    simp only [loadWrites, List.flatMap_map]
    rfl
  · rw [hissued, (refreshWindow_keepsBanks ..).pairs, (acquireNow_frame ..).1, (addResultIn_keepsBanks ..).pairs, keeps.pairs]
  · exact memIssued_mem i s

/-! ### `stl` -/

section Stl

variable {h : Head} {m : MExt} {s : State}

/-- R362: the lanes that perform the store. -/
abbrev storeLanes (h : Head) (m : MExt) (s : State) : Lanes := active (specOf (.stl h m)) s &&& ~~~(curWave s).helpers

/-- R362, R383: the state with the store's operation open and done with for the helper lanes. -/
def storeOpened (h : Head) (m : MExt) (s : State) : State :=
  skipHelpers (opened (.stl h m) 0 s) s.cur.wave s.nextId (active (specOf (.stl h m)) s &&& ~~~storeLanes h m s)

theorem storeOpened_keepsBanks (h : Head) (m : MExt) (s : State) : KeepsBanks s (storeOpened h m s) :=
  (opened_keepsBanks _ 0 s).trans (skipHelpers_keepsBanks ..)

/-- The operation, with what the helper lanes leave to do. -/
theorem findOp_storeOpened (hw : storeLanes h m s ≠ 0) :
    ∃ x, findOp (wv (storeOpened h m s) s.cur.wave) s.nextId = some { openedOp (.stl h m) 0 s with todo := x } := by
  refine findOp_skipHelpers (findOp_opened (.stl h m) 0 s) rfl ?_
  have hrest : (active (specOf (.stl h m)) s) &&& ~~~((active (specOf (.stl h m)) s) &&& ~~~storeLanes h m s) = storeLanes h m s := by
    unfold storeLanes
    generalize active (specOf (.stl h m)) s = a
    ext l hl
    simp only [BitVec.getElem_and, BitVec.getElem_not]
    cases a[l] <;> simp
  exact fun hc => hw (hrest.symm.trans hc)

theorem memIssued_stl (hw : storeLanes h m s ≠ 0) : ∃ x, memIssued (.stl h m) s =
    deferScr (storeOpened h m s) false s.cur.wave { openedOp (.stl h m) 0 s with todo := x } (storeLanes h m s)
      fun u => scrPerform u s.cur.wave { openedOp (.stl h m) 0 s with todo := x } (storeLanes h m s) := by
  obtain ⟨x, hx⟩ := findOp_storeOpened hw
  have hm : active (specOf (.stl h m)) s ≠ 0 := fun h0 => hw (by rw [storeLanes, h0]; exact BitVec.zero_and)
  refine ⟨x, ?_⟩
  unfold memIssued
  simp only [hm, if_false]
  rw [if_neg (show workLanes (.stl h m) (curWave s) (active (specOf (.stl h m)) s) ≠ 0 from hw)]
  show startMem (storeOpened h m s) false s.cur.wave s.nextId (storeLanes h m s) = _
  rw [startMem, hx]
  rfl

/-- Where no lane performs the store. -/
theorem memIssued_stl_keepsBanks (hw : storeLanes h m s = 0) : KeepsBanks s (memIssued (.stl h m) s) := by
  unfold memIssued
  dsimp only
  split
  · exact advance_keepsBanks _ s
  · rw [if_pos (show workLanes (.stl h m) (curWave s) (active (specOf (.stl h m)) s) = 0 from hw)]
    exact ((opened_keepsBanks _ 0 s).trans (skipHelpers_keepsBanks ..)).trans (refreshWindow_keepsBanks ..)

/-- R226: each lane's address. -/
theorem laneScrOff_stl {o : Opr} {l : Nat} (ho : o.words = capture (curWave s) (specOf (.stl h m))) (hl : l < 32) :
    laneScrOff (.stl h m) o 1 l = scratchOffset h m s l :=
  laneScrOff_eq (v := curWave s) rfl rfl ho hl

theorem szRegs_eq (k : Nat) : szRegs k = (2 ^ k + 3) / 4 := by
  unfold szRegs
  split
  · next hk => interval_cases k <;> rfl
  · next hk =>
    obtain ⟨j, rfl⟩ := Nat.exists_eq_add_of_le' (Nat.le_of_not_le hk)
    rw [Nat.add_sub_cancel, Nat.pow_add]
    omega

/-- R285: each lane's data. -/
theorem opVal_stl {l : Nat} (hl : l < 32) :
    opVal (specOf (.stl h m)) (capture (curWave s) (specOf (.stl h m))) 0 l =
      wordsNat (vrun (curWave s) l h.a.toNat ((2 ^ m.sz.toNat + 3) / 4)) := by
  rw [← szRegs_eq]
  exact opVal_capture (k := 0) (x := lsrc .a h.a.toNat (szRegs m.sz.toNat) (szRegs m.sz.toNat) false .any) rfl hl

/-- R108: a store of which no lane faults. -/
theorem scrPerform_stl_written {u : State} {w n : Nat} {o : Opr} {k : Lanes} (ho : o.instr = .stl h m) (hn : 2 ^ m.sz.toNat = n)
    (hok : ∀ l ∈ lanesOf k, scrFault u (groupOf u w) (laneScrOff (.stl h m) o 1 l) n = none) :
    ScratchWritten u (scrPerform u w o k) (groupOf u w) n (lanesOf k)
      (fun l => scrAddr (groupOf u w) (laneScrOff (.stl h m) o 1 l).toNat)
      fun l => opVal (specOf (.stl h m)) o.words 0 l % 2 ^ (8 * n) := by
  rw [scrPerform, ho]
  exact scrStore_written (by rw [ho]; exact hn) (by rw [ho]; rfl) hok

/-- R108: without a release the bytes are written as the store issues. -/
theorem stl_written (hord : m.ord.toNat < 2)
    (hok : ∀ l ∈ lanesOf (storeLanes h m s), scrFault s (groupOf s s.cur.wave) (scratchOffset h m s l) (2 ^ m.sz.toNat) = none) :
    ScratchWritten s (memIssued (.stl h m) s) (groupOf s s.cur.wave) (2 ^ m.sz.toNat) (lanesOf (storeLanes h m s))
      (fun l => scrAddr (groupOf s s.cur.wave) (scratchOffset h m s l).toNat)
      fun l => wordsNat (vrun (curWave s) l h.a.toNat ((2 ^ m.sz.toNat + 3) / 4)) := by
  by_cases hw : storeLanes h m s = 0
  · rw [hw]
    exact (foldl_scrWrite_written _ _ _ _ s List.Pairwise.nil).of_keeps (.refl s) (memIssued_stl_keepsBanks hw)
  · obtain ⟨x, hx⟩ := memIssued_stl hw
    have keeps := storeOpened_keepsBanks h m s
    have hgroup : groupOf (storeOpened h m s) s.cur.wave = groupOf s s.cur.wave := keeps.groupOf_eq _
    have hoff {l : Nat} (hl : l ∈ lanesOf (storeLanes h m s)) :
        laneScrOff (.stl h m) { openedOp (.stl h m) 0 s with todo := x } 1 l = scratchOffset h m s l :=
      laneScrOff_stl rfl (lt_of_mem_lanesOf hl)
    have hwritten := scrPerform_stl_written (u := storeOpened h m s) (w := s.cur.wave) (k := storeLanes h m s)
      (o := { openedOp (.stl h m) 0 s with todo := x }) rfl rfl fun l hl => by
        rw [hoff hl, hgroup, keeps.scrFault_eq]
        exact hok l hl
    rw [hgroup] at hwritten
    have hrel : isRelease (.stl h m) = false := decide_eq_false (Nat.not_le.2 hord)
    rw [hx, deferScr, show isRelease ({ openedOp (.stl h m) 0 s with todo := x } : Opr).instr = false from hrel]
    refine ScratchWritten.of_mod ((hwritten.of_keeps keeps (refreshWindow_keepsBanks ..)).congr (fun l hl => ?_) fun l hl => ?_)
    · rw [hoff hl]
    · rw [← opVal_stl (lt_of_mem_lanesOf hl)]
      rfl

/-- R78, R108: a deferred store whose marker's release completes. -/
theorem relComplete_stl_written {a : Acc} {o : Opr} (hact : a.act = .scr) (ho : findOp (wv s a.wave) a.op = some o)
    (hinstr : o.instr = .stl h m)
    (hok : ∀ l ∈ lanesOf a.lanes, scrFault s (groupOf s a.wave) (laneScrOff (.stl h m) o 1 l) (2 ^ m.sz.toNat) = none) :
    ScratchWritten s (relComplete s a) (groupOf s a.wave) (2 ^ m.sz.toNat) (lanesOf a.lanes)
      (fun l => scrAddr (groupOf s a.wave) (laneScrOff (.stl h m) o 1 l).toNat)
      fun l => opVal (specOf (.stl h m)) o.words 0 l % 2 ^ (8 * 2 ^ m.sz.toNat) := by
  have keeps : KeepsBanks { s with accs := s.accs.filter fun b => b.id ≠ a.id } (dropAcc s a) := dropAcc_keepsBanks s a
  have hperform : relComplete s a = scrPerform (dropAcc s a) a.wave o a.lanes := by
    rw [relComplete, hact]
    simp only [ho, hinstr]
  have hgroup : groupOf (dropAcc s a) a.wave = groupOf s a.wave := keeps.groupOf_eq _
  have hwritten := scrPerform_stl_written (u := dropAcc s a) (w := a.wave) (k := a.lanes) hinstr rfl fun l hl => by
    rw [hgroup, keeps.scrFault_eq]
    exact hok l hl
  rw [hperform, ← hgroup]
  exact hwritten.of_keeps (s := { s with accs := s.accs.filter fun b => b.id ≠ a.id }) keeps (.refl _)

/-- The access that a deferred store leaves. -/
def markerAcc (s : State) (w : Nat) (o : Opr) (m : Lanes) : Acc :=
  { (newAcc s w o m [] 4 0 0 .st .scr).2 with priv := true, stage := .ready }

theorem deferScr_release {u : State} {w : Nat} {o : Opr} {k : Lanes} (f : State → State) (hrel : isRelease o.instr = true) :
    let a := markerAcc u w o k
    let v := { (fresh u).2 with accs := u.accs ++ [a] }
    deferScr u false w o k f = v ∨
      deferScr u false w o k f = putAcc (dafPush v a.core { kind := .rel a.id, accs := [a.id] }) { a with stage := .queued } := by
  unfold deferScr
  simp only [hrel, if_true, Bool.false_eq_true, if_false]
  split
  · exact .inl rfl
  · exact .inr rfl

/-- R93, R94: with a release the store leaves an access for its marker. -/
theorem stl_deferred (hord : 2 ≤ m.ord.toNat) (hw : storeLanes h m s ≠ 0) :
    let t := memIssued (.stl h m) s
    ∃ a, t.mem = s.mem ∧ t.pairs = s.pairs ∧ a ∈ t.accs ∧ (∀ b ∈ s.accs, b.id ≠ a.id → b ∈ t.accs) ∧
      a.op = s.nextId ∧ a.wave = s.cur.wave ∧ a.lanes = storeLanes h m s ∧ a.act = .scr ∧ a.rel = true ∧
      ((a.stage = .queued ∧ (cr t (curWave s).core).daf = (cr s (curWave s).core).daf ++ [{ kind := .rel a.id, accs := [a.id] }]) ∨
        (a.stage = .ready ∧ (cr t (curWave s).core).daf = (cr s (curWave s).core).daf)) := by
  obtain ⟨x, hx⟩ := memIssued_stl hw
  have keeps := storeOpened_keepsBanks h m s
  have hrel : isRelease (.stl h m) = true := decide_eq_true hord
  dsimp only
  rw [hx]
  generalize storeOpened h m s = u at *
  generalize hq : ({ openedOp (.stl h m) 0 s with todo := x } : Opr) = o
  have ho : o.id = s.nextId ∧ o.instr = .stl h m := by rw [← hq]; exact ⟨rfl, rfl⟩
  have hcore : (markerAcc u s.cur.wave o (storeLanes h m s)).core = (curWave s).core := keeps.core s.cur.wave
  have haccs : ∀ b ∈ s.accs, b ∈ u.accs := fun b hb => keeps.accs.symm ▸ hb
  have hr : isRelease o.instr = true := ho.2 ▸ hrel
  obtain hd | hd := deferScr_release (u := u) (w := s.cur.wave) (k := storeLanes h m s)
      (fun u => scrPerform u s.cur.wave o (storeLanes h m s)) hr
  · rw [hd]
    exact ⟨markerAcc u s.cur.wave o (storeLanes h m s), keeps.mem, keeps.pairs, List.mem_append_right _ List.mem_cons_self,
      fun b hb _ => List.mem_append_left _ (haccs b hb), ho.1, rfl, rfl, rfl, hr, .inr ⟨rfl, keeps.daf _⟩⟩
  · rw [hd]
    refine ⟨{ markerAcc u s.cur.wave o (storeLanes h m s) with stage := .queued }, keeps.mem ▸ (putAcc_keepsBanks ..).mem,
      keeps.pairs ▸ (putAcc_keepsBanks ..).pairs, ?_, fun b hb hne => ?_, ho.1, rfl, rfl, rfl, hr, .inl ⟨rfl, ?_⟩⟩
    · rw [(putAcc_keepsBanks ..).accs]
      exact List.mem_map.2 ⟨_, List.mem_append_right _ List.mem_cons_self, if_pos rfl⟩
    · rw [(putAcc_keepsBanks ..).accs]
      exact List.mem_map.2 ⟨b, List.mem_append_left _ (haccs b hb), if_neg hne⟩
    · rw [(putAcc_keepsBanks ..).daf, hcore]
      show (cr (dafPush _ (curWave s).core _) (curWave s).core).daf = _
      rw [dafPush, cr_modCr_same]
      exact congrArg (· ++ _) (keeps.daf _)

end Stl

/-- Settles O42: as it issues, as its access is made, and as its marker's release completes. -/
theorem scratchStoreWrites : Obligations.ScratchStoreWrites := by
  unfold Obligations.ScratchStoreWrites
  intro writes h m s i n v g works
  refine ⟨fun _ hi hwait hord hok => ⟨memIssued i s, memOp_go hi hwait rfl, stl_written hord hok⟩, fun _ hi hwait hord hw => ?_,
    fun a o hact ho hinstr hok => ?_⟩
  · obtain ⟨a, ha⟩ := stl_deferred hord hw
    exact ⟨memIssued i s, a, memOp_go hi hwait rfl, ha⟩
  · exact relComplete_stl_written hact ho hinstr hok

end Sys2Proof.Machine
end

section
/-! Traps (R386 to R391): the bytes of a frame, what the entry of a wave with nothing in flight leaves, and what the return gives back. -/

namespace Sys2Proof.Machine
open Sys2Proof.Machine.State

/-! ### Bytes of a frame -/

theorem leNat_div_pow : ∀ {bs : List Byte} {k : Nat} (h : k < bs.length), BitVec.ofNat 8 (leNat bs / 256 ^ k) = bs[k]
  | b :: bs, 0, _ => by
    have := b.isLt
    refine BitVec.eq_of_toNat_eq ?_
    rw [leNat, Nat.pow_zero, Nat.div_one, BitVec.toNat_ofNat, List.getElem_cons_zero]
    omega
  | b :: bs, k + 1, h => by
    have := b.isLt
    rw [leNat, Nat.pow_succ', ← Nat.div_div_eq_div_mul, show (b.toNat + 256 * leNat bs) / 256 = leNat bs by omega, List.getElem_cons_succ]
    exact leNat_div_pow (Nat.lt_of_succ_lt_succ h)

theorem length_leBytes : ∀ n v : Nat, (leBytes n v).length = n
  | 0, _ => rfl
  | n + 1, v => by rw [leBytes, List.length_cons, length_leBytes]

theorem leNat_leBytes : ∀ n v : Nat, leNat (leBytes n v) = v % 256 ^ n
  | 0, v => by rw [Nat.pow_zero, Nat.mod_one]; rfl
  | n + 1, v => by
    rw [leBytes, leNat, leNat_leBytes, BitVec.toNat_ofNat, Nat.pow_succ' (n := n) (m := 256), Nat.mod_mul]

/-- `bs` holds the bytes `cs` from place `o`. -/
def BytesAt (bs : List Byte) (o : Nat) (cs : List Byte) : Prop := ∃ pre post, bs = pre ++ (cs ++ post) ∧ pre.length = o

namespace BytesAt

variable {bs a b cs : List Byte} {o : Nat}

theorem last (h : a.length = o) : BytesAt (a ++ cs) o cs := ⟨a, [], by rw [List.append_nil], h⟩

theorem left (h : BytesAt a o cs) : BytesAt (a ++ b) o cs := by
  obtain ⟨pre, post, rfl, ho⟩ := h
  exact ⟨pre, post ++ b, by simp, ho⟩

theorem right (h : BytesAt b o cs) : BytesAt (a ++ b) (a.length + o) cs := by
  obtain ⟨pre, post, rfl, ho⟩ := h
  exact ⟨a ++ pre, post, by simp, by rw [List.length_append, ho]⟩

/-- A row of blocks of `n` bytes. -/
theorem block {f : Nat → List Byte} {n : Nat} (hf : ∀ k, (f k).length = n) :
    ∀ {m l : Nat}, l < m → BytesAt ((List.range m).flatMap f) (n * l) (f l)
  | m + 1, l, h => by
    rw [List.range_succ, List.flatMap_append, List.flatMap_singleton]
    obtain hl | rfl := Nat.lt_succ_iff_lt_or_eq.1 h
    · exact (block hf hl).left
    · exact last (by simp [List.length_flatMap, hf, Nat.mul_comm])

theorem getElem? (h : BytesAt bs o cs) {k : Nat} (hk : k < cs.length) : bs[o + k]? = cs[k]? := by
  obtain ⟨pre, post, rfl, rfl⟩ := h
  rw [List.getElem?_append_right (Nat.le_add_right ..), Nat.add_sub_cancel_left, List.getElem?_append_left hk]

end BytesAt

/-- A run of bytes is the number of its bytes. -/
theorem memRead_of_bytes {m : Tab Byte} : ∀ {cs : List Byte} {a : Nat}, (∀ k (h : k < cs.length), memByte m (a + k) = cs[k]) →
    memRead m a cs.length = leNat cs
  | [], _, _ => rfl
  | b :: cs, a, h => by
    have hfirst : memByte m a = b := h 0 (Nat.succ_pos _)
    rw [List.length_cons, memRead, leNat, hfirst, memRead_of_bytes fun k hk => ?_]
    have := h (k + 1) (Nat.succ_lt_succ hk)
    rwa [← Nat.add_assoc, Nat.add_right_comm] at this

/-- What stands in the bytes written to a run. -/
theorem memRead_bytesAt {m : Tab Byte} {bs cs : List Byte} {o a : Nat} (h : BytesAt bs o cs) :
    memRead (memWrite m a bs.length (leNat bs)) (a + o) cs.length = leNat cs := by
  refine memRead_of_bytes fun k hk => ?_
  have hget := h.getElem? hk
  rw [List.getElem?_eq_getElem hk] at hget
  obtain ⟨hlt, hbs⟩ := List.getElem?_eq_some_iff.1 hget
  rw [Nat.add_assoc, memByte_memWrite_in _ _ _ _ _ hlt, leNat_div_pow hlt, hbs]

/-- A number in the bytes written to scratch. -/
theorem scrRead_scrPut {s : State} {g : Group} {off o n v : Nat} {bs : List Byte} (h : BytesAt bs o (leBytes n v)) :
    scrRead (scrPut s g off bs) g (off + o) n = v % 256 ^ n := by
  have hread := memRead_bytesAt (m := (pr s g.pair).scratch) (a := scrAddr g off) h
  rw [length_leBytes, leNat_leBytes] at hread
  rw [scrRead, scrPut, pr_scrWrite_same, ← hread, scrAddr, scrAddr, Nat.add_assoc]

/-! ### The header of the frame (R388) -/

section Header

variable (v : Wave) (t : Trap) (x : Nat) (m : Lanes)

theorem length_frameHeader : (frameHeader v t x m).length = 1024 := by
  simp [frameHeader, length_leBytes, List.length_flatMap]

/-- The field at each offset. -/
theorem frameHeader_fields :
    BytesAt (frameHeader v t x m) 0 (leBytes 4 x) ∧ BytesAt (frameHeader v t x m) 4 (leBytes 4 t.lmask.toNat) ∧
    BytesAt (frameHeader v t x m) 8 (leBytes 4 t.head.toNat) ∧ BytesAt (frameHeader v t x m) 12 (leBytes 4 t.ext.toNat) ∧
    BytesAt (frameHeader v t x m) 16 (leBytes 8 t.data) ∧ BytesAt (frameHeader v t x m) 24 (leBytes 4 t.status) ∧
    BytesAt (frameHeader v t x m) 28 (leBytes 4 (sreg v 0).bits.toNat) ∧
    BytesAt (frameHeader v t x m) 32 (leBytes 4 (sreg v 1).bits.toNat) ∧
    BytesAt (frameHeader v t x m) 36 (leBytes 1 (b2n (sreg v 0).full + 2 * b2n (sreg v 1).full)) ∧
    BytesAt (frameHeader v t x m) 608 (leBytes 4 m.toNat) ∧
    ∀ l < 32, BytesAt (frameHeader v t x m) (64 + 8 * l) (leBytes 8 (if (ln v l).exited then 2 ^ 64 - 1 else (ln v l).pc)) := by
  unfold frameHeader
  refine ⟨?_, ?_, ?_, ?_, ?_, ?_, ?_, ?_, ?_, ?_, fun l hl => ?_⟩
  · exact (BytesAt.last (a := []) rfl).left.left.left.left.left.left.left.left.left.left.left.left.left.left
  · exact (BytesAt.last (by simp [length_leBytes])).left.left.left.left.left.left.left.left.left.left.left.left.left
  · exact (BytesAt.last (by simp [length_leBytes])).left.left.left.left.left.left.left.left.left.left.left.left
  · exact (BytesAt.last (by simp [length_leBytes])).left.left.left.left.left.left.left.left.left.left.left
  · exact (BytesAt.last (by simp [length_leBytes])).left.left.left.left.left.left.left.left.left.left
  · exact (BytesAt.last (by simp [length_leBytes])).left.left.left.left.left.left.left.left.left
  · exact (BytesAt.last (by simp [length_leBytes])).left.left.left.left.left.left.left.left
  · exact (BytesAt.last (by simp [length_leBytes])).left.left.left.left.left.left.left
  · exact (BytesAt.last (by simp [length_leBytes])).left.left.left.left.left.left
  · exact (BytesAt.last (by simp [length_leBytes, List.length_flatMap])).left
  · have hrow := (BytesAt.block (f := fun l => leBytes 8 (if (ln v l).exited then 2 ^ 64 - 1 else (ln v l).pc))
      (fun _ => length_leBytes ..) hl)
    have h := hrow.right (a := leBytes 4 x ++ leBytes 4 t.lmask.toNat ++ leBytes 4 t.head.toNat ++ leBytes 4 t.ext.toNat ++
      leBytes 8 t.data ++ leBytes 4 t.status ++ leBytes 4 (sreg v 0).bits.toNat ++ leBytes 4 (sreg v 1).bits.toNat ++
      leBytes 1 (b2n (sreg v 0).full + 2 * b2n (sreg v 1).full) ++ leBytes 27 0)
    simp only [List.length_append, length_leBytes] at h
    exact h.left.left.left.left

end Header

end Sys2Proof.Machine
end

section
/-! Entering a handler and returning from it (R386 to R391). -/

namespace Sys2Proof.Machine
open Sys2Proof.Machine.State

/-! ### What a trap finds -/

section Found

variable {s : State} {w : Nat} {imp : Bool} {r : Trap}

/-- No operation of the wave is in its replay window. -/
theorem noWindow_of_windowUsed {v : Wave} (h : windowUsed v = 0) : v.ops.filter (fun o => o.window) = [] := List.eq_nil_of_length_eq_zero h

theorem foldl_wake_rest (f : Wave → Opr → Lanes) (ls : List Lane) : ∀ (os : List Opr) (v : Wave),
    { os.foldl (fun v o => wake v (f v o)) v with lanes := ls } = { v with lanes := ls }
  | [], _ => rfl
  | _ :: os, _ => foldl_wake_rest f ls os _

/-- R133: only lanes wake. -/
theorem unstarted_rest (v : Wave) : { takeTrap.unstarted s v with lanes := v.lanes } = v := foldl_wake_rest _ v.lanes _ v

theorem v0_of_landed (hp : (wv s w).pend = []) : takeTrap.v0 s w = { takeTrap.unstarted s (wv s w) with pend := [] } := by
  have hpend : (takeTrap.unstarted s (wv s w)).pend = [] := (congrArg Wave.pend (unstarted_rest (wv s w)) :).trans hp
  unfold takeTrap.v0
  dsimp only
  rw [hpend]
  rfl

theorem unstarted_of_noWindow {v : Wave} (h : v.ops.filter (fun o => o.window) = []) : takeTrap.unstarted s v = v := by
  unfold takeTrap.unstarted
  dsimp only
  rw [List.filter_eq_nil_iff.2 fun o ho => ?_]
  · rfl
  · have hwindow := List.filter_eq_nil_iff.1 h o ho
    rw [Bool.not_eq_true] at hwindow
    rw [hwindow]
    exact Bool.false_ne_true

/-- Nothing in flight: the frame finds the wave as it is. -/
theorem v0_of_canTrap (h : CanTrap s w) : takeTrap.v0 s w = wv s w := by
  rw [v0_of_landed h.landed, unstarted_of_noWindow (noWindow_of_windowUsed h.window), ← h.landed]

/-- R388: a run whose bytes all lie in SCRATCH banks. -/
theorem scrModes_iff {g : Group} {o n : Nat} (hn : 0 < n) :
    takeTrap.scrModes s g o n = true ↔ ∀ k < n, (bank s g.pair (scrBank g (o + k))).mode = .scratch := by
  unfold takeTrap.scrModes scrBank bankBytes
  simp only [List.all_eq_true, List.mem_range, Bool.or_eq_true, decide_eq_true_eq]
  constructor
  · intro h k hk
    have hb := h ((o + k) / 16384 - o / 16384) (by omega)
    rw [show g.bank0 + o / 16384 + ((o + k) / 16384 - o / 16384) = g.bank0 + (o + k) / 16384 by omega] at hb
    exact hb.resolve_left (by omega)
  · intro h b hb
    by_cases hlast : g.bank0 + (o + n - 1) / 16384 < g.bank0 + o / 16384 + b
    · exact .inl hlast
    · right
      by_cases hb0 : b = 0
      · subst hb0
        exact h 0 hn
      · have := h (16384 * (o / 16384 + b) - o) (by omega)
        rwa [show g.bank0 + (o + (16384 * (o / 16384 + b) - o)) / 16384 = g.bank0 + o / 16384 + b by omega] at this

end Found

/-! ### The handler entered -/

/-- R387: the lanes that sleep as the trap is taken. -/
def sleepers (v : Wave) : Lanes := lanesThat v fun x => !x.exited && decide (x.sleep ≠ .awake)

/-- R386: the wave in its handler, of which nothing was in flight. -/
def handlerWave (v : Wave) (x : Word) : Wave :=
  { setSreg (setSreg v 0 { bits := v.tframe, full := true }) 1 { bits := x, full := true } with
    tstat := x, trap := none, faulting := false, holding := none, asleepAt := sleepers v, priority := none,
    ops := v.ops.map fun o => if o.kind = 2 then { o with window := false, flanes := 0, slot := 0 } else o,
    frameOps := [], heldTiles := [], replayEmpty := v.replayEmpty.filter fun k => k ≠ skey 0 ∧ k ≠ skey 1,
    guards := v.guards.map fun g => match g with
      | .pendS r due => if r < 2 then .pendS (r + 256) due else .pendS r due
      | g => g
    lanes := v.lanes.map fun x => if awake x then { x with pc := handlerPc v } else x }

section Taken

variable {s : State} {w : Nat} {imp : Bool} {r : Trap}

/-- The trap word as a number. -/
def trapNumber (imp : Bool) (r : Trap) : Nat := r.cls + 32 + 64 * imp.toNat + 256 * r.code

/-- The frame of a wave of which nothing is in flight. -/
def trapFrame (v : Wave) (imp : Bool) (r : Trap) : List Byte := frameHeader v r (trapNumber imp r) (sleepers v)

/-- R386, R388: with nothing in flight the frame holds the header alone. -/
theorem takeTrap_of_canTrap (h : CanTrap s w) : takeTrap s w imp r =
    setWv (scrPut s (gp s (wv s w).group) (wv s w).tframe.toNat (trapFrame (wv s w) imp r)) w (handlerWave (wv s w) (trapWord imp r)) := by
  have hmodes := (scrModes_iff (s := s) (by decide : 0 < 1024)).2 h.modes
  unfold takeTrap
  simp only [v0_of_canTrap h, noWindow_of_windowUsed h.window, List.map_nil, List.filter_nil, List.foldl_nil, List.length_nil, Nat.add_zero,
    h.enabled, h.idle, h.fits, hmodes, Bool.not_true, Bool.or_false, Bool.false_eq_true, if_false, Nat.not_lt_zero, decide_false, ite_self,
    List.find?_nil, Option.map_none, Option.getD_none, b2n_eq_toNat, Bool.toNat_false, Nat.mul_zero, List.flatten_nil, List.append_nil,
    List.contains_nil, List.any_nil, Bool.false_and, Bool.and_false, Bool.not_false, List.filter_true, List.flatMap_nil, List.filterMap_nil,
    takeTrap.cutBefore, BitVec.ofNat_toNat, BitVec.setWidth_eq]
  rfl

theorem wv_takeTrap_same (h : CanTrap s w) : wv (takeTrap s w imp r) w = handlerWave (wv s w) (trapWord imp r) := by
  rw [takeTrap_of_canTrap h, wv_setWv_same]

theorem wv_takeTrap_other (h : CanTrap s w) {x : Nat} (hx : x ≠ w) : wv (takeTrap s w imp r) x = wv s x := by
  rw [takeTrap_of_canTrap h, wv_setWv_other _ hx]
  rfl

theorem takeTrap_groups (h : CanTrap s w) : (takeTrap s w imp r).groups = s.groups := by
  rw [takeTrap_of_canTrap h]
  rfl

theorem gp_takeTrap (h : CanTrap s w) (k : Nat) : gp (takeTrap s w imp r) k = gp s k := by rw [gp, takeTrap_groups h, ← gp]

theorem bank_takeTrap (h : CanTrap s w) (p k : Nat) : bank (takeTrap s w imp r) p k = bank s p k := by
  rw [takeTrap_of_canTrap h]
  show ((pr (scrPut ..) p).banks).getD k _ = _
  by_cases hp : p = (gp s (wv s w).group).pair
  · subst hp
    rw [scrPut, scrWrite, pr_modPr_same]
    rfl
  · rw [scrPut, pr_scrWrite_other _ _ _ _ _ hp]
    rfl

/-- R388: what stands in the frame. -/
theorem scrRead_takeTrap (h : CanTrap s w) {o n x : Nat} (hx : BytesAt (trapFrame (wv s w) imp r) o (leBytes n x)) :
    scrRead (takeTrap s w imp r) (gp s (wv s w).group) ((wv s w).tframe.toNat + o) n = x % 256 ^ n := by
  rw [takeTrap_of_canTrap h]
  exact scrRead_scrPut hx

/-- R388: nothing but the frame is written. -/
theorem memByte_takeTrap (h : CanTrap s w) {a : Nat} (ha : a < scrAddr (gp s (wv s w).group) (wv s w).tframe.toNat ∨
    scrAddr (gp s (wv s w).group) (wv s w).tframe.toNat + 1024 ≤ a) :
    memByte (pr (takeTrap s w imp r) (gp s (wv s w).group).pair).scratch a = memByte (pr s (gp s (wv s w).group).pair).scratch a := by
  rw [takeTrap_of_canTrap h]
  show memByte (pr (scrPut ..) _).scratch a = _
  rw [scrPut, pr_scrWrite_same, trapFrame, length_frameHeader]
  exact memByte_memWrite_other _ _ _ _ ha

theorem trapNumber_lt (hcls : r.cls < 32) (hcode : r.code < 256) : trapNumber imp r < 2 ^ 24 := by
  have := imp.toNat_le
  unfold trapNumber
  omega

theorem toNat_trapWord (hcls : r.cls < 32) (hcode : r.code < 256) : (trapWord imp r).toNat = trapNumber imp r := by
  have := trapNumber_lt (imp := imp) hcls hcode
  rw [trapWord, BitVec.toNat_ofNat]
  exact Nat.mod_eq_of_lt (Nat.lt_trans this (by decide))

end Taken

section Handler

variable {v : Wave} {x : Word}

theorem ln_handlerWave (l : Nat) : ln (handlerWave v x) l = if awake (ln v l) then { ln v l with pc := handlerPc v } else ln v l := by
  show (v.lanes.map _).getD l idleLane = _
  rw [ln, List.getD_eq_getElem?_getD, List.getElem?_map, List.getD_eq_getElem?_getD]
  cases v.lanes[l]? <;> rfl

theorem sreg_handlerWave_zero : sreg (handlerWave v x) 0 = { bits := v.tframe, full := true } := by
  show tget zeroSReg (tset zeroSReg (tset zeroSReg v.sregs 0 _) 1 _) 0 = _
  rw [tget_tset_other _ (by decide), tget_tset_same]

theorem sreg_handlerWave_one : sreg (handlerWave v x) 1 = { bits := x, full := true } := tget_tset_same ..

theorem sreg_handlerWave_other {k : Nat} (hk : 2 ≤ k) : sreg (handlerWave v x) k = sreg v k := by
  show tget zeroSReg (tset zeroSReg (tset zeroSReg v.sregs 0 _) 1 _) k = _
  rw [tget_tset_other _ (by omega), tget_tset_other _ (by omega)]
  rfl

end Handler

/-- Settles O28: each field of the header is read where it was written. -/
theorem trapTaken : Obligations.TrapTaken := by
  unfold Obligations.TrapTaken
  intro s w imp r hc hcls hcode hdata hstatus v g t u f
  have hu : u = handlerWave v (trapWord imp r) := wv_takeTrap_same hc
  have hread {o n x : Nat} (hx : BytesAt (trapFrame v imp r) o (leBytes n x)) (hlt : x < 256 ^ n) : f o n = x :=
    (scrRead_takeTrap hc hx).trans (Nat.mod_eq_of_lt hlt)
  have hnum := trapNumber_lt (imp := imp) hcls hcode
  obtain ⟨h0, h4, h8, h12, h16, h24, h28, h32, h36, -, hpc⟩ := frameHeader_fields v r (trapNumber imp r) (sleepers v)
  refine ⟨congrArg Wave.tstat hu, hu ▸ sreg_handlerWave_zero, hu ▸ sreg_handlerWave_one, fun l hl => ?_, fun l hl => ?_,
    (congrArg Wave.vregs hu :), fun k hk => hu ▸ sreg_handlerWave_other hk, (congrArg Wave.q hu :), (congrArg Wave.fmode hu :),
    (congrArg Wave.flags hu :), (congrArg Wave.h hu :), ?_, hread h4 r.lmask.isLt, hread h8 r.head.isLt, hread h12 r.ext.isLt,
    hread h16 hdata, hread h24 hstatus, hread h28 (BitVec.isLt _), hread h32 (BitVec.isLt _), ?_, fun l hl => ?_, fun x hx => wv_takeTrap_other hc hx, takeTrap_mem s w imp r,
    fun a ha => memByte_takeTrap hc ha⟩
  · rw [hu, ln_handlerWave, if_pos hl]
  · rw [hu, ln_handlerWave, hl]
    rfl
  · exact (hread h0 (by omega)).trans (toNat_trapWord hcls hcode).symm
  · have h0 := (sreg v 0).full.toNat_le
    have h1 := (sreg v 1).full.toNat_le
    rw [hread h36 (by rw [b2n_eq_toNat, b2n_eq_toNat]; omega), b2n_eq_toNat, b2n_eq_toNat]
  · rw [show f (64 + 8 * l) 8 = _ from scrRead_takeTrap hc (hpc l hl)]
    split
    · rfl
    · rfl

/-! ### The return (R390) -/

/-- R390: a wave of no replay entry, as its return leaves it: `f` are the bits of `s0` and `s1`, `full` their full bits, `pc` the PCs and
`m` the lanes that slept. -/
def returnedWave (v : Wave) (f : Nat → Word) (full : Nat) (pc : Nat → Nat) (m : Lanes) : Wave :=
  let u := setSreg (setSreg v 0 { bits := f 0, full := bit full 0 }) 1 { bits := f 1, full := bit full 1 }
  { u with
    tstat := v.tstat &&& ~~~0x20#32, asleepAt := 0, replayEmpty := [], frameOps := [], heldTiles := [],
    guards := v.guards.map (guardBack u),
    lanes := v.lanes.mapIdx fun l x => if x.exited then x
      else { x with pc := pc l, sleep := if x.sleep = .woken || (inLanes v.asleepAt l && !inLanes m l) then .awake else x.sleep } }

section Return

variable {s : State} {w : Nat} {replay : State → Nat → Nat → Entry → State}

/-- R390: a frame of no entry that passes its checks. -/
theorem returnTrap_of_noEntry {v : Wave} {g : Group} {o : Nat} (hv : wv s w = v) (hg : gp s v.group = g) (ho : (sread v 0).toNat = o)
    (hn : bits (scrRead s g o 4) 28 24 = 0) (hok : frameOk s v g o 0 = true) (hids : v.frameOps = []) :
    returnTrap s w replay = modWv (setWv s w { returnedWave v (fun k => BitVec.ofNat 32 (scrRead s g (o + 28 + 4 * k) 4))
      (scrRead s g (o + 36) 1) (fun l => scrRead s g (o + 64 + 8 * l) 8) (BitVec.ofNat 32 (scrRead s g (o + 608) 4)) with ops := [] }) w
      fun u => { u with ops := u.ops ++ v.ops } := by
  subst hv hg ho
  unfold returnTrap
  simp only [hn, hok, Bool.not_true, Bool.false_eq_true, if_false, readEntries, replayEntries, List.nil_append]
  have hheld : (wv s w).ops.filter (fun o => !((wv s w).frameOps.contains o.id)) = (wv s w).ops := by
    rw [hids]
    exact List.filter_true ..
  simp only [setSreg] at hheld ⊢
  rw [hheld]
  rfl

end Return

theorem sread_handlerWave_zero (v : Wave) (x : Word) : sread (handlerWave v x) 0 = v.tframe := by
  rw [sread, sreg_handlerWave_zero]
  rfl

theorem bits_of_lt {x k : Nat} (h : x < 2 ^ k) (j : Nat) : bits x j k = 0 := by
  rw [bits, Nat.shiftRight_eq_div_pow, Nat.div_eq_of_lt h, Nat.zero_mod]

/-- R168, R386: a lane whose PC a frame can hold, and which no wait has ended for since an entry. -/
def LaneReturns (x : Lane) : Prop := x.exited = false → canonical x.pc = true ∧ x.pc % 4 = 0 ∧ x.pc < 2 ^ 64 ∧ x.sleep ≠ .woken

section Undone

variable {s : State} {w : Nat} {imp : Bool} {r : Trap}

/-- What the return reads in the frame. -/
theorem frame_reads (h : CanTrap s w) (hcls : r.cls < 32) (hcode : r.code < 256) (hl : ∀ l < 32, LaneReturns (ln (wv s w) l)) :
    let t := takeTrap s w imp r
    let v := wv s w
    let f := scrRead t (gp s v.group)
    let o := v.tframe.toNat
    bits (f (o + 4 * 0) 4) 28 24 = 0 ∧ f (o + 36) 1 = (sreg v 0).full.toNat + 2 * (sreg v 1).full.toNat ∧
    BitVec.ofNat 32 (f (o + 28 + 4 * 0) 4) = (sreg v 0).bits ∧ BitVec.ofNat 32 (f (o + 28 + 4 * 1) 4) = (sreg v 1).bits ∧
    BitVec.ofNat 32 (f (o + 608) 4) = sleepers v ∧
    ∀ l < 32, (ln v l).exited = false → f (o + 64 + 8 * l) 8 = (ln v l).pc := by
  intro t v f o
  obtain ⟨h0, -, -, -, -, -, h28, h32, h36, h608, hpc⟩ := frameHeader_fields v r (trapNumber imp r) (sleepers v)
  have hread {k n x : Nat} (hx : BytesAt (trapFrame v imp r) k (leBytes n x)) (hlt : x < 256 ^ n) : f (o + k) n = x :=
    (scrRead_takeTrap h hx).trans (Nat.mod_eq_of_lt hlt)
  have hword {k : Nat} {x : Word} (hx : BytesAt (trapFrame v imp r) k (leBytes 4 x.toNat)) : BitVec.ofNat 32 (f (o + k) 4) = x := by
    rw [hread hx x.isLt, BitVec.ofNat_toNat, BitVec.setWidth_eq]
  have hnum := trapNumber_lt (imp := imp) hcls hcode
  refine ⟨?_, ?_, by rw [Nat.mul_zero]; exact hword h28, by rw [Nat.add_assoc]; exact hword h32, hword h608, fun l hlt he => ?_⟩
  · rw [Nat.mul_zero, hread h0 (by omega)]
    exact bits_of_lt hnum 28
  · have hf0 := (sreg v 0).full.toNat_le
    have hf1 := (sreg v 1).full.toNat_le
    rw [hread h36 (by rw [b2n_eq_toNat, b2n_eq_toNat]; omega), b2n_eq_toNat, b2n_eq_toNat]
  · have hrow := hpc l hlt
    rw [he] at hrow
    rw [Nat.add_assoc]
    exact hread hrow (hl l hlt he).2.2.1

/-- R390: the frame passes the checks of the return. -/
theorem frameOk_takeTrap (h : CanTrap s w) (hcls : r.cls < 32) (hcode : r.code < 256) (hl : ∀ l < 32, LaneReturns (ln (wv s w) l)) :
    frameOk (takeTrap s w imp r) (handlerWave (wv s w) (trapWord imp r)) (gp s (wv s w).group) (wv s w).tframe.toNat 0 = true := by
  obtain ⟨-, hfull, -, -, -, hpc⟩ := frame_reads (imp := imp) h hcls hcode hl
  have hmodes : takeTrap.scrModes (takeTrap s w imp r) (gp s (wv s w).group) (wv s w).tframe.toNat 1024 = true :=
    (scrModes_iff (by decide)).2 fun k hk => by rw [bank_takeTrap h]; exact h.modes k hk
  have hf0 := (sreg (wv s w) 0).full.toNat_le
  have hf1 := (sreg (wv s w) 1).full.toNat_le
  unfold frameOk
  simp only [readEntries, List.map_nil, List.foldl_nil, List.all_nil, Nat.add_zero, h.fits, hmodes, Bool.and_true, Nat.zero_le, decide_true,
    Bool.true_and, Bool.and_eq_true, decide_eq_true_eq, List.all_eq_true, List.mem_range, Bool.or_eq_true, hfull]
  refine ⟨by omega, fun l hlt => ?_⟩
  have hex : (ln (handlerWave (wv s w) (trapWord imp r)) l).exited = (ln (wv s w) l).exited := by
    rw [ln_handlerWave]
    split <;> rfl
  rw [hex]
  cases he : (ln (wv s w) l).exited with
  | true => exact .inl rfl
  | false =>
    obtain ⟨hcan, hal, -, -⟩ := hl l hlt he
    rw [hpc l hlt he]
    exact .inr ⟨hcan, hal⟩

end Undone

section Undone

variable {v : Wave} {x : Word} {f : Nat → Word} {full : Nat} {pc : Nat → Nat} {m : Lanes}

theorem ln_returnedWave (l : Nat) : ln (returnedWave v f full pc m) l = if (ln v l).exited then ln v l
    else { ln v l with
      pc := pc l
      sleep := if (ln v l).sleep = .woken || (inLanes v.asleepAt l && !inLanes m l) then .awake else (ln v l).sleep } := by
  show (v.lanes.mapIdx _).getD l idleLane = _
  rw [ln, List.getD_eq_getElem?_getD, List.getElem?_mapIdx, List.getD_eq_getElem?_getD]
  cases v.lanes[l]? <;> rfl

/-- R390: a lane stands where it stood, and sleeps if it slept. -/
theorem ln_returnedWave_handlerWave {l : Nat} (hl : LaneReturns (ln v l)) (hpc : (ln v l).exited = false → pc l = (ln v l).pc)
    (hm : m = sleepers v) : ln (returnedWave (handlerWave v x) f full pc m) l = ln v l := by
  have hslept : (inLanes (handlerWave v x).asleepAt l && !inLanes m l) = false := by
    rw [hm]
    exact Bool.and_not_self _
  rw [ln_returnedWave, hslept, Bool.or_false, ln_handlerWave]
  cases he : (ln v l).exited with
  | true =>
    have hnot : awake (ln v l) = false := by rw [awake, he]; rfl
    rw [hnot, if_neg Bool.false_ne_true, if_pos he]
  | false =>
    have hwoken : (ln v l).sleep ≠ .woken := (hl he).2.2.2
    rw [hpc he]
    generalize ln v l = y at he hwoken ⊢
    cases y
    split <;> simp_all

theorem sreg_returnedWave_zero : sreg (returnedWave v f full pc m) 0 = { bits := f 0, full := bit full 0 } := by
  show tget zeroSReg (tset zeroSReg (tset zeroSReg v.sregs 0 _) 1 _) 0 = _
  rw [tget_tset_other _ (by decide), tget_tset_same]

theorem sreg_returnedWave_one : sreg (returnedWave v f full pc m) 1 = { bits := f 1, full := bit full 1 } := tget_tset_same ..

theorem sreg_returnedWave_other {k : Nat} (hk : 2 ≤ k) : sreg (returnedWave v f full pc m) k = sreg v k := by
  show tget zeroSReg (tset zeroSReg (tset zeroSReg v.sregs 0 _) 1 _) k = _
  rw [tget_tset_other _ (by omega), tget_tset_other _ (by omega)]
  rfl

/-- R390: of the rest, INH alone changes. -/
theorem returnedWave_rest : (returnedWave v f full pc m).vregs = v.vregs ∧
    (returnedWave v f full pc m).tstat = v.tstat &&& ~~~0x20#32 ∧ (returnedWave v f full pc m).fmode = v.fmode ∧
    (returnedWave v f full pc m).q = v.q := by
  unfold returnedWave
  exact ⟨rfl, rfl, rfl, rfl⟩

end Undone

/-- The two full bits of the frame. -/
theorem bit_fullBits (a b : Bool) : bit (a.toNat + 2 * b.toNat) 0 = a ∧ bit (a.toNat + 2 * b.toNat) 1 = b := by
  cases a <;> cases b <;> decide

/-- Settles O30: the return reads what the entry wrote. -/
theorem returnUndoesEntry : Obligations.ReturnUndoesEntry := by
  unfold Obligations.ReturnUndoesEntry
  intro s w imp r replay hc hcls hcode _ _ hl v t u
  obtain ⟨hn, hfull, hs0, hs1, hslept, hpc⟩ := frame_reads (imp := imp) hc hcls hcode hl
  have ht := returnTrap_of_noEntry (replay := replay) (wv_takeTrap_same (imp := imp) (r := r) hc)
    (gp_takeTrap hc v.group) (congrArg BitVec.toNat (sread_handlerWave_zero v _)) hn
    (frameOk_takeTrap hc hcls hcode hl) rfl
  rw [hfull, hslept] at ht
  obtain ⟨hb0, hb1⟩ := bit_fullBits (sreg v 0).full (sreg v 1).full
  generalize hW : returnedWave _ _ _ _ _ = W at ht
  have hlanes : ∀ l < 32, ln W l = ln v l := fun l hlt => by
    rw [← hW]
    exact ln_returnedWave_handlerWave (hl l hlt) (hpc l hlt) rfl
  have hzero : sreg W 0 = sreg v 0 := by rw [← hW, sreg_returnedWave_zero, hs0, hb0]
  have hone : sreg W 1 = sreg v 1 := by rw [← hW, sreg_returnedWave_one, hs1, hb1]
  have hother : ∀ k, 2 ≤ k → sreg W k = sreg v k := fun k hk => by rw [← hW, sreg_returnedWave_other hk, sreg_handlerWave_other hk]
  obtain ⟨hvregs, htstat, hfmode, hq⟩ := hW ▸ returnedWave_rest
  have hu : u = wv (returnTrap (takeTrap s w imp r) w replay) w := rfl
  rw [ht, wv_modWv_same, wv_setWv_same] at hu
  have hidle : inh u = false := by
    rw [hu]
    show W.tstat.getLsbD 5 = false
    rw [htstat, BitVec.getLsbD_and, BitVec.getLsbD_not]
    exact Bool.and_false _
  refine ⟨fun l hlt => ?_, ?_, ?_, fun k hk => ?_, ?_, hidle, ?_, ?_, ?_, fun x hx => ?_, ?_⟩
  · rw [hu]
    exact hlanes l hlt
  · rw [hu]
    exact hzero
  · rw [hu]
    exact hone
  · rw [hu]
    exact hother k hk
  · rw [hu]
    exact hvregs
  · rw [hu]
    exact htstat
  · rw [hu]
    exact hfmode
  · rw [hu]
    exact hq
  · show wv (returnTrap (takeTrap s w imp r) w replay) x = wv s x
    rw [ht, wv_modWv_other _ hx, wv_setWv_other _ hx, wv_takeTrap_other hc hx]
  · show (returnTrap (takeTrap s w imp r) w replay).mem = s.mem
    rw [ht]
    exact takeTrap_mem s w imp r

end Sys2Proof.Machine
end

section
/-! Traps that no handler takes (R387, R388, R391). -/

namespace Sys2Proof.Machine
open Sys2Proof.Machine.State

/-- R398: the context is fenced. -/
theorem cx_fence (s : State) (c : Nat) : (cx (fence s c) c).fenced = true := by
  unfold fence
  split
  · assumption
  · dsimp only
    generalize dropContracts (dropWaves s c) c = u
    exact congrArg Ctx.fenced (cx_modCx_same u c fun x => { x with fenced := true, saves := [] })

section Refused

variable {s : State} {w : Nat} {imp : Bool} {r : Trap}

/-- R388: the lengths of the frame's parts. -/
theorem frameSize_eq (h : (wv s w).pend = []) : frameSize s w =
    1024 + (((((takeTrap.v0 s w).ops.filter fun o => o.window).map fun o => (o, entryLanes s o)).filter (fun e => decide (e.2 ≠ 0))).map
      fun e => (entryBytes e.1 e.2).length).foldl (· + ·) 0 := by
  have hops : (takeTrap.v0 s w).ops = (wv s w).ops := by
    rw [v0_of_landed h]
    exact (congrArg Wave.ops (unstarted_rest (wv s w)) :)
  rw [hops, ← List.sum_eq_foldl, List.filter_map, List.map_map]
  rfl

/-- R387: a handler that cannot be entered. -/
theorem takeTrap_refused (hp : (wv s w).pend = [])
    (h : (!((wv s w).tba.getLsbD 0) || inh (wv s w) || !(scrIn (gp s (wv s w).group) (wv s w).tframe.toNat (frameSize s w)) ||
      !(takeTrap.scrModes s (gp s (wv s w).group) (wv s w).tframe.toNat (frameSize s w))) = true) :
    takeTrap s w imp r = fence (logEntry s (wv s w).ctx (report r.code r.cls 0 (wv s w).core
      (if r.cls = 7 then (r.causes.head?.map fun x => x.2.2).getD 0 else if r.cls = 8 then 0 else r.data) r.status)) (wv s w).ctx := by
  rw [frameSize_eq hp] at h
  unfold takeTrap
  simp only [List.map_map, Function.comp_def]
  have hv := v0_of_landed hp
  have hrest := unstarted_rest (s := s) (wv s w)
  have htba : (takeTrap.v0 s w).tba = (wv s w).tba := by rw [hv]; exact (congrArg Wave.tba hrest :)
  have hinh : inh (takeTrap.v0 s w) = inh (wv s w) := by rw [hv]; exact (congrArg inh hrest :)
  have hframe : (takeTrap.v0 s w).tframe = (wv s w).tframe := by rw [hv]; exact (congrArg Wave.tframe hrest :)
  have hgroup : (takeTrap.v0 s w).group = (wv s w).group := by rw [hv]; exact (congrArg Wave.group hrest :)
  have hctx : (takeTrap.v0 s w).ctx = (wv s w).ctx := by rw [hv]; exact (congrArg Wave.ctx hrest :)
  have hcore : (takeTrap.v0 s w).core = (wv s w).core := by rw [hv]; exact (congrArg Wave.core hrest :)
  rw [htba, hinh, hframe, hgroup, if_pos h, hctx, hcore]

end Refused

/-- Settles O29: each cause is one that the entry looks at. -/
theorem trapWithoutHandlerFences : Obligations.TrapWithoutHandlerFences := by
  unfold Obligations.TrapWithoutHandlerFences
  intro s w imp r hp v g off n addr h
  have htaken := takeTrap_refused (imp := imp) (r := r) hp (by
    obtain h | h | ⟨-, -, h | ⟨k, hk, h⟩⟩ := h
    · rw [h]; rfl
    · rw [h, Bool.or_true]; rfl
    · rw [h]; simp
    · have hmodes : takeTrap.scrModes s g off n = false :=
        Bool.eq_false_iff.2 fun hm => h ((scrModes_iff (Nat.zero_lt_of_lt hk)).1 hm k hk)
      rw [hmodes, Bool.not_false, Bool.or_true])
  exact ⟨htaken, htaken ▸ cx_fence _ _⟩

end Sys2Proof.Machine
end

section
/-! A software trap that waits (R319, R382): the frame's copies of `s0` and `s1` are still owed a value. -/

namespace Sys2Proof.Machine
open Sys2Proof.Machine.State Sys2Proof.Tests

/-- A wave with its handler enabled, whose `sld` to `s0` has left the replay window and has its value on its way. -/
def owedS0 : State :=
  withWave (fun v => { v with
    ops := [opr0 (.sld { hd with a := 0 } mx)]
    results := [{ id := 9, op := 3, lanes := 1, due := 100, writes := { noWrites with sregs := [(0, 5)] } }] }) handled

/-- Nothing of the wave is in its replay window or lands by fixed latency, so that it meets `CanTrap`. -/
theorem canTrap_owedS0 : CanTrap owedS0 1 where
  enabled := by decide +kernel
  idle := by decide +kernel
  fits := by decide +kernel
  modes := by decide +kernel
  window := by decide +kernel
  landed := by decide +kernel

/-- Refutes O50: with a value on its way to `s0` of an operation outside the window the trap is noted and not yet taken (log 153), so that
`TSTAT` still holds 0. -/
theorem not_softwareTrap : ¬ Obligations.SoftwareTrap := by
  unfold Obligations.SoftwareTrap
  intro h
  obtain ⟨t, -, rfl, htaken⟩ := (h hd ix owedS0).2.2 (issuable_of (by decide +kernel)) (by decide +kernel)
  obtain ⟨htstat, -, -⟩ := htaken canTrap_owedS0
  exact absurd htstat (by decide +kernel)

end Sys2Proof.Machine
end

section
/-! Branches, ends and `land` (R312 to R317): what ending lanes and waves leaves waiting, and each instruction's effect. -/

namespace Sys2Proof.Machine
open Sys2Proof.Machine.State

/-! ### Ending lanes and waves waits for nothing (log 127) -/

theorem foldl_blocked {β : Type} {f : State → β → State} (h : ∀ s x, (f s x).blocked = s.blocked) :
    ∀ (l : List β) (s : State), (l.foldl f s).blocked = s.blocked
  | [], _ => rfl
  | x :: r, s => (foldl_blocked h r _).trans (h s x)

theorem serveQueue_blocked (g q : Nat) : ∀ (n : Nat) (s : State), (serveQueue g q n s).blocked = s.blocked
  | 0, _ => rfl
  | n + 1, s => by
    unfold serveQueue
    dsimp only
    split
    · rfl
    · split
      · exact serveQueue_blocked g q n _
      · rfl

theorem toPool_blocked (s : State) (g q k : Nat) : (toPool s g q k).blocked = s.blocked := serveQueue_blocked g q _ _

theorem dropBank_blocked (s : State) (c k : Nat) : (dropBank s c k).blocked = s.blocked := by
  unfold dropBank
  dsimp only
  refine foldl_blocked (fun s x => ?_) _ s
  unfold evict
  dsimp only
  split <;> rfl

theorem removeBank_blocked (s : State) (p k : Nat) : (removeBank s p k).blocked = s.blocked := by
  unfold removeBank
  split
  · exact dropBank_blocked ..
  · exact dropBank_blocked ..
  · rfl

theorem releaseAlloc_blocked (s : State) (g : Nat) : (releaseAlloc s g).blocked = s.blocked := by
  unfold releaseAlloc
  refine foldl_blocked (fun s k => ?_) _ s
  exact removeBank_blocked ..

theorem tileToFree_blocked (s : State) (pa : Nat) : (tileToFree s pa).blocked = s.blocked := by
  unfold tileToFree
  refine foldl_blocked (fun s l => ?_) _ s
  rfl

theorem dropThese_blocked (s : State) (ws gs : List Nat) (all : Nat → Bool) : (dropThese s ws gs all).blocked = s.blocked := by
  have hpass (s : State) (p : Nat) : (if (pr s p).batonPass = none then passBaton s p none else s).blocked = s.blocked := by
    split <;> rfl
  have hpin (s : State) (p : Nat) : (unpin s p).blocked = s.blocked := rfl
  unfold dropThese
  dsimp only
  rw [foldl_blocked hpass]
  dsimp only
  rw [foldl_blocked hpin, foldl_blocked releaseAlloc_blocked]

theorem dropWaves_blocked (s : State) (c : Nat) : (dropWaves s c).blocked = s.blocked := by
  unfold dropWaves
  dsimp only
  rw [foldl_blocked tileToFree_blocked, dropThese_blocked]

theorem dropContracts_blocked (s : State) (c : Nat) : (dropContracts s c).blocked = s.blocked := by
  unfold dropContracts
  refine foldl_blocked (fun s q => ?_) _ s
  rfl

theorem fence_blocked (s : State) (c : Nat) : (fence s c).blocked = s.blocked := by
  unfold fence
  split
  · rfl
  · have hmod (u : State) : (modCx u c fun x => { x with fenced := true, saves := [] }).blocked = u.blocked := rfl
    dsimp only
    rw [hmod, dropContracts_blocked, dropWaves_blocked]

theorem logEntry_blocked (s : State) (c : Nat) (e : LogSlot) : (logEntry s c e).blocked = s.blocked := by
  unfold logEntry
  dsimp only
  split
  · exact fence_blocked s c
  · rfl

theorem endAccs_blocked (s : State) (w : Nat) : (endAccs s w).blocked = s.blocked := by
  unfold endAccs
  refine foldl_blocked (fun s a => ?_) _ _
  split
  · exact logEntry_blocked ..
  · rfl

theorem endWave_blocked (s : State) (w : Nat) : (endWave s w).blocked = s.blocked := by
  unfold endWave
  dsimp only
  split
  · rfl
  · rw [toPool_blocked]
    generalize hu : endAccs _ w = u
    have hblocked : u.blocked = s.blocked := hu ▸ endAccs_blocked _ w
    split <;> exact hblocked

theorem exitLanes_blocked (s : State) (w : Nat) (m : Lanes) : (exitLanes s w m).blocked = s.blocked := by
  unfold exitLanes
  dsimp only
  split
  · rw [endWave_blocked]
    rfl
  · rfl

/-! ### Targets and links (R312, R314) -/

theorem directTarget_eq (pc : Nat) (t : BExt) : directTarget pc t = offsetBy (pc + 8) t.off := by
  rw [directTarget, offsetBy, wrap, sext_eq_toInt]
  rfl

theorem registerTarget_eq (x : Nat) (t : BExt) : registerTarget x t = offsetBy x t.off := by
  rw [registerTarget, offsetBy, wrap, sext_eq_toInt]
  rfl

/-- Where it may issue, the instruction does `f` to its active lanes once it has. -/
def ActsAs (i : Instr) (s : State) (f : Lanes → State → State) : Prop :=
  Issuable i s → exec i s = .next (f (active (specOf i) s) (advance (specOf i) s))

/-- A control instruction whose effect waits for nothing. -/
theorem control_acts {i : Instr} {eff f : Lanes → State → State} {s : State} (hexec : exec i s = control i eff s)
    (heff : eff (active (specOf i) s) (advance (specOf i) s) = f (active (specOf i) s) (advance (specOf i) s))
    (hb : ∀ m u, (f m u).blocked = u.blocked) : ActsAs i s f := fun hi => by
  rw [hexec, control_go hi (heff ▸ ((hb ..).trans (advance_blocked ..)).trans hi.free), heff]

theorem linked_blocked (s u : State) (m : Lanes) (ws : Writes) : (linked s m ws u).blocked = u.blocked := by
  unfold linked
  split <;> rfl

section Control

variable (h : Head) (t : BExt) (s : State)

theorem br_acts : ActsAs (.br h t) s fun m u => setPcs u s.cur.wave m fun _ => offsetBy (s.cur.pc + 8) t.off := by
  refine control_acts (eff := fun m s => setPcs s s.cur.wave m fun _ => directTarget s.cur.pc t) rfl ?_ fun _ _ => rfl
  rw [advance_cur, directTarget_eq]

theorem ubr_acts : ActsAs (.ubr h t) s fun m u => setPcs u s.cur.wave m fun _ => offsetBy (s.cur.pc + 8) t.off := by
  refine control_acts (eff := fun m s => setPcs s s.cur.wave m fun _ => directTarget s.cur.pc t) rfl ?_ fun _ _ => rfl
  rw [advance_cur, directTarget_eq]

theorem setPcs_cur (u : State) (w : Nat) (m : Lanes) (f : Nat → Nat) : (setPcs u w m f).cur = u.cur := rfl

/-- R314: a lane's link is the address after the call. -/
theorem laneLinks_eq {i : Instr} {a : BitVec 8} (hd : dstRegs (specOf i) = [a.toNat, a.toNat + 1]) (m : Lanes) :
    laneLinks (specOf i) m s.cur.pc = laneLink s a m := by
  rw [laneLinks, hd]
  rfl

theorem callDirect_acts : ActsAs (.callDirect h t) s fun m u =>
    linked s m (laneLink s h.a m) (setPcs u s.cur.wave m fun _ => offsetBy (s.cur.pc + 8) t.off) := by
  refine control_acts (eff := fun m s =>
    let w := s.cur.wave
    let s := setPcs s w m fun _ => directTarget s.cur.pc t
    if m = 0 then s else
    modWv s w fun v => addPend v (cycAt s v.core) (laneLinks (specOf (.callDirect h t)) m s.cur.pc)) rfl ?_ fun _ _ => linked_blocked ..
  dsimp only
  rw [setPcs_cur, advance_cur, directTarget_eq, laneLinks_eq s rfl]
  rfl

theorem ucall_acts : ActsAs (.ucall h t) s fun m u => linked s m
    { noWrites with sregs := [(h.a.toNat, BitVec.ofNat 32 (s.cur.pc + 8)), (h.a.toNat + 1, BitVec.ofNat 32 ((s.cur.pc + 8) / 2 ^ 32))] }
    (setPcs u s.cur.wave m fun _ => offsetBy (s.cur.pc + 8) t.off) := by
  refine control_acts (eff := fun m s =>
    let w := s.cur.wave
    let s := setPcs s w m fun _ => directTarget s.cur.pc t
    if m = 0 then s else
    modWv s w fun v => addPend v (cycAt s v.core)
      { noWrites with sregs := (dstRegs (specOf (.ucall h t))).zip (natWords 2 (s.cur.pc + 8)) }) rfl ?_ fun _ _ => linked_blocked ..
  dsimp only
  rw [setPcs_cur, advance_cur, directTarget_eq]
  rfl

theorem nop_acts : ActsAs (.nop h) s fun _ u => u := control_acts (eff := fun _ s => s) rfl rfl fun _ _ => rfl

theorem land_acts : ActsAs (.land h) s fun _ u => u := control_acts (eff := fun _ s => s) rfl rfl fun _ _ => rfl

theorem exitShort_acts : ActsAs (.exitShort h) s fun m u => exitLanes u s.cur.wave m := by
  refine control_acts (eff := fun m s => exitLanes s s.cur.wave m) rfl ?_ fun _ _ => exitLanes_blocked ..
  rw [advance_cur]

theorem exitL_acts : ActsAs (.exitL h t) s fun m u => exitLanes u s.cur.wave m := by
  refine control_acts (eff := fun m s => exitLanes s s.cur.wave m) rfl ?_ fun _ _ => exitLanes_blocked ..
  rw [advance_cur]

theorem endAll_blocked (w : Nat) (m : Lanes) (u : State) : (if m = 0 then u else exitLanes u w allLanes).blocked = u.blocked := by
  split
  · rfl
  · exact exitLanes_blocked ..

theorem endShort_acts : ActsAs (.endShort h) s fun m u => if m = 0 then u else exitLanes u s.cur.wave allLanes := by
  refine control_acts (eff := fun m s => if m = 0 then s else exitLanes s s.cur.wave allLanes) rfl ?_ fun _ _ => endAll_blocked ..
  rw [advance_cur]

theorem endW_acts : ActsAs (.endW h t) s fun m u => if m = 0 then u else exitLanes u s.cur.wave allLanes := by
  refine control_acts (eff := fun m s => if m = 0 then s else exitLanes s s.cur.wave allLanes) rfl ?_ fun _ _ => endAll_blocked ..
  rw [advance_cur]

end Control

/-- Settles O47: each is one effect on the state after the issue, and none of them waits. -/
theorem branchesCallsAndEnds : Obligations.BranchesCallsAndEnds := by
  unfold Obligations.BranchesCallsAndEnds
  exact fun h t s => ⟨br_acts h t s, ubr_acts h t s, callDirect_acts h t s, ucall_acts h t s, nop_acts h s, exitShort_acts h s,
    exitL_acts h t s, endShort_acts h s, endW_acts h t s⟩

/-! ### The words that are `land` (R316) -/

section Land

variable {w e : BitVec 32} {h : Head}

/-- R316: S = 0, X = 0, OP = 0xD4, A = 0 and B = 0. -/
def IsLand (w : BitVec 32) : Prop :=
  w.getLsbD 31 = false ∧ w.getLsbD 30 = false ∧ w.extractLsb' 16 8 = 0xD4 ∧ w.extractLsb' 0 16 = 0

theorem getLsbD_iff_bit (w : BitVec 32) (k : Nat) : w.getLsbD k = false ↔ bit w.toNat k = false := by
  rw [bit, ← BitVec.testBit_toNat, Nat.testBit_eq_decide_div_mod_eq, Nat.shiftRight_eq_div_pow]

theorem extract_eq_iff {len : Nat} (w : BitVec 32) (start : Nat) (x : BitVec len) :
    w.extractLsb' start len = x ↔ w.toNat / 2 ^ start % 2 ^ len = x.toNat := by
  rw [← BitVec.toNat_inj, BitVec.extractLsb'_toNat, Nat.shiftRight_eq_div_pow]

/-- A and B are the low half of the word. -/
theorem lowHalf_zero_iff : w.extractLsb' 0 16 = 0 ↔ (headOf w).a = 0 ∧ (headOf w).b = 0 := by
  show _ ↔ w.extractLsb' 8 8 = 0 ∧ w.extractLsb' 0 8 = 0
  simp only [extract_eq_iff, BitVec.ofNat_eq_ofNat, BitVec.toNat_ofNat]
  omega

theorem landWord_iff : landWord w.toNat = true ↔ IsLand w := by
  unfold landWord IsLand
  rw [getLsbD_iff_bit, getLsbD_iff_bit, extract_eq_iff, extract_eq_iff]
  simp only [Bool.and_eq_true, beq_iff_eq, decide_eq_true_eq, and_assoc]
  refine and_congr_right fun _ => and_congr_right fun _ => ?_
  simp only [bits, Nat.shiftRight_zero, BitVec.ofNat_eq_ofNat, BitVec.toNat_ofNat]
  omega

theorem wellFormed_land_iff : WellFormed (.land h) = true ↔ h.a = 0 ∧ h.b = 0 := by
  show (decide (h.a = 0) && decide (h.b = 0)) = true ↔ _
  rw [Bool.and_eq_true, decide_eq_true_eq, decide_eq_true_eq]

/-- R219, R230: the maps read such a head word as `land`. -/
theorem decodeWords_land_iff : decodeWords w e = .ok (.land h) ↔ IsLand w ∧ h = headOf w := by
  constructor
  · intro hw
    have hraw := rawOf_of_decodeWords hw
    obtain ⟨henc, -⟩ := encode_of_rawOf hraw
    have hform : WellFormed (.land h) = true := by
      rw [decodeWords, hraw] at hw
      by_contra hn
      simp [hn] at hw
    have hword : headWord 0 0 0xd4 h = w := by
      cases hx : hasExt w with
      | true => rw [hx] at henc; cases henc
      | false => rw [hx] at henc; exact List.singleton_inj.1 henc
    subst hword
    rw [IsLand, lowHalf_zero_iff, headOf_headWord]
    exact ⟨⟨set_headWord .., form_headWord .., opcode_headWord .., wellFormed_land_iff.1 hform⟩, rfl⟩
  · rintro ⟨⟨hs, hx, hop, hlow⟩, rfl⟩
    refine decodeWords_of_rawOf ?_ (wellFormed_land_iff.2 (lowHalf_zero_iff.1 hlow))
    simp only [rawOf, hs, hx, hop]
    rfl

end Land

/-- Settles O49: `land` is one line of the lane short map, and its head fields are free but for A and B. -/
theorem landWords : Obligations.LandWords := by
  unfold Obligations.LandWords
  refine ⟨fun w e h => ?_, fun w => ?_, by decide +kernel, fun w e hs hx hop => ?_, fun h s => land_acts h s⟩
  · rw [decodeWords_land_iff, IsLand, and_assoc, and_assoc, and_assoc]
    refine and_congr_right fun _ => and_congr_right fun _ => and_congr_right fun _ => and_congr_right fun hlow => ?_
    obtain ⟨ha, hb⟩ := lowHalf_zero_iff.1 hlow
    rw [show headOf w = { d := w.extractLsb' 28 2, w := w.extractLsb' 24 4, a := (headOf w).a, b := (headOf w).b } from rfl, ha, hb]
  · rw [landWord_iff]
    exact ⟨fun hw => ⟨0, headOf w, decodeWords_land_iff.2 ⟨hw, rfl⟩⟩, fun ⟨e, h, hw⟩ => (decodeWords_land_iff.1 hw).1⟩
  · have hunlisted := unlistedOpcodesRejected
    unfold Obligations.UnlistedOpcodesRejected at hunlisted
    exact ⟨_, hunlisted w e (by rw [hs, hx, hop]; rfl)⟩

end Sys2Proof.Machine
end

section
/-! System registers (R209, R321 to R323). -/

namespace Sys2Proof.Machine
open Sys2Proof.Machine.State

section SystemRegisters

variable (h : Head) (e : IExt) {s : State}

/-- R323: a read of number 0 latches the high word of the same count. -/
def latched (s : State) : State :=
  modWv s s.cur.wave fun u => { u with cycHigh := some (BitVec.ofNat 32 (cycAt s (curWave s).core / 2 ^ 32)) }

theorem active_latched (sp : Spec) (s : State) : active sp (latched s) = active sp s := by
  have hwave : curWave (latched s) = { curWave s with cycHigh := some (BitVec.ofNat 32 (cycAt s (curWave s).core / 2 ^ 32)) } :=
    wv_modWv_same ..
  have hcur : wv (latched s) (latched s).cur.wave = curWave (latched s) := rfl
  rw [active, active, hcur, hwave]
  rfl

theorem sgetr_reads {x : Nat} (hx : sysRead s s.cur.wave e.imm.toNat = some x) (hi : Issuable (.sgetr h e) s) :
    exec (.sgetr h e) s = .next (issuedWith (.sgetr h e) { noWrites with sregs := [(h.a.toNat, BitVec.ofNat 32 x)] }
      (if e.imm.toNat = 0 ∧ active (specOf (.sgetr h e)) s ≠ 0 then latched s else s)) := by
  show execSgetr h e s = _
  rw [execSgetr]
  refine (runOp_go_of hi (by rw [hx]; rfl) rfl rfl _).trans ?_
  dsimp only
  rw [hx]
  split
  · rw [← active_latched]
    exact congrArg Host.Outcome.next (aluEff_unraised (s := latched s) _)
  · exact congrArg Host.Outcome.next (aluEff_unraised _)

/-- R231: an instruction whose own operands are illegal. -/
theorem runOp_illegal {i : Instr} {bad : Bool} (hb : bad = true) (eff : Lanes → State → State) :
    runOp i (specOf i) bad false false eff s = .next (raisePrecise (stall s 8) (trapOf i 1 0 s.cur.lanes)) := by
  subst hb
  exact runOp_trap (gate_bad ..) eff

theorem sgetr_illegal (hx : sysRead s s.cur.wave e.imm.toNat = none) :
    exec (.sgetr h e) s = .next (raisePrecise (stall s 8) (trapOf (.sgetr h e) 1 0 s.cur.lanes)) := by
  show execSgetr h e s = _
  rw [execSgetr]
  exact runOp_illegal (by rw [hx]; rfl) _

theorem sysWritable_iff {n : Nat} : sysWritable n = true ↔ n ∈ [0x040, 0x050, 0x080, 0x081, 0x082] := List.contains_iff_mem

theorem fmodeOk_iff {x : Nat} : fmodeOk x = true ↔ 1 ≤ x % 8 ∧ x % 8 ≤ 5 ∧ x / 8 % 4 ≠ 3 := by
  simp only [fmodeOk, Bool.and_eq_true, decide_eq_true_eq, and_assoc]
  rw [bits, Nat.shiftRight_eq_div_pow]
  rfl

theorem ssetr_writes (hn : e.imm.toNat ∈ [0x040, 0x050, 0x080, 0x081, 0x082])
    (hmode : e.imm.toNat ≠ 0x040 ∨ fmodeOk (source (.ssetr h e) s 0 0) = true) (hi : Issuable (.ssetr h e) s) :
    exec (.ssetr h e) s = .next (issuedWith (.ssetr h e)
      { noWrites with sys := [(e.imm.toNat, BitVec.ofNat 32 (source (.ssetr h e) s 0 0))] } s) := by
  show execSsetr h e s = _
  rw [execSsetr]
  refine (runOp_go_of hi (by rw [sysWritable_iff.2 hn]; rfl) rfl rfl _).trans ?_
  dsimp only
  rw [if_neg]
  · exact congrArg Host.Outcome.next (aluEff_unraised _)
  · rintro ⟨-, hfmode, hbad⟩
    exact hmode.elim (fun hne => hne hfmode) fun hok => Bool.false_ne_true (hbad.symm.trans hok)

theorem ssetr_reserved_mode (hn : e.imm.toNat = 0x040) (hmode : fmodeOk (source (.ssetr h e) s 0 0) = false)
    (hm : active (specOf (.ssetr h e)) s ≠ 0) (hi : Issuable (.ssetr h e) s) :
    exec (.ssetr h e) s = .next (raisePrecise s (trapOf (.ssetr h e) 1 0 s.cur.lanes)) := by
  show execSsetr h e s = _
  rw [execSsetr]
  refine (runOp_go_of hi (by rw [hn]; rfl) rfl rfl _).trans ?_
  dsimp only
  rw [if_pos ⟨hm, hn, hmode⟩]

theorem ssetr_illegal (hn : e.imm.toNat ∉ [0x040, 0x050, 0x080, 0x081, 0x082]) :
    exec (.ssetr h e) s = .next (raisePrecise (stall s 8) (trapOf (.ssetr h e) 1 0 s.cur.lanes)) := by
  have hbad : sysWritable e.imm.toNat = false := Bool.eq_false_iff.2 fun hw => hn (sysWritable_iff.1 hw)
  show execSsetr h e s = _
  rw [execSsetr]
  exact runOp_illegal (by rw [hbad]; rfl) _

/-- R209, R323, R385: what a landing write of a system register sets. -/
theorem land_sys (v : Wave) (n : Nat) (x : Word) : land false v { noWrites with sys := [(n, x)] } =
    { landSys v (n, x) with fmode := (landSys v (n, x)).fmode ||| 0 } := rfl

end SystemRegisters

/-- Settles O51: a number is read or written where the table of R321 has it, and is illegal elsewhere. -/
theorem systemRegisters : Obligations.SystemRegisters := by
  unfold Obligations.SystemRegisters
  intro h e s num v g p b illegal
  refine ⟨fun x hx hi => sgetr_reads h e hx hi, fun hx _ => sgetr_illegal h e hx, rfl, fun hn hb hi => ssetr_writes h e hn ?_ hi,
    fun hn hb hm hi => ssetr_reserved_mode h e hn ?_ hm hi, fun hn _ => ssetr_illegal h e hn, fun x => ?_⟩
  · exact hb.imp_right fmodeOk_iff.2
  · refine Bool.eq_false_iff.2 fun hok => ?_
    obtain ⟨h1, h2, h3⟩ := fmodeOk_iff.1 hok
    obtain hb | hb | hb := hb
    · exact absurd (hb ▸ h1 : 1 ≤ 0) (by decide)
    · exact absurd h2 (Nat.not_le.2 hb)
    · exact h3 hb
  · refine ⟨?_, rfl, rfl, rfl⟩
    rw [land_sys]
    exact BitVec.or_zero

end Sys2Proof.Machine
end

section
/-! What an access that an instruction makes of its own leaves alone (R15 to R28, R72 to R75): what issues, and the waves. -/

namespace Sys2Proof.Machine
open Sys2Proof.Machine.State

/-- What issues, and every wave, are as they were. -/
abbrev KeepsIssue (s t : State) : Prop := t.cur = s.cur ∧ t.waves = s.waves

theorem KeepsIssue.trans {s t u : State} (h : KeepsIssue s t) (h' : KeepsIssue t u) : KeepsIssue s u :=
  ⟨h'.1.trans h.1, h'.2.trans h.2⟩

theorem foldl_keepsIssue {β : Type} {f : State → β → State} (h : ∀ s x, KeepsIssue s (f s x)) :
    ∀ (l : List β) (s : State), KeepsIssue s (l.foldl f s)
  | [], _ => ⟨rfl, rfl⟩
  | x :: r, s => (h s x).trans (foldl_keepsIssue h r _)

theorem foldl_keepsIssue_fst {β γ : Type} {f : State × γ → β → State × γ} (h : ∀ a x, KeepsIssue a.1 (f a x).1) :
    ∀ (l : List β) (a : State × γ), KeepsIssue a.1 (l.foldl f a).1
  | [], _ => ⟨rfl, rfl⟩
  | x :: r, a => (h a x).trans (foldl_keepsIssue_fst h r _)

/-! ### Bytes at their homes -/

@[simp] theorem msRequest_keepsIssue (s : State) (line : Nat) (write : Bool) (core : Nat) :
    KeepsIssue s (msRequest s line write core) := ⟨rfl, rfl⟩

@[simp] theorem setHomeByte_keepsIssue (s : State) (pa : Nat) (b : Byte) : KeepsIssue s (setHomeByte s pa b) := by
  unfold setHomeByte keepWas
  split
  · exact ⟨rfl, rfl⟩
  · split <;> exact ⟨rfl, rfl⟩

@[simp] theorem lineFill_keepsIssue (s : State) (line : Nat) (m : BitVec 128) (core : Nat) :
    KeepsIssue s (lineFill s line m core) := by
  unfold lineFill
  (repeat' split) <;> simp [KeepsIssue]

@[simp] theorem homeLine_keepsIssue (s : State) (line : Nat) (m : BitVec 128) (d : BitVec 1024) :
    KeepsIssue s (homeLine s line m d) :=
  foldl_keepsIssue (fun s k => by split <;> simp [KeepsIssue]) _ s

@[simp] theorem bringEntry_keepsIssue (line : Nat) (k : BitVec 128) (a : State × BitVec 128) (e : DafEntry) :
    KeepsIssue a.1 (bringEntry line k a e).1 := by
  unfold bringEntry
  (repeat' split) <;> simp [KeepsIssue]

@[simp] theorem onEntry_bringEntry_keepsIssue (c line : Nat) (k : BitVec 128) (a : State × BitVec 128) (m : Msg) :
    KeepsIssue a.1 (onEntry c (bringEntry line k) a m).1 := by
  unfold onEntry
  (repeat' split) <;> simp [KeepsIssue]

@[simp] theorem bringCopy_keepsIssue (line : Nat) (held : BitVec 32) (x : Option L1Line) (a : State × BitVec 128) :
    KeepsIssue a.1 (bringCopy line held x a).1 := by
  unfold bringCopy
  split <;> simp [KeepsIssue]

@[simp] theorem pull_keepsIssue (line : Nat) (take : Bool) (a : State × BitVec 128) (cw : Nat × BitVec 32) :
    KeepsIssue a.1 (pull line take a cw).1 := by
  have hm := foldl_keepsIssue_fst (onEntry_bringEntry_keepsIssue cw.1 line (maskOfWords cw.2))
  have he := foldl_keepsIssue_fst (bringEntry_keepsIssue line (maskOfWords cw.2))
  have hs : ∀ u c f g h, KeepsIssue u (modCr (if take then stopFills (spendSent c f u) c g else spendSent c f u) c h) := by
    intros
    split <;> exact ⟨rfl, rfl⟩
  unfold pull
  dsimp only
  split
  · exact ⟨rfl, rfl⟩
  · exact ((((hm _ a).trans (hm _ _)).trans (he _ _)).trans (bringCopy_keepsIssue ..)).trans (hs ..)

@[simp] theorem gather_keepsIssue (s : State) (line : Nat) (m : BitVec 128) (take : Bool) :
    KeepsIssue s (gather s line m take).1 := by
  have hp := fun t => foldl_keepsIssue_fst (pull_keepsIssue line t)
  have ht : KeepsIssue s (regTouch s line) := by unfold regTouch; split <;> exact ⟨rfl, rfl⟩
  unfold gather
  split
  · exact ⟨rfl, rfl⟩
  · split
    · dsimp only
      (repeat' split) <;> exact (ht.trans (hp take _ (regTouch s line, 0))).trans ⟨rfl, rfl⟩
    · split
      · exact (hp true _ (s, 0)).trans ⟨rfl, rfl⟩
      · exact ⟨rfl, rfl⟩

@[simp] theorem l2Evict_keepsIssue (s : State) (line : Nat) : KeepsIssue s (l2Evict s line) := by
  unfold l2Evict
  dsimp only
  (repeat' split) <;> simp [KeepsIssue]

@[simp] theorem l2Room_keepsIssue (s : State) (line : Nat) : KeepsIssue s (l2Room s line) := by
  unfold l2Room
  dsimp only
  (repeat' split) <;> simp [KeepsIssue]

@[simp] theorem l2Write_keepsIssue (s : State) (line : Nat) (m : BitVec 128) : KeepsIssue s (l2Write s line m) := by
  unfold l2Write
  dsimp only
  (repeat' split) <;> simp [KeepsIssue]

@[simp] theorem homePut_keepsIssue (s : State) (line : Nat) (m : BitVec 128) (d : BitVec 1024) :
    KeepsIssue s (homePut s line m d) := by simp [KeepsIssue, homePut]

@[simp] theorem settleLine_keepsIssue (s : State) (line : Nat) (m : BitVec 128) (take : Bool) :
    KeepsIssue s (settleLine s line m take) := by simp [KeepsIssue, settleLine]

@[simp] theorem snoopHost_keepsIssue (s : State) (line : Nat) (take : Bool) : KeepsIssue s (snoopHost s line take) := by
  unfold snoopHost
  dsimp only
  (repeat' split) <;> simp [KeepsIssue]

@[simp] theorem ownHost_keepsIssue (s : State) (line : Nat) : KeepsIssue s (ownHost s line) := by
  unfold ownHost
  dsimp only
  (repeat' split) <;> simp [KeepsIssue]

@[simp] theorem reach_keepsIssue (s : State) (pa n : Nat) (take : Bool) (core : Nat) : KeepsIssue s (reach s pa n take core) :=
  foldl_keepsIssue (fun s line => by dsimp only; (repeat' split) <;> simp [KeepsIssue]) _ s

/-! ### Walkers, recalls and RELEASE_FRAME -/

@[simp] theorem classify_keepsIssue (s : State) (f : Nat) (core : Option Nat) : KeepsIssue s (classify s f core) := by
  unfold classify
  (repeat' split) <;> exact ⟨rfl, rfl⟩

@[simp] theorem shareRing_keepsIssue (s : State) (base size k : Nat) : KeepsIssue s (shareRing s base size k) :=
  foldl_keepsIssue (fun s i => by split <;> simp [KeepsIssue]) _ s

@[simp] theorem walkerReach_keepsIssue (s : State) (c : Option Nat) (a n : Nat) : KeepsIssue s (walkerReach s c a n) := by
  unfold walkerReach
  dsimp only
  (repeat' split) <;> simp [KeepsIssue, mustRecall, mustWait]

@[simp] theorem walkEntry_keepsIssue (c : Option Nat) (asid va level t : Nat) (s : State) :
    KeepsIssue s (walkEntry c asid va level t s).1 := by
  unfold walkEntry
  dsimp only
  (repeat' split) <;> simp [KeepsIssue]

@[simp] theorem walkKeep_keepsIssue (s : State) (k : Option Nat) (asid va level next : Nat) :
    KeepsIssue s (walkKeep s k asid va level next) := by
  unfold walkKeep pwcPut
  dsimp only
  (repeat' split) <;> exact ⟨rfl, rfl⟩

theorem walkFrom_keepsIssue (c k : Option Nat) (asid va : Nat) :
    ∀ (l t : Nat) (s : State), KeepsIssue s (walkFrom c k asid va l t s).1
  | 0, t, s => by
    have h := walkEntry_keepsIssue c asid va 0 t s
    unfold walkFrom
    split <;> next he => rw [he] at h; exact h
  | l + 1, t, s => by
    have h := walkEntry_keepsIssue c asid va (l + 1) t s
    unfold walkFrom
    split
    · next he => rw [he] at h; exact h
    · next u next he =>
      rw [he] at h
      exact (KeepsIssue.trans h (walkKeep_keepsIssue ..)).trans (walkFrom_keepsIssue c k asid va l next _)

theorem dropCached_keepsIssue (s : State) (core : Option Nat) (k asid va : Nat) : KeepsIssue s (dropCached s core k asid va) := by
  unfold dropCached
  split <;> exact ⟨rfl, rfl⟩

theorem walkBy_keepsIssue (s : State) (core : Option Nat) (k asid root va : Nat) (bad : State → TlbEntry → Option Nat) :
    KeepsIssue s (walkBy s core k asid root va bad).1 := by
  have confirm : ∀ l t, let x := walkFrom core (some k) asid va l t s
      KeepsIssue s (if unsure bad x.1 x.2 then walkFrom core (some k) asid va 4 root (dropCached x.1 core k asid va) else x).1 := by
    intro l t
    have h := walkFrom_keepsIssue core (some k) asid va l t s
    dsimp only
    split
    · exact (h.trans (dropCached_keepsIssue ..)).trans (walkFrom_keepsIssue ..)
    · exact h
  unfold walkBy
  cases pwcFind s k asid va with
  | none => exact confirm 4 root
  | some x => exact confirm x.1 x.2

/-! ### Translations -/

theorem putBytes_keepsIssue : ∀ (k pa n v : Nat) (s : State), KeepsIssue s (putBytes k pa n v s)
  | 0, _, _, _, _ => ⟨rfl, rfl⟩
  | k + 1, pa, n, v, s => by
    unfold putBytes
    split
    · exact ⟨rfl, rfl⟩
    · exact (homePut_keepsIssue ..).trans (putBytes_keepsIssue k _ _ _ _)

theorem setAD_keepsIssue (s : State) (ptes : List Nat) (wr : Bool) : KeepsIssue s (setAD s ptes wr) := by
  unfold setAD
  refine foldl_keepsIssue (fun s a => ?_) ptes s
  dsimp only
  generalize (homeRead s a 8 ||| 0x20 ||| if wr then 0x40 else 0) = q
  split
  · exact ⟨rfl, rfl⟩
  · exact (walkerReach_keepsIssue s none a 8).trans (putBytes_keepsIssue 2 a 8 q _)

theorem tlbPut_keepsIssue (s : State) (t : List TlbEntry) (sets ways : Nat) (e : TlbEntry) : KeepsIssue s (tlbPut s t sets ways e).1 := by
  unfold tlbPut
  dsimp only
  split
  · exact ⟨rfl, rfl⟩
  · split <;> exact ⟨rfl, rfl⟩

theorem l1TlbPut_keepsIssue (s : State) (c : Nat) (e : TlbEntry) : KeepsIssue s (l1TlbPut s c e) :=
  (tlbPut_keepsIssue s (cr s c).tlb 64 4 e).trans ⟨rfl, rfl⟩

theorem l2TlbPut_keepsIssue (s : State) (k : Nat) (e : TlbEntry) : KeepsIssue s (l2TlbPut s k e) :=
  (tlbPut_keepsIssue s (tget [] s.l2tlb k) 1024 8 { e with classes := [] }).trans ⟨rfl, rfl⟩

/-- An agent of a core enters the translation in the core's TLB. -/
theorem agentTlbPut_keepsIssue (s : State) (ag : Agent) (e : TlbEntry) :
    KeepsIssue s (match ag with | .core c => l1TlbPut s c e | .unit _ => s) := by
  cases ag with
  | core c => exact l1TlbPut_keepsIssue s c e
  | unit k => exact ⟨rfl, rfl⟩

theorem tlbServe_keepsIssue {s t : State} {ag : Agent} {asid va : Nat} {fits : TlbEntry → Bool} {e : TlbEntry}
    (h : tlbServe s ag asid va fits = some (t, e)) : KeepsIssue s t := by
  unfold tlbServe at h
  dsimp only at h
  split at h
  · cases h
    exact ⟨rfl, rfl⟩
  · split at h
    · cases h
      exact agentTlbPut_keepsIssue s ag e
    · cases h

theorem translateBy_keepsIssue (s : State) (ag : Agent) (c cn : Nat) (wr : Bool) (va : Nat) (bad : State → TlbEntry → Option Nat) :
    KeepsIssue s (translateBy s ag c cn wr va bad).1 := by
  unfold translateBy
  dsimp only
  split
  · exact ⟨rfl, rfl⟩
  split
  · exact ⟨rfl, rfl⟩
  split
  · next hserve => exact tlbServe_keepsIssue hserve
  split
  · exact ⟨rfl, rfl⟩
  have hwalk := walkBy_keepsIssue s ag.core? ag.stack (cx s c).held.asid.toNat (cx s c).held.root.toNat va bad
  split
  · next heq => rw [heq] at hwalk; exact hwalk
  · next heq =>
    rw [heq] at hwalk
    split
    · exact hwalk
    split
    · exact hwalk
    · exact ((hwalk.trans (setAD_keepsIssue ..)).trans (l2TlbPut_keepsIssue ..)).trans (agentTlbPut_keepsIssue ..)

/-! ### Demand accesses, and the check of a target -/

theorem takeSlot_keepsIssue (c : Nat) (s : State) (line : Nat) : KeepsIssue s (takeSlot c s line) := by
  unfold takeSlot
  dsimp only
  split <;> exact ⟨rfl, rfl⟩

theorem putEntry_keepsIssue (line : Nat) (s : State) (e : DafEntry) : KeepsIssue s (putEntry line s e) := by
  unfold putEntry
  (repeat' split) <;> simp [KeepsIssue]

theorem onEntry_putEntry_keepsIssue (c line : Nat) (s : State) (m : Msg) : KeepsIssue s (onEntry c (putEntry line) s m) := by
  unfold onEntry
  split
  · split
    · exact putEntry_keepsIssue ..
    · exact ⟨rfl, rfl⟩
  · exact ⟨rfl, rfl⟩

theorem pullOwn_keepsIssue (c line : Nat) (s : State) : KeepsIssue s (pullOwn c line s) := by
  have hmsgs := foldl_keepsIssue (onEntry_putEntry_keepsIssue c line) (parkedMsgs s ++ s.net) s
  unfold pullOwn
  dsimp only
  generalize (parkedMsgs s ++ s.net).foldl (onEntry c (putEntry line)) s = t at *
  have hdaf := foldl_keepsIssue (putEntry_keepsIssue line) (cr t c).daf t
  generalize (cr t c).daf.foldl (putEntry line) t = u at *
  have hspent (v : State) (f : DafEntry → DafEntry) (g : Nat → Bool) (h : Core → Core) :
      KeepsIssue v (modCr (stopFills (spendSent c f v) c g) c h) := ⟨rfl, rfl⟩
  refine ((hmsgs.trans hdaf).trans ?_).trans (hspent ..)
  split
  · exact homePut_keepsIssue ..
  · exact ⟨rfl, rfl⟩

theorem demandAt_keepsIssue (s : State) (ag : Agent) (c : Nat) (cls : AccClass) (va n : Nat) :
    KeepsIssue s (demandAt s ag c cls va n).1 := by
  have htrans : KeepsIssue s (translate s ag c cls false va n).1 := translateBy_keepsIssue ..
  unfold demandAt
  split
  · next heq => rw [heq] at htrans; exact htrans
  · next t e heq =>
    rw [heq] at htrans
    have hclass : KeepsIssue t (if e.kind = .normal then classify t (frameOf (physOf t e cls va)) ag.core? else t) := by
      split
      · exact classify_keepsIssue ..
      · exact ⟨rfl, rfl⟩
    dsimp only
    generalize (if e.kind = .normal then classify t (frameOf (physOf t e cls va)) ag.core? else t) = u at *
    refine (htrans.trans hclass).trans ?_
    split
    · exact ⟨rfl, rfl⟩
    split
    · exact ⟨rfl, rfl⟩
    split
    · exact ⟨rfl, rfl⟩
    cases ag with
    | unit k => exact reach_keepsIssue ..
    | core d =>
      dsimp only
      have hslots := foldl_keepsIssue (takeSlot_keepsIssue d) (linesAway u d (physOf t e cls va) n) u
      split
      · exact (hslots.trans (reach_keepsIssue ..)).trans (foldl_keepsIssue (fun s l => pullOwn_keepsIssue d l s) _ _)
      · exact hslots.trans (reach_keepsIssue ..)

theorem demand_keepsIssue (s : State) (ag : Agent) (c : Nat) (cls : AccClass) (va n : Nat) : KeepsIssue s (demand s ag c cls va n).1 := by
  have h := demandAt_keepsIssue s ag c cls va n
  unfold demand
  split <;> next heq => rw [heq] at h; exact h

theorem checkTarget_keepsIssue (s : State) (core ctx t : Nat) (lnd : Bool) : KeepsIssue s (checkTarget s core ctx t lnd).1 := by
  have htrans : KeepsIssue s (translate s (.core core) ctx .instrFetch false t 4).1 := translateBy_keepsIssue ..
  unfold checkTarget
  split
  · exact ⟨rfl, rfl⟩
  split
  · exact ⟨rfl, rfl⟩
  split
  · next heq => rw [heq] at htrans; exact htrans
  · next u e heq =>
    rw [heq] at htrans
    have hdemand := demand_keepsIssue u (.core core) ctx .instrFetch t 4
    split
    · split
      · next hd => rw [hd] at hdemand; exact htrans.trans hdemand
      · next hd =>
        rw [hd] at hdemand
        split <;> exact htrans.trans hdemand
    · exact htrans

theorem checkTargets_keepsIssue (core ctx : Nat) (lnd : Bool) : ∀ (ts : List (Nat × Nat)) (s : State),
    KeepsIssue s (checkTargets core ctx lnd ts s).1
  | [], _ => ⟨rfl, rfl⟩
  | (_, t) :: r, s => (checkTarget_keepsIssue s core ctx t lnd).trans (checkTargets_keepsIssue core ctx lnd r _)

end Sys2Proof.Machine
end

section
/-! Register targets (R314, R315): which lanes go, which keep their PCs, and the trap that names those. -/

namespace Sys2Proof.Machine
open Sys2Proof.Machine.State

/-! ### The checks of the lanes' targets -/

/-- Each lane's check names its target. -/
theorem checkTargets_targets (core ctx : Nat) (lnd : Bool) : ∀ (ts : List (Nat × Nat)) (s : State),
    (checkTargets core ctx lnd ts s).2.map (fun c => (c.1, c.2.2.1)) = ts
  | [], _ => rfl
  | (_, _) :: r, _ => congrArg (_ :: ·) (checkTargets_targets core ctx lnd r _)

section Checked

variable {cs : List (Nat × Nat × Nat × Nat)} {m : Lanes} {dest : Nat → Nat}

/-- The lanes whose checks found a cause. -/
def refusedLanes (cs : List (Nat × Nat × Nat × Nat)) : Lanes :=
  lanesWhere fun l => (cs.filter fun x => decide (x.2.1 ≠ 0)).any fun x => x.1 = l

variable (hcs : cs.map (fun c => (c.1, c.2.2.1)) = (lanesOf m).map fun l => (l, dest l))
include hcs

theorem mem_checked {c : Nat × Nat × Nat × Nat} (hc : c ∈ cs) : c.1 ∈ lanesOf m ∧ c.2.2.1 = dest c.1 := by
  have hmem := List.mem_map_of_mem (f := fun c => (c.1, c.2.2.1)) hc
  rw [hcs, List.mem_map] at hmem
  obtain ⟨l, hl, heq⟩ := hmem
  obtain ⟨h1, h2⟩ := Prod.mk.inj heq
  exact ⟨h1 ▸ hl, by rw [← h1]; exact h2.symm⟩

theorem checked_of_mem {l : Nat} (hl : l ∈ lanesOf m) : ∃ c ∈ cs, c.1 = l := by
  have hmem := List.mem_map_of_mem (f := fun l => (l, dest l)) hl
  rw [← hcs, List.mem_map] at hmem
  obtain ⟨c, hc, heq⟩ := hmem
  exact ⟨c, hc, (Prod.mk.inj heq).1⟩

/-- One check for each lane. -/
theorem checked_unique {c c' : Nat × Nat × Nat × Nat} (hc : c ∈ cs) (hc' : c' ∈ cs) (h : c.1 = c'.1) : c = c' := by
  have hnodup : (cs.map fun c => c.1).Nodup := by
    have hfst := congrArg (List.map Prod.fst) hcs
    rw [List.map_map, List.map_map] at hfst
    rw [show cs.map (fun c => c.1) = lanesOf m from hfst.trans (List.map_id _)]
    exact lanesOf_nodup m
  exact List.inj_on_of_nodup_map hnodup hc hc' h

/-- R315: the lanes of which no check found a cause are the others. -/
theorem passedLanes_eq : (lanesWhere fun l => cs.any fun c => c.1 = l && c.2.1 = 0) = m &&& ~~~refusedLanes cs := by
  refine lanes_ext fun l hl => ?_
  rw [inLanes_lanesWhere _ hl]
  have hrefused : inLanes (refusedLanes cs) l = (cs.filter fun x => decide (x.2.1 ≠ 0)).any fun x => x.1 = l := inLanes_lanesWhere _ hl
  have hand : inLanes (m &&& ~~~refusedLanes cs) l = (inLanes m l && !inLanes (refusedLanes cs) l) := by
    rw [inLanes, BitVec.getLsbD_and, BitVec.getLsbD_not, decide_eq_true hl, Bool.true_and]
    rfl
  rw [hand, hrefused, Bool.eq_iff_iff]
  simp only [List.any_eq_true, Bool.and_eq_true, decide_eq_true_eq, Bool.not_eq_true', List.any_eq_false, List.mem_filter, and_imp]
  constructor
  · rintro ⟨c, hc, rfl, hgood⟩
    refine ⟨(mem_lanesOf.1 (mem_checked hcs hc).1).2, fun c' hc' hbad heq => hbad ?_⟩
    rw [checked_unique hcs hc' hc heq, hgood]
  · rintro ⟨hlane, hnone⟩
    obtain ⟨c, hc, rfl⟩ := checked_of_mem hcs (mem_lanesOf.2 ⟨hl, hlane⟩)
    exact ⟨c, hc, rfl, by_contra fun hbad => hnone c hc hbad rfl⟩

theorem target_found {l : Nat} (hl : l ∈ lanesOf m) : ((cs.find? fun c => c.1 = l).map fun c => c.2.2.1).getD 0 = dest l := by
  obtain ⟨c, hc, rfl⟩ := checked_of_mem hcs hl
  cases hf : cs.find? fun x => x.1 = c.1 with
  | none => exact absurd (List.find?_eq_none.1 hf c hc) (by simp)
  | some x =>
    have hx : x = c := checked_unique hcs (List.mem_of_find?_eq_some hf) hc (by simpa using List.find?_some hf)
    rw [hx]
    exact (mem_checked hcs hc).2

end Checked

/-- Only the lanes named take a PC. -/
theorem setPcs_congr {s : State} {w : Nat} {m : Lanes} {f g : Nat → Nat} (h : ∀ l ∈ lanesOf m, f l = g l) :
    setPcs s w m f = setPcs s w m g := by
  have hlane (l : Nat) (x : Lane) :
      (if inLanes m l then { x with pc := f l } else x) = if inLanes m l then { x with pc := g l } else x := by
    split
    · next hl => rw [h l (mem_lanesOf.2 ⟨BitVec.lt_of_getLsbD hl, hl⟩)]
    · rfl
  unfold setPcs
  simp only [hlane]

/-! ### The jump -/

section Jump

variable {i : Instr} {h : Head} {s : State} {lnd : Bool} {dest : Nat → Nat} {link : Bool}

/-- R315: the checks of the active lanes' targets, once the PC group has issued. -/
def jumpChecks (i : Instr) (s : State) (lnd : Bool) (dest : Nat → Nat) : State × List (Nat × Nat × Nat × Nat) :=
  checkTargets (curWave s).core (curWave s).ctx lnd ((lanesOf (active (specOf i) s)).map fun l => (l, dest l)) (advance (specOf i) s)

/-- The lanes that take their targets. -/
def goingLanes (i : Instr) (s : State) (lnd : Bool) (dest : Nat → Nat) : Lanes :=
  active (specOf i) s &&& ~~~refusedLanes (jumpChecks i s lnd dest).2

/-- R314, R315: the state once they have. -/
def jumped (i : Instr) (h : Head) (s : State) (lnd : Bool) (dest : Nat → Nat) (link : Bool) : State :=
  linked s (goingLanes i s lnd dest) (if link then laneLink s h.a (goingLanes i s lnd dest) else noWrites)
    (setPcs (jumpChecks i s lnd dest).1 s.cur.wave (goingLanes i s lnd dest) dest)

/-- R315: with the trap that any cause makes. -/
def jumpOutcome (i : Instr) (h : Head) (s : State) (lnd : Bool) (dest : Nat → Nat) (link : Bool) : State :=
  match (jumpChecks i s lnd dest).2.filter fun x => decide (x.2.1 ≠ 0) with
  | [] => jumped i h s lnd dest link
  | x :: r =>
    let mask := refusedLanes (jumpChecks i s lnd dest).2
    raisePrecise (setPcs (jumped i h s lnd dest link) s.cur.wave mask fun _ => s.cur.pc)
      { trapOf i 7 x.2.1 mask with status := x.2.2.2, causes := (x :: r).map fun y => (y.1, y.2.1, y.2.2.1) }

theorem jumped_blocked : (jumped i h s lnd dest link).blocked = (jumpChecks i s lnd dest).1.blocked := linked_blocked ..

theorem linked_cur (s u : State) (m : Lanes) (ws : Writes) : (linked s m ws u).cur = u.cur := by
  unfold linked
  split <;> rfl

theorem registerJump_eq {ts : Wave → Lanes → List (Nat × Nat)} {f : Lanes → Writes} (hi : Issuable i s)
    (hts : ts (wv (advance (specOf i) s) s.cur.wave) (active (specOf i) s) = (lanesOf (active (specOf i) s)).map fun l => (l, dest l))
    (hf : ∀ m, f m = if link then laneLink s h.a m else noWrites) :
    registerJump i lnd ts f s = .next (orStall s (jumpOutcome i h s lnd dest link)) := by
  have hwave : (wv (advance (specOf i) s) s.cur.wave).core = (curWave s).core ∧
      (wv (advance (specOf i) s) s.cur.wave).ctx = (curWave s).ctx := by
    rw [wv_advance]
    exact ⟨rfl, rfl⟩
  obtain ⟨hcore, hctx⟩ := hwave
  have hcur : (jumpChecks i s lnd dest).1.cur = s.cur := (checkTargets_keepsIssue ..).1.trans (advance_cur ..)
  unfold registerJump control
  refine (runOp_go hi _).trans ?_
  refine congrArg (fun t : State => Host.Outcome.next (orStall s t)) ?_
  dsimp only
  rw [advance_cur, hcore, hctx, hts]
  have htargets : (jumpChecks i s lnd dest).2.map (fun c => (c.1, c.2.2.1)) = _ := checkTargets_targets ..
  have hgood : (lanesWhere fun l => (jumpChecks i s lnd dest).2.any fun c => c.1 = l && c.2.1 = 0) = goingLanes i s lnd dest :=
    passedLanes_eq htargets
  have hgoing : ∀ l ∈ lanesOf (goingLanes i s lnd dest), l ∈ lanesOf (active (specOf i) s) := fun l hl =>
    mem_lanesOf.2 ((mem_lanesOf.1 hl).imp_right fun hin => by
      rw [goingLanes, inLanes, BitVec.getLsbD_and, Bool.and_eq_true] at hin
      exact hin.1)
  have hpcs := setPcs_congr (s := (jumpChecks i s lnd dest).1) (w := s.cur.wave) fun l hl => target_found htargets (hgoing l hl)
  rw [show checkTargets _ _ lnd _ (advance (specOf i) s) = jumpChecks i s lnd dest from rfl, hgood, hpcs, hf]
  have hjumped : (jumped i h s lnd dest link).cur.pc = s.cur.pc := congrArg Issue.pc ((linked_cur ..).trans hcur)
  have hwent : (if goingLanes i s lnd dest = 0 then setPcs (jumpChecks i s lnd dest).1 s.cur.wave (goingLanes i s lnd dest) dest
      else modWv (setPcs (jumpChecks i s lnd dest).1 s.cur.wave (goingLanes i s lnd dest) dest) s.cur.wave fun v =>
        addPend v (cycAt (setPcs (jumpChecks i s lnd dest).1 s.cur.wave (goingLanes i s lnd dest) dest) v.core)
          (if link then laneLink s h.a (goingLanes i s lnd dest) else noWrites)) = jumped i h s lnd dest link := rfl
  have hmask : (lanesWhere fun l => ((jumpChecks i s lnd dest).2.filter fun x => decide (x.2.1 ≠ 0)).any fun c => c.1 = l) =
      refusedLanes (jumpChecks i s lnd dest).2 := rfl
  rw [hwent, hjumped, hmask]
  unfold jumpOutcome
  cases hbad : (jumpChecks i s lnd dest).2.filter fun x => decide (x.2.1 ≠ 0) with
  | nil => rfl
  | cons x r => rfl

/-- R315: what `RegisterTargets` says of one instruction, target and link. -/
def JumpsAs (i : Instr) (h : Head) (s : State) (lnd : Bool) (dest : Nat → Nat) (link : Bool) : Prop :=
  Issuable i s → exec i s = .next (orStall s (jumpOutcome i h s lnd dest link))

/-- The three ways it ends. -/
theorem JumpsAs.cases (hj : JumpsAs i h s lnd dest link) (hi : Issuable i s) :
    let bad := (jumpChecks i s lnd dest).2.filter fun x => decide (x.2.1 ≠ 0)
    let mask := refusedLanes (jumpChecks i s lnd dest).2
    (bad = [] → (jumpChecks i s lnd dest).1.blocked = none → exec i s = .next (jumped i h s lnd dest link)) ∧
    (bad = [] → (jumpChecks i s lnd dest).1.blocked = some 0 → exec i s = .next (stall s 7)) ∧
    (∀ x r, bad = x :: r → exec i s = .next (orStall s (raisePrecise
      (setPcs (jumped i h s lnd dest link) s.cur.wave mask fun _ => s.cur.pc)
      { trapOf i 7 x.2.1 mask with status := x.2.2.2, causes := bad.map fun y => (y.1, y.2.1, y.2.2.1) }))) := by
  dsimp only
  have hexec := hj hi
  refine ⟨fun hbad hb => ?_, fun hbad hb => ?_, fun x r hbad => ?_⟩
  · rw [hexec, jumpOutcome, hbad]
    exact congrArg _ (orStall_go (jumped_blocked.trans hb))
  · rw [hexec, jumpOutcome, hbad]
    exact congrArg _ (orStall_of_wait (jumped_blocked.trans hb))
  · rw [hexec, jumpOutcome, hbad]

end Jump

/-! ### The instructions with register targets -/

section Targets

variable (h : Head) (t : BExt) (s : State)

theorem laneTargets_advance (i : Instr) (b : BitVec 8) (f : Nat → Nat) (m : Lanes) :
    laneTargets b.toNat f (wv (advance (specOf i) s) s.cur.wave) m = (lanesOf m).map fun l => (l, f (lanePair (curWave s) l b)) := by
  rw [wv_advance]
  exact List.map_congr_left fun l _ => congrArg (fun x => (l, f x)) (srcVal_pair (curWave s) l b.toNat)

theorem uniTargets_advance (i : Instr) (b : BitVec 8) (f : Nat → Nat) (m : Lanes) :
    uniTargets b.toNat f (wv (advance (specOf i) s) s.cur.wave) m = (lanesOf m).map fun l => (l, f (uniPair (curWave s) b)) := by
  have hpair (v : Wave) : wordsNat (srun v b.toNat 2) = uniPair v b := by simp [srun, wordsNat, uniPair, List.range_succ]
  rw [wv_advance]
  exact List.map_congr_left fun l _ => congrArg (fun x => (l, f x)) (hpair (curWave s))

theorem jmp_jumps : JumpsAs (.jmp h t) h s true (fun l => offsetBy (lanePair (curWave s) l h.b) t.off) false := fun hi => by
  show registerJump (.jmp h t) true (laneTargets h.b.toNat fun x => registerTarget x t) (fun _ => noWrites) s = _
  simp only [registerTarget_eq]
  exact registerJump_eq hi (laneTargets_advance ..) fun _ => rfl

theorem callRegister_jumps :
    JumpsAs (.callRegister h t) h s true (fun l => offsetBy (lanePair (curWave s) l h.b) t.off) true := fun hi => by
  show registerJump (.callRegister h t) true (laneTargets h.b.toNat fun x => registerTarget x t)
    (fun m => laneLinks (specOf (.callRegister h t)) m s.cur.pc) s = _
  simp only [registerTarget_eq]
  exact registerJump_eq hi (laneTargets_advance ..) fun m => laneLinks_eq s rfl m

theorem ret_jumps : JumpsAs (.ret h t) h s false (fun l => lanePair (curWave s) l h.b) false := fun hi => by
  show registerJump (.ret h t) false (laneTargets h.b.toNat id) (fun _ => noWrites) s = _
  exact registerJump_eq hi (laneTargets_advance ..) fun _ => rfl

theorem retShort_jumps : JumpsAs (.retShort h) h s false (fun l => lanePair (curWave s) l 0) false := fun hi => by
  show registerJump (.retShort h) false (laneTargets 0 id) (fun _ => noWrites) s = _
  exact registerJump_eq hi (laneTargets_advance s _ 0 id _) fun _ => rfl

theorem ujmp_jumps : JumpsAs (.ujmp h t) h s true (fun _ => offsetBy (uniPair (curWave s) h.b) t.off) false := fun hi => by
  show registerJump (.ujmp h t) true (uniTargets h.b.toNat fun x => registerTarget x t) (fun _ => noWrites) s = _
  simp only [registerTarget_eq]
  exact registerJump_eq hi (uniTargets_advance ..) fun _ => rfl

theorem uret_jumps : JumpsAs (.uret h t) h s false (fun _ => uniPair (curWave s) h.b) false := fun hi => by
  show registerJump (.uret h t) false (uniTargets h.b.toNat id) (fun _ => noWrites) s = _
  exact registerJump_eq hi (uniTargets_advance ..) fun _ => rfl

theorem uretShort_jumps : JumpsAs (.uretShort h) h s false (fun _ => uniPair (curWave s) 0) false := fun hi => by
  show registerJump (.uretShort h) false (uniTargets 0 id) (fun _ => noWrites) s = _
  exact registerJump_eq hi (uniTargets_advance s _ 0 id _) fun _ => rfl

/-- Each entry of the table. -/
theorem registerJumps_jump : ∀ p ∈ registerJumps h t (curWave s), JumpsAs p.1 h s p.2.1 p.2.2.1 p.2.2.2 := by
  simp only [registerJumps, List.forall_mem_cons, List.not_mem_nil, false_imp_iff, implies_true, and_true]
  exact ⟨jmp_jumps h t s, callRegister_jumps h t s, ret_jumps h t s, retShort_jumps h s, ujmp_jumps h t s,
    uret_jumps h t s, uretShort_jumps h s⟩

end Targets

/-- R315: the causes that need no translation. -/
theorem checkTarget_misaligned {t : Nat} (h : t % 4 ≠ 0) (s : State) (core ctx : Nat) (lnd : Bool) :
    checkTarget s core ctx t lnd = (s, 0x20, 0x20) := if_pos h

theorem checkTarget_not_canonical {t : Nat} (h : t % 4 = 0) (hc : canonical t = false) (s : State) (core ctx : Nat) (lnd : Bool) :
    checkTarget s core ctx t lnd = (s, 6, statusWord 6 7 4 7 false) := by
  rw [checkTarget, if_neg (not_not.2 h), hc]
  rfl

/-- Settles O48: each instruction of the table ends in one of the three ways. -/
theorem registerTargets : Obligations.RegisterTargets := by
  unfold Obligations.RegisterTargets
  refine ⟨fun h t s p hp i lnd dest link heq hi => ?_, fun s core ctx t lnd =>
    ⟨fun h => checkTarget_misaligned h s core ctx lnd, fun h hc => ?_⟩⟩
  · subst heq
    exact (registerJumps_jump h t s _ hp).cases hi
  · rw [checkTarget_not_canonical h hc]
    exact ⟨rfl, rfl⟩

end Sys2Proof.Machine
end

section
/-! `sbank` on a table that lists a core twice (R62, R305). -/

namespace Sys2Proof.Machine
open Sys2Proof.Machine.State Sys2Proof.Tests

/-- The first bank's change to a FIFO. -/
def bankToFifo : Instr := .sbank hd { mx with c := 6, sz := 0 }

/-- A copy of the group in flight from its first bank. -/
def copyFromBank0 : Copy := { copy0 with fetched := true, bytes := ((copy0.bytes.set 22 1).set 20 1).set 16 16 }

/-- The wave asks for its first bank as a FIFO; a second entry of core 0, which no read of the table finds, holds a copy from that bank. -/
def hiddenCopy : State :=
  { banking 0 1 demo with cores := [(0, resetCore), (0, { resetCore with scarab := [copyFromBank0] })] }

/-- The statuses of the writes to a register that are on their way to wave 1. -/
def owedStatuses (t : State) : List (List (Nat × Word)) := (wv t 1).results.map fun r => r.writes.sregs

/-- The issue counts in the core's record, which drops the second entry, and the change is made. -/
theorem bankToFifo_hiddenCopy :
    (match exec bankToFifo hiddenCopy with | .next t => owedStatuses t | _ => []) = [[(2, 0)]] := by decide +kernel

/-- The operands and the wave's state are those the statement asks for, and its own reading of the state finds the copy. -/
theorem hiddenCopy_asks :
    WellFormed bankToFifo = true ∧ issuableB bankToFifo hiddenCopy = true ∧ acquireOut (curWave hiddenCopy) = false ∧
    ownScrWaits hiddenCopy 1 = false ∧ matPending hiddenCopy 1 = false ∧ active (specOf bankToFifo) hiddenCopy ≠ 0 ∧
    source bankToFifo hiddenCopy 0 0 = 0 ∧ source bankToFifo hiddenCopy 0 1 = 1 ∧ 0 < (gp hiddenCopy 1).nBanks ∧
    (bank hiddenCopy 0 4).mode = .scratch ∧ copyInFlight hiddenCopy (gp hiddenCopy 1) 1 0 = true ∧
    owedStatuses hiddenCopy = [] := by decide +kernel

/-- Refutes O53, in its clause on `sbank` alone: the statement looks for a copy in flight in the table of cores as it stood before the
issue, and so demands status 4 for a copy that only a doubled entry of the table holds; the instruction gives status 0. -/
theorem not_copiesBanksAndFlushes : ¬ Obligations.CopiesBanksAndFlushes := by
  unfold Obligations.CopiesBanksAndFlushes
  intro h
  obtain ⟨hwf, hissue, hacq, hown, hmat, hact, hk, hx, hin, hmode, hcopy, hnone⟩ := hiddenCopy_asks
  obtain ⟨-, -, -, -, hbank⟩ := h hd { mx with c := 6, sz := 0 } hiddenCopy
  obtain ⟨t, hexec, st, -, ⟨r, hres⟩, -, -, hst, -, -⟩ := hbank hwf (issuable_of hissue) hacq hown hmat hact
  have hscratch : (bank hiddenCopy (gp hiddenCopy 1).pair ((gp hiddenCopy 1).bank0 + source bankToFifo hiddenCopy 0 0)).mode = .scratch :=
    hk ▸ hmode
  obtain ⟨-, -, hfree⟩ := hst (hk ▸ hin) .fifo (congrArg modeOf hx)
  obtain ⟨hflight, -, -⟩ := hfree (fun he => by cases hscratch.symm.trans he) (fun he => by cases hscratch.symm.trans he)
  have hfour : st = 4 := hflight (hk ▸ hcopy)
  have howed : owedStatuses t = [[(2, BitVec.ofNat 32 st)]] := by
    have hmap := congrArg (List.map fun r : Result => r.writes.sregs) hres
    rw [List.map_append] at hmap
    exact hmap.trans (congrArg (· ++ [[(2, BitVec.ofNat 32 st)]]) hnone)
  have hgiven := bankToFifo_hiddenCopy
  rw [bankToFifo, hexec] at hgiven
  have hzero : [[((2 : Nat), BitVec.ofNat 32 st)]] = [[(2, 0)]] := howed.symm.trans hgiven
  rw [hfour] at hzero
  exact absurd hzero (by decide)

end Sys2Proof.Machine
end

section
/-! Matrix instructions and the baton (R178, R328 to R341, R349). -/

namespace Sys2Proof.Machine
open Sys2Proof.Machine.State

/-- R170: what an instruction opens once it has issued, and its number. -/
theorem openOp_advance (i : Instr) (n : Nat) (s : State) :
    openOp i (specOf i) (active (specOf i) s) n (capture (wv s s.cur.wave) (specOf i)) (advance (specOf i) s) =
      (s.nextId, opened i n s) :=
  Prod.ext ((fresh_fst _).trans (advance_nextId ..)) rfl

/-! ### The matrix instructions at issue -/

/-- What is shown of each matrix instruction from its place among them, its head and its common issue. -/
theorem forall_matrixInstr {h : Head} {n : NExt} {P : Instr → Prop} (hP : ∀ i, exec i = matOp i → matHead i = h → P i) :
    ∀ i ∈ [Instr.mma h n, .mmas h n, .mmap h n, .mzero h n, .mfill h n, .mdrain h n, .mscale h n], P i := by
  simp only [List.forall_mem_cons, List.not_mem_nil, false_imp_iff, implies_true, and_true]
  exact ⟨hP _ rfl rfl, hP _ rfl rfl, hP _ rfl rfl, hP _ rfl rfl, hP _ rfl rfl, hP _ rfl rfl, hP _ rfl rfl⟩

section Matrix

variable {i : Instr} {s : State}

/-- R328, R330: the leader core and a tile the group has. -/
theorem matBad_eq_false {h : Head} (hcore : (curWave s).core % 2 = 0) (htile : h.a.toNat < (groupOf s s.cur.wave).kernel.accum) :
    matBad s h = false := by
  have hcore' : (wv s s.cur.wave).core % 2 = 0 := hcore
  unfold matBad
  dsimp only
  rw [decide_eq_false (by omega), decide_eq_false (by omega), Bool.or_false]

/-- R328: a matrix instruction of some lane that issues. -/
theorem matOp_go (hi : Issuable i s) (hbad : matBad s (matHead i) = false) (hwait : matWaits s i = false) (ha : active (specOf i) s ≠ 0) :
    matOp i s = .next (match matArgs s s.cur.wave i ((specOf i).srcs.map (srcVal (curWave s) 0)) with
      | .error (c, k) => raisePrecise s (trapOf i c k s.cur.lanes)
      | .ok args => queueMat (opened i 0 s) s.cur.wave s.nextId i args) := by
  unfold matOp
  dsimp only
  rw [runOp_go_of hi hbad rfl hwait, if_neg ha, openOp_advance]
  rfl

/-- R329: the matrix instruction that an operation puts in its pair's order. -/
def queuedMat (s : State) (w id : Nat) (i : Instr) (args : List Nat) : MatOp :=
  { wave := w, op := id, instr := i, tile := matTile s w (matHead i), args := args, drained := false, data := [], reads := none }

/-- R329: it joins at the end. -/
theorem mats_queueMat (s : State) (w id : Nat) (i : Instr) (args : List Nat) :
    (pr (queueMat s w id i args) (corePair (wv s w).core)).mats =
      (pr s (corePair (wv s w).core)).mats ++ [queuedMat s w id i args] := by
  rw [queueMat, pr_modPr_same, queuedMat]

end Matrix

/-! ### The baton -/

/-- R178: the baton as the issue leaves it. -/
theorem pr_advance (sp : Spec) (s : State) (p : Nat) : pr (advance sp s) p = pr s p := by rw [pr, advance_pairs, pr]

/-- R341: which wave an index names does not depend on an issue. -/
theorem waveAt_advance (sp : Spec) (s : State) (g k : Nat) : waveAt (advance sp s) g k = waveAt s g k := by
  unfold waveAt
  rw [gp_advance]
  congr 1
  funext w
  by_cases hw : w = s.cur.wave
  · subst hw
    rw [wv_advance]
    rfl
  · rw [wv_advance_other sp s hw]

/-- R341: a pass begins, and the baton stays where it is until it ends. -/
theorem passBaton_pr (s : State) (p : Nat) (t : Option Nat) :
    (pr (passBaton s p t) p).batonPass = some t ∧ (pr (passBaton s p t) p).baton = (pr s p).baton := by
  rw [passBaton, pr_modPr_same]
  exact ⟨rfl, rfl⟩

section Take

variable {s : State} {w : Nat} {m : Lanes}

theorem batonTake_of_free (hbaton : (pr s (corePair (wv s w).core)).baton = none)
    (hqueue : (pr s (corePair (wv s w).core)).batonQueue = []) :
    (pr (batonTake s w m) (corePair (wv s w).core)).baton = some w := by
  unfold batonTake
  rw [if_neg (by rw [hbaton]; simp), if_pos ⟨hbaton, by rw [hqueue]; rfl⟩, pr_modPr_same]

theorem batonTake_of_held (hbaton : (pr s (corePair (wv s w).core)).baton = some w)
    (hpass : (pr s (corePair (wv s w).core)).batonPass = none) : batonTake s w m = s :=
  if_pos ⟨hbaton, hpass⟩

/-- R178: a wave that is not in the queue yet joins its end, its lanes asleep. -/
theorem batonTake_of_taken {u : Nat} (hbaton : (pr s (corePair (wv s w).core)).baton = some u)
    (hother : u ≠ w ∨ (pr s (corePair (wv s w).core)).batonPass ≠ none)
    (hnew : ∀ y ∈ (pr s (corePair (wv s w).core)).batonQueue, y.1 ≠ w) :
    batonTake s w m = modWv (modPr s (corePair (wv s w).core) fun y => { y with
      batonQueue := (pr s (corePair (wv s w).core)).batonQueue ++ [(w, m)] }) w
        fun v => modLanes v m fun l => { l with sleep := .baton } := by
  have hany : ((pr s (corePair (wv s w).core)).batonQueue.any fun y => decide (y.1 = w)) = false :=
    List.any_eq_false.2 fun y hy => by simpa using hnew y hy
  unfold batonTake
  rw [if_neg ?held, if_neg ?free, hany, if_neg Bool.false_ne_true]
  case held =>
    rintro ⟨hw, hpass⟩
    rw [hbaton, Option.some.injEq] at hw
    exact hother.elim (· hw) (· hpass)
  case free => rw [hbaton]; simp

end Take

/-- R178: the lanes that join the queue sleep in the baton, and its holder stays. -/
theorem batonTake_queues {s : State} {w : Nat} {m : Lanes} {u : Nat} (hbaton : (pr s (corePair (wv s w).core)).baton = some u)
    (hother : u ≠ w ∨ (pr s (corePair (wv s w).core)).batonPass ≠ none)
    (hnew : ∀ y ∈ (pr s (corePair (wv s w).core)).batonQueue, y.1 ≠ w) :
    (pr (batonTake s w m) (corePair (wv s w).core)).batonQueue = (pr s (corePair (wv s w).core)).batonQueue ++ [(w, m)] ∧
    (pr (batonTake s w m) (corePair (wv s w).core)).baton = (pr s (corePair (wv s w).core)).baton ∧
    ∀ l < (wv s w).lanes.length, inLanes m l = true → (ln (wv (batonTake s w m) w) l).sleep = .baton := by
  rw [batonTake_of_taken hbaton hother hnew]
  generalize hq : (pr s (corePair (wv s w).core)).batonQueue ++ [(w, m)] = q
  have hpair := pr_modPr_same s (corePair (wv s w).core) fun y => { y with batonQueue := q }
  refine ⟨(congrArg Pair.batonQueue hpair :), (congrArg Pair.baton hpair :), fun l hl hin => ?_⟩
  rw [wv_modWv_same]
  have hlane := ln_modLanes (wv s w) m (fun x => { x with sleep := .baton }) hl
  rw [if_pos hin] at hlane
  exact congrArg Lane.sleep hlane

/-! ### The obligation -/

section Issue

variable (h : Head) (n : NExt) {s : State}

/-- R341: `mbtake` of some lane that issues. -/
theorem mbtake_go (hi : Issuable (.mbtake h n) s) (ha : active (specOf (.mbtake h n)) s ≠ 0) :
    exec (.mbtake h n) s = .next (batonTake (advance (specOf (.mbtake h n)) s) s.cur.wave (active (specOf (.mbtake h n)) s)) := by
  show execMbtake h n s = _
  rw [execMbtake]
  dsimp only
  rw [runOp_go hi, if_neg ha, advance_cur]

/-- R341: `mbpass` of some lane that issues. -/
theorem mbpass_go (hi : Issuable (.mbpass h n) s) (hp : (pr s (corePair (curWave s).core)).batonPass = none)
    (ha : active (specOf (.mbpass h n)) s ≠ 0) :
    exec (.mbpass h n) s = .next (passBaton (advance (specOf (.mbpass h n)) s) (corePair (curWave s).core)
      (waveAt s (curWave s).group (uniWord (curWave s) h.b).toNat)) := by
  have hpassing : passing s = false := Option.isSome_eq_false_iff.2 (Option.isNone_iff_eq_none.2 hp)
  show execMbpass h n s = _
  rw [execMbpass]
  dsimp only
  rw [runOp_go_of hi rfl rfl hpassing, if_neg ha, srcVal_uniWord, waveAt_advance]
  rfl

/-- R341: `mbpass.none` of some lane that issues. -/
theorem mbpassNone_go (hi : Issuable (.mbpassNone h n) s) (hp : (pr s (corePair (curWave s).core)).batonPass = none)
    (ha : active (specOf (.mbpassNone h n)) s ≠ 0) :
    exec (.mbpassNone h n) s = .next (passBaton (advance (specOf (.mbpassNone h n)) s) (corePair (curWave s).core) none) := by
  have hpassing : passing s = false := Option.isSome_eq_false_iff.2 (Option.isNone_iff_eq_none.2 hp)
  show execMbpassNone h n s = _
  rw [execMbpassNone]
  dsimp only
  rw [runOp_go_of hi rfl rfl hpassing, if_neg ha]
  rfl

end Issue

/-- Settles O54: the conditions of issue hold, and the rest is what the pair's record holds after the issue. -/
theorem matrixInstructionsIssue : Obligations.MatrixInstructionsIssue := by
  unfold Obligations.MatrixInstructionsIssue
  intro h n s w v p
  have pair_advance (sp : Spec) : pr (advance sp s) p = pr s p := pr_advance ..
  have core_advance (sp : Spec) : (wv (advance sp s) w).core = v.core := (advance_keepsBanks sp s).core w
  refine ⟨forall_matrixInstr fun i hexec hhead hi hcore htile hwait ha => ?mat, ?take, fun hi hp ha => ?pass, fun hi hp ha => ?passNone⟩
  case mat =>
    have hgo := matOp_go hi (matBad_eq_false hcore (hhead ▸ htile)) hwait ha
    rw [hexec]
    refine ⟨fun args hargs => ?_, fun c k hargs => ?_⟩
    · have keeps := opened_keepsBanks i 0 s
      have hmats := mats_queueMat (opened i 0 s) w s.nextId i args
      rw [keeps.core] at hmats
      rw [hargs] at hgo
      exact ⟨_, queuedMat (opened i 0 s) w s.nextId i args, hgo, hmats.trans (by rw [keeps.pr_eq]; rfl), rfl, rfl, rfl,
        by rw [queuedMat, matTile, keeps.groupOf_eq, hhead], rfl, keeps.mem⟩
    · rw [hargs] at hgo
      exact hgo
  case take =>
    intro i m hi ha
    have hgo := mbtake_go h n hi ha
    have hkept := core_advance (specOf i)
    have hpair := pair_advance (specOf i)
    refine ⟨fun hnone hqueue => ⟨_, hgo, ?free⟩, fun hheld hpass => hgo.trans (congrArg _ (batonTake_of_held ?_ ?_)),
      fun ⟨u, hu, hother⟩ hnew => ⟨_, hgo, ?queue⟩⟩
    case free =>
      have hfree := batonTake_of_free (s := advance (specOf i) s) (w := w) (m := m)
      rw [hkept, hpair] at hfree
      exact hfree hnone hqueue
    case queue =>
      have hq := batonTake_queues (s := advance (specOf i) s) (w := w) (m := m) (u := u)
      rw [hkept, hpair] at hq
      obtain ⟨hqueue, hbaton, hlanes⟩ := hq hu hother hnew
      refine ⟨hqueue, hbaton, fun l hl => hlanes l ?_⟩
      rw [wv_advance]
      exact hl.trans_eq (List.length_mapIdx ..).symm
    · rw [hkept, hpair]; exact hheld
    · rw [hkept, hpair]; exact hpass
  case pass =>
    have hpass := passBaton_pr (advance (specOf (.mbpass h n)) s) p (waveAt s v.group (uniWord v h.b).toNat)
    rw [pair_advance] at hpass
    exact ⟨_, mbpass_go h n hi hp ha, hpass⟩
  case passNone =>
    have hpass := passBaton_pr (advance (specOf (.mbpassNone h n)) s) p none
    rw [pair_advance] at hpass
    exact ⟨_, mbpassNone_go h n hi hp ha, hpass⟩

end Sys2Proof.Machine
end

section
/-! Instructions of the fixed-function engines (R342, R348, R356 to R379). -/

namespace Sys2Proof.Machine
open Sys2Proof.Machine.State

section Begin

variable {i : Instr} {s : State} {busy : Bool}

/-- What most engine instructions do for the active lanes `a` of `u`: one operation is opened, and `f` begins it. -/
def opensThen (i : Instr) (f : State → Lanes → Nat → State → State) (a : Lanes) (u : State) : State :=
  if a = 0 then advance (specOf i) u else
    let o := openOp i (specOf i) a 0 (capture (wv u u.cur.wave) (specOf i)) (advance (specOf i) u)
    f u a o.1 o.2

/-- R170: where nothing stands in its way, it begins under the number `s.nextId`. -/
theorem opensThen_go (hi : Issuable i s) (hbusy : busy = false) (f : State → Lanes → Nat → State → State) :
    runOp i (specOf i) false false busy (opensThen i f) s = .next (begun i (f s (active (specOf i) s) s.nextId) s) := by
  rw [runOp_go_of hi rfl rfl hbusy, opensThen, begun]
  refine congrArg Host.Outcome.next (if_congr Iff.rfl rfl ?_)
  exact congrArg (f s (active (specOf i) s) · (opened i 0 s)) ((fresh_fst _).trans (advance_nextId ..))

end Begin

section Begins

variable (h : Head) (n : NExt) {s : State}

theorem pgload_go (hi : Issuable (.pgload h n) s) (ha : acquireOut (curWave s) = false) (hb : slotBusy s s.cur.wave h.a.toNat = false) :
    exec (.pgload h n) s = .next (begun (.pgload h n) (fun t => startPgload t s.cur.wave h.a.toNat s.nextId) s) := by
  show execPgload h n s = _
  exact opensThen_go hi (by rw [hb, Bool.false_or]; exact ha) fun u _ id t => startPgload t u.cur.wave h.a.toNat id

theorem rast_go (hi : Issuable (.rast h n) s) (ha : acquireOut (curWave s) = false) :
    exec (.rast h n) s = .next (begun (.rast h n)
      (fun t => execRast.startRast t s.cur.wave s.nextId (active (specOf (.rast h n)) s)) s) := by
  show execRast h n s = _
  exact opensThen_go hi ha fun u m id t => execRast.startRast t u.cur.wave id m

theorem hitbin_go (hi : Issuable (.hitbin h n) s) (ha : acquireOut (curWave s) = false) :
    exec (.hitbin h n) s = .next (begun (.hitbin h n)
      (fun t => execHitbin.startHits t s.cur.wave s.nextId (active (specOf (.hitbin h n)) s)) s) := by
  show execHitbin h n s = _
  exact opensThen_go hi ha fun u m id t => execHitbin.startHits t u.cur.wave id m

theorem rflush_go (hi : Issuable (.rflush h n) s) (ha : acquireOut (curWave s) = false) :
    exec (.rflush h n) s = .next (begun (.rflush h n) (fun t => execRflush.startRflush t s.cur.wave s.nextId) s) := by
  show execRflush h n s = _
  exact opensThen_go hi ha fun u _ id t => execRflush.startRflush t u.cur.wave id

theorem nfmt_go (hi : Issuable (.nfmt h n) s) (ha : acquireOut (curWave s) = false) :
    exec (.nfmt h n) s = .next (begun (.nfmt h n) (fun t => t) s) := by
  show execNfmt h n s = _
  exact opensThen_go hi ha fun _ _ _ t => t

theorem attr_go (hi : Issuable (.attr h n) s) (ha : acquireOut (curWave s) = false) :
    exec (.attr h n) s = .next (begun (.attr h n)
      (fun t => addResultIn 22 t s.cur.wave s.nextId (active (specOf (.attr h n)) s) noWrites) s) := by
  show execAttr h n s = _
  exact opensThen_go hi ha fun u m id t => addResultIn 22 t u.cur.wave id m noWrites

/-- R371, R374: a walk of each lane begins once nothing is waited for and the Firefly has places for them. -/
theorem travOp_go {i : Instr} {wait : Wave → Bool} (hi : Issuable i s) (ha : acquireOut (curWave s) = false)
    (hw : wait (curWave s) = false) (hroom : ffRoom s (curWave s).core (laneCount s.cur.lanes) = true) :
    travOp i wait s = .next (begun i (fun t => (lanesOf (active (specOf i) s)).foldl (startLane s.cur.wave s.nextId) t) s) := by
  refine opensThen_go hi ?_ fun u m id t => (lanesOf m).foldl (startLane u.cur.wave id) t
  show (acquireOut (curWave s) || wait (curWave s) || !(ffRoom s (curWave s).core (laneCount s.cur.lanes))) = false
  rw [ha, hw, hroom]
  rfl

theorem travs_go (hi : Issuable (.travs h n) s) (ha : acquireOut (curWave s) = false) (hw : nfmtWaits (curWave s) = false)
    (hroom : ffRoom s (curWave s).core (laneCount s.cur.lanes) = true) : exec (.travs h n) s = .next (begun (.travs h n)
      (fun t => (lanesOf (active (specOf (.travs h n)) s)).foldl (startLane s.cur.wave s.nextId) t) s) := by
  show execTravs h n s = _
  exact travOp_go hi ha hw hroom

theorem travr_go (hi : Issuable (.travr h n) s) (ha : acquireOut (curWave s) = false)
    (hroom : ffRoom s (curWave s).core (laneCount s.cur.lanes) = true) : exec (.travr h n) s = .next (begun (.travr h n)
      (fun t => (lanesOf (active (specOf (.travr h n)) s)).foldl (startLane s.cur.wave s.nextId) t) s) := by
  show execTravr h n s = _
  exact travOp_go hi ha rfl hroom

theorem launchDev_go (hi : Issuable (.launchDev h n) s) (ha : acquireOut (curWave s) = false)
    (hb : threadBusy s s.cur.wave s.cur.lanes = false) (hroom : (cx s (curWave s).ctx).devQueue.length < 64) :
    exec (.launchDev h n) s = .next (begun (.launchDev h n) (fun t => startLaunch t s.cur.wave s.nextId) s) := by
  show execLaunchDev h n s = _
  refine opensThen_go hi ?_ fun _ _ id t => startLaunch t s.cur.wave id
  show (acquireOut (curWave s) || threadBusy s s.cur.wave s.cur.lanes || decide (64 ≤ (cx s (curWave s).ctx).devQueue.length)) = false
  rw [ha, hb, decide_eq_false (Nat.not_le.2 hroom)]
  rfl

/-- R375: a task for each lane, where no read of theirs has to wait (log 127). -/
theorem hvpost_go (hi : Issuable (.hvpost h n) s) (ha : acquireOut (curWave s) = false)
    (hb : threadBusy s s.cur.wave (active (specOf (.hvpost h n)) s) = false)
    (hf : hiveFull s s.cur.wave (active (specOf (.hvpost h n)) s) = false)
    (hfree : (begun (.hvpost h n) (fun t => startPost t s.cur.wave s.nextId (active (specOf (.hvpost h n)) s)) s).blocked = none) :
    exec (.hvpost h n) s =
      .next (begun (.hvpost h n) (fun t => startPost t s.cur.wave s.nextId (active (specOf (.hvpost h n)) s)) s) := by
  show execHvpost h n s = _
  refine (opensThen_go hi ?_ fun u m id t => orStall u (startPost t s.cur.wave id m)).trans (congrArg Host.Outcome.next ?_)
  · show (acquireOut (curWave s) || threadBusy s s.cur.wave _ || hiveFull s s.cur.wave _) = false
    rw [ha, hb, hf]
    rfl
  · unfold begun at hfree ⊢
    split
    · rfl
    next hm =>
      rw [if_neg hm] at hfree
      exact orStall_go hfree

/-! ### Collectives (R376 to R379) -/

/-- R376: the offset of the descriptor as the operation captures it. -/
theorem coll_source : opVal (specOf (.coll h n)) (capture (curWave s) (specOf (.coll h n))) 0 0 = source (.coll h n) s 0 0 :=
  opVal_capture (x := usrc .b h.b.toNat 1 1 false) rfl (by decide)

/-- R376, R379: the descriptor is checked, once nothing is waited for, before anything else is done. -/
theorem coll_checks (hi : Issuable (.coll h n) s) (ha : acquireOut (curWave s) = false) (hb : threadBusy s s.cur.wave s.cur.lanes = false) :
    exec (.coll h n) s = .next (if ((scrDescFault s (groupOf s s.cur.wave) (source (.coll h n) s 0 0) 64).isNone &&
        !(collOk (scrBytes s (groupOf s s.cur.wave) (source (.coll h n) s 0 0) 64))) = true
      then orStall s (raisePrecise
        (spoil s (curWave s).core (curWave s).ctx (scrBytes s (groupOf s s.cur.wave) (source (.coll h n) s 0 0) 64))
        { trapOf (.coll h n) 10 0x47 s.cur.lanes with data := source (.coll h n) s 0 0 })
      else opensThen (.coll h n) (fun _ _ id t => startColl t s.cur.wave id) (active (specOf (.coll h n)) s) s) := by
  have hbusy : (acquireOut (curWave s) || threadBusy s s.cur.wave s.cur.lanes) = false := by rw [ha, hb]; rfl
  rw [← coll_source h n]
  show execColl h n s = _
  unfold execColl
  exact runOp_go_of hi rfl rfl hbusy _

/-- R379: a collective whose descriptor cannot be read, which its own operation reports, or passes the checks. -/
theorem coll_go (hi : Issuable (.coll h n) s) (ha : acquireOut (curWave s) = false) (hb : threadBusy s s.cur.wave s.cur.lanes = false)
    (hok : ((scrDescFault s (groupOf s s.cur.wave) (source (.coll h n) s 0 0) 64).isSome ||
      collOk (scrBytes s (groupOf s s.cur.wave) (source (.coll h n) s 0 0) 64)) = true) :
    exec (.coll h n) s = .next (begun (.coll h n) (fun t => startColl t s.cur.wave s.nextId) s) := by
  rw [coll_checks h n hi ha hb, if_neg (by rw [← Option.not_isSome, ← Bool.not_or, hok]; decide), ← runOp_go hi]
  exact opensThen_go hi rfl fun _ _ id t => startColl t s.cur.wave id

/-- R379: a malformed descriptor traps, its destinations spoilt. -/
theorem coll_malformed (hi : Issuable (.coll h n) s) (ha : acquireOut (curWave s) = false)
    (hb : threadBusy s s.cur.wave s.cur.lanes = false)
    (hread : scrDescFault s (groupOf s s.cur.wave) (source (.coll h n) s 0 0) 64 = none)
    (hbad : collOk (scrBytes s (groupOf s s.cur.wave) (source (.coll h n) s 0 0) 64) = false) :
    exec (.coll h n) s = .next (orStall s (raisePrecise
      (spoil s (curWave s).core (curWave s).ctx (scrBytes s (groupOf s s.cur.wave) (source (.coll h n) s 0 0) 64))
      { trapOf (.coll h n) 10 0x47 s.cur.lanes with data := source (.coll h n) s 0 0 })) := by
  rw [coll_checks h n hi ha hb, if_pos (by rw [hread, hbad]; rfl)]

/-! ### Pattern slots (R342, R348) -/

section Slots

variable (hi : Issuable (.pgctx h n) s) (hb : slotBusy s s.cur.wave h.a.toNat = false) (ha : active (specOf (.pgctx h n)) s ≠ 0)
include hi hb ha

/-- R348: the slot's state is looked at first, then, for the order by columns, whether its words can be inverted. -/
theorem pgctx_checks : exec (.pgctx h n) s = .next (
    if (slotOf (curWave s) h.a.toNat).state ≠ .loaded then raisePrecise s (trapOf (.pgctx h n) 9 0x36 s.cur.lanes)
    else if (n.shape.getLsbD 0 && !(invertible (slotOf (curWave s) h.a.toNat).words)) = true then
      raisePrecise s (trapOf (.pgctx h n) 9 0x35 s.cur.lanes)
    else modWv (advance (specOf (.pgctx h n)) s) s.cur.wave fun u => setSlot u h.a.toNat (startCursor
      { slotOf (curWave s) h.a.toNat with order := n.shape.getLsbD 0, row0 := (uniWord (curWave s) h.b).toNat % 8192 })) := by
  show execPgctx h n s = _
  unfold execPgctx
  dsimp only
  rw [runOp_go_of hi rfl rfl hb, if_neg ha, srcVal_uniWord]
  rfl

end Slots

/-! ### Results and references (R364 to R367) -/

/-- R366: the results of `attr` are computed no sooner than 22 cc after the issue (log 64). -/
theorem attr_results (hm : active (specOf (.attr h n)) s ≠ 0) :
    (wv (begun (.attr h n) (fun t => addResultIn 22 t s.cur.wave s.nextId (active (specOf (.attr h n)) s) noWrites) s) s.cur.wave).results =
    (curWave s).results ++ [⟨(opened (.attr h n) 0 s).nextId, s.nextId, active (specOf (.attr h n)) s,
      cycAt s (curWave s).core + 22, noWrites⟩] := by
  rw [begun, if_neg hm, addResultIn_results hm (findOp_opened ..), opened_results]
  rfl

section Tiles

variable {w pa qa : Nat}

/-- R55: of the tiles, the one that is freed changes. -/
theorem tiles_tileToFree (s : State) (pa : Nat) : (tileToFree s pa).tiles = tset freeTile s.tiles pa freeTile := by
  refine congrArg (tset freeTile · pa freeTile) (foldl_keeps State.tiles ?_ _ s)
  exact fun _ _ => rfl

/-- R55: a released reference is gone. -/
theorem refs_releaseRef_same : w ∉ (tget freeTile (releaseRef s pa w).tiles pa).refs := by
  have hkept : w ∉ ((tget freeTile s.tiles pa).refs.filter fun x => x ≠ w) := by simp
  unfold releaseRef
  dsimp only
  split
  · rw [tiles_tileToFree, tget_tset_same]
    simp [freeTile]
  · rw [tget_tset_same]
    exact hkept

/-- R55: no other tile changes its references. -/
theorem refs_releaseRef_other (hne : qa ≠ pa) : tget freeTile (releaseRef s pa w).tiles qa = tget freeTile s.tiles qa := by
  unfold releaseRef
  dsimp only
  split
  · rw [tiles_tileToFree, tget_tset_other _ hne, tget_tset_other _ hne]
  · rw [tget_tset_other _ hne]

/-- A reference that is on no tile beyond the keys `l` is on none once those of `l` are released. -/
theorem refs_foldl_releaseRef : ∀ (l : List Nat) (s : State), (∀ pa ∉ l, w ∉ (tget freeTile s.tiles pa).refs) →
    ∀ pa, w ∉ (tget freeTile (l.foldl (fun s pa => releaseRef s pa w) s).tiles pa).refs
  | [], _, hrest, pa => hrest pa List.not_mem_nil
  | qa :: l, s, hrest, pa => by
    refine refs_foldl_releaseRef l (releaseRef s qa w) (fun pa hpa => ?_) pa
    by_cases hq : pa = qa
    · subst hq
      exact refs_releaseRef_same
    · rw [refs_releaseRef_other hq]
      exact hrest pa (List.not_mem_cons_of_ne_of_not_mem hq hpa)

/-- What a table holds beside its default stands in it under its key. -/
theorem mem_of_tget_ne {α : Type} {d : α} : ∀ {t : Tab α} {k : Nat}, tget d t k ≠ d → (k, tget d t k) ∈ t
  | [], _, hne => absurd rfl hne
  | (j, x) :: t, k, hne => by
    by_cases hj : j = k
    · simp [tget, hj]
    · simp only [tget, if_neg hj] at hne ⊢
      exact List.mem_cons_of_mem _ (mem_of_tget_ne hne)

/-- A tile with a reference of the wave is among the keys that `tvrel` releases. -/
theorem mem_tkeys_of_ref (hw : w ∈ (tget freeTile s.tiles pa).refs) : pa ∈ tkeys s.tiles fun t => t.refs.contains w := by
  have hne : tget freeTile s.tiles pa ≠ freeTile := fun he => by rw [he] at hw; exact List.not_mem_nil hw
  exact List.mem_map.2 ⟨_, List.mem_filter.2 ⟨mem_of_tget_ne hne, List.contains_iff_mem.2 hw⟩, rfl⟩

end Tiles

/-- R364: `tvrel` leaves the wave no reference. -/
theorem tvrel_releases (hi : Issuable (.tvrel h n) s) (ha : active (specOf (.tvrel h n)) s ≠ 0) :
    ∃ t, exec (.tvrel h n) s = .next t ∧ ∀ pa, s.cur.wave ∉ (tget freeTile t.tiles pa).refs := by
  refine ⟨_, ?_, refs_foldl_releaseRef (w := s.cur.wave) (tkeys (advance (specOf (.tvrel h n)) s).tiles fun t => t.refs.contains s.cur.wave)
    (advance (specOf (.tvrel h n)) s) fun pa hpa hw => hpa (mem_tkeys_of_ref hw)⟩
  show execTvrel h n s = _
  unfold execTvrel
  dsimp only
  rw [runOp_go hi, if_neg ha]


/-! ### The next block of indices (R348) -/

section Emit

variable (hi : Issuable (.pgemit h n) s) (hb : slotBusy s s.cur.wave h.a.toNat = false) (ha : active (specOf (.pgemit h n)) s ≠ 0)
  (hloaded : (slotOf (curWave s) h.a.toNat).state = .loaded)

/-- The slot past the block that `pgemit` gives. -/
def slotEmitted (s : State) : State :=
  modWv (opened (.pgemit h n) 0 s) s.cur.wave fun v => setSlot v h.a.toNat (emitBlock (slotOf (curWave s) h.a.toNat)).2

/-- What `pgemit` is to write. -/
def emitWrites (s : State) : Writes :=
  loadWrites (openedOp (.pgemit h n) 0 s) 4 .untyped [(0, (emitBlock (slotOf (curWave s) h.a.toNat)).1)]

include hi hb ha hloaded in
theorem pgemit_go : exec (.pgemit h n) s = .next
    (addResult (slotEmitted h n s) s.cur.wave s.nextId (active (specOf (.pgemit h n)) s) (emitWrites h n s)) := by
  have hopened : openOp (.pgemit h n) (specOf (.pgemit h n)) (active (specOf (.pgemit h n)) s) 0 []
      (advance (specOf (.pgemit h n)) s) = (s.nextId, opened (.pgemit h n) 0 s) := openOp_advance ..
  show execPgemit h n s = _
  unfold execPgemit
  dsimp only
  have hstate : ¬ (slotOf (wv s s.cur.wave) h.a.toNat).state ≠ .loaded := not_not.2 hloaded
  rw [runOp_go_of hi rfl rfl hb, if_neg ha, if_neg hstate, hopened]
  dsimp only
  rw [findOp_opened]
  rfl

/-- The wave that has emitted a block, but for its slot. -/
theorem wv_slotEmitted : wv (slotEmitted h n s) s.cur.wave =
    setSlot (wv (opened (.pgemit h n) 0 s) s.cur.wave) h.a.toNat (emitBlock (slotOf (curWave s) h.a.toNat)).2 :=
  wv_modWv_same ..

include ha in
theorem pgemit_results :
    (wv (addResult (slotEmitted h n s) s.cur.wave s.nextId (active (specOf (.pgemit h n)) s) (emitWrites h n s)) s.cur.wave).results =
      (curWave s).results ++ [⟨(slotEmitted h n s).nextId, s.nextId, active (specOf (.pgemit h n)) s, cycAt s (curWave s).core,
        { noWrites with sregs := (dstRegs (specOf (.pgemit h n))).zip (natWords 1 (emitBlock (slotOf (curWave s) h.a.toNat)).1) }⟩] := by
  have hfind : findOp (wv (slotEmitted h n s) s.cur.wave) s.nextId = some (openedOp (.pgemit h n) 0 s) := by
    rw [wv_slotEmitted]
    exact findOp_opened ..
  rw [addResult, addResultIn_results ha hfind, wv_slotEmitted]
  exact congrArg (· ++ _) (opened_results ..)

/-- A result that is added leaves the slots. -/
theorem addResultIn_pats (d : Nat) (s : State) (w id : Nat) (m : Lanes) (ws : Writes) :
    (wv (addResultIn d s w id m ws) w).pats = (wv s w).pats := by
  unfold addResultIn
  split
  · rfl
  · dsimp only
    rw [wv_modWv_same]
    rfl

/-- R348: the slot stands at the next block. -/
theorem slotOf_pgemit (hk : h.a.toNat < (curWave s).pats.length) :
    slotOf (wv (addResult (slotEmitted h n s) s.cur.wave s.nextId (active (specOf (.pgemit h n)) s) (emitWrites h n s)) s.cur.wave)
      h.a.toNat = (emitBlock (slotOf (curWave s) h.a.toNat)).2 := by
  have hpats : (wv (opened (.pgemit h n) 0 s) s.cur.wave).pats = (curWave s).pats := by
    rw [wv_opened]
    exact (congrArg Wave.pats (emptyDsts_rest ..) :)
  rw [slotOf, addResult, addResultIn_pats, wv_slotEmitted, setSlot, hpats]
  simp [hk]

end Emit

end Begins

/-- Settles O55: each by the conditions of its issue; `tvrel` by the keys of the tiles that name the wave. -/
theorem engineInstructionsIssue : Obligations.EngineInstructionsIssue := by
  unfold Obligations.EngineInstructionsIssue
  intro h n s w v id k begins
  refine ⟨fun hi ha hok => pgload_go h n hi ha (by simpa using hok), fun hi hb hm => ⟨fun hl hinv => ?ctx, fun hl ht hinv => ?inverted,
      fun hl => ?unloaded⟩, fun hi hb hm _ hl hk => ?emit, fun hi ha _ => rast_go h n hi ha, fun hi ha _ => hitbin_go h n hi ha,
    fun hi ha _ => rflush_go h n hi ha, fun hi hm => tvrel_releases h n hi hm,
    fun hi ha hm => ⟨_, _, attr_go h n hi ha, attr_results h n hm⟩,
    fun hi ha _ => nfmt_go h n hi ha, fun hi ha hok => ?travs, fun hi ha hroom => travr_go h n hi ha hroom, fun hi ha hok => ?post,
    ?coll, fun hi ha hok => ?launch⟩
  case ctx =>
    rw [pgctx_checks h n hi hb hm, if_neg (not_not.2 hl), if_neg fun hbad => ?_]
    obtain ⟨ht, hbad⟩ := Bool.and_eq_true_iff.1 hbad
    rw [hinv ht] at hbad
    exact absurd hbad (by decide)
  case inverted => rw [pgctx_checks h n hi hb hm, if_neg (not_not.2 hl), if_pos (by rw [ht, hinv]; rfl)]
  case unloaded => rw [pgctx_checks h n hi hb hm, if_pos hl]
  case emit => exact ⟨_, _, pgemit_go h n hi hb hm hl, slotOf_pgemit h n hk, pgemit_results h n hm⟩
  case travs =>
    obtain ⟨hw, hroom⟩ := Bool.and_eq_true_iff.1 hok
    exact travs_go h n hi ha (by simpa using hw) hroom
  case post =>
    simp only [Bool.and_eq_true, Bool.not_eq_true', Option.isNone_iff_eq_none] at hok
    obtain ⟨⟨hb, hf⟩, hfree⟩ := hok
    exact hvpost_go h n hi ha hb hf hfree
  case coll =>
    intro o g
    refine ⟨fun hi ha hok => ?_, fun hi ha hb hread hbad => ?_⟩
    · obtain ⟨hb, hdesc⟩ := Bool.and_eq_true_iff.1 hok
      exact coll_go h n hi ha (by simpa using hb) hdesc
    · intro t
      rw [coll_malformed h n hi ha hb hread hbad]
      exact ⟨fun hfree => congrArg _ (orStall_go hfree), fun hwait => congrArg _ (orStall_of_wait hwait)⟩
  case launch =>
    obtain ⟨hb, hroom⟩ := Bool.and_eq_true_iff.1 hok
    exact launchDev_go h n hi ha (by simpa using hb) (of_decide_eq_true hroom)

end Sys2Proof.Machine
end

section
/-! Management, logs and units (R392, R398 to R400, R404 to R414). -/

namespace Sys2Proof.Machine
open Sys2Proof.Machine.State

section Management

variable {s : State}

/-! ### The hardware semaphore and guarded commands (R404, R407) -/

/-- R404: the port that has taken HSEM holds it. -/
theorem holdsHsem_of_owner {a : Nat} (ha : a < 2) (h : s.mgmt.owner.toNat = a + 1) : holdsHsem s a = true := by
  rw [holdsHsem, decide_eq_true ha, decide_eq_true h, Bool.and_self]

/-- R404: TAKE of HSEM that is free or the port's own. -/
theorem hsemTake_takes {a b : Nat} (ha : a < 2) (hb : b % 65536 ≠ 0) (hfree : s.mgmt.owner = 0 ∨ s.mgmt.owner.toNat = a + 1) :
    (hsemTake s a b).mgmt = { s.mgmt with owner := BitVec.ofNat 2 (a + 1), lease := BitVec.ofNat 16 b } := by
  have howner : s.mgmt.owner.toNat = 0 ∨ s.mgmt.owner.toNat = a + 1 := hfree.imp_left fun h => by rw [h]; rfl
  unfold hsemTake
  dsimp only
  rw [if_neg (Nat.not_le.2 ha), if_neg hb, if_pos howner]
  rfl

/-- R404: RELEASE by the holder. -/
theorem hsemRelease_releases {a : Nat} (ha : a < 2) (hholds : s.mgmt.owner.toNat = a + 1) :
    (hsemRelease s a).mgmt = { s.mgmt with owner := 0, lease := 0 } := by
  unfold hsemRelease
  rw [if_neg (Nat.not_le.2 ha), if_pos hholds]
  rfl

/-- R407: a guarded command of the holder on a slot that is bound and not busy. -/
theorem guardedCmd_acts {a c : Nat} {f : State → State} (ha : a < 2) (hholds : s.mgmt.owner.toNat = a + 1)
    (hbusy : (cx s c).busy = false) (hbound : (cx s c).bound = true) : guardedCmd s a c f = f (bindErr s c 0) := by
  simp [guardedCmd, holdsHsem_of_owner ha hholds, hbusy, hbound]

/-- R411: what answers only once the device has come up. -/
theorem whenUp_of_down (h : s.mgmt.boot ≠ .run) (f : State → State) : whenUp s f = s := if_neg h

/-- R411: before it has, the commands of such a block change nothing. -/
theorem exec_of_down (h : s.mgmt.boot ≠ .run) : ∀ i ∈ [Instr.unbindCtx, .fenceCommand, .preempt, .routingTableWrite, .plimitWrite,
    .mextend, .retry, .abandon, .freeSlot], exec i s = .next s := by
  simp only [List.forall_mem_cons, List.not_mem_nil, false_imp_iff, implies_true, and_true]
  have hdown := fun f => congrArg (Host.Outcome.next (φ := Fault) (ρ := Refusal)) (whenUp_of_down h f)
  exact ⟨hdown _, hdown _, hdown _, hdown _, hdown _, hdown _, hdown _, hdown _, hdown _⟩

/-! ### Binding and fencing (R398, R407) -/

/-- Filling the cores' energy budgets leaves the contexts. -/
theorem bindSlot_ctxs (s : State) (c : Nat) : (bindSlot s c).ctxs =
    (setCx s c { resetCtx with fields := (cx s c).fields, held := (cx s c).fields, bound := true, flerr := (cx s c).flerr }).ctxs := by
  refine foldl_keeps State.ctxs ?_ _ _
  exact fun _ _ => rfl

/-- R407: the fields of a slot that is bound are those the context holds. -/
theorem cx_bindSlot (s : State) (c : Nat) : cx (bindSlot s c) c =
    { resetCtx with fields := (cx s c).fields, held := (cx s c).fields, bound := true, flerr := (cx s c).flerr } := by
  rw [cx, bindSlot_ctxs]
  exact tget_tset_same ..

/-- R407: BIND by the holder of a slot that is free and whose fields pass. -/
theorem bindCmd_binds {a c : Nat} (ha : a < 2) (hholds : s.mgmt.owner.toNat = a + 1) (hrun : s.mgmt.boot = .run)
    (hbusy : (cx s c).busy = false) (hbound : (cx s c).bound = false) (hcause : bindCause s (cx s c).fields = 0) :
    bindCmd s a c = bindSlot s c := by
  simp [bindCmd, hrun, holdsHsem_of_owner ha hholds, hbusy, hbound, hcause]

/-- R398: a context is busy with its fence exactly while the fence is on its way. -/
theorem fenceCmd_busy_iff {a c : Nat} (ha : a < 2) (hholds : s.mgmt.owner.toNat = a + 1)
    (hbusy : (cx s c).busy = false) (hbound : (cx s c).bound = true) :
    (cx (fenceCmd s a c) c).fenced = true ∧ ((cx (fenceCmd s a c) c).busy = true ↔ c ∈ (fenceCmd s a c).fences) := by
  have hfenced := cx_fence (bindErr s c 0) c
  rw [fenceCmd, guardedCmd_acts ha hholds hbusy hbound]
  dsimp only
  split
  next hin =>
    rw [cx_modCx_same]
    exact ⟨hfenced, iff_of_true rfl (List.contains_iff_mem.1 hin)⟩
  next hout =>
    refine ⟨hfenced, iff_of_false ?_ fun hin => hout (List.contains_iff_mem.2 hin)⟩
    -- a fence that begins is on its way, so this context was fenced before
    unfold fence at hout ⊢
    split
    next => rw [bindErr, cx_modCx_same]; simp [hbusy]
    next hnew =>
      rw [if_neg hnew] at hout
      exact absurd (List.contains_iff_mem.2 (List.mem_append_right _ (List.mem_singleton_self c))) hout

/-- R392, R393: ABANDON of a slot of a bound context. -/
theorem cx_abandonSlot {c : Nat} (h : (cx s c).bound = true) : (cx (abandonSlot s c) c).fenced = true := by
  rw [abandonSlot, if_pos h]
  exact cx_fence ..

/-- R392: FREE of a slot that is neither free nor parked. -/
theorem freeReport_frees {c k : Nat} (h0 : (logSlot s c k).state ≠ 0) (h1 : (logSlot s c k).state ≠ 1) :
    freeReport s c k = retryDone s c k := by
  unfold freeReport
  split
  · exact absurd ‹_› h0
  · exact absurd ‹_› h1
  · rfl

/-! ### Identity, routes and power (R408, R409, R414) -/

section Holder

variable {a v : Nat} (ha : a < 2) (hholds : s.mgmt.owner.toNat = a + 1)
include ha hholds

theorem writeDevid_writes (hfree : ∀ e ∈ s.ctxs, e.2.bound = false) :
    writeDevid s a v = modMgmt s fun m => { m with devid := BitVec.ofNat 12 v } := by
  have hany : (s.ctxs.any fun (e : Nat × Ctx) => e.2.bound) = false := List.any_eq_false.2 fun e he => by simp [hfree e he]
  simp [writeDevid, holdsHsem_of_owner ha hholds, hany]

theorem writeRoute_writes {d : Nat} (hd : d < 4096) :
    writeRoute s a d v = modMgmt s fun m => { m with routes := tset 0 m.routes d (BitVec.ofNat 16 v) } := by
  simp [writeRoute, holdsHsem_of_owner ha hholds, Nat.not_le.2 hd]

theorem writePlimit_writes (hlo : 500 ≤ v % 4096) (hhi : v % 4096 ≤ 3300) :
    writePlimit s a v = modMgmt s fun m => { m with plimit := BitVec.ofNat 12 (v % 4096) } := by
  have hbits : bits v 11 0 = v % 4096 := by simp [bits]
  simp [writePlimit, holdsHsem_of_owner ha hholds, hbits, Nat.not_lt.2 hlo, Nat.not_lt.2 hhi]

/-- R412: an extend of the digest as it stands at its start (log 115). -/
theorem startExtend_starts (hidle : s.mgmt.mxBusy = false) (hlo : 4 ≤ v) (hhi : v ≤ 7) :
    startExtend s a v = modMgmt s fun m => { m with mxBusy := true, mxErr := 0, mxReg := v, mxLatch := m.mxDigest } := by
  simp [startExtend, holdsHsem_of_owner ha hholds, hidle, Nat.not_lt.2 hlo, Nat.not_lt.2 hhi]

end Holder

/-! ### Boot, reports and sensors (R411, R413, R414) -/

/-- R411: the images from `k` on run exactly where each of them verifies. -/
theorem bootImages_run_iff : ∀ (n k : Nat) (m : Mgmt),
    (bootImages n k m).boot = .run ↔ ∀ j, k ≤ j → j < k + n → Config.imageVerifies j = true
  | 0, k, m => iff_of_true rfl fun j hlo hhi => by omega
  | n + 1, k, m => by
    unfold bootImages
    split
    next hk =>
      rw [bootImages_run_iff n (k + 1)]
      refine ⟨fun hrest j hlo hhi => ?_, fun hall j hlo hhi => hall j (by omega) (by omega)⟩
      obtain rfl | hlt := Nat.eq_or_lt_of_le hlo
      · exact hk
      · exact hrest j hlt (by omega)
    next hk => exact iff_of_false (by simp) fun hall => hk (hall k (Nat.le_refl k) (by omega))

/-- A register of a port that the device has. -/
theorem prt_modPrt_same {p : Nat} (hp : p < s.ports.length) (f : Port → Port) : prt (modPrt s p f) p = f (prt s p) := by
  simp [prt, modPrt, lmod, hp]

/-- R413: a port whose mailbox holds its report. -/
def servedPort (s : State) (n : BitVec 256) (y : Port) : Port :=
  { y with mbBusy := false, mbDone := true, mbLen := 1864, report := reportBytes s n }

/-- R413: the mailbox serves the oldest request. -/
theorem reportDone_serves {n : BitVec 256} {r : List (Nat × BitVec 256)} (hq : s.mgmt.mbQueue = (arg s 0, n) :: r) :
    exec .reportDone s = .next (modPrt (modMgmt s fun m => { m with mbQueue := r }) (arg s 0) (servedPort s n)) := by
  show execReportDone s = _
  unfold execReportDone
  rw [hq]
  exact congrArg Host.Outcome.next (if_neg (not_not.2 rfl))

/-- R413: REPORT of a mailbox that is not busy joins the queue. -/
theorem startReport_queues {a : Nat} (ha : a < 2) (hidle : (prt s a).mbBusy = false) :
    (startReport s a).mgmt.mbQueue = s.mgmt.mbQueue ++ [(a, (prt s a).nonce)] := by
  simp [startReport, Nat.not_le.2 ha, hidle, modMgmt, modPrt]

/-- R414: the sample that is due sets the core's term. -/
theorem dieSensorSample_sets (ha : arg s 0 < 384) (hdue : s.due.contains (Instr.dieSensorSample, s.args) = true) :
    ∃ t, exec .dieSensorSample s = .next t ∧ (cr t (arg s 0)).dieTerm = dieTermOf (tget 0 s.inputs.coreTemp (arg s 0)) := by
  have harg : arg { s with due := s.due.erase (Instr.dieSensorSample, s.args) } 0 < 384 := ha
  refine ⟨_, rfl, ?_⟩
  rw [whenDue_of_due hdue, if_pos harg]
  exact congrArg Core.dieTerm (cr_modCr_same ..)

/-- R414: an average that is not at the limit decides whether the terms are capped. -/
theorem powerAverage_decides (hdue : s.due.contains (Instr.powerAverage, s.args) = true) (hne : s.inputs.power ≠ s.mgmt.plimit.toNat) :
    exec .powerAverage s = .next { s with
      due := s.due.erase (.powerAverage, s.args), mgmt := { s.mgmt with capped := decide (s.mgmt.plimit.toNat < s.inputs.power) } } := by
  have hcap : (if s.mgmt.plimit.toNat < s.inputs.power then true else if s.inputs.power < s.mgmt.plimit.toNat then false
      else s.mgmt.capped) = decide (s.mgmt.plimit.toNat < s.inputs.power) := by
    obtain h | h := Nat.lt_or_gt_of_ne hne
    · simp [h, Nat.lt_asymm h]
    · simp [h]
  show execPowerAverage s = _
  unfold execPowerAverage
  dsimp only
  rw [whenDue_of_due hdue, modMgmt, hcap]

/-- R404: a lease that is due falls by one. -/
theorem hsemLeaseTick_falls (hdue : s.due.contains (Instr.hsemLeaseTick, s.args) = true) (howner : s.mgmt.owner ≠ 0) :
    exec .hsemLeaseTick s = .next { s with due := s.due.erase (.hsemLeaseTick, s.args), mgmt := { s.mgmt with
      lease := s.mgmt.lease - 1, owner := if s.mgmt.lease.toNat ≤ 1 then 0 else s.mgmt.owner } } := by
  have hticks : leaseTick { s with due := s.due.erase (.hsemLeaseTick, s.args) } = modMgmt
      { s with due := s.due.erase (.hsemLeaseTick, s.args) } fun m =>
        { m with lease := m.lease - 1, owner := if m.lease.toNat ≤ 1 then 0 else m.owner } := if_neg howner
  show execHsemLeaseTick s = _
  rw [execHsemLeaseTick, whenDue_of_due hdue, hticks]
  rfl

/-- Where the clock has not made a periodic event due, it does nothing. -/
theorem exec_of_not_due : ∀ i ∈ [Instr.hsemLeaseTick, .dieSensorSample, .powerAverage],
    ¬ s.due.contains (i, s.args) = true → exec i s = .next s := by
  simp only [List.forall_mem_cons, List.not_mem_nil, false_imp_iff, implies_true, and_true]
  exact ⟨fun h => congrArg Host.Outcome.next (whenDue_of_not_due h _), fun h => congrArg Host.Outcome.next (whenDue_of_not_due h _),
    fun h => congrArg Host.Outcome.next (whenDue_of_not_due h _)⟩

/-- R411: RESET of a device that is not booting: reset memory and waves, and the boot of its images. -/
theorem resetDev_boots (h : s.mgmt.boot ≠ .booting) : ∃ t, exec .resetDev s = .next t ∧ t.mem = [] ∧ t.waves = State.reset.waves ∧
    (t.mgmt.boot = .run ↔ ∀ k, 1 ≤ k → k ≤ 3 → Config.imageVerifies k = true) := by
  refine ⟨_, rfl, ?_⟩
  rw [if_neg h]
  refine ⟨rfl, rfl, (bootImages_run_iff 3 1 _).trans ?_⟩
  simp only [Nat.lt_succ_iff]

end Management

/-- Settles O56: each command by the checks it passes, each event by its occasion. -/
theorem managementEvents : Obligations.ManagementEvents := by
  unfold Obligations.ManagementEvents
  intro s does isDue a b x y holds mg
  refine ⟨fun ha hb hfree => ⟨_, rfl, hsemTake_takes ha hb hfree⟩, fun ha hh => ⟨_, rfl, hsemRelease_releases ha hh⟩,
    fun hdue ho => hsemLeaseTick_falls hdue ho, exec_of_not_due, fun ha hh hb hrun hbusy hbound hcause => ?bind, exec_of_down,
    fun hrun ha hh hb hbusy hbound => ⟨?unbind, ?fence⟩, fun hrun ha hbusy hbound => ?preempt,
    fun ha hh hfree => congrArg Host.Outcome.next (writeDevid_writes ha hh hfree), fun hrun ha hh hb => ?route,
    fun hrun ha hh hlo hhi => ?limit, fun hrun ha hh hidle hlo hhi => ?extend, fun hbusy => ?extended,
    fun ha hidle => ⟨_, rfl, startReport_queues ha hidle⟩, fun n r hq => ⟨_, reportDone_serves hq, rfl, fun hp => ?report⟩,
    fun ha hdue => dieSensorSample_sets ha hdue, fun hdue hne => powerAverage_decides hdue hne, fun hb => resetDev_boots hb,
    fun hin => ?write, fun hrun => ?retry, fun hrun hbound => ⟨_, ?_, cx_abandonSlot hbound⟩, fun hrun h0 h1 => ?free,
    fun hin => ?fenceOver, fun ha hlive => ?waveError, fun ha => ?sectorError, fun ha => ?corrected,
    fun ha => ?retire, rfl, fun ha => ?replay⟩
  case bind =>
    refine ⟨_, congrArg Host.Outcome.next (if_pos hb), ?_⟩
    rw [bindCmd_binds ha hh hrun hbusy hbound hcause]
    exact cx_bindSlot ..
  case unbind =>
    refine congrArg Host.Outcome.next ((whenUp_of_run hrun _).trans ((if_pos hb).trans ?_))
    exact guardedCmd_acts ha hh hbusy hbound
  case fence =>
    exact ⟨_, congrArg Host.Outcome.next ((whenUp_of_run hrun _).trans (if_pos hb)), fenceCmd_busy_iff ha hh hbusy hbound⟩
  case preempt =>
    refine congrArg Host.Outcome.next ((whenUp_of_run hrun _).trans ((if_pos ha).trans ?_))
    have hfree : ¬ ((cx s a).busy || !(cx s a).bound) = true := by rw [hbusy, hbound]; decide
    exact if_neg hfree
  case route => exact congrArg Host.Outcome.next ((whenUp_of_run hrun _).trans (writeRoute_writes ha hh hb))
  case limit => exact congrArg Host.Outcome.next ((whenUp_of_run hrun _).trans (writePlimit_writes ha hh hlo hhi))
  case extend => exact congrArg Host.Outcome.next ((whenUp_of_run hrun _).trans (startExtend_starts ha hh hidle hlo hhi))
  case extended => exact congrArg Host.Outcome.next (if_pos hbusy)
  case report =>
    have hprt := prt_modPrt_same (s := modMgmt s fun m => { m with mbQueue := r }) hp (servedPort s n)
    exact ⟨congrArg Port.mbBusy hprt, congrArg Port.mbDone hprt, congrArg Port.mbLen hprt, congrArg Port.report hprt⟩
  case write => exact goesOrWaits_of_orWait (if_pos hin)
  case retry => exact goesOrWaits_of_orWait (congrArg Host.Outcome.next (whenUp_of_run hrun _))
  case free => exact congrArg Host.Outcome.next ((whenUp_of_run hrun _).trans (freeReport_frees h0 h1))
  case fenceOver =>
    exact goesOrWaits_of_orWait (congrArg (fun t => Host.Outcome.next (orWait s t)) (if_pos (List.contains_iff_mem.2 hin)))
  case waveError =>
    show execSoftError s = _
    rw [execSoftError, show arg s 0 = 0 from ha]
    exact congrArg Host.Outcome.next (if_pos hlive)
  case sectorError =>
    show execSoftError s = _
    rw [execSoftError, show arg s 0 = 3 from ha]
    rfl
  case corrected =>
    refine ⟨_, congrArg Host.Outcome.next (if_pos ha), ?_, rfl⟩
    rw [modStk, stk_setStk_same]
  case retire => exact congrArg Host.Outcome.next (if_pos ha)
  case replay =>
    refine ⟨_, congrArg Host.Outcome.next (if_pos ha), ?_, rfl, rfl⟩
    rw [modStk, stk_setStk_same]
  · exact congrArg Host.Outcome.next (whenUp_of_run hrun _)

end Sys2Proof.Machine
end
